-- ==== Sys2Proof/Word.lean ====
section
/-! DEFINITION. The words of the BL1024: registers are 32 bits wide (R8), memory is bytes (R7), vector words are 256 bits
(R15), and time is counted in units of 0.25 ps from TT = 0 (R162). -/

namespace Sys2Proof

/-- A register (R8: 32 bits wide). -/
abbrev Word := BitVec 32

/-- One byte of HBM or of a host structure (R7: little-endian). -/
abbrev Byte := BitVec 8

/-- A vector word: 256 bits of instruction and payload (R15, Table 0.5). -/
abbrev VecWord := BitVec 256

/-- A 64-byte structure: a burst descriptor, a submission entry, a course entry (R7: byte 0 holds bits [7:0]). -/
abbrev Block64 := BitVec 512

/-- An instant, in units of 0.25 ps counted from TT = 0 (the unit of every timing value of chapter 05). -/
abbrev Instant := Nat

end Sys2Proof
end

