-- ==== Sys2Proof/Inputs.lean ====
section
/-! DEFINITION. What the outside world brings with a command: comparator samples, sensor readings, and the other quantities that the
spec leaves to the DUT, the board or the analog circuits. -/

namespace Sys2Proof

/-- What a word met while it played: the voltages at the balls, each a pin, the instant from which its ball held the voltage, and the voltage in nV,
of one pin in rising order of instants (R164, R188); and the instant at which a reaction, CLR_N or SEALED entry reached the pin plane, where one did (R121).
Before the first voltage listed for a pin its ball's voltage is not known. -/
structure Seen where
  wave : List (Nat × Instant × Int) := []
  halt : Option Instant := none
  deriving DecidableEq, Repr

/-- What the controller found in a unit read from HBM (R330, R331): nothing, words corrected by SECDED, words corrected by a retry,
or a word still uncorrectable, delivered poisoned. -/
inductive Ecc where
  | good | corrected | retried | poisoned
  deriving DecidableEq, Repr

/-- A FLOW block of a link cycle (Table 12.6): a spanning basin, the decisions for its boundaries with their instants, the course successors for
its segment boundaries (the boundary, and one more than the jump slot taken, 0 for none), the stream horizon that the sender's side of the span has,
the tick of a start that the leader announces (R301, R418), KIND, SPAN and TSET of the hold word there (R117), and the conditions forwarded to the
leader: a line (0 to 7 an event, 8 and 9 the TRIG condition input rising and falling, 10 a tone crossing, 11 and 12 a
vector result that passed and that failed) with the instant at which the sender registered it. -/
structure FlowBlock where
  basin : Nat
  decisions : List (Nat × Bool) := []
  succs : List (Nat × Nat) := []
  horizon : Option Nat := none
  start : Option Nat := none
  hold : Option (Nat × Nat × Nat) := none
  conds : List (Nat × Nat) := []
  deriving DecidableEq, Repr

/-- A link cycle as received (R355, R356): whether its CRC-16 checks, its FLOW blocks, and its trigger-line changes, each a line and the
sender's ECLK. -/
structure LinkCycle where
  ok : Bool
  flow : List FlowBlock := []
  trig : List (Nat × Nat) := []
  deriving DecidableEq, Repr

/-- What a device of a span tells the others of a basin's next start (R72, R300, R301): the instant at which its burst was primed, its SYSTEM_TAG,
the basin number, its GLB_CATCH_GEN, and the descriptor's TAG. -/
structure SpanId where
  at_ : Nat
  systemTag : Nat
  basin : Nat
  gen : Nat
  tag : Nat
  deriving DecidableEq, Repr

/-- A CTRL service message (R355, R358): the peer's identity, the basins that it reports PRIMED with what it tells of each, the latency L that the
leader of each basin
gives in ECLK, and the topology: the identities of the devices beyond the link, and the latency beyond the peer. -/
structure CtrlMsg where
  peer : Nat
  primed : List (Nat × SpanId) := []
  lats : List (Nat × Nat) := []
  beyond : List Nat := []
  far : Nat := 0
  deriving DecidableEq, Repr

/-- What a slot of the boot flash holds (R441 to R444), as far as the device looks at it: whether its Mybimer image verifies, and whether its base
microcode image does, with the key
that its header names; BASE_VER, the address at which the tick program starts, and the control words by address, those not listed being 0; whether
there is a patch
bundle, whether its signatures, identities, tag and tick program pass, PATCH_VER, and its slot records: a start address and words. -/
structure SlotIn where
  firm : Bool := true
  signed : Bool := true
  key : Nat := 0
  baseVer : Nat := 0
  entry : Nat := 0
  code : List (Nat × BitVec 128) := []
  bundle : Bool := false
  bundleOk : Bool := true
  patchVer : Nat := 0
  patches : List (Nat × List (BitVec 128)) := []
  deriving DecidableEq, Repr

/-- What start-up meets (R441 to R446, R376, R402): the code of Table 16.5 with which a step fails that the device cannot find out from what follows
(1 NO_FLASH, 4 HEADWATER, 5 MEMORY; 0
for none), slots A and B of the boot flash, the tributary means, the stack temperatures, whether the stacks are those whose training
is stored, the operating points whose stored training has no good check word (R328), whether newly
trained results could be stored, calibration tables, factory records, counters and summary without a valid copy, and what the due
tributaries' runs measured (tributary, coefficients, kinds stored). -/
structure BootIn where
  err : Nat := 0
  slotA : SlotIn := {}
  slotB : SlotIn := {}
  temps : List (Nat × Nat) := []
  stackTemps : Nat × Nat := (0, 0)
  sameStacks : Bool := true
  lostTraining : List Nat := []
  stored : Bool := true
  lostTables : List (Nat × Nat) := []
  lostFactory : List Nat := []
  lostCounters : Bool := false
  lostSummary : Bool := false
  runs : List (Nat × List (Nat × Nat × Int) × Nat) := []
  deriving DecidableEq, Repr

/-- What asks for a routine of Millrace (Table 16.2). -/
inductive RoutineKind where
  | sealedEntry | reaction | clrN | syncEvent | refclk | opChange | catchCommit | recourse | calApply | bulkCompletion | cancelQueue | firmware
  deriving DecidableEq, Repr

/-- A routine of Millrace (R434, R435, R438 to R440): its id and kind; the words that it executes up to END, or up to the word at which a call-stack
fault ends it; the word, counted
from 1, that is its CMT word; the mailbox slot whose operation it serves; and the words that it has executed since it last began. -/
structure Routine where
  id : Nat
  kind : RoutineKind
  words : Nat
  commit : Nat
  fault : Bool := false
  slot : Option Nat := none
  ran : Nat := 0
  deriving DecidableEq, Repr

/-- What a tick brings (R25, R209, R316 to R320, R323, R333, R389, R403, R434 to R439): the units that Weir and the management processor asked of HBM,
units of basins'
capture data that it serves later although it could serve them now, pseudo-channels with a lane found faulty, basins whose running burst has passed
its chain sample, the stack temperatures and those of the tributaries, the monitors within
their range, tributaries whose audit found a difference with its mask, calibration tables (tributary, kind) found without a valid copy (R368, R376),
the scrub's units and findings, the conditions that the tick program's branches found (R434),
the routines requested, each with the free cycles that had passed in the tick (R438); control-store words in which errors arose (lane, address, 1 or 2
bits) and those in error that were
read (lane, address; R432), and loop-store words in which errors arose: engine, address, and 1 for a single-bit error, 2 for a double-bit one (R81). -/
structure TickIn where
  weir : Nat := 0
  mgmt : Nat := 0
  late : List (Nat × Nat) := []
  lanes : List Nat := []
  chainFixed : List Nat := []
  stackTemps : Nat × Nat := (0, 0)
  temps : List Nat := []
  mon : Nat := 63
  audits : List (Nat × Nat) := []
  lostTables : List (Nat × Nat) := []
  scrubUnits : Nat := 0
  found : List (Nat × Ecc) := []
  conds : List Bool := []
  requests : List (Nat × Routine) := []
  ctrlUpsets : List (Nat × Nat × Nat) := []
  ctrlReads : List (Nat × Nat) := []
  upsets : List (Nat × Nat × Nat) := []
  deriving DecidableEq, Repr

end Sys2Proof
end

