-- ==== Sys2Proof/Syntax.lean ====
section
/-! DEFINITION. The commands of the BL1024: one constructor for each row of spec/opcode_table.json, with what the outside world brings with it. -/

namespace Sys2Proof

/-- A basin (R14). -/
abbrev Basin := Fin 256
/-- A pin (R14). -/
abbrev Pin := Fin 1024
/-- A tributary (R14). -/
abbrev Trib := Fin 64
/-- A general ADC (R14). -/
abbrev Adc := Fin 32
/-- A reference-grade ADC (R14). -/
abbrev PAdc := Fin 4
/-- A Vutil link (R355). -/
abbrev Link := Fin 8
/-- A CLKOUT output (R361). -/
abbrev Cko := Fin 8
/-- An Ethernet port (R363). -/
abbrev Eth := Fin 2
/-- A trigger sequencer: basin 0 to 255, then the 16 global ones (R242). -/
abbrev Seq := Fin 272
/-- A global trigger sequencer (R242). -/
abbrev GSeq := Fin 16
/-- A queue pair (R465). -/
abbrev Queue := Fin 1024
/-- A mailbox slot (R472). -/
abbrev Slot := Fin 8
/-- A level channel of a pin (R211). -/
abbrev Chan := Fin 6
/-- A TRIG ball (R222). -/
abbrev Trig := Fin 16
/-- An LDAC ball (R222). -/
abbrev Ldac := Fin 4
/-- An event line 0 to 7 of a basin, or 8, its TRIG condition input (R105). -/
abbrev Line := Fin 9
/-- An engine: 1,024 pin engines, then 64 spares (R45). -/
abbrev Engine := Fin 1088
/-- An entry of a course table (R125). -/
abbrev EntryNo := Fin 65536
/-- A tone of a basin (R265). -/
abbrev Tone := Fin 4
/-- A ready list (R294). -/
abbrev Prio := Fin 8
/-- A burst context (R290). -/
abbrev Ctxt := Fin 1048576
/-- A BAR2 size, 2^n GiB (R456). -/
abbrev BarSize := Fin 8
/-- An HBM stack (R313). -/
abbrev Stack := Fin 2
/-- A fault source number (R385). -/
abbrev Source := Fin 512
/-- A Millrace lane (R433). -/
abbrev Lane := Fin 3
/-- A supply monitor (Table 15.6). -/
abbrev Mon := Fin 6
/-- A wake comparator (Table 15.1). -/
abbrev Comp := Fin 8
/-- A DMA engine (R470). -/
abbrev Dma := Fin 8
/-- A ring of a DMA engine (R470). -/
abbrev Ring := Fin 2
/-- What is wrong with a TLP (R455): 0 a correctable error, 1 poisoned, 2 malformed, 3 unsupported. -/
abbrev TlpKind := Fin 4
/-- A PCIe link speed code (Table 17.10). -/
abbrev Speed := Fin 8
/-- A PCIe link width (Table 17.10). -/
abbrev Width := Fin 32
/-- A droop sensor (R412). -/
abbrev Sensor := Fin 16
/-- A 16-bit register field. -/
abbrev Half := BitVec 16
/-- A 64-bit value, as a host write may bring (R460). -/
abbrev Long := BitVec 64
/-- A byte offset into BAR0 (R456: 16 MiB). -/
abbrev Bar0 := BitVec 24
/-- A DMA descriptor (Table 17.4). -/
abbrev Block32 := BitVec 256
/-- Receive descriptors at HEAD and on, each with the outcome of writing its buffer (R471). -/
abbrev Descs := List (BitVec 256 × Bool)
/-- An adjustment of the servo: offset, INC and STEP (R451). -/
abbrev Servo := Option (Nat × Nat × Nat)
/-- What a calibration run measured: pin, coefficient, value (R371). -/
abbrev CalRun := List (Nat × Nat × Int)

/-- The commands (spec/opcode_table.json), in the order of the table. -/
inductive Instr where
  /-- TICK_BOUNDARY, R24. -/
  | tickBoundary (tin : TickIn)
  /-- EXCHANGE_POINT, R24. -/
  | exchangePoint (committed : Bool)
  /-- POWER_ON_RESET, R447. -/
  | powerOnReset
  /-- WARM_RESET, R447. -/
  | warmReset
  /-- WARM_RESET_COMMAND, R481. -/
  | warmResetCommand (value : Word)
  /-- STARTUP_READY, R445. -/
  | startupReady (boot : BootIn)
  /-- CLR_N_ASSERT, R200. -/
  | clrNAssert (lowNs : Nat)
  /-- CLR_N_RELEASE, R200. -/
  | clrNRelease
  /-- CATCH_LOAD, R62. -/
  | catchLoad (slot : Slot) (irq : Bool)
  /-- CATCH_LOAD_COMMIT, R64. -/
  | catchLoadCommit
  /-- CATCH_CHECK, R62. -/
  | catchCheck (slot : Slot) (irq : Bool)
  /-- CATCH_WITHDRAW, R66. -/
  | catchWithdraw (slot : Slot) (irq : Bool)
  /-- WITHDRAW_COMPLETE, R66. -/
  | withdrawComplete
  /-- BASIN_RECOURSE, R67. -/
  | basinRecourse (slot : Slot) (irq : Bool)
  /-- RECOURSE_ENTER, R68. -/
  | recourseEnter (b : Basin)
  /-- RECOURSE_DRAIN_END, R68. -/
  | recourseDrainEnd (b : Basin)
  /-- RECOURSE_COMMIT, R68. -/
  | recourseCommit (b : Basin)
  /-- BASIN_ENABLE, R78. -/
  | basinEnable (b : Basin) (shutAbort : Bool)
  /-- BASIN_DISABLE, R78. -/
  | basinDisable (b : Basin) (shutAbort : Bool)
  /-- BASIN_SHUTDOWN_DONE, R77. -/
  | basinShutdownDone (b : Basin)
  /-- WORD_RUN, R96. -/
  | wordRun (b : Basin) (seen : Seen)
  /-- WORD_REPEAT, R94. -/
  | wordRepeat (b : Basin) (seen : Seen)
  /-- WORD_WAIT, R95. -/
  | wordWait (b : Basin) (seen : Seen)
  /-- WAIT_TIMEOUT, R95. -/
  | waitTimeout (b : Basin)
  /-- WORD_LOOP_BEGIN, R97. -/
  | wordLoopBegin (b : Basin) (seen : Seen)
  /-- WORD_LOOP_END, R97. -/
  | wordLoopEnd (b : Basin) (seen : Seen)
  /-- WORD_CALL, R98. -/
  | wordCall (b : Basin) (seen : Seen)
  /-- WORD_RETURN, R98. -/
  | wordReturn (b : Basin) (seen : Seen)
  /-- WORD_HALT, R99. -/
  | wordHalt (b : Basin)
  /-- WORD_PALETTE_LOAD, R100. -/
  | wordPaletteLoad (b : Basin)
  /-- WORD_LEVEL_STAGE, R101. -/
  | wordLevelStage (b : Basin)
  /-- VECTOR_RESULT, R106. -/
  | vectorResult (b : Basin)
  /-- FLOW_LINK_MISS, R110. -/
  | flowLinkMiss (b : Basin) (at_ : Nat)
  /-- SYNCPT_VERDICT, R113. -/
  | syncptVerdict (b : Basin) (othersAgree : Bool)
  /-- EVENT_REGISTER, R105. -/
  | eventRegister (b : Basin) (line : Line) (rise : Bool) (at_ : Nat)
  /-- BSN_EVENT_SET, R105. -/
  | bsnEventSet (b : Basin) (mask : Byte)
  /-- BSN_EVENT_CLEAR, R105. -/
  | bsnEventClear (b : Basin) (mask : Byte)
  /-- LS_WRITE, R123. -/
  | lsWrite (p : Pin)
  /-- LS_READ, R123. -/
  | lsRead (p : Pin)
  /-- LOOP_STORE_ACCESS_DONE, R123. -/
  | loopStoreAccessDone (p : Pin)
  /-- LOOP_STORE_SCRUB, R81. -/
  | loopStoreScrub (e : Engine)
  /-- PASS_BOUNDARY, R137. -/
  | passBoundary (b : Basin)
  /-- LANDING_PERIOD_END, R143. -/
  | landingPeriodEnd (b : Basin)
  /-- COURSE_FETCH_DONE, R145. -/
  | courseFetchDone (b : Basin) (entry : EntryNo) (at_ : Instant) (ecc : Ecc)
  /-- REFILL_UNIT_LAND, R147. -/
  | refillUnitLand (p : Pin) (sample : Bool) (at_ : Instant) (ecc : Ecc)
  /-- STREAM_UNDERRUN, R148. -/
  | streamUnderrun (b : Basin)
  /-- STALL_END, R151. -/
  | stallEnd (b : Basin) (holds : Nat)
  /-- RESIDENT_BLOCK_LOAD_DONE, R135. -/
  | residentBlockLoadDone (b : Basin) (ecc : Ecc)
  /-- SAMPLE_SHORTAGE, R159. -/
  | sampleShortage (t : Trib) (at_ : Nat)
  /-- SAMPLE_RESUME, R159. -/
  | sampleResume (t : Trib) (at_ : Nat)
  /-- DSK_USER_WRITE, R179. -/
  | dskUserWrite (p : Pin) (cmp : Bool) (user : Half)
  /-- BSN_LVL_LOAD, R194. -/
  | bsnLvlLoad (b : Basin)
  /-- LOAD_STROBE, R194. -/
  | loadStrobe (b : Basin) (at_ : Nat)
  /-- LEVEL_APPLY, R194. -/
  | levelApply (b : Basin)
  /-- CLEAR_CODE_WRITE, R196. -/
  | clearCodeWrite (p : Pin) (c : Chan) (code : Half)
  /-- PPMU_ENABLE, R205. -/
  | ppmuEnable (p : Pin) (ctl : Word)
  /-- PPMU_DISABLE, R205. -/
  | ppmuDisable (p : Pin) (ctl : Word)
  /-- PPMU_SHUTDOWN_DONE, R205. -/
  | ppmuShutdownDone (p : Pin)
  /-- PPMU_RANGE_CHANGE, R206. -/
  | ppmuRangeChange (p : Pin) (ctl : Word)
  /-- PPMU_RANGE_CHANGE_END, R206. -/
  | ppmuRangeChangeEnd (p : Pin)
  /-- TRIG_INPUT_EDGE, R222. -/
  | trigInputEdge (k : Trig) (rise : Bool) (at_ : Nat)
  /-- LDAC_INPUT_EDGE, R222. -/
  | ldacInputEdge (k : Ldac) (fall : Bool) (at_ : Nat)
  /-- SEQ_HIT, R224. -/
  | seqHit (q : Seq)
  /-- SEQ_TIMER_EXPIRE, R225. -/
  | seqTimerExpire (q : Seq)
  /-- TSQ_ENABLE, R227. -/
  | tsqEnable (q : Seq)
  /-- TSQ_DISABLE, R227. -/
  | tsqDisable (q : Seq)
  /-- TSQ_SHUTDOWN_DONE, R227. -/
  | tsqShutdownDone (q : Seq)
  /-- GAU_TSQ_RESTART, R226. -/
  | gauTsqRestart (g : GSeq)
  /-- CAPTURE_ARM, R232. -/
  | captureArm (b : Basin) (ctl : Word)
  /-- CAPTURE_DISARM, R232. -/
  | captureDisarm (b : Basin) (ctl : Word)
  /-- CAPTURE_SHUTDOWN_DONE, R232. -/
  | captureShutdownDone (b : Basin)
  /-- FORCE_TRIG, R233. -/
  | forceTrig (b : Basin)
  /-- CAPTURE_TRIGGER, R233. -/
  | captureTrigger (b : Basin)
  /-- RECORD_CLOSE, R234. -/
  | recordClose (b : Basin)
  /-- REARM_COMPLETE, R235. -/
  | rearmComplete (b : Basin) (at_ : Nat)
  /-- RECORD_COMPLETE, R238. -/
  | recordComplete (b : Basin)
  /-- CAP_RD_WRITE, R231. -/
  | capRdWrite (b : Basin) (value : Word)
  /-- TONE_ENABLE, R252. -/
  | toneEnable (b : Basin) (c : Tone) (ctl : Word)
  /-- TONE_DISABLE, R252. -/
  | toneDisable (b : Basin) (c : Tone) (ctl : Word)
  /-- TONE_SHUTDOWN_DONE, R252. -/
  | toneShutdownDone (b : Basin) (c : Tone)
  /-- TONE_FTW_COMMIT, R249. -/
  | toneFtwCommit (b : Basin) (c : Tone) (value : Word)
  /-- TONE_POFF_COMMIT, R249. -/
  | tonePoffCommit (b : Basin) (c : Tone) (value : Word)
  /-- TONE_APPLY, R250. -/
  | toneApply (b : Basin) (c : Tone) (at_ : Nat)
  /-- TONE_ZERO_CROSSING, R251. -/
  | toneZeroCrossing (b : Basin) (c : Tone) (at_ : Nat)
  /-- DELTA_ENABLE, R260. -/
  | deltaEnable (t : Trib) (ctl : Word)
  /-- DELTA_DISABLE, R260. -/
  | deltaDisable (t : Trib) (ctl : Word)
  /-- DELTA_SHUTDOWN_DONE, R260. -/
  | deltaShutdownDone (t : Trib)
  /-- DELTA_RATE_WRITE, R259. -/
  | deltaRateWrite (t : Trib) (value : Word)
  /-- ADC_ENABLE, R271. -/
  | adcEnable (k : Adc) (ctl : Word)
  /-- ADC_READY, R271. -/
  | adcReady (k : Adc) (r33 : Nat) (r35 : Nat)
  /-- ADC_DISABLE, R271. -/
  | adcDisable (k : Adc) (ctl : Word)
  /-- ADC_POWER_DOWN, R271. -/
  | adcPowerDown (k : Adc)
  /-- SCAN_RUN, R272. -/
  | scanRun (k : Adc) (ctl : Word)
  /-- SCAN_STOP, R274. -/
  | scanStop (k : Adc) (ctl : Word)
  /-- SCAN_START_HOST, R272. -/
  | scanStartHost (k : Adc)
  /-- SCAN_START_PERIODIC, R272. -/
  | scanStartPeriodic (k : Adc)
  /-- SCAN_START_LOAD, R272. -/
  | scanStartLoad (k : Adc) (strobe : Nat)
  /-- ADC_RESULT, R275. -/
  | adcResult (k : Adc) (q err : Int) (limit : Bool)
  /-- ADC_FIFO_READ, R275. -/
  | adcFifoRead (k : Adc)
  /-- ADC_STAGE_TAKEOVER, R279. -/
  | adcStageTakeover (k : Adc) (good : Bool)
  /-- ADC_GAIN_ROUTINE, R276. -/
  | adcGainRoutine (k : Adc) (r33 : Nat) (r35 : Nat)
  /-- P_ADC_ENABLE, R281. -/
  | pAdcEnable (p : PAdc) (ctl : Word)
  /-- P_ADC_DISABLE, R281. -/
  | pAdcDisable (p : PAdc) (ctl : Word)
  /-- P_ADC_SHUTDOWN_DONE, R281. -/
  | pAdcShutdownDone (p : PAdc)
  /-- P_ADC_RESULT, R282. -/
  | pAdcResult (p : PAdc) (q err : Int) (at_ : Nat)
  /-- PADC_SYSCAL_ZERO, R283. -/
  | padcSyscalZero (slot : Slot) (irq : Bool) (results : List Int)
  /-- PADC_SYSCAL_FULL, R283. -/
  | padcSyscalFull (slot : Slot) (irq : Bool) (results : List Int)
  /-- PADC_SYSCAL_COMMIT, R283. -/
  | padcSyscalCommit (slot : Slot) (irq : Bool) (stored : Bool)
  /-- PADC_SYSCAL_DISCARD, R284. -/
  | padcSyscalDiscard (slot : Slot) (irq : Bool)
  /-- PADC_SESSION_EXPIRE, R284. -/
  | padcSessionExpire (p : PAdc)
  /-- SQ_DOORBELL, R467. -/
  | sqDoorbell (q : Queue) (tail : Word)
  /-- SQ_ENTRY_LAND, R467. -/
  | sqEntryLand (q : Queue) (data : Block64)
  /-- UNSPILL_LAND, R296. -/
  | unspillLand (b : Basin) (l : Prio)
  /-- BURST_DELIVERY, R299. -/
  | burstDelivery (b : Basin) (ecc : Ecc)
  /-- BURST_ON_DECK, R299. -/
  | burstOnDeck (b : Basin)
  /-- BURST_PRIMED, R298. -/
  | burstPrimed (b : Basin) (at_ : Nat)
  /-- BURST_START_FROM_HOLD, R300. -/
  | burstStartFromHold (b : Basin)
  /-- PRESPIN_RAMP_STEP, R420. -/
  | prespinRampStep (b : Basin)
  /-- MIN_BURST_EXPIRE, R53. -/
  | minBurstExpire (b : Basin)
  /-- BURST_COMPLETION, R304. -/
  | burstCompletion (b : Basin)
  /-- COMPLETION_POST, R468. -/
  | completionPost (q : Queue)
  /-- WEI_CANCEL, R306. -/
  | weiCancel (ctx : Ctxt) (abort : Bool)
  /-- WEI_CANCEL_BASIN, R307. -/
  | weiCancelBasin (b : Basin) (abort : Bool)
  /-- CANCEL_RUNNING_END, R306. -/
  | cancelRunningEnd (b : Basin) (vectors : Nat) (seen : Seen)
  /-- BURST_TIMEOUT, R308. -/
  | burstTimeout (b : Basin)
  /-- BAR2_READ, R457. -/
  | bar2Read (addr : Nat) (len : Nat) (ecc : Ecc)
  /-- BAR2_WRITE, R457. -/
  | bar2Write (addr : Nat) (data : List Byte) (ecc : Ecc)
  /-- WIN_BASE_WRITE, R457. -/
  | winBaseWrite (value : Word) (size : BarSize)
  /-- HBM_REFRESH, R323. -/
  | hbmRefresh (st : Stack)
  /-- ROW_REPAIR, R332. -/
  | rowRepair (row : Nat)
  /-- READ_TIMING_TRACK, R328. -/
  | readTimingTrack (st : Stack) (within : Bool)
  /-- SLC_TRAIN, R327. -/
  | slcTrain (slot : Slot) (irq : Bool)
  /-- SLC_OPCHANGE, R325. -/
  | slcOpchange (slot : Slot) (irq : Bool)
  /-- OPCHANGE_LEAD_TIMEOUT, R325. -/
  | opchangeLeadTimeout
  /-- OPCHANGE_COMMIT, R325. -/
  | opchangeCommit
  /-- OPCHANGE_GAP_END, R325. -/
  | opchangeGapEnd
  /-- OPCHANGE_COMPLETE, R325. -/
  | opchangeComplete
  /-- IDLE_SELF_REFRESH_ENTRY, R329. -/
  | idleSelfRefreshEntry (st : Stack)
  /-- IDLE_SELF_REFRESH_EXIT, R329. -/
  | idleSelfRefreshExit (st : Stack)
  /-- HEADWATER_LOCK, R338. -/
  | headwaterLock (ref10 : Bool)
  /-- REFCLK_LOSS, R339. -/
  | refclkLoss
  /-- REFCLK_RESTORE, R339. -/
  | refclkRestore
  /-- HEADWATER_UNLOCK, R340. -/
  | headwaterUnlock
  /-- CLKOUT_ENABLE, R342. -/
  | clkoutEnable (n : Cko) (ctl : Word)
  /-- CLKOUT_DISABLE, R342. -/
  | clkoutDisable (n : Cko) (ctl : Word)
  /-- CLKOUT_SHUTDOWN_DONE, R342. -/
  | clkoutShutdownDone (n : Cko)
  /-- SYNC_ARM, R343. -/
  | syncArm (ctl : Word)
  /-- SYNC_PULSE, R344. -/
  | syncPulse (at_ : Nat)
  /-- SYNC_TT_ZERO, R344. -/
  | syncTtZero
  /-- SYNC_REALIGN, R346. -/
  | syncRealign
  /-- TMB_APPLY_ARM, R349. -/
  | tmbApplyArm
  /-- TMB_APPLY, R349. -/
  | tmbApply
  /-- ETH_ENABLE, R363. -/
  | ethEnable (e : Eth) (ctl : Word)
  /-- ETH_DISABLE, R363. -/
  | ethDisable (e : Eth) (ctl : Word)
  /-- ETH_TSQ_READ, R354. -/
  | ethTsqRead (e : Eth)
  /-- ETH_RX_FRAME, R471. -/
  | ethRxFrame (e : Eth) (frame : List Byte) (descs : Descs) (at_ : Nat) (servo : Servo)
  /-- VUTIL_ENABLE, R357. -/
  | vutilEnable (l : Link) (ctl : Word)
  /-- VUTIL_DISABLE, R357. -/
  | vutilDisable (l : Link) (ctl : Word)
  /-- VUTIL_LOCK, R357. -/
  | vutilLock (l : Link)
  /-- VUTIL_CYCLES_START, R357. -/
  | vutilCyclesStart (l : Link)
  /-- VUTIL_UP, R357. -/
  | vutilUp (l : Link) (delay : Nat)
  /-- VUTIL_LINK_DOWN, R357. -/
  | vutilLinkDown (l : Link) (cause : Nat)
  /-- VUTIL_CYCLE_RECEIVE, R355. -/
  | vutilCycleReceive (l : Link) (cycle : LinkCycle)
  /-- VUTIL_SYNC_MESSAGE, R359. -/
  | vutilSyncMessage (l : Link) (origin : Nat) (corr : Nat) (at_ : Nat)
  /-- VUTIL_DREQ, R359. -/
  | vutilDreq (l : Link) (at_ : Nat)
  /-- VUTIL_DRESP, R359. -/
  | vutilDresp (l : Link) (receipt : Nat)
  /-- VUTIL_CTRL, R355. -/
  | vutilCtrl (l : Link) (msg : CtrlMsg)
  /-- VUTIL_TIME_EXCHANGE, R359. -/
  | vutilTimeExchange (l : Link) (at_ : Nat)
  /-- CAL_TEMP_INTERVAL, R368. -/
  | calTempInterval
  /-- CAL_GATHER_BEGIN, R369. -/
  | calGatherBegin (t : Trib)
  /-- CAL_GATHER_TIMEOUT, R370. -/
  | calGatherTimeout (t : Trib)
  /-- CAL_OUTAGE_BEGIN, R369. -/
  | calOutageBegin (t : Trib)
  /-- CAL_KINDS_DONE, R371. -/
  | calKindsDone (t : Trib) (run : CalRun) (stored : Nat)
  /-- CAL_OUTAGE_END, R369. -/
  | calOutageEnd (t : Trib)
  /-- CAL_RUN, R379. -/
  | calRun (slot : Slot) (irq : Bool)
  /-- CAL_REF, R379. -/
  | calRef (slot : Slot) (irq : Bool) (results : List Int) (stored : Bool)
  /-- FAULT_REPORT, R387. -/
  | faultReport (source : Source) (inst : Nat) (detail : Nat) (at_ : Nat)
  /-- LEV_FORCE, R392. -/
  | levForce (value : Word)
  /-- LEV_ARM, R393. -/
  | levArm (value : Word)
  /-- LEV_ARM_LAPSE, R393. -/
  | levArmLapse
  /-- LEV_LOG_READ, R394. -/
  | levLogRead
  /-- LEV_SEV_WRITE, R386. -/
  | levSevWrite (source : Source) (value : Word)
  /-- LEV_DEVICE_CLEAR, R391. -/
  | levDeviceClear
  /-- LEV_DUMP_ACK, R401. -/
  | levDumpAck
  /-- DUMP, R400. -/
  | dump (slot : Slot) (irq : Bool)
  /-- DUMP_COMPLETE, R400. -/
  | dumpComplete
  /-- PCNT_RECORD_WRITE, R402. -/
  | pcntRecordWrite (stored : Bool)
  /-- SPARE_COPY_DONE, R404. -/
  | spareCopyDone (t : Trib)
  /-- MILLRACE_LANE_OUTVOTED, R406. -/
  | millraceLaneOutvoted (lane : Lane) (majority : Bool)
  /-- MANAGEMENT_WATCHDOG, R407. -/
  | managementWatchdog
  /-- DROOP_TRIP, R412. -/
  | droopTrip (sensor : Sensor)
  /-- CCLK_RETURN, R413. -/
  | cclkReturn
  /-- SUPPLY_MONITOR_TRIP, R415. -/
  | supplyMonitorTrip (mon : Mon) (at_ : Nat)
  /-- STEP_LIMIT_WRITE, R419. -/
  | stepLimitWrite (value : Word)
  /-- SLACK_ENTER, R423. -/
  | slackEnter (slot : Slot) (irq : Bool)
  /-- SLACK_COMMIT, R423. -/
  | slackCommit
  /-- WAKE_EVENT, R425. -/
  | wakeEvent (k : Comp)
  /-- HOST_WAKE, R425. -/
  | hostWake
  /-- WAKE_COMPLETE, R426. -/
  | wakeComplete (tick : Nat) (edges : Nat) (temps : Nat × Nat) (stored : Bool)
  /-- SERVO, R451. -/
  | servo (slot : Slot) (irq : Bool)
  /-- SERVO_NO_MASTER, R451. -/
  | servoNoMaster
  /-- FW_STAGE, R450. -/
  | fwStage (slot : Slot) (irq : Bool) (verdict : Nat)
  /-- FW_SELECT, R450. -/
  | fwSelect (slot : Slot) (irq : Bool) (good : Bool)
  /-- UNKNOWN_OP, R449. -/
  | unknownOp (slot : Slot) (op : Half) (irq : Bool)
  /-- MAILBOX_ABORT, R475. -/
  | mailboxAbort (slot : Slot)
  /-- QP_ENABLE, R466. -/
  | qpEnable (q : Queue)
  /-- QP_DISABLE, R466. -/
  | qpDisable (q : Queue)
  /-- QP_SHUTDOWN_DONE, R466. -/
  | qpShutdownDone (q : Queue)
  /-- CQ_HEAD_DOORBELL, R468. -/
  | cqHeadDoorbell (q : Queue) (head : Word)
  /-- DMA_RUN, R484. -/
  | dmaRun (e : Dma) (r : Ring)
  /-- DMA_STOP, R484. -/
  | dmaStop (e : Dma) (r : Ring)
  /-- DMA_TAIL_DOORBELL, R470. -/
  | dmaTailDoorbell (e : Dma) (r : Ring) (tail : Word)
  /-- DMA_DESCRIPTOR_DONE, R470. -/
  | dmaDescriptorDone (e : Dma) (desc : Block32) (data : List Byte) (ok : Bool) (ecc : Ecc) (at_ : Nat)
  /-- MULTI_WORD_LOW_READ, R463. -/
  | multiWordLowRead (off : Bar0)
  /-- MULTI_WORD_HIGH_READ, R463. -/
  | multiWordHighRead (off : Bar0)
  /-- READ_CLEAR, R8. -/
  | readClear (off : Bar0) (len : Nat)
  /-- REGISTER_WRITE, R8. -/
  | registerWrite (off : Bar0) (value : Long) (len : Nat) (full : Bool)
  /-- PCIE_TLP_ERROR, R455. -/
  | pcieTlpError (kind : TlpKind)
  /-- DEVICE_REQUEST_TIMEOUT, R455. -/
  | deviceRequestTimeout
  /-- SMB_SET_ADDR, R476. -/
  | smbSetAddr (value : Word)
  /-- SMB_READ_REG, R477. -/
  | smbReadReg
  /-- SMB_WRITE_MAILBOX, R476. -/
  | smbWriteMailbox (value : Word)
  /-- SMB_READ_TEMP, R476. -/
  | smbReadTemp
  /-- SMB_READ_STATUS, R476. -/
  | smbReadStatus
  /-- SMB_UNKNOWN_COMMAND, R476. -/
  | smbUnknownCommand
  /-- JTAG_IDCODE, R478. -/
  | jtagIdcode
  /-- JTAG_SAMPLE_PRELOAD, R478. -/
  | jtagSamplePreload (cells : List Bool)
  /-- JTAG_EXTEST, R479. -/
  | jtagExtest
  /-- JTAG_EXTEST_PULSE, R479. -/
  | jtagExtestPulse
  /-- JTAG_EXTEST_TRAIN, R479. -/
  | jtagExtestTrain
  /-- JTAG_CLAMP, R479. -/
  | jtagClamp
  /-- JTAG_HIGHZ, R479. -/
  | jtagHighz
  /-- JTAG_BYPASS, R478. -/
  | jtagBypass (code : Byte)
  /-- JTAG_TEST_LOGIC_RESET, R478. -/
  | jtagTestLogicReset
  /-- POWER_GOOD_LOSS, R499. -/
  | powerGoodLoss (core : Bool)
  /-- POWER_GOOD_RETURN, R31. -/
  | powerGoodReturn (core : Bool)
  /-- ETH_LINK_UP, R363. -/
  | ethLinkUp (e : Eth)
  /-- ETH_LINK_DOWN, R451. -/
  | ethLinkDown (e : Eth)
  /-- PCIE_LINK_UP, R454. -/
  | pcieLinkUp (speed : Speed) (width : Width)
  /-- TIME_BASE_HALF, R348. -/
  | timeBaseHalf (zero : Bool)
  /-- SLC_TRAIN_DONE, R327. -/
  | slcTrainDone (good : Bool) (stored : Bool)
  /-- FW_STAGE_DONE, R450. -/
  | fwStageDone (good : Bool)
  deriving DecidableEq, Repr

end Sys2Proof
end

