-- ==== Sys2Proof/Machine/Bits.lean ====
section
/-! DEFINITION. Bit fields, two's complement and byte order (R5, R7). -/

namespace Sys2Proof.Machine

/-- Bits [hi:lo] of a number (Table 0.3). -/
def bitsOf (n hi lo : Nat) : Nat := (n >>> lo) % 2 ^ (hi + 1 - lo)

/-- Bit k of a number, as a condition. -/
def bitOf (n k : Nat) : Bool := bitsOf n k k == 1

/-- The number with bits [hi:lo] replaced by the low bits of v (R8: a field written). -/
def setBits (n hi lo v : Nat) : Nat :=
  n - (bitsOf n hi lo) <<< lo + (v % 2 ^ (hi + 1 - lo)) <<< lo

/-- The two's-complement reading of the low w bits of n. -/
def toSigned (w n : Nat) : Int :=
  let u := n % 2 ^ w
  if 2 * u < 2 ^ w then (u : Int) else (u : Int) - (2 ^ w : Nat)

/-- The w-bit two's-complement form of an integer. -/
def ofSigned (w : Nat) (i : Int) : Nat := (i % (2 ^ w : Nat)).toNat

/-- One for true. -/
def flag (b : Bool) : Nat := if b then 1 else 0

/-- The quotient rounded up. -/
def ceilDiv (a b : Nat) : Nat := (a + b - 1) / b

/-- The quotient of integers rounded to nearest, halves away from zero. -/
def roundDiv (a : Int) (b : Nat) : Int :=
  if 0 ≤ a then (a + b / 2) / b else - ((-a + b / 2) / b)

/-- A value held to a range. -/
def clampInt (lo hi x : Int) : Int := if x < lo then lo else if hi < x then hi else x

/-- The number of ones among the low w bits. -/
def popCount : Nat → Nat → Nat
  | 0, _ => 0
  | w + 1, n => popCount w n + flag (bitOf n w)

/-- The positions of the ones among the low w bits, rising. -/
def onesOf (w n : Nat) : List Nat := (List.range w).filter (bitOf n ·)

/-- Puts an element before the first one that it may precede. -/
def insertBy {α : Type} (le : α → α → Bool) (a : α) : List α → List α
  | [] => [a]
  | c :: t => if le a c then a :: c :: t else c :: insertBy le a t

/-- A list in the order of a comparison; equal elements keep their order. -/
def sortBy {α : Type} (le : α → α → Bool) (l : List α) : List α := l.foldr (insertBy le) []

/-- Little-endian number from bytes (R7). -/
def leNat : List Byte → Nat
  | [] => 0
  | b :: t => b.toNat + 256 * leNat t

/-- The n little-endian bytes of a number (R7). -/
def leBytes : Nat → Nat → List Byte
  | 0, _ => []
  | n + 1, v => BitVec.ofNat 8 v :: leBytes n (v / 256)

/-- Bytes i to i+n-1 of a list, as a little-endian number (R7). -/
def fieldAt (l : List Byte) (i n : Nat) : Nat := leNat ((l.drop i).take n)

/-- One step of CRC-32C (Castagnoli, R16), reflected form, on one bit. -/
def crcBit (c : Nat) : Nat :=
  if c % 2 == 1 then (c >>> 1) ^^^ 0x82F63B78 else c >>> 1

/-- CRC-32C over one byte. -/
def crcByte (c : Nat) (b : Byte) : Nat :=
  crcBit (crcBit (crcBit (crcBit (crcBit (crcBit (crcBit (crcBit (c ^^^ b.toNat))))))))

/-- CRC-32C over a list of bytes (R16, R36): initial value and final inversion all ones. -/
def crc32c (l : List Byte) : Nat := (l.foldl crcByte 0xFFFFFFFF) ^^^ 0xFFFFFFFF

end Sys2Proof.Machine
end

