-- ==== Sys2Proof/Config.lean ====
section
/-! DEFINITION. What one device fixes (its ordering code, its fuses, its factory data) and the free values: each an opaque
constant, of which nothing can be proved. -/

namespace Sys2Proof

/-- GLB_ID.MEM: the ordering code, true for BL1024-H72-L and false for BL1024-H48-L (R1, R2). -/
opaque Config.isH72 : Bool

/-- The words of the identity fused into the device (MRC_UID_LO and MRC_UID_HI). -/
opaque Config.uidWord : Nat → Word

/-- The fused key-revocation bits (MRC_KEYS). -/
opaque Config.keysFused : Word

/-- The factory area of Reservoir (R373): coefficient c of pin p in temperature set k (Table 13.4), as measured at manufacture. -/
opaque Config.factoryValue : Nat → Nat → Nat → Int

/-- The spare rows of a bank at manufacture (R332), by pseudo-channel × 64 + bank. -/
opaque Config.spareRows : Nat → Nat

/-- The latency of RS-FEC on an Ethernet port's transmit and receive path, in 3.90625 ps (R352), which the spec does not give. -/
opaque Config.fecLatency : Bool → Nat

/-- A value the spec leaves open, of `w` bits, the `n`-th of a run: nothing constrains it (assumption log 3). -/
opaque Config.freeValue : (w : Nat) → Nat → BitVec w

end Sys2Proof
end

