-- ==== Sys2Proof/Machine/Regs.lean ====
section
/-! DEFINITION. The BAR0 register map of the spec (Table 17.2 and the register tables of every chapter): each register's
byte offset under its own name, each field's place, and the access code (Table 0.4) and reset value of every field. -/

namespace Sys2Proof.Machine

/-- Access codes of Table 0.4 (R8). -/
inductive Access where
  | rw | ro | wo | w1c | rc | rws | rwl
  deriving DecidableEq, Repr

/-- One named field of a register: its BAR0 byte offset and its bits [hi:lo]. -/
structure Fld where
  off : Nat
  hi : Nat
  lo : Nat
  deriving DecidableEq, Repr

/-- One row of a register table: bits [hi:lo], access code, reset value of the field. -/
structure FieldRow where
  hi : Nat
  lo : Nat
  acc : Access
  reset : Nat
  deriving DecidableEq, Repr

/-- One register of a block (R13): offset of the first instance within the block, two strides with their counts, and fields. -/
structure RegRow where
  name : String
  base : Nat
  stride : Nat
  count : Nat
  stride2 : Nat
  count2 : Nat
  fields : List FieldRow
  deriving DecidableEq, Repr

/-- Base of the registers of trigger sequencer `q` (R242): 0 to 255 the basins', 256 + g global sequencer g. -/
def Reg.tsqBase (q : Nat) : Nat :=
  if q < 256 then 0x0500300 + q * 0x1000 else 0x0601000 + (q - 256) * 0x100


/-! Table 2.14 (02_catchment_image). -/

def Reg.GLB_CATCH_STATE : Nat := 0x0000100
def F.GLB_CATCH_STATE_STATE : Fld := ⟨Reg.GLB_CATCH_STATE, 1, 0⟩
def F.GLB_CATCH_STATE_RECOURSE : Fld := ⟨Reg.GLB_CATCH_STATE, 2, 2⟩
def F.GLB_CATCH_STATE_RC_BASIN : Fld := ⟨Reg.GLB_CATCH_STATE, 10, 3⟩
def Reg.GLB_CATCH_ID : Nat := 0x0000104
def F.GLB_CATCH_ID_IMAGE_ID : Fld := ⟨Reg.GLB_CATCH_ID, 31, 0⟩
def Reg.GLB_CATCH_CRC : Nat := 0x0000108
def F.GLB_CATCH_CRC_CRC : Fld := ⟨Reg.GLB_CATCH_CRC, 31, 0⟩
def Reg.GLB_CATCH_GEN : Nat := 0x000010C
def F.GLB_CATCH_GEN_GEN : Fld := ⟨Reg.GLB_CATCH_GEN, 31, 0⟩

/-! Table 2.15 (02_catchment_image). -/

def Reg.BSN_CTL (b : Nat) : Nat := 0x0500000 + b * 0x1000 + 0x0
def F.BSN_CTL_ENABLE (b : Nat) : Fld := ⟨Reg.BSN_CTL b, 0, 0⟩
def F.BSN_CTL_SHUT_ABORT (b : Nat) : Fld := ⟨Reg.BSN_CTL b, 1, 1⟩
def Reg.BSN_STATE (b : Nat) : Nat := 0x0500000 + b * 0x1000 + 0x4
def F.BSN_STATE_STATE (b : Nat) : Fld := ⟨Reg.BSN_STATE b, 2, 0⟩
def F.BSN_STATE_PENDING (b : Nat) : Fld := ⟨Reg.BSN_STATE b, 3, 3⟩
def F.BSN_STATE_SPAN (b : Nat) : Fld := ⟨Reg.BSN_STATE b, 4, 4⟩
def F.BSN_STATE_PIN_COUNT (b : Nat) : Fld := ⟨Reg.BSN_STATE b, 26, 16⟩
def Reg.BSN_SHARES (b : Nat) : Nat := 0x0500000 + b * 0x1000 + 0x8
def F.BSN_SHARES_STREAM_SH (b : Nat) : Fld := ⟨Reg.BSN_SHARES b, 15, 0⟩
def F.BSN_SHARES_CAPTURE_SH (b : Nat) : Fld := ⟨Reg.BSN_SHARES b, 31, 16⟩
def Reg.BSN_HOUSE (b : Nat) : Nat := 0x0500000 + b * 0x1000 + 0xC
def F.BSN_HOUSE_HOUSE_SH (b : Nat) : Fld := ⟨Reg.BSN_HOUSE b, 15, 0⟩
def F.BSN_HOUSE_MIN_BURST (b : Nat) : Fld := ⟨Reg.BSN_HOUSE b, 31, 16⟩

/-! Table 3.9 (03_riffle_engines). -/

def Reg.PIN_ENG_STAT (p : Nat) : Nat := 0x0100000 + p / 16 * 0x10000 + p % 16 * 0x800 + 0x0
def F.PIN_ENG_STAT_ENGINE (p : Nat) : Fld := ⟨Reg.PIN_ENG_STAT p, 10, 0⟩
def F.PIN_ENG_STAT_SPARE (p : Nat) : Fld := ⟨Reg.PIN_ENG_STAT p, 11, 11⟩
def F.PIN_ENG_STAT_STATE (p : Nat) : Fld := ⟨Reg.PIN_ENG_STAT p, 14, 12⟩
def F.PIN_ENG_STAT_DEPTH (p : Nat) : Fld := ⟨Reg.PIN_ENG_STAT p, 18, 16⟩
def Reg.PIN_ENG_PC (p : Nat) : Nat := 0x0100000 + p / 16 * 0x10000 + p % 16 * 0x800 + 0x4
def F.PIN_ENG_PC_ADDR (p : Nat) : Fld := ⟨Reg.PIN_ENG_PC p, 10, 0⟩
def F.PIN_ENG_PC_STREAMED (p : Nat) : Fld := ⟨Reg.PIN_ENG_PC p, 11, 11⟩
def F.PIN_ENG_PC_FIFO_LEVEL (p : Nat) : Fld := ⟨Reg.PIN_ENG_PC p, 25, 16⟩
def Reg.PIN_ENG_ERR (p : Nat) : Nat := 0x0100000 + p / 16 * 0x10000 + p % 16 * 0x800 + 0x8
def F.PIN_ENG_ERR_CODE (p : Nat) : Fld := ⟨Reg.PIN_ENG_ERR p, 7, 0⟩
def F.PIN_ENG_ERR_ADDR (p : Nat) : Fld := ⟨Reg.PIN_ENG_ERR p, 18, 8⟩
def F.PIN_ENG_ERR_STREAMED (p : Nat) : Fld := ⟨Reg.PIN_ENG_ERR p, 19, 19⟩
def Reg.PIN_ENG_SIG (p : Nat) : Nat := 0x0100000 + p / 16 * 0x10000 + p % 16 * 0x800 + 0xC
def F.PIN_ENG_SIG_FLOWSIG (p : Nat) : Fld := ⟨Reg.PIN_ENG_SIG p, 31, 0⟩
def Reg.PIN_PAL (p : Nat) (c : Nat) : Nat := 0x0100000 + p / 16 * 0x10000 + p % 16 * 0x800 + 0x10 + c * 0x4
def F.PIN_PAL_ENTRIES (p : Nat) (c : Nat) : Fld := ⟨Reg.PIN_PAL p c, 15, 0⟩
def Reg.PIN_PAL_LIVE_LO (p : Nat) : Nat := 0x0100000 + p / 16 * 0x10000 + p % 16 * 0x800 + 0x20
def F.PIN_PAL_LIVE_LO_LIVE01 (p : Nat) : Fld := ⟨Reg.PIN_PAL_LIVE_LO p, 31, 0⟩
def Reg.PIN_PAL_LIVE_HI (p : Nat) : Nat := 0x0100000 + p / 16 * 0x10000 + p % 16 * 0x800 + 0x24
def F.PIN_PAL_LIVE_HI_LIVE23 (p : Nat) : Fld := ⟨Reg.PIN_PAL_LIVE_HI p, 31, 0⟩
def Reg.PIN_VCNT_LO (p : Nat) : Nat := 0x0100000 + p / 16 * 0x10000 + p % 16 * 0x800 + 0x28
def F.PIN_VCNT_LO_VCNT (p : Nat) : Fld := ⟨Reg.PIN_VCNT_LO p, 31, 0⟩
def Reg.PIN_VCNT_HI (p : Nat) : Nat := 0x0100000 + p / 16 * 0x10000 + p % 16 * 0x800 + 0x2C
def F.PIN_VCNT_HI_VCNT (p : Nat) : Fld := ⟨Reg.PIN_VCNT_HI p, 31, 0⟩
def Reg.PIN_LS_ADDR (p : Nat) : Nat := 0x0100000 + p / 16 * 0x10000 + p % 16 * 0x800 + 0x40
def F.PIN_LS_ADDR_ADDR (p : Nat) : Fld := ⟨Reg.PIN_LS_ADDR p, 10, 0⟩
def F.PIN_LS_ADDR_AUTOINC (p : Nat) : Fld := ⟨Reg.PIN_LS_ADDR p, 16, 16⟩
def Reg.PIN_LS_CTL (p : Nat) : Nat := 0x0100000 + p / 16 * 0x10000 + p % 16 * 0x800 + 0x44
def F.PIN_LS_CTL_WRITE (p : Nat) : Fld := ⟨Reg.PIN_LS_CTL p, 0, 0⟩
def F.PIN_LS_CTL_READ (p : Nat) : Fld := ⟨Reg.PIN_LS_CTL p, 1, 1⟩
def F.PIN_LS_CTL_BUSY (p : Nat) : Fld := ⟨Reg.PIN_LS_CTL p, 8, 8⟩
def F.PIN_LS_CTL_REFUSED (p : Nat) : Fld := ⟨Reg.PIN_LS_CTL p, 9, 9⟩
def Reg.PIN_LS_DATA (p : Nat) (c : Nat) : Nat := 0x0100000 + p / 16 * 0x10000 + p % 16 * 0x800 + 0x60 + c * 0x4
def F.PIN_LS_DATA_DATA (p : Nat) (c : Nat) : Fld := ⟨Reg.PIN_LS_DATA p c, 31, 0⟩

/-! Table 3.10 (03_riffle_engines). -/

def Reg.BSN_FLOW_CTL (b : Nat) : Nat := 0x0500000 + b * 0x1000 + 0x40
def F.BSN_FLOW_CTL_TSQ_STATE (b : Nat) : Fld := ⟨Reg.BSN_FLOW_CTL b, 2, 0⟩
def F.BSN_FLOW_CTL_TONE (b : Nat) : Fld := ⟨Reg.BSN_FLOW_CTL b, 4, 3⟩
def F.BSN_FLOW_CTL_TO_EVENT (b : Nat) : Fld := ⟨Reg.BSN_FLOW_CTL b, 10, 8⟩
def F.BSN_FLOW_CTL_TO_EVENT_EN (b : Nat) : Fld := ⟨Reg.BSN_FLOW_CTL b, 11, 11⟩
def Reg.BSN_FLOW_LAT (b : Nat) : Nat := 0x0500000 + b * 0x1000 + 0x44
def F.BSN_FLOW_LAT_FLOW_LAT (b : Nat) : Fld := ⟨Reg.BSN_FLOW_LAT b, 9, 0⟩
def F.BSN_FLOW_LAT_LINK (b : Nat) : Fld := ⟨Reg.BSN_FLOW_LAT b, 24, 16⟩
def Reg.BSN_FLOW_STAT (b : Nat) : Nat := 0x0500000 + b * 0x1000 + 0x48
def F.BSN_FLOW_STAT_WAITING (b : Nat) : Fld := ⟨Reg.BSN_FLOW_STAT b, 0, 0⟩
def F.BSN_FLOW_STAT_TIMEOUT (b : Nat) : Fld := ⟨Reg.BSN_FLOW_STAT b, 1, 1⟩
def F.BSN_FLOW_STAT_DIVERGED (b : Nat) : Fld := ⟨Reg.BSN_FLOW_STAT b, 2, 2⟩
def F.BSN_FLOW_STAT_MATCH_PASS (b : Nat) : Fld := ⟨Reg.BSN_FLOW_STAT b, 3, 3⟩
def F.BSN_FLOW_STAT_MATCH_FAIL (b : Nat) : Fld := ⟨Reg.BSN_FLOW_STAT b, 4, 4⟩
def F.BSN_FLOW_STAT_SYNCPT_COUNT (b : Nat) : Fld := ⟨Reg.BSN_FLOW_STAT b, 31, 16⟩
def Reg.BSN_EVENT (b : Nat) : Nat := 0x0500000 + b * 0x1000 + 0x4C
def F.BSN_EVENT_EVENT (b : Nat) : Fld := ⟨Reg.BSN_EVENT b, 7, 0⟩
def F.BSN_EVENT_SET (b : Nat) : Fld := ⟨Reg.BSN_EVENT b, 15, 8⟩
def Reg.BSN_LCTR (b : Nat) (c : Nat) : Nat := 0x0500000 + b * 0x1000 + 0x50 + c * 0x4
def F.BSN_LCTR_VALUE (b : Nat) (c : Nat) : Fld := ⟨Reg.BSN_LCTR b c, 15, 0⟩
def Reg.BSN_SYNCPT_T_LO (b : Nat) : Nat := 0x0500000 + b * 0x1000 + 0x60
def F.BSN_SYNCPT_T_LO_NS (b : Nat) : Fld := ⟨Reg.BSN_SYNCPT_T_LO b, 31, 0⟩
def Reg.BSN_SYNCPT_T_HI (b : Nat) : Nat := 0x0500000 + b * 0x1000 + 0x64
def F.BSN_SYNCPT_T_HI_FRAC (b : Nat) : Fld := ⟨Reg.BSN_SYNCPT_T_HI b, 7, 0⟩
def Reg.BSN_FLOW_MASTER (b : Nat) : Nat := 0x0500000 + b * 0x1000 + 0x68
def F.BSN_FLOW_MASTER_PIN (b : Nat) : Fld := ⟨Reg.BSN_FLOW_MASTER b, 9, 0⟩
def F.BSN_FLOW_MASTER_VALID (b : Nat) : Fld := ⟨Reg.BSN_FLOW_MASTER b, 10, 10⟩

/-! Table 4.7 (04_courses_streaming). -/

def Reg.BSN_CRS_POS (b : Nat) : Nat := 0x0500000 + b * 0x1000 + 0x80
def F.BSN_CRS_POS_ENTRY (b : Nat) : Fld := ⟨Reg.BSN_CRS_POS b, 15, 0⟩
def F.BSN_CRS_POS_STATE (b : Nat) : Fld := ⟨Reg.BSN_CRS_POS b, 18, 16⟩
def Reg.BSN_CRS_PASS (b : Nat) : Nat := 0x0500000 + b * 0x1000 + 0x84
def F.BSN_CRS_PASS_PASS (b : Nat) : Fld := ⟨Reg.BSN_CRS_PASS b, 31, 0⟩
def Reg.BSN_CRS_ERR (b : Nat) : Nat := 0x0500000 + b * 0x1000 + 0x88
def F.BSN_CRS_ERR_CODE (b : Nat) : Fld := ⟨Reg.BSN_CRS_ERR b, 7, 0⟩
def F.BSN_CRS_ERR_ENTRY (b : Nat) : Fld := ⟨Reg.BSN_CRS_ERR b, 31, 16⟩
def Reg.BSN_CRS_JUMP (b : Nat) : Nat := 0x0500000 + b * 0x1000 + 0x8C
def F.BSN_CRS_JUMP_FROM (b : Nat) : Fld := ⟨Reg.BSN_CRS_JUMP b, 15, 0⟩
def F.BSN_CRS_JUMP_EVENT (b : Nat) : Fld := ⟨Reg.BSN_CRS_JUMP b, 18, 16⟩
def F.BSN_CRS_JUMP_VALID (b : Nat) : Fld := ⟨Reg.BSN_CRS_JUMP b, 19, 19⟩
def Reg.BSN_CRS_HZN (b : Nat) : Nat := 0x0500000 + b * 0x1000 + 0x90
def F.BSN_CRS_HZN_H (b : Nat) : Fld := ⟨Reg.BSN_CRS_HZN b, 9, 0⟩
def Reg.BSN_CRS_WIN (b : Nat) : Nat := 0x0500000 + b * 0x1000 + 0x94
def F.BSN_CRS_WIN_HELD (b : Nat) : Fld := ⟨Reg.BSN_CRS_WIN b, 5, 0⟩
def F.BSN_CRS_WIN_HZN_MIN (b : Nat) : Fld := ⟨Reg.BSN_CRS_WIN b, 25, 16⟩
def Reg.BSN_STALL_CNT (b : Nat) : Nat := 0x0500000 + b * 0x1000 + 0x98
def F.BSN_STALL_CNT_STALLS (b : Nat) : Fld := ⟨Reg.BSN_STALL_CNT b, 15, 0⟩
def F.BSN_STALL_CNT_SAMPLE (b : Nat) : Fld := ⟨Reg.BSN_STALL_CNT b, 31, 16⟩
def Reg.BSN_STALL_TIME_LO (b : Nat) : Nat := 0x0500000 + b * 0x1000 + 0x9C
def F.BSN_STALL_TIME_LO_TIME (b : Nat) : Fld := ⟨Reg.BSN_STALL_TIME_LO b, 31, 0⟩
def Reg.BSN_STALL_TIME_HI (b : Nat) : Nat := 0x0500000 + b * 0x1000 + 0xA0
def F.BSN_STALL_TIME_HI_TIME (b : Nat) : Fld := ⟨Reg.BSN_STALL_TIME_HI b, 31, 0⟩
def Reg.BSN_STALL_LAST_LO (b : Nat) : Nat := 0x0500000 + b * 0x1000 + 0xA4
def F.BSN_STALL_LAST_LO_NS (b : Nat) : Fld := ⟨Reg.BSN_STALL_LAST_LO b, 31, 0⟩
def Reg.BSN_STALL_LAST_HI (b : Nat) : Nat := 0x0500000 + b * 0x1000 + 0xA8
def F.BSN_STALL_LAST_HI_FRAC (b : Nat) : Fld := ⟨Reg.BSN_STALL_LAST_HI b, 7, 0⟩
def F.BSN_STALL_LAST_HI_CAUSE (b : Nat) : Fld := ⟨Reg.BSN_STALL_LAST_HI b, 10, 8⟩
def Reg.BSN_RES_LOAD (b : Nat) : Nat := 0x0500000 + b * 0x1000 + 0xAC
def F.BSN_RES_LOAD_STATE (b : Nat) : Fld := ⟨Reg.BSN_RES_LOAD b, 1, 0⟩

/-! Table 5.8 (05_timing). -/

def Reg.PIN_DSK_DRV (p : Nat) : Nat := 0x0100000 + p / 16 * 0x10000 + p % 16 * 0x800 + 0x80
def F.PIN_DSK_DRV_CAL (p : Nat) : Fld := ⟨Reg.PIN_DSK_DRV p, 14, 0⟩
def F.PIN_DSK_DRV_USER (p : Nat) : Fld := ⟨Reg.PIN_DSK_DRV p, 31, 16⟩
def Reg.PIN_DSK_CMP (p : Nat) : Nat := 0x0100000 + p / 16 * 0x10000 + p % 16 * 0x800 + 0x84
def F.PIN_DSK_CMP_CAL (p : Nat) : Fld := ⟨Reg.PIN_DSK_CMP p, 14, 0⟩
def F.PIN_DSK_CMP_USER (p : Nat) : Fld := ⟨Reg.PIN_DSK_CMP p, 31, 16⟩
def Reg.PIN_DSK_STAT (p : Nat) : Nat := 0x0100000 + p / 16 * 0x10000 + p % 16 * 0x800 + 0x88
def F.PIN_DSK_STAT_DRV_NOW (p : Nat) : Fld := ⟨Reg.PIN_DSK_STAT p, 14, 0⟩
def F.PIN_DSK_STAT_DRV_WALK (p : Nat) : Fld := ⟨Reg.PIN_DSK_STAT p, 15, 15⟩
def F.PIN_DSK_STAT_CMP_NOW (p : Nat) : Fld := ⟨Reg.PIN_DSK_STAT p, 30, 16⟩
def F.PIN_DSK_STAT_CMP_WALK (p : Nat) : Fld := ⟨Reg.PIN_DSK_STAT p, 31, 31⟩
def Reg.PIN_TG_STAT (p : Nat) : Nat := 0x0100000 + p / 16 * 0x10000 + p % 16 * 0x800 + 0x8C
def F.PIN_TG_STAT_DSK_CLAMP (p : Nat) : Fld := ⟨Reg.PIN_TG_STAT p, 0, 0⟩
def F.PIN_TG_STAT_EDGE_CLAMP (p : Nat) : Fld := ⟨Reg.PIN_TG_STAT p, 1, 1⟩
def F.PIN_TG_STAT_TSET_NOW (p : Nat) : Fld := ⟨Reg.PIN_TG_STAT p, 11, 8⟩
def F.PIN_TG_STAT_CLAMP_CNT (p : Nat) : Fld := ⟨Reg.PIN_TG_STAT p, 31, 16⟩
def Reg.PIN_TG_VALID (p : Nat) : Nat := 0x0100000 + p / 16 * 0x10000 + p % 16 * 0x800 + 0x90
def F.PIN_TG_VALID_VALID (p : Nat) : Fld := ⟨Reg.PIN_TG_VALID p, 15, 0⟩
def F.PIN_TG_VALID_ERR_CODE (p : Nat) : Fld := ⟨Reg.PIN_TG_VALID p, 23, 16⟩
def F.PIN_TG_VALID_ERR_SET (p : Nat) : Fld := ⟨Reg.PIN_TG_VALID p, 27, 24⟩
def Reg.PIN_TS_DRV (p : Nat) (c : Nat) (i : Nat) : Nat := 0x0100000 + p / 16 * 0x10000 + p % 16 * 0x800 + 0x400 + c * 0x40 + i * 0x10
def F.PIN_TS_DRV_DRV (p : Nat) (c : Nat) (i : Nat) : Fld := ⟨Reg.PIN_TS_DRV p c i, 23, 0⟩
def F.PIN_TS_DRV_FMT (p : Nat) (c : Nat) (i : Nat) : Fld := ⟨Reg.PIN_TS_DRV p c i, 25, 24⟩
def Reg.PIN_TS_RET (p : Nat) (c : Nat) (i : Nat) : Nat := 0x0100000 + p / 16 * 0x10000 + p % 16 * 0x800 + 0x404 + c * 0x40 + i * 0x10
def F.PIN_TS_RET_RET (p : Nat) (c : Nat) (i : Nat) : Fld := ⟨Reg.PIN_TS_RET p c i, 23, 0⟩
def Reg.PIN_TS_SOPEN (p : Nat) (c : Nat) (i : Nat) : Nat := 0x0100000 + p / 16 * 0x10000 + p % 16 * 0x800 + 0x408 + c * 0x40 + i * 0x10
def F.PIN_TS_SOPEN_SOPEN (p : Nat) (c : Nat) (i : Nat) : Fld := ⟨Reg.PIN_TS_SOPEN p c i, 23, 0⟩
def Reg.PIN_TS_SCLOSE (p : Nat) (c : Nat) (i : Nat) : Nat := 0x0100000 + p / 16 * 0x10000 + p % 16 * 0x800 + 0x40C + c * 0x40 + i * 0x10
def F.PIN_TS_SCLOSE_SCLOSE (p : Nat) (c : Nat) (i : Nat) : Fld := ⟨Reg.PIN_TS_SCLOSE p c i, 23, 0⟩

/-! Table 5.9 (05_timing). -/

def Reg.BSN_TS_PER_LO (b : Nat) (c : Nat) : Nat := 0x0500000 + b * 0x1000 + 0x100 + c * 0x8
def F.BSN_TS_PER_LO_PERIOD (b : Nat) (c : Nat) : Fld := ⟨Reg.BSN_TS_PER_LO b c, 31, 0⟩
def Reg.BSN_TS_PER_HI (b : Nat) (c : Nat) : Nat := 0x0500000 + b * 0x1000 + 0x104 + c * 0x8
def F.BSN_TS_PER_HI_PERIOD (b : Nat) (c : Nat) : Fld := ⟨Reg.BSN_TS_PER_HI b c, 7, 0⟩
def F.BSN_TS_PER_HI_SPV (b : Nat) (c : Nat) : Fld := ⟨Reg.BSN_TS_PER_HI b c, 9, 8⟩
def F.BSN_TS_PER_HI_MODE (b : Nat) (c : Nat) : Fld := ⟨Reg.BSN_TS_PER_HI b c, 10, 10⟩
def Reg.BSN_TS_EPOCH_LO (b : Nat) : Nat := 0x0500000 + b * 0x1000 + 0x180
def F.BSN_TS_EPOCH_LO_NS (b : Nat) : Fld := ⟨Reg.BSN_TS_EPOCH_LO b, 31, 0⟩
def Reg.BSN_TS_EPOCH_HI (b : Nat) : Nat := 0x0500000 + b * 0x1000 + 0x184
def F.BSN_TS_EPOCH_HI_FRAC (b : Nat) : Fld := ⟨Reg.BSN_TS_EPOCH_HI b, 7, 0⟩
def F.BSN_TS_EPOCH_HI_VALID (b : Nat) : Fld := ⟨Reg.BSN_TS_EPOCH_HI b, 8, 8⟩
def Reg.BSN_TS_STAT (b : Nat) : Nat := 0x0500000 + b * 0x1000 + 0x188
def F.BSN_TS_STAT_TSET_NOW (b : Nat) : Fld := ⟨Reg.BSN_TS_STAT b, 3, 0⟩
def F.BSN_TS_STAT_SWITCHES (b : Nat) : Fld := ⟨Reg.BSN_TS_STAT b, 31, 16⟩
def Reg.BSN_TS_EXT_LO (b : Nat) : Nat := 0x0500000 + b * 0x1000 + 0x190
def F.BSN_TS_EXT_LO_EXT (b : Nat) : Fld := ⟨Reg.BSN_TS_EXT_LO b, 31, 0⟩
def Reg.BSN_TS_EXT_HI (b : Nat) : Nat := 0x0500000 + b * 0x1000 + 0x194
def F.BSN_TS_EXT_HI_EXT (b : Nat) : Fld := ⟨Reg.BSN_TS_EXT_HI b, 31, 0⟩

/-! Table 6.10 (06_pin_front_end). -/

def Reg.PIN_FE_CTL (p : Nat) : Nat := 0x0100000 + p / 16 * 0x10000 + p % 16 * 0x800 + 0x100
def F.PIN_FE_CTL_CMP_TERM (p : Nat) : Fld := ⟨Reg.PIN_FE_CTL p, 0, 0⟩
def Reg.PIN_FE_STAT (p : Nat) : Nat := 0x0100000 + p / 16 * 0x10000 + p % 16 * 0x800 + 0x104
def F.PIN_FE_STAT_SAFE (p : Nat) : Fld := ⟨Reg.PIN_FE_STAT p, 0, 0⟩
def F.PIN_FE_STAT_CLEARED (p : Nat) : Fld := ⟨Reg.PIN_FE_STAT p, 1, 1⟩
def F.PIN_FE_STAT_LVL_CLAMP (p : Nat) : Fld := ⟨Reg.PIN_FE_STAT p, 2, 2⟩
def F.PIN_FE_STAT_SWING_CLAMP (p : Nat) : Fld := ⟨Reg.PIN_FE_STAT p, 3, 3⟩
def F.PIN_FE_STAT_OT (p : Nat) : Fld := ⟨Reg.PIN_FE_STAT p, 4, 4⟩
def F.PIN_FE_STAT_ROLE (p : Nat) : Fld := ⟨Reg.PIN_FE_STAT p, 6, 5⟩
def F.PIN_FE_STAT_SETTLE (p : Nat) : Fld := ⟨Reg.PIN_FE_STAT p, 31, 16⟩
def Reg.PIN_LVL_STG (p : Nat) (c : Nat) : Nat := 0x0100000 + p / 16 * 0x10000 + p % 16 * 0x800 + 0x110 + c * 0x4
def F.PIN_LVL_STG_CODE (p : Nat) (c : Nat) : Fld := ⟨Reg.PIN_LVL_STG p c, 15, 0⟩
def Reg.PIN_LVL_ACT (p : Nat) (c : Nat) : Nat := 0x0100000 + p / 16 * 0x10000 + p % 16 * 0x800 + 0x128 + c * 0x4
def F.PIN_LVL_ACT_CODE (p : Nat) (c : Nat) : Fld := ⟨Reg.PIN_LVL_ACT p c, 15, 0⟩
def Reg.PIN_LVL_CLR (p : Nat) (c : Nat) : Nat := 0x0100000 + p / 16 * 0x10000 + p % 16 * 0x800 + 0x140 + c * 0x4
def F.PIN_LVL_CLR_CODE (p : Nat) (c : Nat) : Fld := ⟨Reg.PIN_LVL_CLR p c, 15, 0⟩
def Reg.PIN_PMU_CTL (p : Nat) : Nat := 0x0100000 + p / 16 * 0x10000 + p % 16 * 0x800 + 0x160
def F.PIN_PMU_CTL_ENABLE (p : Nat) : Fld := ⟨Reg.PIN_PMU_CTL p, 0, 0⟩
def F.PIN_PMU_CTL_MODE (p : Nat) : Fld := ⟨Reg.PIN_PMU_CTL p, 2, 1⟩
def F.PIN_PMU_CTL_RANGE (p : Nat) : Fld := ⟨Reg.PIN_PMU_CTL p, 5, 3⟩
def F.PIN_PMU_CTL_TONE_EN (p : Nat) : Fld := ⟨Reg.PIN_PMU_CTL p, 6, 6⟩
def F.PIN_PMU_CTL_TONE (p : Nat) : Fld := ⟨Reg.PIN_PMU_CTL p, 8, 7⟩
def Reg.PIN_PMU_AMP (p : Nat) : Nat := 0x0100000 + p / 16 * 0x10000 + p % 16 * 0x800 + 0x164
def F.PIN_PMU_AMP_AMP (p : Nat) : Fld := ⟨Reg.PIN_PMU_AMP p, 15, 0⟩
def Reg.PIN_PMU_STAT (p : Nat) : Nat := 0x0100000 + p / 16 * 0x10000 + p % 16 * 0x800 + 0x168
def F.PIN_PMU_STAT_CONNECTED (p : Nat) : Fld := ⟨Reg.PIN_PMU_STAT p, 0, 0⟩
def F.PIN_PMU_STAT_PENDING (p : Nat) : Fld := ⟨Reg.PIN_PMU_STAT p, 1, 1⟩
def F.PIN_PMU_STAT_SHUTTING (p : Nat) : Fld := ⟨Reg.PIN_PMU_STAT p, 2, 2⟩
def F.PIN_PMU_STAT_RANGE_CHG (p : Nat) : Fld := ⟨Reg.PIN_PMU_STAT p, 3, 3⟩
def F.PIN_PMU_STAT_CLAMP (p : Nat) : Fld := ⟨Reg.PIN_PMU_STAT p, 4, 4⟩
def F.PIN_PMU_STAT_CLAMP_HIT (p : Nat) : Fld := ⟨Reg.PIN_PMU_STAT p, 5, 5⟩
def F.PIN_PMU_STAT_REFUSED (p : Nat) : Fld := ⟨Reg.PIN_PMU_STAT p, 6, 6⟩
def F.PIN_PMU_STAT_RANGE_NOW (p : Nat) : Fld := ⟨Reg.PIN_PMU_STAT p, 10, 8⟩
def F.PIN_PMU_STAT_MODE_NOW (p : Nat) : Fld := ⟨Reg.PIN_PMU_STAT p, 12, 11⟩

/-! Table 6.11 (06_pin_front_end). -/

def Reg.BSN_LVL_LOAD (b : Nat) : Nat := 0x0500000 + b * 0x1000 + 0x200
def F.BSN_LVL_LOAD_LOAD (b : Nat) : Fld := ⟨Reg.BSN_LVL_LOAD b, 0, 0⟩
def Reg.BSN_LVL_STAT (b : Nat) : Nat := 0x0500000 + b * 0x1000 + 0x204
def F.BSN_LVL_STAT_LOAD_CNT (b : Nat) : Fld := ⟨Reg.BSN_LVL_STAT b, 15, 0⟩
def F.BSN_LVL_STAT_SETTLING (b : Nat) : Fld := ⟨Reg.BSN_LVL_STAT b, 16, 16⟩
def F.BSN_LVL_STAT_IGNORED (b : Nat) : Fld := ⟨Reg.BSN_LVL_STAT b, 17, 17⟩
def Reg.BSN_LVL_LAST_LO (b : Nat) : Nat := 0x0500000 + b * 0x1000 + 0x208
def F.BSN_LVL_LAST_LO_NS (b : Nat) : Fld := ⟨Reg.BSN_LVL_LAST_LO b, 31, 0⟩
def Reg.BSN_LVL_LAST_HI (b : Nat) : Nat := 0x0500000 + b * 0x1000 + 0x20C
def F.BSN_LVL_LAST_HI_FRAC (b : Nat) : Fld := ⟨Reg.BSN_LVL_LAST_HI b, 7, 0⟩

/-! Table 6.12 (06_pin_front_end). -/

def Reg.TRB_FE_STAT (t : Nat) : Nat := 0x0100000 + t * 0x10000 + 0x8000
def F.TRB_FE_STAT_OT (t : Nat) : Fld := ⟨Reg.TRB_FE_STAT t, 0, 0⟩
def F.TRB_FE_STAT_OT_HIT (t : Nat) : Fld := ⟨Reg.TRB_FE_STAT t, 1, 1⟩
def F.TRB_FE_STAT_TEMP (t : Nat) : Fld := ⟨Reg.TRB_FE_STAT t, 27, 16⟩

/-! Table 6.13 (06_pin_front_end). -/

def Reg.GLB_CLR_STAT : Nat := 0x0000120
def F.GLB_CLR_STAT_LEVEL : Fld := ⟨Reg.GLB_CLR_STAT, 0, 0⟩
def F.GLB_CLR_STAT_HIT : Fld := ⟨Reg.GLB_CLR_STAT, 1, 1⟩
def F.GLB_CLR_STAT_COUNT : Fld := ⟨Reg.GLB_CLR_STAT, 31, 16⟩

/-! Table 7.9 (07_gauge_capture). -/

def Reg.PIN_GAU_CTL (p : Nat) : Nat := 0x0100000 + p / 16 * 0x10000 + p % 16 * 0x800 + 0x180
def F.PIN_GAU_CTL_MASK (p : Nat) : Fld := ⟨Reg.PIN_GAU_CTL p, 0, 0⟩
def F.PIN_GAU_CTL_SET (p : Nat) : Fld := ⟨Reg.PIN_GAU_CTL p, 4, 1⟩
def F.PIN_GAU_CTL_PAT (p : Nat) : Fld := ⟨Reg.PIN_GAU_CTL p, 5, 5⟩
def Reg.PIN_GAU_FAIL (p : Nat) : Nat := 0x0100000 + p / 16 * 0x10000 + p % 16 * 0x800 + 0x184
def F.PIN_GAU_FAIL_COUNT (p : Nat) : Fld := ⟨Reg.PIN_GAU_FAIL p, 31, 0⟩
def Reg.PIN_GAU_FFV_LO (p : Nat) : Nat := 0x0100000 + p / 16 * 0x10000 + p % 16 * 0x800 + 0x188
def F.PIN_GAU_FFV_LO_VCNT (p : Nat) : Fld := ⟨Reg.PIN_GAU_FFV_LO p, 31, 0⟩
def Reg.PIN_GAU_FFV_HI (p : Nat) : Nat := 0x0100000 + p / 16 * 0x10000 + p % 16 * 0x800 + 0x18C
def F.PIN_GAU_FFV_HI_VCNT (p : Nat) : Fld := ⟨Reg.PIN_GAU_FFV_HI p, 31, 0⟩
def Reg.PIN_GAU_CMP (p : Nat) : Nat := 0x0100000 + p / 16 * 0x10000 + p % 16 * 0x800 + 0x190
def F.PIN_GAU_CMP_L (p : Nat) : Fld := ⟨Reg.PIN_GAU_CMP p, 0, 0⟩
def F.PIN_GAU_CMP_H (p : Nat) : Fld := ⟨Reg.PIN_GAU_CMP p, 1, 1⟩

/-! Table 7.10 (07_gauge_capture). -/

def Reg.TSQ_CTL (q : Nat) : Nat := Reg.tsqBase q + 0x0
def F.TSQ_CTL_ENABLE (q : Nat) : Fld := ⟨Reg.TSQ_CTL q, 0, 0⟩
def Reg.TSQ_STAT (q : Nat) : Nat := Reg.tsqBase q + 0x4
def F.TSQ_STAT_STATE (q : Nat) : Fld := ⟨Reg.TSQ_STAT q, 2, 0⟩
def F.TSQ_STAT_PENDING (q : Nat) : Fld := ⟨Reg.TSQ_STAT q, 3, 3⟩
def F.TSQ_STAT_RUNNING (q : Nat) : Fld := ⟨Reg.TSQ_STAT q, 4, 4⟩
def F.TSQ_STAT_REFUSED (q : Nat) : Fld := ⟨Reg.TSQ_STAT q, 5, 5⟩
def F.TSQ_STAT_WRITE_IGNORED (q : Nat) : Fld := ⟨Reg.TSQ_STAT q, 6, 6⟩
def F.TSQ_STAT_OUT (q : Nat) : Fld := ⟨Reg.TSQ_STAT q, 7, 7⟩
def F.TSQ_STAT_ERR_STATE (q : Nat) : Fld := ⟨Reg.TSQ_STAT q, 10, 8⟩
def F.TSQ_STAT_SHUTTING (q : Nat) : Fld := ⟨Reg.TSQ_STAT q, 11, 11⟩
def Reg.TSQ_OCC (q : Nat) : Nat := Reg.tsqBase q + 0x8
def F.TSQ_OCC_OCC (q : Nat) : Fld := ⟨Reg.TSQ_OCC q, 31, 0⟩
def Reg.TSQ_TRIGS (q : Nat) : Nat := Reg.tsqBase q + 0xC
def F.TSQ_TRIGS_TRIGS (q : Nat) : Fld := ⟨Reg.TSQ_TRIGS q, 31, 0⟩
def Reg.TSQ_COND (q : Nat) (c : Nat) : Nat := Reg.tsqBase q + 0x40 + c * 0x10
def F.TSQ_COND_SEL (q : Nat) (c : Nat) : Fld := ⟨Reg.TSQ_COND q c, 3, 0⟩
def F.TSQ_COND_PARAM (q : Nat) (c : Nat) : Fld := ⟨Reg.TSQ_COND q c, 9, 4⟩
def F.TSQ_COND_NEXT_HIT (q : Nat) (c : Nat) : Fld := ⟨Reg.TSQ_COND q c, 12, 10⟩
def F.TSQ_COND_NEXT_TIME (q : Nat) (c : Nat) : Fld := ⟨Reg.TSQ_COND q c, 15, 13⟩
def F.TSQ_COND_OUT (q : Nat) (c : Nat) : Fld := ⟨Reg.TSQ_COND q c, 16, 16⟩
def F.TSQ_COND_TRIGGER (q : Nat) (c : Nat) : Fld := ⟨Reg.TSQ_COND q c, 17, 17⟩
def Reg.TSQ_COUNT (q : Nat) (c : Nat) : Nat := Reg.tsqBase q + 0x44 + c * 0x10
def F.TSQ_COUNT_COUNT (q : Nat) (c : Nat) : Fld := ⟨Reg.TSQ_COUNT q c, 31, 0⟩
def Reg.TSQ_TIMER (q : Nat) (c : Nat) : Nat := Reg.tsqBase q + 0x48 + c * 0x10
def F.TSQ_TIMER_TIMER (q : Nat) (c : Nat) : Fld := ⟨Reg.TSQ_TIMER q c, 31, 0⟩

/-! Table 7.11 (07_gauge_capture). -/

def Reg.BSN_CAP_CTL (b : Nat) : Nat := 0x0500000 + b * 0x1000 + 0x400
def F.BSN_CAP_CTL_ARM (b : Nat) : Fld := ⟨Reg.BSN_CAP_CTL b, 0, 0⟩
def F.BSN_CAP_CTL_FORCE_TRIG (b : Nat) : Fld := ⟨Reg.BSN_CAP_CTL b, 1, 1⟩
def F.BSN_CAP_CTL_RING_MODE (b : Nat) : Fld := ⟨Reg.BSN_CAP_CTL b, 2, 2⟩
def F.BSN_CAP_CTL_CHAIN (b : Nat) : Fld := ⟨Reg.BSN_CAP_CTL b, 3, 3⟩
def F.BSN_CAP_CTL_FORMAT (b : Nat) : Fld := ⟨Reg.BSN_CAP_CTL b, 5, 4⟩
def Reg.BSN_CAP_PRE (b : Nat) : Nat := 0x0500000 + b * 0x1000 + 0x404
def F.BSN_CAP_PRE_PRE (b : Nat) : Fld := ⟨Reg.BSN_CAP_PRE b, 12, 0⟩
def Reg.BSN_CAP_POST (b : Nat) : Nat := 0x0500000 + b * 0x1000 + 0x408
def F.BSN_CAP_POST_POST (b : Nat) : Fld := ⟨Reg.BSN_CAP_POST b, 31, 0⟩
def Reg.BSN_CAP_SEG (b : Nat) : Nat := 0x0500000 + b * 0x1000 + 0x40C
def F.BSN_CAP_SEG_SEG_LOG2 (b : Nat) : Fld := ⟨Reg.BSN_CAP_SEG b, 4, 0⟩
def Reg.BSN_CAP_RECS (b : Nat) : Nat := 0x0500000 + b * 0x1000 + 0x410
def F.BSN_CAP_RECS_RECORDS (b : Nat) : Fld := ⟨Reg.BSN_CAP_RECS b, 31, 0⟩
def Reg.BSN_CAP_STAT (b : Nat) : Nat := 0x0500000 + b * 0x1000 + 0x414
def F.BSN_CAP_STAT_ARMED (b : Nat) : Fld := ⟨Reg.BSN_CAP_STAT b, 0, 0⟩
def F.BSN_CAP_STAT_PENDING (b : Nat) : Fld := ⟨Reg.BSN_CAP_STAT b, 1, 1⟩
def F.BSN_CAP_STAT_SHUTTING (b : Nat) : Fld := ⟨Reg.BSN_CAP_STAT b, 2, 2⟩
def F.BSN_CAP_STAT_OPEN (b : Nat) : Fld := ⟨Reg.BSN_CAP_STAT b, 3, 3⟩
def F.BSN_CAP_STAT_REARM (b : Nat) : Fld := ⟨Reg.BSN_CAP_STAT b, 4, 4⟩
def F.BSN_CAP_STAT_FULL (b : Nat) : Fld := ⟨Reg.BSN_CAP_STAT b, 5, 5⟩
def F.BSN_CAP_STAT_REFUSED (b : Nat) : Fld := ⟨Reg.BSN_CAP_STAT b, 6, 6⟩
def F.BSN_CAP_STAT_FORCE_IGNORED (b : Nat) : Fld := ⟨Reg.BSN_CAP_STAT b, 7, 7⟩
def F.BSN_CAP_STAT_RD_BAD (b : Nat) : Fld := ⟨Reg.BSN_CAP_STAT b, 8, 8⟩
def F.BSN_CAP_STAT_CFG_IGNORED (b : Nat) : Fld := ⟨Reg.BSN_CAP_STAT b, 9, 9⟩
def F.BSN_CAP_STAT_ARM_ERR (b : Nat) : Fld := ⟨Reg.BSN_CAP_STAT b, 23, 16⟩
def Reg.BSN_CAP_NSEG (b : Nat) : Nat := 0x0500000 + b * 0x1000 + 0x418
def F.BSN_CAP_NSEG_NSEG (b : Nat) : Fld := ⟨Reg.BSN_CAP_NSEG b, 20, 0⟩
def Reg.BSN_CAP_WR (b : Nat) : Nat := 0x0500000 + b * 0x1000 + 0x41C
def F.BSN_CAP_WR_WR (b : Nat) : Fld := ⟨Reg.BSN_CAP_WR b, 19, 0⟩
def Reg.BSN_CAP_RD (b : Nat) : Nat := 0x0500000 + b * 0x1000 + 0x420
def F.BSN_CAP_RD_RD (b : Nat) : Fld := ⟨Reg.BSN_CAP_RD b, 19, 0⟩
def Reg.BSN_CAP_SEQ (b : Nat) : Nat := 0x0500000 + b * 0x1000 + 0x424
def F.BSN_CAP_SEQ_RECORDS (b : Nat) : Fld := ⟨Reg.BSN_CAP_SEQ b, 31, 0⟩
def Reg.BSN_CAP_MISSED (b : Nat) : Nat := 0x0500000 + b * 0x1000 + 0x428
def F.BSN_CAP_MISSED_MISSED (b : Nat) : Fld := ⟨Reg.BSN_CAP_MISSED b, 31, 0⟩
def Reg.BSN_CAP_LOST_LO (b : Nat) : Nat := 0x0500000 + b * 0x1000 + 0x42C
def F.BSN_CAP_LOST_LO_LOST (b : Nat) : Fld := ⟨Reg.BSN_CAP_LOST_LO b, 31, 0⟩
def Reg.BSN_CAP_LOST_HI (b : Nat) : Nat := 0x0500000 + b * 0x1000 + 0x430
def F.BSN_CAP_LOST_HI_LOST (b : Nat) : Fld := ⟨Reg.BSN_CAP_LOST_HI b, 31, 0⟩
def Reg.BSN_CAP_UNITS (b : Nat) : Nat := 0x0500000 + b * 0x1000 + 0x434
def F.BSN_CAP_UNITS_LANE_UNITS (b : Nat) : Fld := ⟨Reg.BSN_CAP_UNITS b, 31, 0⟩
def Reg.BSN_CAP_GEOM (b : Nat) : Nat := 0x0500000 + b * 0x1000 + 0x438
def F.BSN_CAP_GEOM_LANES (b : Nat) : Fld := ⟨Reg.BSN_CAP_GEOM b, 6, 0⟩
def F.BSN_CAP_GEOM_SEGS_PER_REC (b : Nat) : Fld := ⟨Reg.BSN_CAP_GEOM b, 31, 16⟩
def Reg.BSN_CAP_OVWR (b : Nat) : Nat := 0x0500000 + b * 0x1000 + 0x43C
def F.BSN_CAP_OVWR_OVWR (b : Nat) : Fld := ⟨Reg.BSN_CAP_OVWR b, 31, 0⟩
def Reg.BSN_GAU_FAILS (b : Nat) : Nat := 0x0500000 + b * 0x1000 + 0x440
def F.BSN_GAU_FAILS_COUNT (b : Nat) : Fld := ⟨Reg.BSN_GAU_FAILS b, 31, 0⟩
def Reg.BSN_GAU_FAILVEC (b : Nat) : Nat := 0x0500000 + b * 0x1000 + 0x444
def F.BSN_GAU_FAILVEC_COUNT (b : Nat) : Fld := ⟨Reg.BSN_GAU_FAILVEC b, 31, 0⟩
def Reg.BSN_GAU_FIRST (b : Nat) : Nat := 0x0500000 + b * 0x1000 + 0x448
def F.BSN_GAU_FIRST_PIN (b : Nat) : Fld := ⟨Reg.BSN_GAU_FIRST b, 9, 0⟩
def F.BSN_GAU_FIRST_VALID (b : Nat) : Fld := ⟨Reg.BSN_GAU_FIRST b, 10, 10⟩
def Reg.BSN_GAU_FFV_LO (b : Nat) : Nat := 0x0500000 + b * 0x1000 + 0x44C
def F.BSN_GAU_FFV_LO_VCNT (b : Nat) : Fld := ⟨Reg.BSN_GAU_FFV_LO b, 31, 0⟩
def Reg.BSN_GAU_FFV_HI (b : Nat) : Nat := 0x0500000 + b * 0x1000 + 0x450
def F.BSN_GAU_FFV_HI_VCNT (b : Nat) : Fld := ⟨Reg.BSN_GAU_FFV_HI b, 31, 0⟩
def Reg.BSN_CAP_OCC (b : Nat) : Nat := 0x0500000 + b * 0x1000 + 0x454
def F.BSN_CAP_OCC_OCC (b : Nat) : Fld := ⟨Reg.BSN_CAP_OCC b, 20, 0⟩

/-! Table 7.12 (07_gauge_capture). -/

def Reg.TRB_GAU_DRAIN (t : Nat) : Nat := 0x0100000 + t * 0x10000 + 0x9000
def F.TRB_GAU_DRAIN_LEVEL (t : Nat) : Fld := ⟨Reg.TRB_GAU_DRAIN t, 11, 0⟩
def F.TRB_GAU_DRAIN_PEAK (t : Nat) : Fld := ⟨Reg.TRB_GAU_DRAIN t, 27, 16⟩
def Reg.TRB_GAU_HIST (t : Nat) : Nat := 0x0100000 + t * 0x10000 + 0x9004
def F.TRB_GAU_HIST_USED (t : Nat) : Fld := ⟨Reg.TRB_GAU_HIST t, 9, 0⟩
def Reg.TRB_GAU_OVF (t : Nat) : Nat := 0x0100000 + t * 0x10000 + 0x9008
def F.TRB_GAU_OVF_COUNT (t : Nat) : Fld := ⟨Reg.TRB_GAU_OVF t, 15, 0⟩
def Reg.GAU_SEG_USED : Nat := 0x0600000
def F.GAU_SEG_USED_SEGS : Fld := ⟨Reg.GAU_SEG_USED, 20, 0⟩
def Reg.GAU_IO_LEVEL : Nat := 0x0600004
def F.GAU_IO_LEVEL_TRIG : Fld := ⟨Reg.GAU_IO_LEVEL, 15, 0⟩
def F.GAU_IO_LEVEL_LDAC : Fld := ⟨Reg.GAU_IO_LEVEL, 19, 16⟩

/-! Table 8.5 (08_tones_delta). -/

def Reg.TON_CTL (b : Nat) (c : Nat) : Nat := 0x0500000 + b * 0x1000 + 0x500 + c * 0x20
def F.TON_CTL_ENABLE (b : Nat) (c : Nat) : Fld := ⟨Reg.TON_CTL b c, 0, 0⟩
def F.TON_CTL_MODE (b : Nat) (c : Nat) : Fld := ⟨Reg.TON_CTL b c, 1, 1⟩
def F.TON_CTL_APPLY (b : Nat) (c : Nat) : Fld := ⟨Reg.TON_CTL b c, 2, 2⟩
def Reg.TON_STAT (b : Nat) (c : Nat) : Nat := 0x0500000 + b * 0x1000 + 0x504 + c * 0x20
def F.TON_STAT_RUNNING (b : Nat) (c : Nat) : Fld := ⟨Reg.TON_STAT b c, 0, 0⟩
def F.TON_STAT_PENDING (b : Nat) (c : Nat) : Fld := ⟨Reg.TON_STAT b c, 1, 1⟩
def F.TON_STAT_SHUTTING (b : Nat) (c : Nat) : Fld := ⟨Reg.TON_STAT b c, 2, 2⟩
def F.TON_STAT_STAGED (b : Nat) (c : Nat) : Fld := ⟨Reg.TON_STAT b c, 3, 3⟩
def F.TON_STAT_CHANGES (b : Nat) (c : Nat) : Fld := ⟨Reg.TON_STAT b c, 31, 16⟩
def Reg.TON_FTW_LO (b : Nat) (c : Nat) : Nat := 0x0500000 + b * 0x1000 + 0x508 + c * 0x20
def F.TON_FTW_LO_FTW (b : Nat) (c : Nat) : Fld := ⟨Reg.TON_FTW_LO b c, 31, 0⟩
def Reg.TON_FTW_HI (b : Nat) (c : Nat) : Nat := 0x0500000 + b * 0x1000 + 0x50C + c * 0x20
def F.TON_FTW_HI_FTW (b : Nat) (c : Nat) : Fld := ⟨Reg.TON_FTW_HI b c, 14, 0⟩
def Reg.TON_POFF_LO (b : Nat) (c : Nat) : Nat := 0x0500000 + b * 0x1000 + 0x510 + c * 0x20
def F.TON_POFF_LO_POFF (b : Nat) (c : Nat) : Fld := ⟨Reg.TON_POFF_LO b c, 31, 0⟩
def Reg.TON_POFF_HI (b : Nat) (c : Nat) : Nat := 0x0500000 + b * 0x1000 + 0x514 + c * 0x20
def F.TON_POFF_HI_POFF (b : Nat) (c : Nat) : Fld := ⟨Reg.TON_POFF_HI b c, 15, 0⟩
def Reg.TON_PH_LO (b : Nat) (c : Nat) : Nat := 0x0500000 + b * 0x1000 + 0x518 + c * 0x20
def F.TON_PH_LO_PHASE (b : Nat) (c : Nat) : Fld := ⟨Reg.TON_PH_LO b c, 31, 0⟩
def Reg.TON_PH_HI (b : Nat) (c : Nat) : Nat := 0x0500000 + b * 0x1000 + 0x51C + c * 0x20
def F.TON_PH_HI_PHASE (b : Nat) (c : Nat) : Fld := ⟨Reg.TON_PH_HI b c, 15, 0⟩

/-! Table 8.6 (08_tones_delta). -/

def Reg.DLT_CTL (t : Nat) : Nat := 0x0100000 + t * 0x10000 + 0xA000
def F.DLT_CTL_ENABLE (t : Nat) : Fld := ⟨Reg.DLT_CTL t, 0, 0⟩
def F.DLT_CTL_LEVELS (t : Nat) : Fld := ⟨Reg.DLT_CTL t, 1, 1⟩
def F.DLT_CTL_SRC (t : Nat) : Fld := ⟨Reg.DLT_CTL t, 2, 2⟩
def F.DLT_CTL_TONE (t : Nat) : Fld := ⟨Reg.DLT_CTL t, 4, 3⟩
def Reg.DLT_GAIN (t : Nat) : Nat := 0x0100000 + t * 0x10000 + 0xA004
def F.DLT_GAIN_GAIN (t : Nat) : Fld := ⟨Reg.DLT_GAIN t, 15, 0⟩
def F.DLT_GAIN_OFFSET (t : Nat) : Fld := ⟨Reg.DLT_GAIN t, 31, 16⟩
def Reg.DLT_RATE (t : Nat) : Nat := 0x0100000 + t * 0x10000 + 0xA008
def F.DLT_RATE_DIV (t : Nat) : Fld := ⟨Reg.DLT_RATE t, 15, 0⟩
def Reg.DLT_STAT (t : Nat) : Nat := 0x0100000 + t * 0x10000 + 0xA00C
def F.DLT_STAT_RUNNING (t : Nat) : Fld := ⟨Reg.DLT_STAT t, 0, 0⟩
def F.DLT_STAT_PENDING (t : Nat) : Fld := ⟨Reg.DLT_STAT t, 1, 1⟩
def F.DLT_STAT_SHUTTING (t : Nat) : Fld := ⟨Reg.DLT_STAT t, 2, 2⟩
def F.DLT_STAT_CLAMP (t : Nat) : Fld := ⟨Reg.DLT_STAT t, 3, 3⟩
def F.DLT_STAT_CLAMP_HIT (t : Nat) : Fld := ⟨Reg.DLT_STAT t, 4, 4⟩
def F.DLT_STAT_RATE_REFUSED (t : Nat) : Fld := ⟨Reg.DLT_STAT t, 5, 5⟩
def F.DLT_STAT_SAMPLING (t : Nat) : Fld := ⟨Reg.DLT_STAT t, 6, 6⟩
def F.DLT_STAT_DRY (t : Nat) : Fld := ⟨Reg.DLT_STAT t, 7, 7⟩
def F.DLT_STAT_ASSIGNED (t : Nat) : Fld := ⟨Reg.DLT_STAT t, 8, 8⟩
def F.DLT_STAT_CFG_IGNORED (t : Nat) : Fld := ⟨Reg.DLT_STAT t, 9, 9⟩
def F.DLT_STAT_FIFO (t : Nat) : Fld := ⟨Reg.DLT_STAT t, 28, 16⟩
def Reg.DLT_OWNER (t : Nat) : Nat := 0x0100000 + t * 0x10000 + 0xA010
def F.DLT_OWNER_BASIN (t : Nat) : Fld := ⟨Reg.DLT_OWNER t, 7, 0⟩
def F.DLT_OWNER_PIN (t : Nat) : Fld := ⟨Reg.DLT_OWNER t, 17, 8⟩
def Reg.DLT_SHORT (t : Nat) : Nat := 0x0100000 + t * 0x10000 + 0xA014
def F.DLT_SHORT_COUNT (t : Nat) : Fld := ⟨Reg.DLT_SHORT t, 31, 0⟩

/-! Table 9.8 (09_digitizers). -/

def Reg.ADC_REF_VAL : Nat := 0x00C0000
def F.ADC_REF_VAL_UV : Fld := ⟨Reg.ADC_REF_VAL, 31, 0⟩
def Reg.ADC_FLAGS_LO : Nat := 0x00C0004
def F.ADC_FLAGS_LO_FLAG : Fld := ⟨Reg.ADC_FLAGS_LO, 31, 0⟩
def Reg.ADC_FLAGS_HI : Nat := 0x00C0008
def F.ADC_FLAGS_HI_FLAG : Fld := ⟨Reg.ADC_FLAGS_HI, 3, 0⟩
def Reg.ADC_PLS_SUM : Nat := 0x00C000C
def F.ADC_PLS_SUM_FAIL : Fld := ⟨Reg.ADC_PLS_SUM, 15, 0⟩

/-! Table 9.9 (09_digitizers). -/

def Reg.ADC_CTL (k : Nat) : Nat := 0x00C1000 + k * 0x200 + 0x0
def F.ADC_CTL_ENABLE (k : Nat) : Fld := ⟨Reg.ADC_CTL k, 0, 0⟩
def F.ADC_CTL_RUN (k : Nat) : Fld := ⟨Reg.ADC_CTL k, 1, 1⟩
def F.ADC_CTL_SRC (k : Nat) : Fld := ⟨Reg.ADC_CTL k, 3, 2⟩
def F.ADC_CTL_START (k : Nat) : Fld := ⟨Reg.ADC_CTL k, 4, 4⟩
def F.ADC_CTL_BASIN (k : Nat) : Fld := ⟨Reg.ADC_CTL k, 15, 8⟩
def Reg.ADC_STAT (k : Nat) : Nat := 0x00C1000 + k * 0x200 + 0x4
def F.ADC_STAT_POWERED (k : Nat) : Fld := ⟨Reg.ADC_STAT k, 0, 0⟩
def F.ADC_STAT_PENDING (k : Nat) : Fld := ⟨Reg.ADC_STAT k, 1, 1⟩
def F.ADC_STAT_SHUTTING (k : Nat) : Fld := ⟨Reg.ADC_STAT k, 2, 2⟩
def F.ADC_STAT_READY (k : Nat) : Fld := ⟨Reg.ADC_STAT k, 3, 3⟩
def F.ADC_STAT_SCAN_RUN (k : Nat) : Fld := ⟨Reg.ADC_STAT k, 4, 4⟩
def F.ADC_STAT_SCAN_PENDING (k : Nat) : Fld := ⟨Reg.ADC_STAT k, 5, 5⟩
def F.ADC_STAT_SCAN_SHUTTING (k : Nat) : Fld := ⟨Reg.ADC_STAT k, 6, 6⟩
def F.ADC_STAT_SCANNING (k : Nat) : Fld := ⟨Reg.ADC_STAT k, 7, 7⟩
def F.ADC_STAT_REFUSED (k : Nat) : Fld := ⟨Reg.ADC_STAT k, 8, 8⟩
def F.ADC_STAT_MISSED (k : Nat) : Fld := ⟨Reg.ADC_STAT k, 9, 9⟩
def F.ADC_STAT_CFG_IGNORED (k : Nat) : Fld := ⟨Reg.ADC_STAT k, 10, 10⟩
def F.ADC_STAT_DEGRADED (k : Nat) : Fld := ⟨Reg.ADC_STAT k, 11, 11⟩
def F.ADC_STAT_ERR (k : Nat) : Fld := ⟨Reg.ADC_STAT k, 14, 12⟩
def F.ADC_STAT_SCANS (k : Nat) : Fld := ⟨Reg.ADC_STAT k, 31, 16⟩
def Reg.ADC_MASK_LO (k : Nat) : Nat := 0x00C1000 + k * 0x200 + 0x8
def F.ADC_MASK_LO_MASK (k : Nat) : Fld := ⟨Reg.ADC_MASK_LO k, 31, 0⟩
def Reg.ADC_MASK_HI (k : Nat) : Nat := 0x00C1000 + k * 0x200 + 0xC
def F.ADC_MASK_HI_MASK (k : Nat) : Fld := ⟨Reg.ADC_MASK_HI k, 7, 0⟩
def Reg.ADC_DWELL (k : Nat) : Nat := 0x00C1000 + k * 0x200 + 0x10
def F.ADC_DWELL_DWELL_M1 (k : Nat) : Fld := ⟨Reg.ADC_DWELL k, 15, 0⟩
def F.ADC_DWELL_DELAY (k : Nat) : Fld := ⟨Reg.ADC_DWELL k, 31, 16⟩
def Reg.ADC_PERIOD (k : Nat) : Nat := 0x00C1000 + k * 0x200 + 0x14
def F.ADC_PERIOD_PERIOD (k : Nat) : Fld := ⟨Reg.ADC_PERIOD k, 15, 0⟩
def Reg.ADC_THR (k : Nat) : Nat := 0x00C1000 + k * 0x200 + 0x18
def F.ADC_THR_INPUT (k : Nat) : Fld := ⟨Reg.ADC_THR k, 5, 0⟩
def F.ADC_THR_EN (k : Nat) : Fld := ⟨Reg.ADC_THR k, 6, 6⟩
def F.ADC_THR_FLAG (k : Nat) : Fld := ⟨Reg.ADC_THR k, 7, 7⟩
def Reg.ADC_THR_LIM (k : Nat) : Nat := 0x00C1000 + k * 0x200 + 0x1C
def F.ADC_THR_LIM_LO (k : Nat) : Fld := ⟨Reg.ADC_THR_LIM k, 15, 0⟩
def F.ADC_THR_LIM_HI (k : Nat) : Fld := ⟨Reg.ADC_THR_LIM k, 31, 16⟩
def Reg.ADC_FIFO_LO (k : Nat) : Nat := 0x00C1000 + k * 0x200 + 0x20
def F.ADC_FIFO_LO_TS_NS (k : Nat) : Fld := ⟨Reg.ADC_FIFO_LO k, 31, 0⟩
def Reg.ADC_FIFO_HI (k : Nat) : Nat := 0x00C1000 + k * 0x200 + 0x24
def F.ADC_FIFO_HI_ENTRY (k : Nat) : Fld := ⟨Reg.ADC_FIFO_HI k, 31, 0⟩
def Reg.ADC_FIFO_STAT (k : Nat) : Nat := 0x00C1000 + k * 0x200 + 0x28
def F.ADC_FIFO_STAT_LEVEL (k : Nat) : Fld := ⟨Reg.ADC_FIFO_STAT k, 10, 0⟩
def F.ADC_FIFO_STAT_DROPPED (k : Nat) : Fld := ⟨Reg.ADC_FIFO_STAT k, 31, 16⟩
def Reg.ADC_CAL (k : Nat) : Nat := 0x00C1000 + k * 0x200 + 0x2C
def F.ADC_CAL_POS (k : Nat) : Fld := ⟨Reg.ADC_CAL k, 3, 0⟩
def F.ADC_CAL_RETIRED (k : Nat) : Fld := ⟨Reg.ADC_CAL k, 7, 4⟩
def F.ADC_CAL_ROUNDS (k : Nat) : Fld := ⟨Reg.ADC_CAL k, 31, 16⟩
def Reg.ADC_GAIN (k : Nat) : Nat := 0x00C1000 + k * 0x200 + 0x30
def F.ADC_GAIN_GAIN (k : Nat) : Fld := ⟨Reg.ADC_GAIN k, 15, 0⟩
def Reg.ADC_OFFS (k : Nat) : Nat := 0x00C1000 + k * 0x200 + 0x34
def F.ADC_OFFS_OFFS (k : Nat) : Fld := ⟨Reg.ADC_OFFS k, 15, 0⟩
def Reg.ADC_PLS_CTL (k : Nat) : Nat := 0x00C1000 + k * 0x200 + 0x40
def F.ADC_PLS_CTL_EN (k : Nat) : Fld := ⟨Reg.ADC_PLS_CTL k, 0, 0⟩
def F.ADC_PLS_CTL_WIN (k : Nat) : Fld := ⟨Reg.ADC_PLS_CTL k, 15, 1⟩
def F.ADC_PLS_CTL_LIMIT (k : Nat) : Fld := ⟨Reg.ADC_PLS_CTL k, 31, 16⟩
def Reg.ADC_PLS_STAT (k : Nat) : Nat := 0x00C1000 + k * 0x200 + 0x44
def F.ADC_PLS_STAT_DIFF (k : Nat) : Fld := ⟨Reg.ADC_PLS_STAT k, 15, 0⟩
def F.ADC_PLS_STAT_FAIL (k : Nat) : Fld := ⟨Reg.ADC_PLS_STAT k, 16, 16⟩
def F.ADC_PLS_STAT_SUSPECT (k : Nat) : Fld := ⟨Reg.ADC_PLS_STAT k, 17, 17⟩
def F.ADC_PLS_STAT_STALE (k : Nat) : Fld := ⟨Reg.ADC_PLS_STAT k, 31, 24⟩
def Reg.ADC_LAST (k : Nat) (c : Nat) : Nat := 0x00C1000 + k * 0x200 + 0x100 + c * 0x4
def F.ADC_LAST_VALUE (k : Nat) (c : Nat) : Fld := ⟨Reg.ADC_LAST k c, 15, 0⟩
def F.ADC_LAST_VALID (k : Nat) (c : Nat) : Fld := ⟨Reg.ADC_LAST k c, 16, 16⟩
def F.ADC_LAST_CLIP (k : Nat) (c : Nat) : Fld := ⟨Reg.ADC_LAST k c, 17, 17⟩
def F.ADC_LAST_SUSPECT (k : Nat) (c : Nat) : Fld := ⟨Reg.ADC_LAST k c, 18, 18⟩
def F.ADC_LAST_SCAN (k : Nat) (c : Nat) : Fld := ⟨Reg.ADC_LAST k c, 31, 24⟩

/-! Table 9.10 (09_digitizers). -/

def Reg.P_CTL (p : Nat) : Nat := 0x00C8000 + p * 0x100 + 0x0
def F.P_CTL_ENABLE (p : Nat) : Fld := ⟨Reg.P_CTL p, 0, 0⟩
def F.P_CTL_OSR (p : Nat) : Fld := ⟨Reg.P_CTL p, 2, 1⟩
def F.P_CTL_SRC (p : Nat) : Fld := ⟨Reg.P_CTL p, 3, 3⟩
def F.P_CTL_THR_EN (p : Nat) : Fld := ⟨Reg.P_CTL p, 4, 4⟩
def F.P_CTL_BUS_SEL (p : Nat) : Fld := ⟨Reg.P_CTL p, 26, 16⟩
def Reg.P_STAT (p : Nat) : Nat := 0x00C8000 + p * 0x100 + 0x4
def F.P_STAT_RUNNING (p : Nat) : Fld := ⟨Reg.P_STAT p, 0, 0⟩
def F.P_STAT_PENDING (p : Nat) : Fld := ⟨Reg.P_STAT p, 1, 1⟩
def F.P_STAT_SHUTTING (p : Nat) : Fld := ⟨Reg.P_STAT p, 2, 2⟩
def F.P_STAT_SETTLED (p : Nat) : Fld := ⟨Reg.P_STAT p, 3, 3⟩
def F.P_STAT_UNCAL (p : Nat) : Fld := ⟨Reg.P_STAT p, 4, 4⟩
def F.P_STAT_REFUSED (p : Nat) : Fld := ⟨Reg.P_STAT p, 5, 5⟩
def F.P_STAT_FLAG (p : Nat) : Fld := ⟨Reg.P_STAT p, 6, 6⟩
def F.P_STAT_RESULTS (p : Nat) : Fld := ⟨Reg.P_STAT p, 31, 16⟩
def Reg.P_RES_LO (p : Nat) : Nat := 0x00C8000 + p * 0x100 + 0x8
def F.P_RES_LO_VALUE (p : Nat) : Fld := ⟨Reg.P_RES_LO p, 23, 0⟩
def F.P_RES_LO_CLIP (p : Nat) : Fld := ⟨Reg.P_RES_LO p, 24, 24⟩
def Reg.P_RES_HI (p : Nat) : Nat := 0x00C8000 + p * 0x100 + 0xC
def F.P_RES_HI_TS_NS (p : Nat) : Fld := ⟨Reg.P_RES_HI p, 31, 0⟩
def Reg.P_GAIN (p : Nat) : Nat := 0x00C8000 + p * 0x100 + 0x10
def F.P_GAIN_GAIN (p : Nat) : Fld := ⟨Reg.P_GAIN p, 31, 0⟩
def Reg.P_OFFS (p : Nat) : Nat := 0x00C8000 + p * 0x100 + 0x14
def F.P_OFFS_OFFS (p : Nat) : Fld := ⟨Reg.P_OFFS p, 23, 0⟩
def Reg.P_THR_LO (p : Nat) : Nat := 0x00C8000 + p * 0x100 + 0x18
def F.P_THR_LO_LO (p : Nat) : Fld := ⟨Reg.P_THR_LO p, 23, 0⟩
def Reg.P_THR_HI (p : Nat) : Nat := 0x00C8000 + p * 0x100 + 0x1C
def F.P_THR_HI_HI (p : Nat) : Fld := ⟨Reg.P_THR_HI p, 23, 0⟩

/-! Table 10.12 (10_weir_scheduler). -/

def Reg.WEI_CTL : Nat := 0x0060000
def F.WEI_CTL_TRACE_EN : Fld := ⟨Reg.WEI_CTL, 0, 0⟩
def F.WEI_CTL_TRACE_MODE : Fld := ⟨Reg.WEI_CTL, 1, 1⟩
def Reg.WEI_STAT : Nat := 0x0060004
def F.WEI_STAT_DISPATCHING : Fld := ⟨Reg.WEI_STAT, 0, 0⟩
def F.WEI_STAT_TRACE_FULL : Fld := ⟨Reg.WEI_STAT, 1, 1⟩
def F.WEI_STAT_TRACE_CFG_BAD : Fld := ⟨Reg.WEI_STAT, 2, 2⟩
def F.WEI_STAT_CANCEL_LOST : Fld := ⟨Reg.WEI_STAT, 3, 3⟩
def F.WEI_STAT_DISP_LAST : Fld := ⟨Reg.WEI_STAT, 22, 16⟩
def F.WEI_STAT_DISP_PEAK : Fld := ⟨Reg.WEI_STAT, 30, 24⟩
def Reg.WEI_READY : Nat := 0x0060008
def F.WEI_READY_ONCHIP : Fld := ⟨Reg.WEI_READY, 14, 0⟩
def Reg.WEI_SPILLED : Nat := 0x006000C
def F.WEI_SPILLED_COUNT : Fld := ⟨Reg.WEI_SPILLED, 20, 0⟩
def Reg.WEI_CANCEL : Nat := 0x0060010
def F.WEI_CANCEL_CTX : Fld := ⟨Reg.WEI_CANCEL, 19, 0⟩
def F.WEI_CANCEL_ABORT : Fld := ⟨Reg.WEI_CANCEL, 20, 20⟩
def Reg.WEI_CANCEL_BASIN : Nat := 0x0060014
def F.WEI_CANCEL_BASIN_BASIN : Fld := ⟨Reg.WEI_CANCEL_BASIN, 7, 0⟩
def F.WEI_CANCEL_BASIN_ABORT : Fld := ⟨Reg.WEI_CANCEL_BASIN, 8, 8⟩
def Reg.WEI_CANCEL_STAT : Nat := 0x0060018
def F.WEI_CANCEL_STAT_RESULT : Fld := ⟨Reg.WEI_CANCEL_STAT, 1, 0⟩
def F.WEI_CANCEL_STAT_HELD : Fld := ⟨Reg.WEI_CANCEL_STAT, 2, 2⟩
def F.WEI_CANCEL_STAT_QUEUED : Fld := ⟨Reg.WEI_CANCEL_STAT, 8, 3⟩
def Reg.WEI_TRACE_BASE : Nat := 0x0060020
def F.WEI_TRACE_BASE_BASE : Fld := ⟨Reg.WEI_TRACE_BASE, 31, 0⟩
def Reg.WEI_TRACE_SIZE : Nat := 0x0060024
def F.WEI_TRACE_SIZE_LOG : Fld := ⟨Reg.WEI_TRACE_SIZE, 2, 0⟩
def Reg.WEI_TRACE_WR : Nat := 0x0060028
def F.WEI_TRACE_WR_IDX : Fld := ⟨Reg.WEI_TRACE_WR, 22, 0⟩
def Reg.WEI_TRACE_RD : Nat := 0x006002C
def F.WEI_TRACE_RD_IDX : Fld := ⟨Reg.WEI_TRACE_RD, 22, 0⟩
def Reg.WEI_TRACE_LOST : Nat := 0x0060030
def F.WEI_TRACE_LOST_COUNT : Fld := ⟨Reg.WEI_TRACE_LOST, 31, 0⟩
def Reg.WEI_TICK_LO : Nat := 0x0060038
def F.WEI_TICK_LO_TICK : Fld := ⟨Reg.WEI_TICK_LO, 31, 0⟩
def Reg.WEI_TICK_HI : Nat := 0x006003C
def F.WEI_TICK_HI_TICK : Fld := ⟨Reg.WEI_TICK_HI, 31, 0⟩

/-! Table 10.13 (10_weir_scheduler). -/

def Reg.BSN_WEI_STAT (b : Nat) : Nat := 0x0500000 + b * 0x1000 + 0x600
def F.BSN_WEI_STAT_DECK (b : Nat) : Fld := ⟨Reg.BSN_WEI_STAT b, 1, 0⟩
def F.BSN_WEI_STAT_PLAYING (b : Nat) : Fld := ⟨Reg.BSN_WEI_STAT b, 2, 2⟩
def F.BSN_WEI_STAT_PADDING (b : Nat) : Fld := ⟨Reg.BSN_WEI_STAT b, 3, 3⟩
def F.BSN_WEI_STAT_PACED (b : Nat) : Fld := ⟨Reg.BSN_WEI_STAT b, 4, 4⟩
def F.BSN_WEI_STAT_LISTS (b : Nat) : Fld := ⟨Reg.BSN_WEI_STAT b, 15, 8⟩
def Reg.BSN_WEI_RUN (b : Nat) : Nat := 0x0500000 + b * 0x1000 + 0x604
def F.BSN_WEI_RUN_CTX (b : Nat) : Fld := ⟨Reg.BSN_WEI_RUN b, 19, 0⟩
def F.BSN_WEI_RUN_VALID (b : Nat) : Fld := ⟨Reg.BSN_WEI_RUN b, 31, 31⟩
def Reg.BSN_WEI_DECK (b : Nat) : Nat := 0x0500000 + b * 0x1000 + 0x608
def F.BSN_WEI_DECK_CTX (b : Nat) : Fld := ⟨Reg.BSN_WEI_DECK b, 19, 0⟩
def F.BSN_WEI_DECK_VALID (b : Nat) : Fld := ⟨Reg.BSN_WEI_DECK b, 31, 31⟩
def Reg.BSN_WEI_COUNT (b : Nat) : Nat := 0x0500000 + b * 0x1000 + 0x60C
def F.BSN_WEI_COUNT_READY (b : Nat) : Fld := ⟨Reg.BSN_WEI_COUNT b, 12, 0⟩
def F.BSN_WEI_COUNT_DONE (b : Nat) : Fld := ⟨Reg.BSN_WEI_COUNT b, 31, 16⟩
def Reg.BSN_WEI_START_LO (b : Nat) : Nat := 0x0500000 + b * 0x1000 + 0x610
def F.BSN_WEI_START_LO_NS (b : Nat) : Fld := ⟨Reg.BSN_WEI_START_LO b, 31, 0⟩
def Reg.BSN_WEI_START_HI (b : Nat) : Nat := 0x0500000 + b * 0x1000 + 0x614
def F.BSN_WEI_START_HI_FRAC (b : Nat) : Fld := ⟨Reg.BSN_WEI_START_HI b, 7, 0⟩
def F.BSN_WEI_START_HI_CHAINED (b : Nat) : Fld := ⟨Reg.BSN_WEI_START_HI b, 8, 8⟩

/-! Table 11.11 (11_sluice_memory). -/

def Reg.SLC_CTL : Nat := 0x0070000
def F.SLC_CTL_SCRUB_EN : Fld := ⟨Reg.SLC_CTL, 0, 0⟩
def F.SLC_CTL_ASR_EN : Fld := ⟨Reg.SLC_CTL, 1, 1⟩
def Reg.SLC_STAT : Nat := 0x0070004
def F.SLC_STAT_AVAIL : Fld := ⟨Reg.SLC_STAT, 0, 0⟩
def F.SLC_STAT_OP : Fld := ⟨Reg.SLC_STAT, 2, 1⟩
def F.SLC_STAT_OP_BUSY : Fld := ⟨Reg.SLC_STAT, 3, 3⟩
def F.SLC_STAT_SR : Fld := ⟨Reg.SLC_STAT, 5, 4⟩
def F.SLC_STAT_STORM : Fld := ⟨Reg.SLC_STAT, 6, 6⟩
def F.SLC_STAT_OVER : Fld := ⟨Reg.SLC_STAT, 7, 7⟩
def F.SLC_STAT_RETRAIN : Fld := ⟨Reg.SLC_STAT, 8, 8⟩
def F.SLC_STAT_LANE_PEND : Fld := ⟨Reg.SLC_STAT, 9, 9⟩
def Reg.SLC_CAP : Nat := 0x0070008
def F.SLC_CAP_CAP_UNITS : Fld := ⟨Reg.SLC_CAP, 15, 0⟩
def F.SLC_CAP_DEMAND : Fld := ⟨Reg.SLC_CAP, 31, 16⟩
def Reg.SLC_PAGE : Nat := 0x007000C
def F.SLC_PAGE_IDLE : Fld := ⟨Reg.SLC_PAGE, 7, 0⟩
def Reg.SLC_ASR : Nat := 0x0070010
def F.SLC_ASR_IDLE : Fld := ⟨Reg.SLC_ASR, 15, 0⟩
def Reg.SLC_SCRUB : Nat := 0x0070014
def F.SLC_SCRUB_RATE : Fld := ⟨Reg.SLC_SCRUB, 7, 0⟩
def F.SLC_SCRUB_PASSES : Fld := ⟨Reg.SLC_SCRUB, 31, 16⟩
def Reg.SLC_SCRUB_POS_LO : Nat := 0x0070018
def F.SLC_SCRUB_POS_LO_ADDR : Fld := ⟨Reg.SLC_SCRUB_POS_LO, 31, 0⟩
def Reg.SLC_SCRUB_POS_HI : Nat := 0x007001C
def F.SLC_SCRUB_POS_HI_ADDR : Fld := ⟨Reg.SLC_SCRUB_POS_HI, 4, 0⟩
def Reg.SLC_ECC_CE : Nat := 0x0070020
def F.SLC_ECC_CE_COUNT : Fld := ⟨Reg.SLC_ECC_CE, 31, 0⟩
def Reg.SLC_ECC_RETRY : Nat := 0x0070024
def F.SLC_ECC_RETRY_COUNT : Fld := ⟨Reg.SLC_ECC_RETRY, 31, 0⟩
def Reg.SLC_ECC_UE : Nat := 0x0070028
def F.SLC_ECC_UE_COUNT : Fld := ⟨Reg.SLC_ECC_UE, 31, 0⟩
def Reg.SLC_ERR_LO : Nat := 0x007002C
def F.SLC_ERR_LO_ADDR : Fld := ⟨Reg.SLC_ERR_LO, 31, 0⟩
def Reg.SLC_ERR_HI : Nat := 0x0070030
def F.SLC_ERR_HI_ADDR : Fld := ⟨Reg.SLC_ERR_HI, 4, 0⟩
def F.SLC_ERR_HI_KIND : Fld := ⟨Reg.SLC_ERR_HI, 9, 8⟩
def F.SLC_ERR_HI_CLASS : Fld := ⟨Reg.SLC_ERR_HI, 11, 10⟩
def F.SLC_ERR_HI_PC : Fld := ⟨Reg.SLC_ERR_HI, 18, 12⟩
def Reg.SLC_REPAIR : Nat := 0x0070034
def F.SLC_REPAIR_ROWS : Fld := ⟨Reg.SLC_REPAIR, 7, 0⟩
def F.SLC_REPAIR_LANES : Fld := ⟨Reg.SLC_REPAIR, 15, 8⟩
def F.SLC_REPAIR_HARD_PEND : Fld := ⟨Reg.SLC_REPAIR, 23, 16⟩
def F.SLC_REPAIR_MIN_SPARE : Fld := ⟨Reg.SLC_REPAIR, 31, 24⟩
def Reg.SLC_TEMP : Nat := 0x0070038
def F.SLC_TEMP_T0 : Fld := ⟨Reg.SLC_TEMP, 11, 0⟩
def F.SLC_TEMP_T1 : Fld := ⟨Reg.SLC_TEMP, 27, 16⟩
def Reg.SLC_TRAIN : Nat := 0x007003C
def F.SLC_TRAIN_VALID : Fld := ⟨Reg.SLC_TRAIN, 2, 0⟩
def F.SLC_TRAIN_INBAND : Fld := ⟨Reg.SLC_TRAIN, 6, 4⟩
def Reg.SLC_USE (c : Nat) : Nat := 0x0070050 + c * 0x4
def F.SLC_USE_LAST (c : Nat) : Fld := ⟨Reg.SLC_USE c, 15, 0⟩
def F.SLC_USE_PEAK (c : Nat) : Fld := ⟨Reg.SLC_USE c, 31, 16⟩

/-! Table 12.9 (12_clocks_time). -/

def Reg.HDW_CTL : Nat := 0x0050000
def F.HDW_CTL_BW : Fld := ⟨Reg.HDW_CTL, 1, 0⟩
def Reg.HDW_STAT : Nat := 0x0050004
def F.HDW_STAT_LOCKED : Fld := ⟨Reg.HDW_STAT, 0, 0⟩
def F.HDW_STAT_REF_OK : Fld := ⟨Reg.HDW_STAT, 1, 1⟩
def F.HDW_STAT_REF_10M : Fld := ⟨Reg.HDW_STAT, 2, 2⟩
def F.HDW_STAT_HOLDOVER : Fld := ⟨Reg.HDW_STAT, 3, 3⟩
def F.HDW_STAT_ALIGNED : Fld := ⟨Reg.HDW_STAT, 4, 4⟩
def F.HDW_STAT_WALK : Fld := ⟨Reg.HDW_STAT, 5, 5⟩
def F.HDW_STAT_ARM_REFUSED : Fld := ⟨Reg.HDW_STAT, 6, 6⟩
def F.HDW_STAT_CFG_IGNORED : Fld := ⟨Reg.HDW_STAT, 7, 7⟩
def Reg.HDW_SYNC_CTL : Nat := 0x0050008
def F.HDW_SYNC_CTL_ARM : Fld := ⟨Reg.HDW_SYNC_CTL, 0, 0⟩
def F.HDW_SYNC_CTL_MONITOR : Fld := ⟨Reg.HDW_SYNC_CTL, 1, 1⟩
def F.HDW_SYNC_CTL_REALIGN : Fld := ⟨Reg.HDW_SYNC_CTL, 2, 2⟩
def Reg.HDW_SYNC_SKEW : Nat := 0x005000C
def F.HDW_SYNC_SKEW_SKEW : Fld := ⟨Reg.HDW_SYNC_SKEW, 23, 0⟩
def Reg.HDW_SYNC_DEV : Nat := 0x0050010
def F.HDW_SYNC_DEV_DEV : Fld := ⟨Reg.HDW_SYNC_DEV, 15, 0⟩
def F.HDW_SYNC_DEV_COUNT : Fld := ⟨Reg.HDW_SYNC_DEV, 31, 16⟩
def Reg.HDW_PHASE : Nat := 0x0050014
def F.HDW_PHASE_PHASE : Fld := ⟨Reg.HDW_PHASE, 15, 0⟩
def Reg.HDW_CKO_CTL (n : Nat) : Nat := 0x0050100 + n * 0x10 + 0x0
def F.HDW_CKO_CTL_ENABLE (n : Nat) : Fld := ⟨Reg.HDW_CKO_CTL n, 0, 0⟩
def F.HDW_CKO_CTL_FMT (n : Nat) : Fld := ⟨Reg.HDW_CKO_CTL n, 2, 1⟩
def F.HDW_CKO_CTL_AMP (n : Nat) : Fld := ⟨Reg.HDW_CKO_CTL n, 5, 3⟩
def F.HDW_CKO_CTL_DIV (n : Nat) : Fld := ⟨Reg.HDW_CKO_CTL n, 19, 8⟩
def Reg.HDW_CKO_PH (n : Nat) : Nat := 0x0050100 + n * 0x10 + 0x4
def F.HDW_CKO_PH_PH (n : Nat) : Fld := ⟨Reg.HDW_CKO_PH n, 20, 0⟩
def Reg.HDW_CKO_STAT (n : Nat) : Nat := 0x0050100 + n * 0x10 + 0x8
def F.HDW_CKO_STAT_RUNNING (n : Nat) : Fld := ⟨Reg.HDW_CKO_STAT n, 0, 0⟩
def F.HDW_CKO_STAT_PENDING (n : Nat) : Fld := ⟨Reg.HDW_CKO_STAT n, 1, 1⟩
def F.HDW_CKO_STAT_SHUTTING (n : Nat) : Fld := ⟨Reg.HDW_CKO_STAT n, 2, 2⟩
def F.HDW_CKO_STAT_REFUSED (n : Nat) : Fld := ⟨Reg.HDW_CKO_STAT n, 3, 3⟩
def F.HDW_CKO_STAT_CFG_IGNORED (n : Nat) : Fld := ⟨Reg.HDW_CKO_STAT n, 4, 4⟩
def F.HDW_CKO_STAT_WALK (n : Nat) : Fld := ⟨Reg.HDW_CKO_STAT n, 5, 5⟩

/-! Table 12.10 (12_clocks_time). -/

def Reg.TMB_CTL : Nat := 0x0040000
def F.TMB_CTL_APPLY_ARM : Fld := ⟨Reg.TMB_CTL, 0, 0⟩
def F.TMB_CTL_SYNC_LOAD : Fld := ⟨Reg.TMB_CTL, 1, 1⟩
def Reg.TMB_STAT : Nat := 0x0040004
def F.TMB_STAT_HALF : Fld := ⟨Reg.TMB_STAT, 0, 0⟩
def F.TMB_STAT_ARMED : Fld := ⟨Reg.TMB_STAT, 1, 1⟩
def F.TMB_STAT_LATE : Fld := ⟨Reg.TMB_STAT, 2, 2⟩
def F.TMB_STAT_INC_BAD : Fld := ⟨Reg.TMB_STAT, 3, 3⟩
def F.TMB_STAT_REF_LOST : Fld := ⟨Reg.TMB_STAT, 4, 4⟩
def Reg.TMB_NOW_LO : Nat := 0x0040008
def F.TMB_NOW_LO_NS : Fld := ⟨Reg.TMB_NOW_LO, 31, 0⟩
def Reg.TMB_NOW_HI : Nat := 0x004000C
def F.TMB_NOW_HI_FRAC : Fld := ⟨Reg.TMB_NOW_HI, 23, 0⟩
def F.TMB_NOW_HI_WRAP : Fld := ⟨Reg.TMB_NOW_HI, 31, 24⟩
def Reg.TMB_INC : Nat := 0x0040010
def F.TMB_INC_INC : Fld := ⟨Reg.TMB_INC, 31, 0⟩
def Reg.TMB_STEP_LO : Nat := 0x0040014
def F.TMB_STEP_LO_STEP : Fld := ⟨Reg.TMB_STEP_LO, 31, 0⟩
def Reg.TMB_STEP_HI : Nat := 0x0040018
def F.TMB_STEP_HI_STEP : Fld := ⟨Reg.TMB_STEP_HI, 23, 0⟩
def Reg.TMB_APPLY_LO : Nat := 0x004001C
def F.TMB_APPLY_LO_TICK : Fld := ⟨Reg.TMB_APPLY_LO, 31, 0⟩
def Reg.TMB_APPLY_HI : Nat := 0x0040020
def F.TMB_APPLY_HI_TICK : Fld := ⟨Reg.TMB_APPLY_HI, 31, 0⟩
def Reg.TMB_SYNC_LOAD_LO : Nat := 0x0040024
def F.TMB_SYNC_LOAD_LO_NS : Fld := ⟨Reg.TMB_SYNC_LOAD_LO, 31, 0⟩
def Reg.TMB_SYNC_LOAD_HI : Nat := 0x0040028
def F.TMB_SYNC_LOAD_HI_FRAC : Fld := ⟨Reg.TMB_SYNC_LOAD_HI, 23, 0⟩
def Reg.TMB_SYNC_TS_LO : Nat := 0x004002C
def F.TMB_SYNC_TS_LO_NS : Fld := ⟨Reg.TMB_SYNC_TS_LO, 31, 0⟩
def Reg.TMB_SYNC_TS_HI : Nat := 0x0040030
def F.TMB_SYNC_TS_HI_FRAC : Fld := ⟨Reg.TMB_SYNC_TS_HI, 23, 0⟩
def Reg.TMB_PORT (c : Nat) : Nat := 0x0040100 + c * 0x4
def F.TMB_PORT_EGRESS (c : Nat) : Fld := ⟨Reg.TMB_PORT c, 15, 0⟩
def F.TMB_PORT_INGRESS (c : Nat) : Fld := ⟨Reg.TMB_PORT c, 31, 16⟩

/-! Table 12.11 (12_clocks_time). -/

def Reg.ETH_CTL (e : Nat) : Nat := 0x00B0000 + e * 0x1000 + 0x0
def F.ETH_CTL_ENABLE (e : Nat) : Fld := ⟨Reg.ETH_CTL e, 0, 0⟩
def F.ETH_CTL_RSFEC (e : Nat) : Fld := ⟨Reg.ETH_CTL e, 1, 1⟩
def Reg.ETH_STAT (e : Nat) : Nat := 0x00B0000 + e * 0x1000 + 0x4
def F.ETH_STAT_LINK (e : Nat) : Fld := ⟨Reg.ETH_STAT e, 0, 0⟩
def F.ETH_STAT_PENDING (e : Nat) : Fld := ⟨Reg.ETH_STAT e, 1, 1⟩
def Reg.ETH_TSQ_0 (e : Nat) : Nat := 0x00B0000 + e * 0x1000 + 0x10
def F.ETH_TSQ_0_ENTRY (e : Nat) : Fld := ⟨Reg.ETH_TSQ_0 e, 31, 0⟩
def Reg.ETH_TSQ_1 (e : Nat) : Nat := 0x00B0000 + e * 0x1000 + 0x14
def F.ETH_TSQ_1_ENTRY (e : Nat) : Fld := ⟨Reg.ETH_TSQ_1 e, 31, 0⟩
def Reg.ETH_TSQ_2 (e : Nat) : Nat := 0x00B0000 + e * 0x1000 + 0x18
def F.ETH_TSQ_2_ENTRY (e : Nat) : Fld := ⟨Reg.ETH_TSQ_2 e, 31, 0⟩
def Reg.ETH_TSQ_STAT (e : Nat) : Nat := 0x00B0000 + e * 0x1000 + 0x1C
def F.ETH_TSQ_STAT_LEVEL (e : Nat) : Fld := ⟨Reg.ETH_TSQ_STAT e, 4, 0⟩
def F.ETH_TSQ_STAT_DROPPED (e : Nat) : Fld := ⟨Reg.ETH_TSQ_STAT e, 31, 16⟩
def Reg.VTL_CTL (l : Nat) : Nat := 0x00A0000 + l * 0x100 + 0x0
def F.VTL_CTL_ENABLE (l : Nat) : Fld := ⟨Reg.VTL_CTL l, 0, 0⟩
def F.VTL_CTL_TRIG_TX (l : Nat) : Fld := ⟨Reg.VTL_CTL l, 31, 16⟩
def Reg.VTL_STAT (l : Nat) : Nat := 0x00A0000 + l * 0x100 + 0x4
def F.VTL_STAT_STATE (l : Nat) : Fld := ⟨Reg.VTL_STAT l, 2, 0⟩
def F.VTL_STAT_PENDING (l : Nat) : Fld := ⟨Reg.VTL_STAT l, 3, 3⟩
def F.VTL_STAT_SLOTS (l : Nat) : Fld := ⟨Reg.VTL_STAT l, 5, 4⟩
def F.VTL_STAT_USED (l : Nat) : Fld := ⟨Reg.VTL_STAT l, 6, 6⟩
def F.VTL_STAT_PEER (l : Nat) : Fld := ⟨Reg.VTL_STAT l, 25, 16⟩
def Reg.VTL_LAT (l : Nat) : Nat := 0x00A0000 + l * 0x100 + 0x8
def F.VTL_LAT_D (l : Nat) : Fld := ⟨Reg.VTL_LAT l, 9, 0⟩
def Reg.VTL_DLY (l : Nat) : Nat := 0x00A0000 + l * 0x100 + 0xC
def F.VTL_DLY_DLY (l : Nat) : Fld := ⟨Reg.VTL_DLY l, 23, 0⟩
def Reg.VTL_OFFS (l : Nat) : Nat := 0x00A0000 + l * 0x100 + 0x10
def F.VTL_OFFS_OFFS (l : Nat) : Fld := ⟨Reg.VTL_OFFS l, 31, 0⟩
def Reg.VTL_ERR (l : Nat) : Nat := 0x00A0000 + l * 0x100 + 0x14
def F.VTL_ERR_CYCLES (l : Nat) : Fld := ⟨Reg.VTL_ERR l, 15, 0⟩
def F.VTL_ERR_TRIG_SLIP (l : Nat) : Fld := ⟨Reg.VTL_ERR l, 31, 16⟩
def Reg.VTL_ID : Nat := 0x00A0800
def F.VTL_ID_ID : Fld := ⟨Reg.VTL_ID, 9, 0⟩
def Reg.VTL_SYNC : Nat := 0x00A0804
def F.VTL_SYNC_N : Fld := ⟨Reg.VTL_SYNC, 3, 0⟩
def F.VTL_SYNC_LIMIT : Fld := ⟨Reg.VTL_SYNC, 31, 16⟩
def Reg.VTL_TRIG_SRC_LO : Nat := 0x00A0808
def F.VTL_TRIG_SRC_LO_SRC : Fld := ⟨Reg.VTL_TRIG_SRC_LO, 31, 0⟩
def Reg.VTL_TRIG_SRC_HI : Nat := 0x00A080C
def F.VTL_TRIG_SRC_HI_SRC : Fld := ⟨Reg.VTL_TRIG_SRC_HI, 31, 0⟩

/-! Table 13.9 (13_calibration). -/

def Reg.RSV_CAL_CTL : Nat := 0x0090000
def F.RSV_CAL_CTL_AUTO_EN : Fld := ⟨Reg.RSV_CAL_CTL, 0, 0⟩
def F.RSV_CAL_CTL_FACTORY : Fld := ⟨Reg.RSV_CAL_CTL, 1, 1⟩
def Reg.RSV_CAL_DELTA : Nat := 0x0090004
def F.RSV_CAL_DELTA_CAL_TEMP_DELTA : Fld := ⟨Reg.RSV_CAL_DELTA, 6, 0⟩
def F.RSV_CAL_DELTA_GATHER : Fld := ⟨Reg.RSV_CAL_DELTA, 31, 16⟩
def Reg.RSV_AUTO_LO : Nat := 0x0090008
def F.RSV_AUTO_LO_AUTO : Fld := ⟨Reg.RSV_AUTO_LO, 31, 0⟩
def Reg.RSV_AUTO_HI : Nat := 0x009000C
def F.RSV_AUTO_HI_AUTO : Fld := ⟨Reg.RSV_AUTO_HI, 31, 0⟩
def Reg.RSV_STAT : Nat := 0x0090010
def F.RSV_STAT_READY : Fld := ⟨Reg.RSV_STAT, 0, 0⟩
def F.RSV_STAT_FACTORY_OK : Fld := ⟨Reg.RSV_STAT, 1, 1⟩
def F.RSV_STAT_CFG_IGNORED : Fld := ⟨Reg.RSV_STAT, 2, 2⟩
def F.RSV_STAT_WRITE_ERR : Fld := ⟨Reg.RSV_STAT, 3, 3⟩
def F.RSV_STAT_OUTAGES : Fld := ⟨Reg.RSV_STAT, 13, 8⟩
def F.RSV_STAT_RUNS : Fld := ⟨Reg.RSV_STAT, 31, 16⟩
def Reg.RSV_WRITES_LO : Nat := 0x0090014
def F.RSV_WRITES_LO_COUNT : Fld := ⟨Reg.RSV_WRITES_LO, 31, 0⟩
def Reg.RSV_WRITES_HI : Nat := 0x0090018
def F.RSV_WRITES_HI_COUNT : Fld := ⟨Reg.RSV_WRITES_HI, 31, 0⟩

/-! Table 13.10 (13_calibration). -/

def Reg.TRB_CAL_STAT (t : Nat) : Nat := 0x0100000 + t * 0x10000 + 0xB000
def F.TRB_CAL_STAT_STATE (t : Nat) : Fld := ⟨Reg.TRB_CAL_STAT t, 2, 0⟩
def F.TRB_CAL_STAT_DUE (t : Nat) : Fld := ⟨Reg.TRB_CAL_STAT t, 6, 4⟩
def F.TRB_CAL_STAT_FACTORY (t : Nat) : Fld := ⟨Reg.TRB_CAL_STAT t, 7, 7⟩
def F.TRB_CAL_STAT_OUT_OF_BAND (t : Nat) : Fld := ⟨Reg.TRB_CAL_STAT t, 8, 8⟩
def F.TRB_CAL_STAT_DEFERRED (t : Nat) : Fld := ⟨Reg.TRB_CAL_STAT t, 31, 16⟩
def Reg.TRB_CAL_T0 (t : Nat) : Nat := 0x0100000 + t * 0x10000 + 0xB004
def F.TRB_CAL_T0_T_LVL (t : Nat) : Fld := ⟨Reg.TRB_CAL_T0 t, 11, 0⟩
def F.TRB_CAL_T0_T_DSK (t : Nat) : Fld := ⟨Reg.TRB_CAL_T0 t, 27, 16⟩
def Reg.TRB_CAL_T1 (t : Nat) : Nat := 0x0100000 + t * 0x10000 + 0xB008
def F.TRB_CAL_T1_T_PMU (t : Nat) : Fld := ⟨Reg.TRB_CAL_T1 t, 11, 0⟩
def F.TRB_CAL_T1_T_MEAN (t : Nat) : Fld := ⟨Reg.TRB_CAL_T1 t, 27, 16⟩
def Reg.TRB_CAL_REJ (t : Nat) : Nat := 0x0100000 + t * 0x10000 + 0xB00C
def F.TRB_CAL_REJ_PINS (t : Nat) : Fld := ⟨Reg.TRB_CAL_REJ t, 15, 0⟩
def F.TRB_CAL_REJ_RUNS (t : Nat) : Fld := ⟨Reg.TRB_CAL_REJ t, 31, 16⟩
def Reg.TRB_CAL_DLT (t : Nat) : Nat := 0x0100000 + t * 0x10000 + 0xB010
def F.TRB_CAL_DLT_OFFS (t : Nat) : Fld := ⟨Reg.TRB_CAL_DLT t, 15, 0⟩

/-! Table 13.11 (13_calibration). -/

def Reg.PIN_CAL_LVL (p : Nat) (c : Nat) : Nat := 0x0100000 + p / 16 * 0x10000 + p % 16 * 0x800 + 0x1C0 + c * 0x4
def F.PIN_CAL_LVL_GAIN (p : Nat) (c : Nat) : Fld := ⟨Reg.PIN_CAL_LVL p c, 15, 0⟩
def F.PIN_CAL_LVL_OFFS (p : Nat) (c : Nat) : Fld := ⟨Reg.PIN_CAL_LVL p c, 31, 16⟩
def Reg.PIN_CAL_CMP (p : Nat) : Nat := 0x0100000 + p / 16 * 0x10000 + p % 16 * 0x800 + 0x1D8
def F.PIN_CAL_CMP_H (p : Nat) : Fld := ⟨Reg.PIN_CAL_CMP p, 15, 0⟩
def F.PIN_CAL_CMP_L (p : Nat) : Fld := ⟨Reg.PIN_CAL_CMP p, 31, 16⟩
def Reg.PIN_CAL_PMUI (p : Nat) (c : Nat) : Nat := 0x0100000 + p / 16 * 0x10000 + p % 16 * 0x800 + 0x1E0 + c * 0x4
def F.PIN_CAL_PMUI_GAIN (p : Nat) (c : Nat) : Fld := ⟨Reg.PIN_CAL_PMUI p c, 15, 0⟩
def F.PIN_CAL_PMUI_OFFS (p : Nat) (c : Nat) : Fld := ⟨Reg.PIN_CAL_PMUI p c, 31, 16⟩
def Reg.PIN_CAL_PMUM (p : Nat) (c : Nat) : Nat := 0x0100000 + p / 16 * 0x10000 + p % 16 * 0x800 + 0x1F4 + c * 0x4
def F.PIN_CAL_PMUM_GAIN (p : Nat) (c : Nat) : Fld := ⟨Reg.PIN_CAL_PMUM p c, 15, 0⟩
def F.PIN_CAL_PMUM_OFFS (p : Nat) (c : Nat) : Fld := ⟨Reg.PIN_CAL_PMUM p c, 31, 16⟩
def Reg.PIN_CAL_STAT (p : Nat) : Nat := 0x0100000 + p / 16 * 0x10000 + p % 16 * 0x800 + 0x208
def F.PIN_CAL_STAT_REJ_LVL (p : Nat) : Fld := ⟨Reg.PIN_CAL_STAT p, 0, 0⟩
def F.PIN_CAL_STAT_REJ_DSK (p : Nat) : Fld := ⟨Reg.PIN_CAL_STAT p, 1, 1⟩
def F.PIN_CAL_STAT_REJ_PMU (p : Nat) : Fld := ⟨Reg.PIN_CAL_STAT p, 2, 2⟩
def F.PIN_CAL_STAT_SOURCE (p : Nat) : Fld := ⟨Reg.PIN_CAL_STAT p, 9, 8⟩
def F.PIN_CAL_STAT_REJ_RUNS (p : Nat) : Fld := ⟨Reg.PIN_CAL_STAT p, 23, 16⟩

/-! Table 14.12 (14_levee_dependability). -/

def Reg.LEV_CTL : Nat := 0x0020000
def F.LEV_CTL_IRQ_SEV : Fld := ⟨Reg.LEV_CTL, 2, 0⟩
def Reg.LEV_STAT : Nat := 0x0020004
def F.LEV_STAT_DEVICE : Fld := ⟨Reg.LEV_STAT, 0, 0⟩
def F.LEV_STAT_SEALED : Fld := ⟨Reg.LEV_STAT, 1, 1⟩
def F.LEV_STAT_OVERFLOW : Fld := ⟨Reg.LEV_STAT, 2, 2⟩
def F.LEV_STAT_DUMPING : Fld := ⟨Reg.LEV_STAT, 3, 3⟩
def F.LEV_STAT_DUMP_VALID : Fld := ⟨Reg.LEV_STAT, 4, 4⟩
def F.LEV_STAT_CFG_IGNORED : Fld := ⟨Reg.LEV_STAT, 5, 5⟩
def F.LEV_STAT_FORCE_REFUSED : Fld := ⟨Reg.LEV_STAT, 6, 6⟩
def F.LEV_STAT_ARMED : Fld := ⟨Reg.LEV_STAT, 7, 7⟩
def F.LEV_STAT_DUMP_SKIPPED : Fld := ⟨Reg.LEV_STAT, 15, 8⟩
def F.LEV_STAT_LEVEL : Fld := ⟨Reg.LEV_STAT, 24, 16⟩
def Reg.LEV_LOG (c : Nat) : Nat := 0x0020010 + c * 0x4
def F.LEV_LOG_ENTRY (c : Nat) : Fld := ⟨Reg.LEV_LOG c, 31, 0⟩
def Reg.LEV_FORCE : Nat := 0x0020020
def F.LEV_FORCE_SRC : Fld := ⟨Reg.LEV_FORCE, 8, 0⟩
def F.LEV_FORCE_INSTANCE : Fld := ⟨Reg.LEV_FORCE, 31, 16⟩
def Reg.LEV_ARM : Nat := 0x0020024
def F.LEV_ARM_SRC : Fld := ⟨Reg.LEV_ARM, 8, 0⟩
def F.LEV_ARM_KEY : Fld := ⟨Reg.LEV_ARM, 27, 16⟩
def Reg.LEV_DUMP : Nat := 0x0020028
def F.LEV_DUMP_ACK : Fld := ⟨Reg.LEV_DUMP, 0, 0⟩
def Reg.LEV_PREV : Nat := 0x002002C
def F.LEV_PREV_SRC : Fld := ⟨Reg.LEV_PREV, 8, 0⟩
def F.LEV_PREV_COUNT : Fld := ⟨Reg.LEV_PREV, 31, 16⟩
def Reg.LEV_SEV (c : Nat) : Nat := 0x0020400 + c * 0x4
def F.LEV_SEV_SEV (c : Nat) : Fld := ⟨Reg.LEV_SEV c, 2, 0⟩
def F.LEV_SEV_FLOOR (c : Nat) : Fld := ⟨Reg.LEV_SEV c, 5, 3⟩
def Reg.LEV_LOST (c : Nat) : Nat := 0x0020C00 + c * 0x4
def F.LEV_LOST_LOST (c : Nat) : Fld := ⟨Reg.LEV_LOST c, 15, 0⟩
def Reg.LEV_PCNT (c : Nat) : Nat := 0x0021400 + c * 0x4
def F.LEV_PCNT_COUNT (c : Nat) : Fld := ⟨Reg.LEV_PCNT c, 31, 0⟩

/-! Table 14.13 (14_levee_dependability). -/

def Reg.TRB_AUD_STAT (t : Nat) : Nat := 0x0100000 + t * 0x10000 + 0xC000
def F.TRB_AUD_STAT_NEXT (t : Nat) : Fld := ⟨Reg.TRB_AUD_STAT t, 3, 0⟩
def F.TRB_AUD_STAT_SUSPENDED (t : Nat) : Fld := ⟨Reg.TRB_AUD_STAT t, 4, 4⟩
def F.TRB_AUD_STAT_SPARE_USED (t : Nat) : Fld := ⟨Reg.TRB_AUD_STAT t, 5, 5⟩
def F.TRB_AUD_STAT_AUDIT_FAULTY (t : Nat) : Fld := ⟨Reg.TRB_AUD_STAT t, 6, 6⟩
def F.TRB_AUD_STAT_COPYING (t : Nat) : Fld := ⟨Reg.TRB_AUD_STAT t, 7, 7⟩
def F.TRB_AUD_STAT_FAULTY (t : Nat) : Fld := ⟨Reg.TRB_AUD_STAT t, 11, 8⟩
def F.TRB_AUD_STAT_FAULTY_VALID (t : Nat) : Fld := ⟨Reg.TRB_AUD_STAT t, 12, 12⟩
def F.TRB_AUD_STAT_MISMATCH (t : Nat) : Fld := ⟨Reg.TRB_AUD_STAT t, 31, 16⟩
def Reg.TRB_AUD_COUNT (t : Nat) : Nat := 0x0100000 + t * 0x10000 + 0xC004
def F.TRB_AUD_COUNT_AUDITS (t : Nat) : Fld := ⟨Reg.TRB_AUD_COUNT t, 31, 0⟩

/-! Table 15.7 (15_spate_slack). -/

def Reg.SPT_CTL : Nat := 0x0030000
def F.SPT_CTL_FORCE_FLOOR : Fld := ⟨Reg.SPT_CTL, 0, 0⟩
def Reg.SPT_STAT : Nat := 0x0030004
def F.SPT_STAT_THROTTLED : Fld := ⟨Reg.SPT_STAT, 0, 0⟩
def F.SPT_STAT_OVERLIMIT : Fld := ⟨Reg.SPT_STAT, 1, 1⟩
def F.SPT_STAT_CFG_IGNORED : Fld := ⟨Reg.SPT_STAT, 2, 2⟩
def F.SPT_STAT_LIMIT_REFUSED : Fld := ⟨Reg.SPT_STAT, 3, 3⟩
def F.SPT_STAT_SENSOR : Fld := ⟨Reg.SPT_STAT, 11, 8⟩
def F.SPT_STAT_EPISODES : Fld := ⟨Reg.SPT_STAT, 31, 16⟩
def Reg.SPT_DROOP : Nat := 0x0030008
def F.SPT_DROOP_THR : Fld := ⟨Reg.SPT_DROOP, 5, 0⟩
def Reg.SPT_STEP_LIMIT : Nat := 0x003000C
def F.SPT_STEP_LIMIT_LIMIT : Fld := ⟨Reg.SPT_STEP_LIMIT, 15, 0⟩
def Reg.SPT_THR_TICKS : Nat := 0x0030010
def F.SPT_THR_TICKS_COUNT : Fld := ⟨Reg.SPT_THR_TICKS, 31, 0⟩
def Reg.SPT_PACE : Nat := 0x0030014
def F.SPT_PACE_LAST : Fld := ⟨Reg.SPT_PACE, 15, 0⟩
def F.SPT_PACE_DEFERRED : Fld := ⟨Reg.SPT_PACE, 23, 16⟩
def Reg.SPT_SLACK : Nat := 0x0030020
def F.SPT_SLACK_WAKE : Fld := ⟨Reg.SPT_SLACK, 0, 0⟩
def F.SPT_SLACK_STATE : Fld := ⟨Reg.SPT_SLACK, 2, 1⟩
def Reg.SPT_WAKE_CTL : Nat := 0x0030024
def F.SPT_WAKE_CTL_EN : Fld := ⟨Reg.SPT_WAKE_CTL, 3, 0⟩
def F.SPT_WAKE_CTL_EN_SUPPLY : Fld := ⟨Reg.SPT_WAKE_CTL, 6, 4⟩
def F.SPT_WAKE_CTL_EN_TEMP : Fld := ⟨Reg.SPT_WAKE_CTL, 7, 7⟩
def F.SPT_WAKE_CTL_POL : Fld := ⟨Reg.SPT_WAKE_CTL, 11, 8⟩
def Reg.SPT_WAKE_THR (c : Nat) : Nat := 0x0030030 + c * 0x4
def F.SPT_WAKE_THR_THR (c : Nat) : Fld := ⟨Reg.SPT_WAKE_THR c, 11, 0⟩
def Reg.SPT_WAKE_TEMP : Nat := 0x0030040
def F.SPT_WAKE_TEMP_TEMP : Fld := ⟨Reg.SPT_WAKE_TEMP, 11, 0⟩
def Reg.SPT_WAKE_CAUSE : Nat := 0x0030044
def F.SPT_WAKE_CAUSE_CMP : Fld := ⟨Reg.SPT_WAKE_CAUSE, 7, 0⟩
def F.SPT_WAKE_CAUSE_HOST : Fld := ⟨Reg.SPT_WAKE_CAUSE, 8, 8⟩
def Reg.SPT_MON : Nat := 0x0030048
def F.SPT_MON_OK : Fld := ⟨Reg.SPT_MON, 5, 0⟩

/-! Table 16.11 (16_millrace_boot). -/

def Reg.MRC_STAT : Nat := 0x0080000
def F.MRC_STAT_RUNNING : Fld := ⟨Reg.MRC_STAT, 0, 0⟩
def F.MRC_STAT_LANE_OK : Fld := ⟨Reg.MRC_STAT, 3, 1⟩
def F.MRC_STAT_PATCHED : Fld := ⟨Reg.MRC_STAT, 4, 4⟩
def F.MRC_STAT_PATCH_REJ : Fld := ⟨Reg.MRC_STAT, 5, 5⟩
def F.MRC_STAT_ROUTINE : Fld := ⟨Reg.MRC_STAT, 15, 8⟩
def Reg.MRC_VER : Nat := 0x0080004
def F.MRC_VER_BASE_VER : Fld := ⟨Reg.MRC_VER, 15, 0⟩
def F.MRC_VER_PATCH_VER : Fld := ⟨Reg.MRC_VER, 31, 16⟩
def Reg.MRC_PATCH : Nat := 0x0080008
def F.MRC_PATCH_SLOTS : Fld := ⟨Reg.MRC_PATCH, 31, 0⟩
def Reg.MRC_TICK : Nat := 0x008000C
def F.MRC_TICK_LAST : Fld := ⟨Reg.MRC_TICK, 8, 0⟩
def F.MRC_TICK_PEAK : Fld := ⟨Reg.MRC_TICK, 24, 16⟩
def Reg.MRC_FREE : Nat := 0x0080010
def F.MRC_FREE_LAST : Fld := ⟨Reg.MRC_FREE, 9, 0⟩
def Reg.MRC_LANE (c : Nat) : Nat := 0x0080020 + c * 0x4
def F.MRC_LANE_RESYNC (c : Nat) : Fld := ⟨Reg.MRC_LANE c, 15, 0⟩
def F.MRC_LANE_STORE_CE (c : Nat) : Fld := ⟨Reg.MRC_LANE c, 31, 16⟩
def Reg.MRC_ABANDON : Nat := 0x0080030
def F.MRC_ABANDON_COUNT : Fld := ⟨Reg.MRC_ABANDON, 15, 0⟩
def F.MRC_ABANDON_LAST : Fld := ⟨Reg.MRC_ABANDON, 23, 16⟩
def Reg.MRC_BOOT : Nat := 0x0080040
def F.MRC_BOOT_ACTIVE : Fld := ⟨Reg.MRC_BOOT, 0, 0⟩
def F.MRC_BOOT_FALLBACK : Fld := ⟨Reg.MRC_BOOT, 1, 1⟩
def F.MRC_BOOT_PREFERRED : Fld := ⟨Reg.MRC_BOOT, 2, 2⟩
def F.MRC_BOOT_STAGE : Fld := ⟨Reg.MRC_BOOT, 11, 8⟩
def F.MRC_BOOT_ERR : Fld := ⟨Reg.MRC_BOOT, 23, 16⟩
def Reg.MRC_UID_LO : Nat := 0x0080048
def F.MRC_UID_LO_UID : Fld := ⟨Reg.MRC_UID_LO, 31, 0⟩
def Reg.MRC_UID_HI : Nat := 0x008004C
def F.MRC_UID_HI_UID : Fld := ⟨Reg.MRC_UID_HI, 31, 0⟩
def Reg.MRC_KEYS : Nat := 0x0080050
def F.MRC_KEYS_VALID : Fld := ⟨Reg.MRC_KEYS, 3, 0⟩
def F.MRC_KEYS_REVOKED : Fld := ⟨Reg.MRC_KEYS, 7, 4⟩
def F.MRC_KEYS_USED : Fld := ⟨Reg.MRC_KEYS, 9, 8⟩

/-! Table 17.10 (17_host_interface). -/

def Reg.GLB_ID : Nat := 0x0000000
def F.GLB_ID_PART : Fld := ⟨Reg.GLB_ID, 15, 0⟩
def F.GLB_ID_STEP : Fld := ⟨Reg.GLB_ID, 19, 16⟩
def F.GLB_ID_MEM : Fld := ⟨Reg.GLB_ID, 21, 20⟩
def Reg.GLB_RESET : Nat := 0x0000004
def F.GLB_RESET_KEY : Fld := ⟨Reg.GLB_RESET, 15, 0⟩
def Reg.GLB_ACC_STAT : Nat := 0x0000008
def F.GLB_ACC_STAT_TORN : Fld := ⟨Reg.GLB_ACC_STAT, 0, 0⟩
def F.GLB_ACC_STAT_BAD_ACCESS : Fld := ⟨Reg.GLB_ACC_STAT, 1, 1⟩
def F.GLB_ACC_STAT_TORN_CNT : Fld := ⟨Reg.GLB_ACC_STAT, 31, 16⟩
def Reg.GLB_ACC_ADDR : Nat := 0x000000C
def F.GLB_ACC_ADDR_OFFS : Fld := ⟨Reg.GLB_ACC_ADDR, 23, 0⟩
def Reg.GLB_WIN : Nat := 0x0000010
def F.GLB_WIN_BASE : Fld := ⟨Reg.GLB_WIN, 6, 0⟩
def Reg.GLB_WIN_STAT : Nat := 0x0000014
def F.GLB_WIN_STAT_OPEN : Fld := ⟨Reg.GLB_WIN_STAT, 0, 0⟩
def F.GLB_WIN_STAT_WIN_BAD : Fld := ⟨Reg.GLB_WIN_STAT, 1, 1⟩
def F.GLB_WIN_STAT_DROPPED : Fld := ⟨Reg.GLB_WIN_STAT, 31, 16⟩
def Reg.GLB_PCI : Nat := 0x0000018
def F.GLB_PCI_SPEED : Fld := ⟨Reg.GLB_PCI, 2, 0⟩
def F.GLB_PCI_WIDTH : Fld := ⟨Reg.GLB_PCI, 8, 4⟩

/-! Table 17.11 (17_host_interface). -/

def Reg.MBX_CMD (m : Nat) : Nat := 0x0010000 + m * 0x100 + 0x0
def F.MBX_CMD_OPID (m : Nat) : Fld := ⟨Reg.MBX_CMD m, 15, 0⟩
def F.MBX_CMD_ISSUE (m : Nat) : Fld := ⟨Reg.MBX_CMD m, 16, 16⟩
def F.MBX_CMD_ABORT (m : Nat) : Fld := ⟨Reg.MBX_CMD m, 17, 17⟩
def F.MBX_CMD_IRQ (m : Nat) : Fld := ⟨Reg.MBX_CMD m, 18, 18⟩
def Reg.MBX_PARAM (m : Nat) (c : Nat) : Nat := 0x0010000 + m * 0x100 + 0x20 + c * 0x4
def F.MBX_PARAM_PARAM (m : Nat) (c : Nat) : Fld := ⟨Reg.MBX_PARAM m c, 31, 0⟩
def Reg.MBX_STAT_LO (m : Nat) : Nat := 0x0010000 + m * 0x100 + 0x40
def F.MBX_STAT_LO_WORD (m : Nat) : Fld := ⟨Reg.MBX_STAT_LO m, 31, 0⟩
def Reg.MBX_STAT_HI (m : Nat) : Nat := 0x0010000 + m * 0x100 + 0x44
def F.MBX_STAT_HI_WORD (m : Nat) : Fld := ⟨Reg.MBX_STAT_HI m, 31, 0⟩
def Reg.MBX_SUM : Nat := 0x0010800
def F.MBX_SUM_ENDED : Fld := ⟨Reg.MBX_SUM, 7, 0⟩
def F.MBX_SUM_REFUSED : Fld := ⟨Reg.MBX_SUM, 15, 8⟩
def F.MBX_SUM_ACTIVE : Fld := ⟨Reg.MBX_SUM, 23, 16⟩

/-! Table 17.12 (17_host_interface). -/

def Reg.QP_CTL (q : Nat) : Nat := 0x0700000 + q * 0x20 + 0x0
def F.QP_CTL_ENABLE (q : Nat) : Fld := ⟨Reg.QP_CTL q, 0, 0⟩
def Reg.QP_STAT (q : Nat) : Nat := 0x0700000 + q * 0x20 + 0x4
def F.QP_STAT_RUNNING (q : Nat) : Fld := ⟨Reg.QP_STAT q, 0, 0⟩
def F.QP_STAT_PENDING (q : Nat) : Fld := ⟨Reg.QP_STAT q, 1, 1⟩
def F.QP_STAT_SHUTTING (q : Nat) : Fld := ⟨Reg.QP_STAT q, 2, 2⟩
def F.QP_STAT_REFUSED (q : Nat) : Fld := ⟨Reg.QP_STAT q, 3, 3⟩
def F.QP_STAT_CQ_FULL (q : Nat) : Fld := ⟨Reg.QP_STAT q, 4, 4⟩
def F.QP_STAT_DB_BAD (q : Nat) : Fld := ⟨Reg.QP_STAT q, 5, 5⟩
def F.QP_STAT_CFG_IGNORED (q : Nat) : Fld := ⟨Reg.QP_STAT q, 6, 6⟩
def F.QP_STAT_SQ_HEAD (q : Nat) : Fld := ⟨Reg.QP_STAT q, 25, 16⟩
def Reg.QP_SQ_LO (q : Nat) : Nat := 0x0700000 + q * 0x20 + 0x8
def F.QP_SQ_LO_ADDR (q : Nat) : Fld := ⟨Reg.QP_SQ_LO q, 31, 0⟩
def Reg.QP_SQ_HI (q : Nat) : Nat := 0x0700000 + q * 0x20 + 0xC
def F.QP_SQ_HI_ADDR (q : Nat) : Fld := ⟨Reg.QP_SQ_HI q, 31, 0⟩
def Reg.QP_CQ_LO (q : Nat) : Nat := 0x0700000 + q * 0x20 + 0x10
def F.QP_CQ_LO_ADDR (q : Nat) : Fld := ⟨Reg.QP_CQ_LO q, 31, 0⟩
def Reg.QP_CQ_HI (q : Nat) : Nat := 0x0700000 + q * 0x20 + 0x14
def F.QP_CQ_HI_ADDR (q : Nat) : Fld := ⟨Reg.QP_CQ_HI q, 31, 0⟩
def Reg.QP_CQ_TAIL (q : Nat) : Nat := 0x0700000 + q * 0x20 + 0x18
def F.QP_CQ_TAIL_TAIL (q : Nat) : Fld := ⟨Reg.QP_CQ_TAIL q, 9, 0⟩
def F.QP_CQ_TAIL_PHASE (q : Nat) : Fld := ⟨Reg.QP_CQ_TAIL q, 10, 10⟩
def Reg.DB_SQ_TAIL (q : Nat) : Nat := 0x0800000 + q * 8 + 0x0
def F.DB_SQ_TAIL_TAIL (q : Nat) : Fld := ⟨Reg.DB_SQ_TAIL q, 9, 0⟩
def Reg.DB_CQ_HEAD (q : Nat) : Nat := 0x0800000 + q * 8 + 0x4
def F.DB_CQ_HEAD_HEAD (q : Nat) : Fld := ⟨Reg.DB_CQ_HEAD q, 9, 0⟩

/-! Table 17.13 (17_host_interface). -/

def Reg.DMA_CTL (e : Nat) (c : Nat) : Nat := 0x0A00000 + e * 0x100 + 0x0 + c * 0x40
def F.DMA_CTL_RUN (e : Nat) (c : Nat) : Fld := ⟨Reg.DMA_CTL e c, 0, 0⟩
def Reg.DMA_STAT (e : Nat) (c : Nat) : Nat := 0x0A00000 + e * 0x100 + 0x4 + c * 0x40
def F.DMA_STAT_ACTIVE (e : Nat) (c : Nat) : Fld := ⟨Reg.DMA_STAT e c, 0, 0⟩
def F.DMA_STAT_ERR (e : Nat) (c : Nat) : Fld := ⟨Reg.DMA_STAT e c, 1, 1⟩
def F.DMA_STAT_CFG_IGNORED (e : Nat) (c : Nat) : Fld := ⟨Reg.DMA_STAT e c, 2, 2⟩
def F.DMA_STAT_DROPPED (e : Nat) (c : Nat) : Fld := ⟨Reg.DMA_STAT e c, 31, 16⟩
def Reg.DMA_BASE_LO (e : Nat) (c : Nat) : Nat := 0x0A00000 + e * 0x100 + 0x8 + c * 0x40
def F.DMA_BASE_LO_ADDR (e : Nat) (c : Nat) : Fld := ⟨Reg.DMA_BASE_LO e c, 31, 0⟩
def Reg.DMA_BASE_HI (e : Nat) (c : Nat) : Nat := 0x0A00000 + e * 0x100 + 0xC + c * 0x40
def F.DMA_BASE_HI_ADDR (e : Nat) (c : Nat) : Fld := ⟨Reg.DMA_BASE_HI e c, 31, 0⟩
def Reg.DMA_SIZE (e : Nat) (c : Nat) : Nat := 0x0A00000 + e * 0x100 + 0x10 + c * 0x40
def F.DMA_SIZE_ENTRIES (e : Nat) (c : Nat) : Fld := ⟨Reg.DMA_SIZE e c, 12, 0⟩
def Reg.DMA_TAIL (e : Nat) (c : Nat) : Nat := 0x0A00000 + e * 0x100 + 0x14 + c * 0x40
def F.DMA_TAIL_TAIL (e : Nat) (c : Nat) : Fld := ⟨Reg.DMA_TAIL e c, 11, 0⟩
def Reg.DMA_HEAD (e : Nat) (c : Nat) : Nat := 0x0A00000 + e * 0x100 + 0x18 + c * 0x40
def F.DMA_HEAD_HEAD (e : Nat) (c : Nat) : Fld := ⟨Reg.DMA_HEAD e c, 11, 0⟩

/-! Table 7.10 (07_gauge_capture). -/

def Reg.GAU_TSQ_RESTART (q : Nat) : Nat := Reg.tsqBase q + 0x10
def F.GAU_TSQ_RESTART_RESTART (q : Nat) : Fld := ⟨Reg.GAU_TSQ_RESTART q, 0, 0⟩

/-- Registers that stand once, by BAR0 offset (R8, R9). -/
def RegMap.glb0 : List RegRow :=
  [⟨"GLB_CATCH_STATE", 0x100, 0x0, 1, 0x0, 1, [⟨1, 0, .ro, 0x0⟩, ⟨2, 2, .ro, 0x0⟩, ⟨10, 3, .ro, 0x0⟩]⟩,
   ⟨"GLB_CATCH_ID", 0x104, 0x0, 1, 0x0, 1, [⟨31, 0, .ro, 0x0⟩]⟩,
   ⟨"GLB_CATCH_CRC", 0x108, 0x0, 1, 0x0, 1, [⟨31, 0, .ro, 0x0⟩]⟩,
   ⟨"GLB_CATCH_GEN", 0x10C, 0x0, 1, 0x0, 1, [⟨31, 0, .ro, 0x0⟩]⟩,
   ⟨"GLB_CLR_STAT", 0x120, 0x0, 1, 0x0, 1, [⟨0, 0, .ro, 0x0⟩, ⟨1, 1, .w1c, 0x0⟩, ⟨31, 16, .ro, 0x0⟩]⟩,
   ⟨"GAU_SEG_USED", 0x600000, 0x0, 1, 0x0, 1, [⟨20, 0, .ro, 0x0⟩]⟩,
   ⟨"GAU_IO_LEVEL", 0x600004, 0x0, 1, 0x0, 1, [⟨15, 0, .ro, 0x0⟩, ⟨19, 16, .ro, 0xF⟩]⟩,
   ⟨"ADC_REF_VAL", 0xC0000, 0x0, 1, 0x0, 1, [⟨31, 0, .ro, 0x124F80⟩]⟩,
   ⟨"ADC_FLAGS_LO", 0xC0004, 0x0, 1, 0x0, 1, [⟨31, 0, .ro, 0x0⟩]⟩,
   ⟨"ADC_FLAGS_HI", 0xC0008, 0x0, 1, 0x0, 1, [⟨3, 0, .ro, 0x0⟩]⟩,
   ⟨"ADC_PLS_SUM", 0xC000C, 0x0, 1, 0x0, 1, [⟨15, 0, .rc, 0x0⟩]⟩,
   ⟨"WEI_CTL", 0x60000, 0x0, 1, 0x0, 1, [⟨0, 0, .rw, 0x1⟩, ⟨1, 1, .rw, 0x0⟩]⟩]

/-- Registers that stand once, by BAR0 offset (R8, R9). -/
def RegMap.glb1 : List RegRow :=
  [⟨"WEI_STAT", 0x60004, 0x0, 1, 0x0, 1, [⟨0, 0, .ro, 0x0⟩, ⟨1, 1, .w1c, 0x0⟩, ⟨2, 2, .w1c, 0x0⟩, ⟨3, 3, .w1c, 0x0⟩, ⟨22, 16, .ro, 0x0⟩, ⟨30, 24, .rc, 0x0⟩]⟩,
   ⟨"WEI_READY", 0x60008, 0x0, 1, 0x0, 1, [⟨14, 0, .ro, 0x0⟩]⟩,
   ⟨"WEI_SPILLED", 0x6000C, 0x0, 1, 0x0, 1, [⟨20, 0, .ro, 0x0⟩]⟩,
   ⟨"WEI_CANCEL", 0x60010, 0x0, 1, 0x0, 1, [⟨19, 0, .wo, 0x0⟩, ⟨20, 20, .wo, 0x0⟩]⟩,
   ⟨"WEI_CANCEL_BASIN", 0x60014, 0x0, 1, 0x0, 1, [⟨7, 0, .wo, 0x0⟩, ⟨8, 8, .wo, 0x0⟩]⟩,
   ⟨"WEI_CANCEL_STAT", 0x60018, 0x0, 1, 0x0, 1, [⟨1, 0, .ro, 0x0⟩, ⟨2, 2, .ro, 0x0⟩, ⟨8, 3, .ro, 0x0⟩]⟩,
   ⟨"WEI_TRACE_BASE", 0x60020, 0x0, 1, 0x0, 1, [⟨31, 0, .rwl, 0x4000000⟩]⟩,
   ⟨"WEI_TRACE_SIZE", 0x60024, 0x0, 1, 0x0, 1, [⟨2, 0, .rwl, 0x0⟩]⟩,
   ⟨"WEI_TRACE_WR", 0x60028, 0x0, 1, 0x0, 1, [⟨22, 0, .ro, 0x0⟩]⟩,
   ⟨"WEI_TRACE_RD", 0x6002C, 0x0, 1, 0x0, 1, [⟨22, 0, .rw, 0x0⟩]⟩,
   ⟨"WEI_TRACE_LOST", 0x60030, 0x0, 1, 0x0, 1, [⟨31, 0, .rc, 0x0⟩]⟩,
   ⟨"WEI_TICK_LO", 0x60038, 0x0, 1, 0x0, 1, [⟨31, 0, .ro, 0x0⟩]⟩]

/-- Registers that stand once, by BAR0 offset (R8, R9). -/
def RegMap.glb2 : List RegRow :=
  [⟨"WEI_TICK_HI", 0x6003C, 0x0, 1, 0x0, 1, [⟨31, 0, .ro, 0x0⟩]⟩,
   ⟨"SLC_CTL", 0x70000, 0x0, 1, 0x0, 1, [⟨0, 0, .rw, 0x1⟩, ⟨1, 1, .rw, 0x0⟩]⟩,
   ⟨"SLC_STAT", 0x70004, 0x0, 1, 0x0, 1, [⟨0, 0, .ro, 0x0⟩, ⟨2, 1, .ro, 0x0⟩, ⟨3, 3, .ro, 0x0⟩, ⟨5, 4, .ro, 0x0⟩, ⟨6, 6, .w1c, 0x0⟩, ⟨7, 7, .ro, 0x0⟩, ⟨8, 8, .ro, 0x0⟩, ⟨9, 9, .ro, 0x0⟩]⟩,
   ⟨"SLC_CAP", 0x70008, 0x0, 1, 0x0, 1, [⟨15, 0, .ro, 0x0⟩, ⟨31, 16, .ro, 0x0⟩]⟩,
   ⟨"SLC_PAGE", 0x7000C, 0x0, 1, 0x0, 1, [⟨7, 0, .rw, 0x20⟩]⟩,
   ⟨"SLC_ASR", 0x70010, 0x0, 1, 0x0, 1, [⟨15, 0, .rw, 0x3E8⟩]⟩,
   ⟨"SLC_SCRUB", 0x70014, 0x0, 1, 0x0, 1, [⟨7, 0, .rw, 0x10⟩, ⟨31, 16, .ro, 0x0⟩]⟩,
   ⟨"SLC_SCRUB_POS_LO", 0x70018, 0x0, 1, 0x0, 1, [⟨31, 0, .ro, 0x0⟩]⟩,
   ⟨"SLC_SCRUB_POS_HI", 0x7001C, 0x0, 1, 0x0, 1, [⟨4, 0, .ro, 0x0⟩]⟩,
   ⟨"SLC_ECC_CE", 0x70020, 0x0, 1, 0x0, 1, [⟨31, 0, .rc, 0x0⟩]⟩,
   ⟨"SLC_ECC_RETRY", 0x70024, 0x0, 1, 0x0, 1, [⟨31, 0, .rc, 0x0⟩]⟩,
   ⟨"SLC_ECC_UE", 0x70028, 0x0, 1, 0x0, 1, [⟨31, 0, .rc, 0x0⟩]⟩]

/-- Registers that stand once, by BAR0 offset (R8, R9). -/
def RegMap.glb3 : List RegRow :=
  [⟨"SLC_ERR_LO", 0x7002C, 0x0, 1, 0x0, 1, [⟨31, 0, .ro, 0x0⟩]⟩,
   ⟨"SLC_ERR_HI", 0x70030, 0x0, 1, 0x0, 1, [⟨4, 0, .ro, 0x0⟩, ⟨9, 8, .ro, 0x0⟩, ⟨11, 10, .ro, 0x0⟩, ⟨18, 12, .ro, 0x0⟩]⟩,
   ⟨"SLC_REPAIR", 0x70034, 0x0, 1, 0x0, 1, [⟨7, 0, .ro, 0x0⟩, ⟨15, 8, .ro, 0x0⟩, ⟨23, 16, .ro, 0x0⟩, ⟨31, 24, .ro, 0xFF⟩]⟩,
   ⟨"SLC_TEMP", 0x70038, 0x0, 1, 0x0, 1, [⟨11, 0, .ro, 0x0⟩, ⟨27, 16, .ro, 0x0⟩]⟩,
   ⟨"SLC_TRAIN", 0x7003C, 0x0, 1, 0x0, 1, [⟨2, 0, .ro, 0x0⟩, ⟨6, 4, .ro, 0x0⟩]⟩,
   ⟨"SLC_USE", 0x70050, 0x4, 4, 0x0, 1, [⟨15, 0, .ro, 0x0⟩, ⟨31, 16, .rc, 0x0⟩]⟩,
   ⟨"HDW_CTL", 0x50000, 0x0, 1, 0x0, 1, [⟨1, 0, .rw, 0x1⟩]⟩,
   ⟨"HDW_STAT", 0x50004, 0x0, 1, 0x0, 1, [⟨0, 0, .ro, 0x0⟩, ⟨1, 1, .ro, 0x0⟩, ⟨2, 2, .ro, 0x0⟩, ⟨3, 3, .ro, 0x0⟩, ⟨4, 4, .ro, 0x0⟩, ⟨5, 5, .ro, 0x0⟩, ⟨6, 6, .w1c, 0x0⟩, ⟨7, 7, .w1c, 0x0⟩]⟩,
   ⟨"HDW_SYNC_CTL", 0x50008, 0x0, 1, 0x0, 1, [⟨0, 0, .rw, 0x0⟩, ⟨1, 1, .rw, 0x0⟩, ⟨2, 2, .wo, 0x0⟩]⟩,
   ⟨"HDW_SYNC_SKEW", 0x5000C, 0x0, 1, 0x0, 1, [⟨23, 0, .rws, 0x0⟩]⟩,
   ⟨"HDW_SYNC_DEV", 0x50010, 0x0, 1, 0x0, 1, [⟨15, 0, .ro, 0x0⟩, ⟨31, 16, .ro, 0x0⟩]⟩,
   ⟨"HDW_PHASE", 0x50014, 0x0, 1, 0x0, 1, [⟨15, 0, .ro, 0x0⟩]⟩]

/-- Registers that stand once, by BAR0 offset (R8, R9). -/
def RegMap.glb4 : List RegRow :=
  [⟨"TMB_CTL", 0x40000, 0x0, 1, 0x0, 1, [⟨0, 0, .wo, 0x0⟩, ⟨1, 1, .rw, 0x0⟩]⟩,
   ⟨"TMB_STAT", 0x40004, 0x0, 1, 0x0, 1, [⟨0, 0, .w1c, 0x0⟩, ⟨1, 1, .ro, 0x0⟩, ⟨2, 2, .w1c, 0x0⟩, ⟨3, 3, .w1c, 0x0⟩, ⟨4, 4, .w1c, 0x0⟩]⟩,
   ⟨"TMB_NOW_LO", 0x40008, 0x0, 1, 0x0, 1, [⟨31, 0, .ro, 0x0⟩]⟩,
   ⟨"TMB_NOW_HI", 0x4000C, 0x0, 1, 0x0, 1, [⟨23, 0, .ro, 0x0⟩, ⟨31, 24, .ro, 0x0⟩]⟩,
   ⟨"TMB_INC", 0x40010, 0x0, 1, 0x0, 1, [⟨31, 0, .rw, 0xA000000⟩]⟩,
   ⟨"TMB_STEP_LO", 0x40014, 0x0, 1, 0x0, 1, [⟨31, 0, .rw, 0x0⟩]⟩,
   ⟨"TMB_STEP_HI", 0x40018, 0x0, 1, 0x0, 1, [⟨23, 0, .rw, 0x0⟩]⟩,
   ⟨"TMB_APPLY_LO", 0x4001C, 0x0, 1, 0x0, 1, [⟨31, 0, .rw, 0x0⟩]⟩,
   ⟨"TMB_APPLY_HI", 0x40020, 0x0, 1, 0x0, 1, [⟨31, 0, .rw, 0x0⟩]⟩,
   ⟨"TMB_SYNC_LOAD_LO", 0x40024, 0x0, 1, 0x0, 1, [⟨31, 0, .rw, 0x0⟩]⟩,
   ⟨"TMB_SYNC_LOAD_HI", 0x40028, 0x0, 1, 0x0, 1, [⟨23, 0, .rw, 0x0⟩]⟩,
   ⟨"TMB_SYNC_TS_LO", 0x4002C, 0x0, 1, 0x0, 1, [⟨31, 0, .ro, 0x0⟩]⟩]

/-- Registers that stand once, by BAR0 offset (R8, R9). -/
def RegMap.glb5 : List RegRow :=
  [⟨"TMB_SYNC_TS_HI", 0x40030, 0x0, 1, 0x0, 1, [⟨23, 0, .ro, 0x0⟩]⟩,
   ⟨"TMB_PORT", 0x40100, 0x4, 10, 0x0, 1, [⟨15, 0, .rw, 0xC00⟩, ⟨31, 16, .rw, 0x1800⟩]⟩,
   ⟨"VTL_ID", 0xA0800, 0x0, 1, 0x0, 1, [⟨9, 0, .rws, 0x0⟩]⟩,
   ⟨"VTL_SYNC", 0xA0804, 0x0, 1, 0x0, 1, [⟨3, 0, .rw, 0x7⟩, ⟨31, 16, .rw, 0x100⟩]⟩,
   ⟨"VTL_TRIG_SRC_LO", 0xA0808, 0x0, 1, 0x0, 1, [⟨31, 0, .rw, 0x0⟩]⟩,
   ⟨"VTL_TRIG_SRC_HI", 0xA080C, 0x0, 1, 0x0, 1, [⟨31, 0, .rw, 0x0⟩]⟩,
   ⟨"RSV_CAL_CTL", 0x90000, 0x0, 1, 0x0, 1, [⟨0, 0, .rw, 0x1⟩, ⟨1, 1, .rw, 0x0⟩]⟩,
   ⟨"RSV_CAL_DELTA", 0x90004, 0x0, 1, 0x0, 1, [⟨6, 0, .rw, 0x18⟩, ⟨31, 16, .rw, 0x64⟩]⟩,
   ⟨"RSV_AUTO_LO", 0x90008, 0x0, 1, 0x0, 1, [⟨31, 0, .rw, 0xFFFFFFFF⟩]⟩,
   ⟨"RSV_AUTO_HI", 0x9000C, 0x0, 1, 0x0, 1, [⟨31, 0, .rw, 0xFFFFFFFF⟩]⟩,
   ⟨"RSV_STAT", 0x90010, 0x0, 1, 0x0, 1, [⟨0, 0, .ro, 0x0⟩, ⟨1, 1, .ro, 0x0⟩, ⟨2, 2, .w1c, 0x0⟩, ⟨3, 3, .w1c, 0x0⟩, ⟨13, 8, .ro, 0x0⟩, ⟨31, 16, .ro, 0x0⟩]⟩,
   ⟨"RSV_WRITES_LO", 0x90014, 0x0, 1, 0x0, 1, [⟨31, 0, .ro, 0x0⟩]⟩]

/-- Registers that stand once, by BAR0 offset (R8, R9). -/
def RegMap.glb6 : List RegRow :=
  [⟨"RSV_WRITES_HI", 0x90018, 0x0, 1, 0x0, 1, [⟨31, 0, .ro, 0x0⟩]⟩,
   ⟨"LEV_CTL", 0x20000, 0x0, 1, 0x0, 1, [⟨2, 0, .rw, 0x4⟩]⟩,
   ⟨"LEV_STAT", 0x20004, 0x0, 1, 0x0, 1, [⟨0, 0, .w1c, 0x0⟩, ⟨1, 1, .ro, 0x0⟩, ⟨2, 2, .w1c, 0x0⟩, ⟨3, 3, .ro, 0x0⟩, ⟨4, 4, .ro, 0x0⟩, ⟨5, 5, .w1c, 0x0⟩, ⟨6, 6, .w1c, 0x0⟩, ⟨7, 7, .ro, 0x0⟩, ⟨15, 8, .ro, 0x0⟩, ⟨24, 16, .ro, 0x0⟩]⟩,
   ⟨"LEV_LOG", 0x20010, 0x4, 4, 0x0, 1, [⟨31, 0, .ro, 0x0⟩]⟩,
   ⟨"LEV_FORCE", 0x20020, 0x0, 1, 0x0, 1, [⟨8, 0, .wo, 0x0⟩, ⟨31, 16, .wo, 0x0⟩]⟩,
   ⟨"LEV_ARM", 0x20024, 0x0, 1, 0x0, 1, [⟨8, 0, .wo, 0x0⟩, ⟨27, 16, .wo, 0x0⟩]⟩,
   ⟨"LEV_DUMP", 0x20028, 0x0, 1, 0x0, 1, [⟨0, 0, .wo, 0x0⟩]⟩,
   ⟨"LEV_PREV", 0x2002C, 0x0, 1, 0x0, 1, [⟨8, 0, .ro, 0x0⟩, ⟨31, 16, .ro, 0x0⟩]⟩,
   ⟨"LEV_SEV", 0x20400, 0x4, 512, 0x0, 1, [⟨2, 0, .rw, 0x0⟩, ⟨5, 3, .ro, 0x0⟩]⟩,
   ⟨"LEV_LOST", 0x20C00, 0x4, 512, 0x0, 1, [⟨15, 0, .rc, 0x0⟩]⟩,
   ⟨"LEV_PCNT", 0x21400, 0x4, 512, 0x0, 1, [⟨31, 0, .ro, 0x0⟩]⟩,
   ⟨"SPT_CTL", 0x30000, 0x0, 1, 0x0, 1, [⟨0, 0, .rw, 0x0⟩]⟩]

/-- Registers that stand once, by BAR0 offset (R8, R9). -/
def RegMap.glb7 : List RegRow :=
  [⟨"SPT_STAT", 0x30004, 0x0, 1, 0x0, 1, [⟨0, 0, .ro, 0x0⟩, ⟨1, 1, .w1c, 0x0⟩, ⟨2, 2, .w1c, 0x0⟩, ⟨3, 3, .w1c, 0x0⟩, ⟨11, 8, .ro, 0x0⟩, ⟨31, 16, .ro, 0x0⟩]⟩,
   ⟨"SPT_DROOP", 0x30008, 0x0, 1, 0x0, 1, [⟨5, 0, .rw, 0xC⟩]⟩,
   ⟨"SPT_STEP_LIMIT", 0x3000C, 0x0, 1, 0x0, 1, [⟨15, 0, .rw, 0x7D0⟩]⟩,
   ⟨"SPT_THR_TICKS", 0x30010, 0x0, 1, 0x0, 1, [⟨31, 0, .rc, 0x0⟩]⟩,
   ⟨"SPT_PACE", 0x30014, 0x0, 1, 0x0, 1, [⟨15, 0, .ro, 0x0⟩, ⟨23, 16, .ro, 0x0⟩]⟩,
   ⟨"SPT_SLACK", 0x30020, 0x0, 1, 0x0, 1, [⟨0, 0, .wo, 0x0⟩, ⟨2, 1, .ro, 0x0⟩]⟩,
   ⟨"SPT_WAKE_CTL", 0x30024, 0x0, 1, 0x0, 1, [⟨3, 0, .rw, 0x0⟩, ⟨6, 4, .ro, 0x7⟩, ⟨7, 7, .rw, 0x1⟩, ⟨11, 8, .rw, 0x0⟩]⟩,
   ⟨"SPT_WAKE_THR", 0x30030, 0x4, 4, 0x0, 1, [⟨11, 0, .rw, 0x0⟩]⟩,
   ⟨"SPT_WAKE_TEMP", 0x30040, 0x0, 1, 0x0, 1, [⟨11, 0, .rw, 0x2A8⟩]⟩,
   ⟨"SPT_WAKE_CAUSE", 0x30044, 0x0, 1, 0x0, 1, [⟨7, 0, .rc, 0x0⟩, ⟨8, 8, .rc, 0x0⟩]⟩,
   ⟨"SPT_MON", 0x30048, 0x0, 1, 0x0, 1, [⟨5, 0, .ro, 0x0⟩]⟩,
   ⟨"MRC_STAT", 0x80000, 0x0, 1, 0x0, 1, [⟨0, 0, .ro, 0x0⟩, ⟨3, 1, .ro, 0x0⟩, ⟨4, 4, .ro, 0x0⟩, ⟨5, 5, .ro, 0x0⟩, ⟨15, 8, .ro, 0x0⟩]⟩]

/-- Registers that stand once, by BAR0 offset (R8, R9). -/
def RegMap.glb8 : List RegRow :=
  [⟨"MRC_VER", 0x80004, 0x0, 1, 0x0, 1, [⟨15, 0, .ro, 0x0⟩, ⟨31, 16, .ro, 0x0⟩]⟩,
   ⟨"MRC_PATCH", 0x80008, 0x0, 1, 0x0, 1, [⟨31, 0, .ro, 0x0⟩]⟩,
   ⟨"MRC_TICK", 0x8000C, 0x0, 1, 0x0, 1, [⟨8, 0, .ro, 0x0⟩, ⟨24, 16, .rc, 0x0⟩]⟩,
   ⟨"MRC_FREE", 0x80010, 0x0, 1, 0x0, 1, [⟨9, 0, .ro, 0x0⟩]⟩,
   ⟨"MRC_LANE", 0x80020, 0x4, 3, 0x0, 1, [⟨15, 0, .ro, 0x0⟩, ⟨31, 16, .ro, 0x0⟩]⟩,
   ⟨"MRC_ABANDON", 0x80030, 0x0, 1, 0x0, 1, [⟨15, 0, .ro, 0x0⟩, ⟨23, 16, .ro, 0xFF⟩]⟩,
   ⟨"MRC_BOOT", 0x80040, 0x0, 1, 0x0, 1, [⟨0, 0, .ro, 0x0⟩, ⟨1, 1, .ro, 0x0⟩, ⟨2, 2, .ro, 0x0⟩, ⟨11, 8, .ro, 0x1⟩, ⟨23, 16, .ro, 0x0⟩]⟩,
   ⟨"MRC_UID_LO", 0x80048, 0x0, 1, 0x0, 1, [⟨31, 0, .ro, 0x0⟩]⟩,
   ⟨"MRC_UID_HI", 0x8004C, 0x0, 1, 0x0, 1, [⟨31, 0, .ro, 0x0⟩]⟩,
   ⟨"MRC_KEYS", 0x80050, 0x0, 1, 0x0, 1, [⟨3, 0, .ro, 0x0⟩, ⟨7, 4, .ro, 0x0⟩, ⟨9, 8, .ro, 0x0⟩]⟩,
   ⟨"GLB_ID", 0x0, 0x0, 1, 0x0, 1, [⟨15, 0, .ro, 0x1024⟩, ⟨19, 16, .ro, 0x1⟩, ⟨21, 20, .ro, 0x0⟩]⟩,
   ⟨"GLB_RESET", 0x4, 0x0, 1, 0x0, 1, [⟨15, 0, .wo, 0x0⟩]⟩]

/-- Registers that stand once, by BAR0 offset (R8, R9). -/
def RegMap.glb9 : List RegRow :=
  [⟨"GLB_ACC_STAT", 0x8, 0x0, 1, 0x0, 1, [⟨0, 0, .w1c, 0x0⟩, ⟨1, 1, .w1c, 0x0⟩, ⟨31, 16, .rc, 0x0⟩]⟩,
   ⟨"GLB_ACC_ADDR", 0xC, 0x0, 1, 0x0, 1, [⟨23, 0, .ro, 0x0⟩]⟩,
   ⟨"GLB_WIN", 0x10, 0x0, 1, 0x0, 1, [⟨6, 0, .rw, 0x0⟩]⟩,
   ⟨"GLB_WIN_STAT", 0x14, 0x0, 1, 0x0, 1, [⟨0, 0, .ro, 0x0⟩, ⟨1, 1, .w1c, 0x0⟩, ⟨31, 16, .rc, 0x0⟩]⟩,
   ⟨"GLB_PCI", 0x18, 0x0, 1, 0x0, 1, [⟨2, 0, .ro, 0x0⟩, ⟨8, 4, .ro, 0x0⟩]⟩,
   ⟨"MBX_SUM", 0x10800, 0x0, 1, 0x0, 1, [⟨7, 0, .w1c, 0x0⟩, ⟨15, 8, .w1c, 0x0⟩, ⟨23, 16, .ro, 0x0⟩]⟩]

def RegMap.glb : List RegRow := RegMap.glb0 ++ RegMap.glb1 ++ RegMap.glb2 ++ RegMap.glb3 ++ RegMap.glb4 ++ RegMap.glb5 ++ RegMap.glb6 ++ RegMap.glb7 ++ RegMap.glb8 ++ RegMap.glb9

/-- Registers of the bsn block, with access codes and reset values (R8, R9). -/
def RegMap.bsn0 : List RegRow :=
  [⟨"BSN_CTL", 0x0, 0x0, 1, 0x0, 1, [⟨0, 0, .rw, 0x0⟩, ⟨1, 1, .rw, 0x0⟩]⟩,
   ⟨"BSN_STATE", 0x4, 0x0, 1, 0x0, 1, [⟨2, 0, .ro, 0x0⟩, ⟨3, 3, .ro, 0x0⟩, ⟨4, 4, .ro, 0x0⟩, ⟨26, 16, .ro, 0x0⟩]⟩,
   ⟨"BSN_SHARES", 0x8, 0x0, 1, 0x0, 1, [⟨15, 0, .ro, 0x0⟩, ⟨31, 16, .ro, 0x0⟩]⟩,
   ⟨"BSN_HOUSE", 0xC, 0x0, 1, 0x0, 1, [⟨15, 0, .ro, 0x0⟩, ⟨31, 16, .ro, 0x0⟩]⟩,
   ⟨"BSN_FLOW_CTL", 0x40, 0x0, 1, 0x0, 1, [⟨2, 0, .rw, 0x0⟩, ⟨4, 3, .rw, 0x0⟩, ⟨10, 8, .rw, 0x0⟩, ⟨11, 11, .rw, 0x0⟩]⟩,
   ⟨"BSN_FLOW_LAT", 0x44, 0x0, 1, 0x0, 1, [⟨9, 0, .ro, 0x0⟩, ⟨24, 16, .ro, 0x0⟩]⟩,
   ⟨"BSN_FLOW_STAT", 0x48, 0x0, 1, 0x0, 1, [⟨0, 0, .ro, 0x0⟩, ⟨1, 1, .w1c, 0x0⟩, ⟨2, 2, .w1c, 0x0⟩, ⟨3, 3, .ro, 0x0⟩, ⟨4, 4, .ro, 0x0⟩, ⟨31, 16, .ro, 0x0⟩]⟩,
   ⟨"BSN_EVENT", 0x4C, 0x0, 1, 0x0, 1, [⟨7, 0, .w1c, 0x0⟩, ⟨15, 8, .wo, 0x0⟩]⟩,
   ⟨"BSN_LCTR", 0x50, 0x4, 4, 0x0, 1, [⟨15, 0, .ro, 0x0⟩]⟩,
   ⟨"BSN_SYNCPT_T_LO", 0x60, 0x0, 1, 0x0, 1, [⟨31, 0, .ro, 0x0⟩]⟩,
   ⟨"BSN_SYNCPT_T_HI", 0x64, 0x0, 1, 0x0, 1, [⟨7, 0, .ro, 0x0⟩]⟩,
   ⟨"BSN_FLOW_MASTER", 0x68, 0x0, 1, 0x0, 1, [⟨9, 0, .ro, 0x0⟩, ⟨10, 10, .ro, 0x0⟩]⟩]

/-- Registers of the bsn block, with access codes and reset values (R8, R9). -/
def RegMap.bsn1 : List RegRow :=
  [⟨"BSN_CRS_POS", 0x80, 0x0, 1, 0x0, 1, [⟨15, 0, .ro, 0x0⟩, ⟨18, 16, .ro, 0x0⟩]⟩,
   ⟨"BSN_CRS_PASS", 0x84, 0x0, 1, 0x0, 1, [⟨31, 0, .ro, 0x0⟩]⟩,
   ⟨"BSN_CRS_ERR", 0x88, 0x0, 1, 0x0, 1, [⟨7, 0, .ro, 0x0⟩, ⟨31, 16, .ro, 0x0⟩]⟩,
   ⟨"BSN_CRS_JUMP", 0x8C, 0x0, 1, 0x0, 1, [⟨15, 0, .ro, 0x0⟩, ⟨18, 16, .ro, 0x0⟩, ⟨19, 19, .ro, 0x0⟩]⟩,
   ⟨"BSN_CRS_HZN", 0x90, 0x0, 1, 0x0, 1, [⟨9, 0, .ro, 0x0⟩]⟩,
   ⟨"BSN_CRS_WIN", 0x94, 0x0, 1, 0x0, 1, [⟨5, 0, .ro, 0x0⟩, ⟨25, 16, .ro, 0x0⟩]⟩,
   ⟨"BSN_STALL_CNT", 0x98, 0x0, 1, 0x0, 1, [⟨15, 0, .ro, 0x0⟩, ⟨31, 16, .ro, 0x0⟩]⟩,
   ⟨"BSN_STALL_TIME_LO", 0x9C, 0x0, 1, 0x0, 1, [⟨31, 0, .ro, 0x0⟩]⟩,
   ⟨"BSN_STALL_TIME_HI", 0xA0, 0x0, 1, 0x0, 1, [⟨31, 0, .ro, 0x0⟩]⟩,
   ⟨"BSN_STALL_LAST_LO", 0xA4, 0x0, 1, 0x0, 1, [⟨31, 0, .ro, 0x0⟩]⟩,
   ⟨"BSN_STALL_LAST_HI", 0xA8, 0x0, 1, 0x0, 1, [⟨7, 0, .ro, 0x0⟩, ⟨10, 8, .ro, 0x0⟩]⟩,
   ⟨"BSN_RES_LOAD", 0xAC, 0x0, 1, 0x0, 1, [⟨1, 0, .ro, 0x0⟩]⟩]

/-- Registers of the bsn block, with access codes and reset values (R8, R9). -/
def RegMap.bsn2 : List RegRow :=
  [⟨"BSN_TS_PER_LO", 0x100, 0x8, 16, 0x0, 1, [⟨31, 0, .rw, 0x0⟩]⟩,
   ⟨"BSN_TS_PER_HI", 0x104, 0x8, 16, 0x0, 1, [⟨7, 0, .rw, 0x0⟩, ⟨9, 8, .rw, 0x0⟩, ⟨10, 10, .rw, 0x0⟩]⟩,
   ⟨"BSN_TS_EPOCH_LO", 0x180, 0x0, 1, 0x0, 1, [⟨31, 0, .ro, 0x0⟩]⟩,
   ⟨"BSN_TS_EPOCH_HI", 0x184, 0x0, 1, 0x0, 1, [⟨7, 0, .ro, 0x0⟩, ⟨8, 8, .ro, 0x0⟩]⟩,
   ⟨"BSN_TS_STAT", 0x188, 0x0, 1, 0x0, 1, [⟨3, 0, .ro, 0x0⟩, ⟨31, 16, .ro, 0x0⟩]⟩,
   ⟨"BSN_TS_EXT_LO", 0x190, 0x0, 1, 0x0, 1, [⟨31, 0, .ro, 0x0⟩]⟩,
   ⟨"BSN_TS_EXT_HI", 0x194, 0x0, 1, 0x0, 1, [⟨31, 0, .ro, 0x0⟩]⟩,
   ⟨"BSN_LVL_LOAD", 0x200, 0x0, 1, 0x0, 1, [⟨0, 0, .wo, 0x0⟩]⟩,
   ⟨"BSN_LVL_STAT", 0x204, 0x0, 1, 0x0, 1, [⟨15, 0, .ro, 0x0⟩, ⟨16, 16, .ro, 0x0⟩, ⟨17, 17, .w1c, 0x0⟩]⟩,
   ⟨"BSN_LVL_LAST_LO", 0x208, 0x0, 1, 0x0, 1, [⟨31, 0, .ro, 0x0⟩]⟩,
   ⟨"BSN_LVL_LAST_HI", 0x20C, 0x0, 1, 0x0, 1, [⟨7, 0, .ro, 0x0⟩]⟩,
   ⟨"BSN_CAP_CTL", 0x400, 0x0, 1, 0x0, 1, [⟨0, 0, .rw, 0x0⟩, ⟨1, 1, .wo, 0x0⟩, ⟨2, 2, .rw, 0x0⟩, ⟨3, 3, .rw, 0x0⟩, ⟨5, 4, .rw, 0x0⟩]⟩]

/-- Registers of the bsn block, with access codes and reset values (R8, R9). -/
def RegMap.bsn3 : List RegRow :=
  [⟨"BSN_CAP_PRE", 0x404, 0x0, 1, 0x0, 1, [⟨12, 0, .rw, 0x0⟩]⟩,
   ⟨"BSN_CAP_POST", 0x408, 0x0, 1, 0x0, 1, [⟨31, 0, .rw, 0x1⟩]⟩,
   ⟨"BSN_CAP_SEG", 0x40C, 0x0, 1, 0x0, 1, [⟨4, 0, .rw, 0xC⟩]⟩,
   ⟨"BSN_CAP_RECS", 0x410, 0x0, 1, 0x0, 1, [⟨31, 0, .rw, 0x0⟩]⟩,
   ⟨"BSN_CAP_STAT", 0x414, 0x0, 1, 0x0, 1, [⟨0, 0, .ro, 0x0⟩, ⟨1, 1, .ro, 0x0⟩, ⟨2, 2, .ro, 0x0⟩, ⟨3, 3, .ro, 0x0⟩, ⟨4, 4, .ro, 0x0⟩, ⟨5, 5, .w1c, 0x0⟩, ⟨6, 6, .w1c, 0x0⟩, ⟨7, 7, .w1c, 0x0⟩, ⟨8, 8, .w1c, 0x0⟩, ⟨9, 9, .w1c, 0x0⟩, ⟨23, 16, .ro, 0x0⟩]⟩,
   ⟨"BSN_CAP_NSEG", 0x418, 0x0, 1, 0x0, 1, [⟨20, 0, .ro, 0x0⟩]⟩,
   ⟨"BSN_CAP_WR", 0x41C, 0x0, 1, 0x0, 1, [⟨19, 0, .ro, 0x0⟩]⟩,
   ⟨"BSN_CAP_RD", 0x420, 0x0, 1, 0x0, 1, [⟨19, 0, .rw, 0x0⟩]⟩,
   ⟨"BSN_CAP_SEQ", 0x424, 0x0, 1, 0x0, 1, [⟨31, 0, .ro, 0x0⟩]⟩,
   ⟨"BSN_CAP_MISSED", 0x428, 0x0, 1, 0x0, 1, [⟨31, 0, .ro, 0x0⟩]⟩,
   ⟨"BSN_CAP_LOST_LO", 0x42C, 0x0, 1, 0x0, 1, [⟨31, 0, .ro, 0x0⟩]⟩,
   ⟨"BSN_CAP_LOST_HI", 0x430, 0x0, 1, 0x0, 1, [⟨31, 0, .ro, 0x0⟩]⟩]

/-- Registers of the bsn block, with access codes and reset values (R8, R9). -/
def RegMap.bsn4 : List RegRow :=
  [⟨"BSN_CAP_UNITS", 0x434, 0x0, 1, 0x0, 1, [⟨31, 0, .ro, 0x0⟩]⟩,
   ⟨"BSN_CAP_GEOM", 0x438, 0x0, 1, 0x0, 1, [⟨6, 0, .ro, 0x0⟩, ⟨31, 16, .ro, 0x0⟩]⟩,
   ⟨"BSN_CAP_OVWR", 0x43C, 0x0, 1, 0x0, 1, [⟨31, 0, .ro, 0x0⟩]⟩,
   ⟨"BSN_GAU_FAILS", 0x440, 0x0, 1, 0x0, 1, [⟨31, 0, .ro, 0x0⟩]⟩,
   ⟨"BSN_GAU_FAILVEC", 0x444, 0x0, 1, 0x0, 1, [⟨31, 0, .ro, 0x0⟩]⟩,
   ⟨"BSN_GAU_FIRST", 0x448, 0x0, 1, 0x0, 1, [⟨9, 0, .ro, 0x0⟩, ⟨10, 10, .ro, 0x0⟩]⟩,
   ⟨"BSN_GAU_FFV_LO", 0x44C, 0x0, 1, 0x0, 1, [⟨31, 0, .ro, 0xFFFFFFFF⟩]⟩,
   ⟨"BSN_GAU_FFV_HI", 0x450, 0x0, 1, 0x0, 1, [⟨31, 0, .ro, 0xFFFFFFFF⟩]⟩,
   ⟨"BSN_CAP_OCC", 0x454, 0x0, 1, 0x0, 1, [⟨20, 0, .ro, 0x0⟩]⟩,
   ⟨"TON_CTL", 0x500, 0x20, 4, 0x0, 1, [⟨0, 0, .rw, 0x0⟩, ⟨1, 1, .rw, 0x0⟩, ⟨2, 2, .rw, 0x0⟩]⟩,
   ⟨"TON_STAT", 0x504, 0x20, 4, 0x0, 1, [⟨0, 0, .ro, 0x0⟩, ⟨1, 1, .ro, 0x0⟩, ⟨2, 2, .ro, 0x0⟩, ⟨3, 3, .ro, 0x0⟩, ⟨31, 16, .ro, 0x0⟩]⟩,
   ⟨"TON_FTW_LO", 0x508, 0x20, 4, 0x0, 1, [⟨31, 0, .rw, 0x0⟩]⟩]

/-- Registers of the bsn block, with access codes and reset values (R8, R9). -/
def RegMap.bsn5 : List RegRow :=
  [⟨"TON_FTW_HI", 0x50C, 0x20, 4, 0x0, 1, [⟨14, 0, .rw, 0x0⟩]⟩,
   ⟨"TON_POFF_LO", 0x510, 0x20, 4, 0x0, 1, [⟨31, 0, .rw, 0x0⟩]⟩,
   ⟨"TON_POFF_HI", 0x514, 0x20, 4, 0x0, 1, [⟨15, 0, .rw, 0x0⟩]⟩,
   ⟨"TON_PH_LO", 0x518, 0x20, 4, 0x0, 1, [⟨31, 0, .ro, 0x0⟩]⟩,
   ⟨"TON_PH_HI", 0x51C, 0x20, 4, 0x0, 1, [⟨15, 0, .ro, 0x0⟩]⟩,
   ⟨"BSN_WEI_STAT", 0x600, 0x0, 1, 0x0, 1, [⟨1, 0, .ro, 0x0⟩, ⟨2, 2, .ro, 0x0⟩, ⟨3, 3, .ro, 0x0⟩, ⟨4, 4, .ro, 0x0⟩, ⟨15, 8, .ro, 0x0⟩]⟩,
   ⟨"BSN_WEI_RUN", 0x604, 0x0, 1, 0x0, 1, [⟨19, 0, .ro, 0x0⟩, ⟨31, 31, .ro, 0x0⟩]⟩,
   ⟨"BSN_WEI_DECK", 0x608, 0x0, 1, 0x0, 1, [⟨19, 0, .ro, 0x0⟩, ⟨31, 31, .ro, 0x0⟩]⟩,
   ⟨"BSN_WEI_COUNT", 0x60C, 0x0, 1, 0x0, 1, [⟨12, 0, .ro, 0x0⟩, ⟨31, 16, .ro, 0x0⟩]⟩,
   ⟨"BSN_WEI_START_LO", 0x610, 0x0, 1, 0x0, 1, [⟨31, 0, .ro, 0x0⟩]⟩,
   ⟨"BSN_WEI_START_HI", 0x614, 0x0, 1, 0x0, 1, [⟨7, 0, .ro, 0x0⟩, ⟨8, 8, .ro, 0x0⟩]⟩]

def RegMap.bsn : List RegRow := RegMap.bsn0 ++ RegMap.bsn1 ++ RegMap.bsn2 ++ RegMap.bsn3 ++ RegMap.bsn4 ++ RegMap.bsn5

/-- Registers of the pin block, with access codes and reset values (R8, R9). -/
def RegMap.pin0 : List RegRow :=
  [⟨"PIN_ENG_STAT", 0x0, 0x0, 1, 0x0, 1, [⟨10, 0, .ro, 0x7FF⟩, ⟨11, 11, .ro, 0x0⟩, ⟨14, 12, .ro, 0x0⟩, ⟨18, 16, .ro, 0x0⟩]⟩,
   ⟨"PIN_ENG_PC", 0x4, 0x0, 1, 0x0, 1, [⟨10, 0, .ro, 0x0⟩, ⟨11, 11, .ro, 0x0⟩, ⟨25, 16, .ro, 0x0⟩]⟩,
   ⟨"PIN_ENG_ERR", 0x8, 0x0, 1, 0x0, 1, [⟨7, 0, .ro, 0x0⟩, ⟨18, 8, .ro, 0x0⟩, ⟨19, 19, .ro, 0x0⟩]⟩,
   ⟨"PIN_ENG_SIG", 0xC, 0x0, 1, 0x0, 1, [⟨31, 0, .ro, 0xFFFFFFFF⟩]⟩,
   ⟨"PIN_PAL", 0x10, 0x4, 4, 0x0, 1, [⟨15, 0, .rw, 0x5410⟩]⟩,
   ⟨"PIN_PAL_LIVE_LO", 0x20, 0x0, 1, 0x0, 1, [⟨31, 0, .ro, 0x54105410⟩]⟩,
   ⟨"PIN_PAL_LIVE_HI", 0x24, 0x0, 1, 0x0, 1, [⟨31, 0, .ro, 0x54105410⟩]⟩,
   ⟨"PIN_VCNT_LO", 0x28, 0x0, 1, 0x0, 1, [⟨31, 0, .ro, 0x0⟩]⟩,
   ⟨"PIN_VCNT_HI", 0x2C, 0x0, 1, 0x0, 1, [⟨31, 0, .ro, 0x0⟩]⟩,
   ⟨"PIN_LS_ADDR", 0x40, 0x0, 1, 0x0, 1, [⟨10, 0, .rw, 0x0⟩, ⟨16, 16, .rw, 0x0⟩]⟩,
   ⟨"PIN_LS_CTL", 0x44, 0x0, 1, 0x0, 1, [⟨0, 0, .wo, 0x0⟩, ⟨1, 1, .wo, 0x0⟩, ⟨8, 8, .ro, 0x0⟩, ⟨9, 9, .w1c, 0x0⟩]⟩,
   ⟨"PIN_LS_DATA", 0x60, 0x4, 8, 0x0, 1, [⟨31, 0, .rw, 0x0⟩]⟩]

/-- Registers of the pin block, with access codes and reset values (R8, R9). -/
def RegMap.pin1 : List RegRow :=
  [⟨"PIN_DSK_DRV", 0x80, 0x0, 1, 0x0, 1, [⟨14, 0, .ro, 0x0⟩, ⟨31, 16, .rw, 0x0⟩]⟩,
   ⟨"PIN_DSK_CMP", 0x84, 0x0, 1, 0x0, 1, [⟨14, 0, .ro, 0x0⟩, ⟨31, 16, .rw, 0x0⟩]⟩,
   ⟨"PIN_DSK_STAT", 0x88, 0x0, 1, 0x0, 1, [⟨14, 0, .ro, 0x0⟩, ⟨15, 15, .ro, 0x0⟩, ⟨30, 16, .ro, 0x0⟩, ⟨31, 31, .ro, 0x0⟩]⟩,
   ⟨"PIN_TG_STAT", 0x8C, 0x0, 1, 0x0, 1, [⟨0, 0, .w1c, 0x0⟩, ⟨1, 1, .w1c, 0x0⟩, ⟨11, 8, .ro, 0x0⟩, ⟨31, 16, .ro, 0x0⟩]⟩,
   ⟨"PIN_TG_VALID", 0x90, 0x0, 1, 0x0, 1, [⟨15, 0, .ro, 0x0⟩, ⟨23, 16, .ro, 0x0⟩, ⟨27, 24, .ro, 0x0⟩]⟩,
   ⟨"PIN_TS_DRV", 0x400, 0x40, 16, 0x10, 4, [⟨23, 0, .rw, 0x0⟩, ⟨25, 24, .rw, 0x0⟩]⟩,
   ⟨"PIN_TS_RET", 0x404, 0x40, 16, 0x10, 4, [⟨23, 0, .rw, 0x0⟩]⟩,
   ⟨"PIN_TS_SOPEN", 0x408, 0x40, 16, 0x10, 4, [⟨23, 0, .rw, 0x0⟩]⟩,
   ⟨"PIN_TS_SCLOSE", 0x40C, 0x40, 16, 0x10, 4, [⟨23, 0, .rw, 0x0⟩]⟩,
   ⟨"PIN_FE_CTL", 0x100, 0x0, 1, 0x0, 1, [⟨0, 0, .rw, 0x0⟩]⟩,
   ⟨"PIN_FE_STAT", 0x104, 0x0, 1, 0x0, 1, [⟨0, 0, .ro, 0x1⟩, ⟨1, 1, .w1c, 0x0⟩, ⟨2, 2, .w1c, 0x0⟩, ⟨3, 3, .w1c, 0x0⟩, ⟨4, 4, .ro, 0x0⟩, ⟨6, 5, .ro, 0x0⟩, ⟨31, 16, .ro, 0x0⟩]⟩,
   ⟨"PIN_LVL_STG", 0x110, 0x4, 6, 0x0, 1, [⟨15, 0, .rw, 0x3333⟩]⟩]

/-- Registers of the pin block, with access codes and reset values (R8, R9). -/
def RegMap.pin2 : List RegRow :=
  [⟨"PIN_LVL_ACT", 0x128, 0x4, 6, 0x0, 1, [⟨15, 0, .ro, 0x3333⟩]⟩,
   ⟨"PIN_LVL_CLR", 0x140, 0x4, 6, 0x0, 1, [⟨15, 0, .rws, 0x3333⟩]⟩,
   ⟨"PIN_PMU_CTL", 0x160, 0x0, 1, 0x0, 1, [⟨0, 0, .rw, 0x0⟩, ⟨2, 1, .rw, 0x0⟩, ⟨5, 3, .rw, 0x4⟩, ⟨6, 6, .rw, 0x0⟩, ⟨8, 7, .rw, 0x0⟩]⟩,
   ⟨"PIN_PMU_AMP", 0x164, 0x0, 1, 0x0, 1, [⟨15, 0, .rw, 0x0⟩]⟩,
   ⟨"PIN_PMU_STAT", 0x168, 0x0, 1, 0x0, 1, [⟨0, 0, .ro, 0x0⟩, ⟨1, 1, .ro, 0x0⟩, ⟨2, 2, .ro, 0x0⟩, ⟨3, 3, .ro, 0x0⟩, ⟨4, 4, .ro, 0x0⟩, ⟨5, 5, .w1c, 0x0⟩, ⟨6, 6, .w1c, 0x0⟩, ⟨10, 8, .ro, 0x4⟩, ⟨12, 11, .ro, 0x0⟩]⟩,
   ⟨"PIN_GAU_CTL", 0x180, 0x0, 1, 0x0, 1, [⟨0, 0, .rw, 0x0⟩, ⟨4, 1, .rw, 0x0⟩, ⟨5, 5, .rw, 0x0⟩]⟩,
   ⟨"PIN_GAU_FAIL", 0x184, 0x0, 1, 0x0, 1, [⟨31, 0, .ro, 0x0⟩]⟩,
   ⟨"PIN_GAU_FFV_LO", 0x188, 0x0, 1, 0x0, 1, [⟨31, 0, .ro, 0xFFFFFFFF⟩]⟩,
   ⟨"PIN_GAU_FFV_HI", 0x18C, 0x0, 1, 0x0, 1, [⟨31, 0, .ro, 0xFFFFFFFF⟩]⟩,
   ⟨"PIN_GAU_CMP", 0x190, 0x0, 1, 0x0, 1, [⟨0, 0, .ro, 0x0⟩, ⟨1, 1, .ro, 0x0⟩]⟩,
   ⟨"PIN_CAL_LVL", 0x1C0, 0x4, 6, 0x0, 1, [⟨15, 0, .ro, 0x0⟩, ⟨31, 16, .ro, 0x0⟩]⟩,
   ⟨"PIN_CAL_CMP", 0x1D8, 0x0, 1, 0x0, 1, [⟨15, 0, .ro, 0x0⟩, ⟨31, 16, .ro, 0x0⟩]⟩]

/-- Registers of the pin block, with access codes and reset values (R8, R9). -/
def RegMap.pin3 : List RegRow :=
  [⟨"PIN_CAL_PMUI", 0x1E0, 0x4, 5, 0x0, 1, [⟨15, 0, .ro, 0x0⟩, ⟨31, 16, .ro, 0x0⟩]⟩,
   ⟨"PIN_CAL_PMUM", 0x1F4, 0x4, 5, 0x0, 1, [⟨15, 0, .ro, 0x0⟩, ⟨31, 16, .ro, 0x0⟩]⟩,
   ⟨"PIN_CAL_STAT", 0x208, 0x0, 1, 0x0, 1, [⟨0, 0, .w1c, 0x0⟩, ⟨1, 1, .w1c, 0x0⟩, ⟨2, 2, .w1c, 0x0⟩, ⟨9, 8, .ro, 0x2⟩, ⟨23, 16, .ro, 0x0⟩]⟩]

def RegMap.pin : List RegRow := RegMap.pin0 ++ RegMap.pin1 ++ RegMap.pin2 ++ RegMap.pin3

/-- Registers of the trb block, with access codes and reset values (R8, R9). -/
def RegMap.trb0 : List RegRow :=
  [⟨"TRB_FE_STAT", 0x8000, 0x0, 1, 0x0, 1, [⟨0, 0, .ro, 0x0⟩, ⟨1, 1, .w1c, 0x0⟩, ⟨27, 16, .ro, 0x0⟩]⟩,
   ⟨"TRB_GAU_DRAIN", 0x9000, 0x0, 1, 0x0, 1, [⟨11, 0, .ro, 0x0⟩, ⟨27, 16, .rc, 0x0⟩]⟩,
   ⟨"TRB_GAU_HIST", 0x9004, 0x0, 1, 0x0, 1, [⟨9, 0, .ro, 0x0⟩]⟩,
   ⟨"TRB_GAU_OVF", 0x9008, 0x0, 1, 0x0, 1, [⟨15, 0, .ro, 0x0⟩]⟩,
   ⟨"DLT_CTL", 0xA000, 0x0, 1, 0x0, 1, [⟨0, 0, .rw, 0x0⟩, ⟨1, 1, .rw, 0x0⟩, ⟨2, 2, .rw, 0x0⟩, ⟨4, 3, .rw, 0x0⟩]⟩,
   ⟨"DLT_GAIN", 0xA004, 0x0, 1, 0x0, 1, [⟨15, 0, .rw, 0x8000⟩, ⟨31, 16, .rw, 0x0⟩]⟩,
   ⟨"DLT_RATE", 0xA008, 0x0, 1, 0x0, 1, [⟨15, 0, .rw, 0x0⟩]⟩,
   ⟨"DLT_STAT", 0xA00C, 0x0, 1, 0x0, 1, [⟨0, 0, .ro, 0x0⟩, ⟨1, 1, .ro, 0x0⟩, ⟨2, 2, .ro, 0x0⟩, ⟨3, 3, .ro, 0x0⟩, ⟨4, 4, .w1c, 0x0⟩, ⟨5, 5, .w1c, 0x0⟩, ⟨6, 6, .ro, 0x0⟩, ⟨7, 7, .ro, 0x0⟩, ⟨8, 8, .ro, 0x0⟩, ⟨9, 9, .w1c, 0x0⟩, ⟨28, 16, .ro, 0x0⟩]⟩,
   ⟨"DLT_OWNER", 0xA010, 0x0, 1, 0x0, 1, [⟨7, 0, .ro, 0x0⟩, ⟨17, 8, .ro, 0x0⟩]⟩,
   ⟨"DLT_SHORT", 0xA014, 0x0, 1, 0x0, 1, [⟨31, 0, .ro, 0x0⟩]⟩,
   ⟨"TRB_CAL_STAT", 0xB000, 0x0, 1, 0x0, 1, [⟨2, 0, .ro, 0x0⟩, ⟨6, 4, .ro, 0x0⟩, ⟨7, 7, .ro, 0x0⟩, ⟨8, 8, .w1c, 0x0⟩, ⟨31, 16, .ro, 0x0⟩]⟩,
   ⟨"TRB_CAL_T0", 0xB004, 0x0, 1, 0x0, 1, [⟨11, 0, .ro, 0x0⟩, ⟨27, 16, .ro, 0x0⟩]⟩]

/-- Registers of the trb block, with access codes and reset values (R8, R9). -/
def RegMap.trb1 : List RegRow :=
  [⟨"TRB_CAL_T1", 0xB008, 0x0, 1, 0x0, 1, [⟨11, 0, .ro, 0x0⟩, ⟨27, 16, .ro, 0x0⟩]⟩,
   ⟨"TRB_CAL_REJ", 0xB00C, 0x0, 1, 0x0, 1, [⟨15, 0, .w1c, 0x0⟩, ⟨31, 16, .ro, 0x0⟩]⟩,
   ⟨"TRB_CAL_DLT", 0xB010, 0x0, 1, 0x0, 1, [⟨15, 0, .ro, 0x0⟩]⟩,
   ⟨"TRB_AUD_STAT", 0xC000, 0x0, 1, 0x0, 1, [⟨3, 0, .ro, 0x0⟩, ⟨4, 4, .ro, 0x0⟩, ⟨5, 5, .ro, 0x0⟩, ⟨6, 6, .ro, 0x0⟩, ⟨7, 7, .ro, 0x0⟩, ⟨11, 8, .ro, 0x0⟩, ⟨12, 12, .ro, 0x0⟩, ⟨31, 16, .ro, 0x0⟩]⟩,
   ⟨"TRB_AUD_COUNT", 0xC004, 0x0, 1, 0x0, 1, [⟨31, 0, .ro, 0x0⟩]⟩]

def RegMap.trb : List RegRow := RegMap.trb0 ++ RegMap.trb1

/-- Registers of the tsq block, with access codes and reset values (R8, R9). -/
def RegMap.tsq0 : List RegRow :=
  [⟨"TSQ_CTL", 0x0, 0x0, 1, 0x0, 1, [⟨0, 0, .rw, 0x0⟩]⟩,
   ⟨"TSQ_STAT", 0x4, 0x0, 1, 0x0, 1, [⟨2, 0, .ro, 0x0⟩, ⟨3, 3, .ro, 0x0⟩, ⟨4, 4, .ro, 0x0⟩, ⟨5, 5, .w1c, 0x0⟩, ⟨6, 6, .w1c, 0x0⟩, ⟨7, 7, .ro, 0x0⟩, ⟨10, 8, .ro, 0x0⟩, ⟨11, 11, .ro, 0x0⟩]⟩,
   ⟨"TSQ_OCC", 0x8, 0x0, 1, 0x0, 1, [⟨31, 0, .ro, 0x0⟩]⟩,
   ⟨"TSQ_TRIGS", 0xC, 0x0, 1, 0x0, 1, [⟨31, 0, .ro, 0x0⟩]⟩,
   ⟨"TSQ_COND", 0x40, 0x10, 8, 0x0, 1, [⟨3, 0, .rw, 0x0⟩, ⟨9, 4, .rw, 0x0⟩, ⟨12, 10, .rw, 0x0⟩, ⟨15, 13, .rw, 0x0⟩, ⟨16, 16, .rw, 0x0⟩, ⟨17, 17, .rw, 0x0⟩]⟩,
   ⟨"TSQ_COUNT", 0x44, 0x10, 8, 0x0, 1, [⟨31, 0, .rw, 0x0⟩]⟩,
   ⟨"TSQ_TIMER", 0x48, 0x10, 8, 0x0, 1, [⟨31, 0, .rw, 0x0⟩]⟩,
   ⟨"GAU_TSQ_RESTART", 0x10, 0x0, 1, 0x0, 1, [⟨0, 0, .wo, 0x0⟩]⟩]

def RegMap.tsq : List RegRow := RegMap.tsq0

/-- Registers of the adc block, with access codes and reset values (R8, R9). -/
def RegMap.adc0 : List RegRow :=
  [⟨"ADC_CTL", 0x0, 0x0, 1, 0x0, 1, [⟨0, 0, .rw, 0x0⟩, ⟨1, 1, .rw, 0x0⟩, ⟨3, 2, .rw, 0x0⟩, ⟨4, 4, .wo, 0x0⟩, ⟨15, 8, .rw, 0x0⟩]⟩,
   ⟨"ADC_STAT", 0x4, 0x0, 1, 0x0, 1, [⟨0, 0, .ro, 0x0⟩, ⟨1, 1, .ro, 0x0⟩, ⟨2, 2, .ro, 0x0⟩, ⟨3, 3, .ro, 0x0⟩, ⟨4, 4, .ro, 0x0⟩, ⟨5, 5, .ro, 0x0⟩, ⟨6, 6, .ro, 0x0⟩, ⟨7, 7, .ro, 0x0⟩, ⟨8, 8, .w1c, 0x0⟩, ⟨9, 9, .w1c, 0x0⟩, ⟨10, 10, .w1c, 0x0⟩, ⟨11, 11, .ro, 0x0⟩, ⟨14, 12, .ro, 0x0⟩, ⟨31, 16, .ro, 0x0⟩]⟩,
   ⟨"ADC_MASK_LO", 0x8, 0x0, 1, 0x0, 1, [⟨31, 0, .rw, 0x0⟩]⟩,
   ⟨"ADC_MASK_HI", 0xC, 0x0, 1, 0x0, 1, [⟨7, 0, .rw, 0x0⟩]⟩,
   ⟨"ADC_DWELL", 0x10, 0x0, 1, 0x0, 1, [⟨15, 0, .rw, 0xF⟩, ⟨31, 16, .rw, 0x0⟩]⟩,
   ⟨"ADC_PERIOD", 0x14, 0x0, 1, 0x0, 1, [⟨15, 0, .rw, 0x0⟩]⟩,
   ⟨"ADC_THR", 0x18, 0x0, 1, 0x0, 1, [⟨5, 0, .rw, 0x0⟩, ⟨6, 6, .rw, 0x0⟩, ⟨7, 7, .ro, 0x0⟩]⟩,
   ⟨"ADC_THR_LIM", 0x1C, 0x0, 1, 0x0, 1, [⟨15, 0, .rw, 0x0⟩, ⟨31, 16, .rw, 0xFFFF⟩]⟩,
   ⟨"ADC_FIFO_LO", 0x20, 0x0, 1, 0x0, 1, [⟨31, 0, .ro, 0x0⟩]⟩,
   ⟨"ADC_FIFO_HI", 0x24, 0x0, 1, 0x0, 1, [⟨31, 0, .ro, 0x0⟩]⟩,
   ⟨"ADC_FIFO_STAT", 0x28, 0x0, 1, 0x0, 1, [⟨10, 0, .ro, 0x0⟩, ⟨31, 16, .rc, 0x0⟩]⟩,
   ⟨"ADC_CAL", 0x2C, 0x0, 1, 0x0, 1, [⟨3, 0, .ro, 0x0⟩, ⟨7, 4, .ro, 0xF⟩, ⟨31, 16, .ro, 0x0⟩]⟩]

/-- Registers of the adc block, with access codes and reset values (R8, R9). -/
def RegMap.adc1 : List RegRow :=
  [⟨"ADC_GAIN", 0x30, 0x0, 1, 0x0, 1, [⟨15, 0, .ro, 0x8000⟩]⟩,
   ⟨"ADC_OFFS", 0x34, 0x0, 1, 0x0, 1, [⟨15, 0, .ro, 0x0⟩]⟩,
   ⟨"ADC_PLS_CTL", 0x40, 0x0, 1, 0x0, 1, [⟨0, 0, .rw, 0x0⟩, ⟨15, 1, .rw, 0x1⟩, ⟨31, 16, .rw, 0x10⟩]⟩,
   ⟨"ADC_PLS_STAT", 0x44, 0x0, 1, 0x0, 1, [⟨15, 0, .ro, 0x0⟩, ⟨16, 16, .w1c, 0x0⟩, ⟨17, 17, .ro, 0x0⟩, ⟨31, 24, .ro, 0x0⟩]⟩,
   ⟨"ADC_LAST", 0x100, 0x4, 40, 0x0, 1, [⟨15, 0, .ro, 0x0⟩, ⟨16, 16, .ro, 0x0⟩, ⟨17, 17, .ro, 0x0⟩, ⟨18, 18, .ro, 0x0⟩, ⟨31, 24, .ro, 0x0⟩]⟩]

def RegMap.adc : List RegRow := RegMap.adc0 ++ RegMap.adc1

/-- Registers of the padc block, with access codes and reset values (R8, R9). -/
def RegMap.padc0 : List RegRow :=
  [⟨"P_CTL", 0x0, 0x0, 1, 0x0, 1, [⟨0, 0, .rw, 0x0⟩, ⟨2, 1, .rw, 0x1⟩, ⟨3, 3, .rw, 0x0⟩, ⟨4, 4, .rw, 0x0⟩, ⟨26, 16, .rw, 0x0⟩]⟩,
   ⟨"P_STAT", 0x4, 0x0, 1, 0x0, 1, [⟨0, 0, .ro, 0x0⟩, ⟨1, 1, .ro, 0x0⟩, ⟨2, 2, .ro, 0x0⟩, ⟨3, 3, .ro, 0x0⟩, ⟨4, 4, .ro, 0x1⟩, ⟨5, 5, .w1c, 0x0⟩, ⟨6, 6, .ro, 0x0⟩, ⟨31, 16, .ro, 0x0⟩]⟩,
   ⟨"P_RES_LO", 0x8, 0x0, 1, 0x0, 1, [⟨23, 0, .ro, 0x0⟩, ⟨24, 24, .ro, 0x0⟩]⟩,
   ⟨"P_RES_HI", 0xC, 0x0, 1, 0x0, 1, [⟨31, 0, .ro, 0x0⟩]⟩,
   ⟨"P_GAIN", 0x10, 0x0, 1, 0x0, 1, [⟨31, 0, .ro, 0x40000000⟩]⟩,
   ⟨"P_OFFS", 0x14, 0x0, 1, 0x0, 1, [⟨23, 0, .ro, 0x0⟩]⟩,
   ⟨"P_THR_LO", 0x18, 0x0, 1, 0x0, 1, [⟨23, 0, .rw, 0x800000⟩]⟩,
   ⟨"P_THR_HI", 0x1C, 0x0, 1, 0x0, 1, [⟨23, 0, .rw, 0x7FFFFF⟩]⟩]

def RegMap.padc : List RegRow := RegMap.padc0

/-- Registers of the cko block, with access codes and reset values (R8, R9). -/
def RegMap.cko0 : List RegRow :=
  [⟨"HDW_CKO_CTL", 0x0, 0x0, 1, 0x0, 1, [⟨0, 0, .rw, 0x0⟩, ⟨2, 1, .rw, 0x0⟩, ⟨5, 3, .rw, 0x0⟩, ⟨19, 8, .rw, 0x8⟩]⟩,
   ⟨"HDW_CKO_PH", 0x4, 0x0, 1, 0x0, 1, [⟨20, 0, .rw, 0x0⟩]⟩,
   ⟨"HDW_CKO_STAT", 0x8, 0x0, 1, 0x0, 1, [⟨0, 0, .ro, 0x0⟩, ⟨1, 1, .ro, 0x0⟩, ⟨2, 2, .ro, 0x0⟩, ⟨3, 3, .w1c, 0x0⟩, ⟨4, 4, .w1c, 0x0⟩, ⟨5, 5, .ro, 0x0⟩]⟩]

def RegMap.cko : List RegRow := RegMap.cko0

/-- Registers of the eth block, with access codes and reset values (R8, R9). -/
def RegMap.eth0 : List RegRow :=
  [⟨"ETH_CTL", 0x0, 0x0, 1, 0x0, 1, [⟨0, 0, .rw, 0x0⟩, ⟨1, 1, .rw, 0x0⟩]⟩,
   ⟨"ETH_STAT", 0x4, 0x0, 1, 0x0, 1, [⟨0, 0, .ro, 0x0⟩, ⟨1, 1, .ro, 0x0⟩]⟩,
   ⟨"ETH_TSQ_0", 0x10, 0x0, 1, 0x0, 1, [⟨31, 0, .ro, 0x0⟩]⟩,
   ⟨"ETH_TSQ_1", 0x14, 0x0, 1, 0x0, 1, [⟨31, 0, .ro, 0x0⟩]⟩,
   ⟨"ETH_TSQ_2", 0x18, 0x0, 1, 0x0, 1, [⟨31, 0, .ro, 0x0⟩]⟩,
   ⟨"ETH_TSQ_STAT", 0x1C, 0x0, 1, 0x0, 1, [⟨4, 0, .ro, 0x0⟩, ⟨31, 16, .rc, 0x0⟩]⟩]

def RegMap.eth : List RegRow := RegMap.eth0

/-- Registers of the vtl block, with access codes and reset values (R8, R9). -/
def RegMap.vtl0 : List RegRow :=
  [⟨"VTL_CTL", 0x0, 0x0, 1, 0x0, 1, [⟨0, 0, .rw, 0x0⟩, ⟨31, 16, .rw, 0x0⟩]⟩,
   ⟨"VTL_STAT", 0x4, 0x0, 1, 0x0, 1, [⟨2, 0, .ro, 0x0⟩, ⟨3, 3, .ro, 0x0⟩, ⟨5, 4, .ro, 0x0⟩, ⟨6, 6, .ro, 0x0⟩, ⟨25, 16, .ro, 0x0⟩]⟩,
   ⟨"VTL_LAT", 0x8, 0x0, 1, 0x0, 1, [⟨9, 0, .ro, 0x0⟩]⟩,
   ⟨"VTL_DLY", 0xC, 0x0, 1, 0x0, 1, [⟨23, 0, .ro, 0x0⟩]⟩,
   ⟨"VTL_OFFS", 0x10, 0x0, 1, 0x0, 1, [⟨31, 0, .ro, 0x0⟩]⟩,
   ⟨"VTL_ERR", 0x14, 0x0, 1, 0x0, 1, [⟨15, 0, .rc, 0x0⟩, ⟨31, 16, .rc, 0x0⟩]⟩]

def RegMap.vtl : List RegRow := RegMap.vtl0

/-- Registers of the mbx block, with access codes and reset values (R8, R9). -/
def RegMap.mbx0 : List RegRow :=
  [⟨"MBX_CMD", 0x0, 0x0, 1, 0x0, 1, [⟨15, 0, .wo, 0x0⟩, ⟨16, 16, .wo, 0x0⟩, ⟨17, 17, .wo, 0x0⟩, ⟨18, 18, .wo, 0x0⟩]⟩,
   ⟨"MBX_PARAM", 0x20, 0x4, 8, 0x0, 1, [⟨31, 0, .rw, 0x0⟩]⟩,
   ⟨"MBX_STAT_LO", 0x40, 0x0, 1, 0x0, 1, [⟨31, 0, .ro, 0x0⟩]⟩,
   ⟨"MBX_STAT_HI", 0x44, 0x0, 1, 0x0, 1, [⟨31, 0, .ro, 0x0⟩]⟩]

def RegMap.mbx : List RegRow := RegMap.mbx0

/-- Registers of the qp block, with access codes and reset values (R8, R9). -/
def RegMap.qp0 : List RegRow :=
  [⟨"QP_CTL", 0x0, 0x0, 1, 0x0, 1, [⟨0, 0, .rw, 0x0⟩]⟩,
   ⟨"QP_STAT", 0x4, 0x0, 1, 0x0, 1, [⟨0, 0, .ro, 0x0⟩, ⟨1, 1, .ro, 0x0⟩, ⟨2, 2, .ro, 0x0⟩, ⟨3, 3, .w1c, 0x0⟩, ⟨4, 4, .ro, 0x0⟩, ⟨5, 5, .w1c, 0x0⟩, ⟨6, 6, .w1c, 0x0⟩, ⟨25, 16, .ro, 0x0⟩]⟩,
   ⟨"QP_SQ_LO", 0x8, 0x0, 1, 0x0, 1, [⟨31, 0, .rw, 0x0⟩]⟩,
   ⟨"QP_SQ_HI", 0xC, 0x0, 1, 0x0, 1, [⟨31, 0, .rw, 0x0⟩]⟩,
   ⟨"QP_CQ_LO", 0x10, 0x0, 1, 0x0, 1, [⟨31, 0, .rw, 0x0⟩]⟩,
   ⟨"QP_CQ_HI", 0x14, 0x0, 1, 0x0, 1, [⟨31, 0, .rw, 0x0⟩]⟩,
   ⟨"QP_CQ_TAIL", 0x18, 0x0, 1, 0x0, 1, [⟨9, 0, .ro, 0x0⟩, ⟨10, 10, .ro, 0x1⟩]⟩]

def RegMap.qp : List RegRow := RegMap.qp0

/-- Registers of the db block, with access codes and reset values (R8, R9). -/
def RegMap.db0 : List RegRow :=
  [⟨"DB_SQ_TAIL", 0x0, 0x0, 1, 0x0, 1, [⟨9, 0, .wo, 0x0⟩]⟩,
   ⟨"DB_CQ_HEAD", 0x4, 0x0, 1, 0x0, 1, [⟨9, 0, .wo, 0x0⟩]⟩]

def RegMap.db : List RegRow := RegMap.db0

/-- Registers of the dma block, with access codes and reset values (R8, R9). -/
def RegMap.dma0 : List RegRow :=
  [⟨"DMA_CTL", 0x0, 0x40, 2, 0x0, 1, [⟨0, 0, .rw, 0x0⟩]⟩,
   ⟨"DMA_STAT", 0x4, 0x40, 2, 0x0, 1, [⟨0, 0, .ro, 0x0⟩, ⟨1, 1, .w1c, 0x0⟩, ⟨2, 2, .w1c, 0x0⟩, ⟨31, 16, .rc, 0x0⟩]⟩,
   ⟨"DMA_BASE_LO", 0x8, 0x40, 2, 0x0, 1, [⟨31, 0, .rw, 0x0⟩]⟩,
   ⟨"DMA_BASE_HI", 0xC, 0x40, 2, 0x0, 1, [⟨31, 0, .rw, 0x0⟩]⟩,
   ⟨"DMA_SIZE", 0x10, 0x40, 2, 0x0, 1, [⟨12, 0, .rw, 0x10⟩]⟩,
   ⟨"DMA_TAIL", 0x14, 0x40, 2, 0x0, 1, [⟨11, 0, .wo, 0x0⟩]⟩,
   ⟨"DMA_HEAD", 0x18, 0x40, 2, 0x0, 1, [⟨11, 0, .ro, 0x0⟩]⟩]

def RegMap.dma : List RegRow := RegMap.dma0

end Sys2Proof.Machine
end

