-- ==== Sys2Proof/Machine/RegFile.lean ====
section
/-! DEFINITION. Where a BAR0 offset lies in the register map (R13, Table 17.2): its row, its fields, its reset value, and
which registers belong to the pin plane. The reset severities are those of Table 14.1. -/

namespace Sys2Proof.Machine

/-- True where offset o of a block is an instance of the row (R13: instance i at base + i × stride). -/
def RegRow.hits (r : RegRow) (o : Nat) : Bool :=
  let d := o - r.base
  let i := if r.stride == 0 then 0 else d / r.stride
  let e := d - i * r.stride
  let j := if r.stride2 == 0 then 0 else e / r.stride2
  decide (r.base ≤ o) && decide (i < r.count) && decide (j < r.count2) && (e == j * r.stride2)

/-- The row that holds offset o of a block. -/
def findRow (l : List RegRow) (o : Nat) : Option RegRow := l.find? (fun r => r.hits o)

/-- MSI-X table entries (PCI Express Base 5.0; the vector control word resets to masked). -/
def RegMap.msix : List RegRow :=
  [⟨"MSIX_ADDR_LO", 0x0, 0x10, 2048, 0x0, 1, [⟨31, 0, .rw, 0⟩]⟩,
   ⟨"MSIX_ADDR_HI", 0x4, 0x10, 2048, 0x0, 1, [⟨31, 0, .rw, 0⟩]⟩,
   ⟨"MSIX_DATA", 0x8, 0x10, 2048, 0x0, 1, [⟨31, 0, .rw, 0⟩]⟩,
   ⟨"MSIX_CTL", 0xC, 0x10, 2048, 0x0, 1, [⟨0, 0, .rw, 1⟩]⟩,
   ⟨"MSIX_PBA", 0x8000, 0x4, 64, 0x0, 1, [⟨31, 0, .ro, 0⟩]⟩]

/-- The row of the register at a BAR0 offset (Table 17.2); none where the offset is reserved. -/
def rowOf (off : Nat) : Option RegRow :=
  if off % 4 ≠ 0 then none
  else if off < 0x0010000 then findRow RegMap.glb off
  else if off < 0x0010800 then findRow RegMap.mbx (off % 0x100)
  else if 0x0050100 ≤ off ∧ off < 0x0050180 then findRow RegMap.cko (off % 0x10)
  else if 0x00A0000 ≤ off ∧ off < 0x00A0800 then findRow RegMap.vtl (off % 0x100)
  else if 0x00B0000 ≤ off ∧ off < 0x00B2000 then findRow RegMap.eth (off % 0x1000)
  else if 0x00C1000 ≤ off ∧ off < 0x00C5000 then findRow RegMap.adc ((off - 0x00C1000) % 0x200)
  else if 0x00C8000 ≤ off ∧ off < 0x00C8400 then findRow RegMap.padc (off % 0x100)
  else if off < 0x0100000 then findRow RegMap.glb off
  else if off < 0x0500000 then
    let o := off % 0x10000
    if o < 0x8000 then findRow RegMap.pin (o % 0x800) else findRow RegMap.trb o
  else if off < 0x0600000 then
    let o := off % 0x1000
    if 0x300 ≤ o ∧ o < 0x400 then
      (if o == 0x310 then none else findRow RegMap.tsq (o - 0x300))
    else findRow RegMap.bsn o
  else if off < 0x0601000 then findRow RegMap.glb off
  else if off < 0x0602000 then findRow RegMap.tsq (off % 0x100)
  else if 0x0700000 ≤ off ∧ off < 0x0708000 then findRow RegMap.qp (off % 0x20)
  else if 0x0800000 ≤ off ∧ off < 0x0802000 then findRow RegMap.db (off % 8)
  else if 0x0900000 ≤ off ∧ off < 0x0908100 then findRow RegMap.msix (off - 0x0900000)
  else if 0x0A00000 ≤ off ∧ off < 0x0A00800 then
    if off < 0x0A00600 ∧ 0x40 ≤ off % 0x100 then none else findRow RegMap.dma (off % 0x100)
  else none

/-- The reset value of a row: its fields' reset values in place (R9). -/
def RegRow.resetWord (r : RegRow) : Nat := r.fields.foldl (fun n f => setBits n f.hi f.lo f.reset) 0

/-- The default severity and floor of a source (Table 14.1); zero for a reserved source (R386). -/
def sourceRule (s : Nat) : Nat × Nat :=
  if s ≤ 0x014 then
    [(3, 3), (3, 3), (1, 0), (2, 0), (3, 3), (3, 3), (3, 3), (3, 3), (1, 0), (3, 3), (1, 0), (1, 0), (1, 0), (3, 3),
     (1, 0), (1, 0), (1, 0), (1, 0), (2, 0), (3, 2), (2, 1)].getD s (0, 0)
  else if 0x040 ≤ s ∧ s ≤ 0x049 then
    [(2, 1), (2, 0), (2, 1), (2, 0), (1, 0), (1, 0), (2, 0), (2, 1), (4, 4), (2, 1)].getD (s - 0x040) (0, 0)
  else if 0x080 ≤ s ∧ s ≤ 0x088 then
    [(4, 3), (2, 0), (2, 0), (3, 3), (4, 4), (1, 0), (2, 0), (1, 0), (2, 0)].getD (s - 0x080) (0, 0)
  else if 0x0C0 ≤ s ∧ s ≤ 0x0C7 then
    [(4, 4), (4, 4), (1, 0), (1, 0), (1, 0), (1, 0), (2, 0), (1, 0)].getD (s - 0x0C0) (0, 0)
  else if 0x100 ≤ s ∧ s ≤ 0x10D then
    [(2, 1), (5, 5), (5, 5), (5, 5), (2, 0), (2, 0), (2, 1), (1, 0), (1, 0), (1, 0), (4, 4), (4, 4), (2, 0),
     (1, 0)].getD (s - 0x100) (0, 0)
  else (0, 0)

/-- True where Table 14.1 lists the source (R385). -/
def sourceListed (s : Nat) : Bool :=
  decide (s ≤ 0x014) || (decide (0x040 ≤ s) && decide (s ≤ 0x049)) || (decide (0x080 ≤ s) && decide (s ≤ 0x088)) ||
  (decide (0x0C0 ≤ s) && decide (s ≤ 0x0C7)) || (decide (0x100 ≤ s) && decide (s ≤ 0x10D))

/-- The value of the register at a BAR0 offset right after power-on reset (R9): the Reset column, with LEV_SEV from
Table 14.1, TMB_PORT0 and TMB_PORT1 from Table 12.10, and the ordering code and fuses of the device. -/
def resetOf (off : Nat) : Nat :=
  if 0x0020400 ≤ off ∧ off < 0x0020C00 then
    let r := sourceRule ((off - 0x0020400) / 4)
    if off % 4 = 0 then r.1 + 8 * r.2 else 0
  else if off = 0x0040100 ∨ off = 0x0040104 then 0x29401280
  else if off = Reg.GLB_ID then
    setBits (((rowOf off).map RegRow.resetWord).getD 0) F.GLB_ID_MEM.hi F.GLB_ID_MEM.lo (flag Config.isH72)
  else if off = Reg.MRC_UID_LO then (Config.uidWord 0).toNat
  else if off = Reg.MRC_UID_HI then (Config.uidWord 1).toNat
  else if off = Reg.MRC_KEYS then Config.keysFused.toNat
  else ((rowOf off).map RegRow.resetWord).getD 0

/-- True for the registers whose home chapter has the exchange point deliver a write of them (R24, R78, R105, R179, R195, R196, R205, R227, R232, R242, R249,
R252, R260, R272, R281, R342): any other register takes a write as it arrives (R461). -/
def deferred (off : Nat) : Bool :=
  match rowOf off with
  | none => false
  | some r => ["BSN_CTL", "BSN_EVENT", "BSN_LVL_LOAD", "TSQ_CTL", "GAU_TSQ_RESTART", "BSN_CAP_CTL", "TON_CTL", "TON_FTW_LO", "TON_FTW_HI", "TON_POFF_LO",
      "TON_POFF_HI", "PIN_DSK_DRV", "PIN_DSK_CMP", "PIN_LVL_STG", "PIN_LVL_CLR", "PIN_PMU_CTL", "DLT_CTL", "DLT_GAIN", "ADC_CTL", "P_CTL",
      "HDW_CKO_CTL"].contains r.name

end Sys2Proof.Machine
end

