-- ==== Sys2Proof/Machine/StateParts.lean ====
section
/-! DEFINITION. The parts of the state that are not registers: what each basin, pin, burst, capture, tone and other unit
holds between steps, as plain data. Machine/State.lean gathers them. -/

namespace Sys2Proof.Machine

/-! ## The admitted image (chapter 02) -/

/-- A basin as the image defines it: its basin-table entry (Table 2.4), share record (Table 2.7), Weir record (R53) and
Spate record (Table 2.9). -/
structure BasinDef where
  abort : Bool := false
  full : Bool := false
  span : Bool := false
  spanDevices : Nat := 1
  leader : Nat := 0
  links : Nat := 0
  hold : Nat := 0
  rate : Nat := 0
  coursePart : Nat := 0
  courseLen : Nat := 0
  courseOffset : Nat := 0
  streamSh : Nat := 0
  captureSh : Nat := 0
  houseSh : Nat := 0
  streamPart : Nat := 0xFFFF
  capturePart : Nat := 0xFFFF
  bprio : Nat := 0
  sqPrio : List Nat := [0, 0, 0, 0]
  minBurst : Nat := 4
  stepCur : Nat := 0
  prespin : Bool := false
  prespinAddr : Nat := 0
  prespinTicks : Nat := 0
  deriving DecidableEq, Repr

/-- A pin as the image maps it (Table 2.5) with its engine-map entry (R45) and the engine it resolves to (R46). -/
structure PinDef where
  basin : Nat := 0
  role : Nat := 0
  delta : Bool := false
  named : Nat := 0x7FF
  engine : Nat := 0x7FF
  deriving DecidableEq, Repr

/-- A partition record (Table 2.8). -/
structure Part where
  base : Nat
  size : Nat
  kind : Nat
  deriving DecidableEq, Repr

/-- A catchment image that has passed its check (R35 to R57): its header, its defined basins, its pins in a role, its
partitions, its 512 severities and its crossbar routes (destination, source). -/
structure Image where
  verMinor : Nat := 0
  length : Nat := 0
  nsect : Nat := 0
  deviceIndex : Nat := 0
  systemTag : Nat := 0
  imageId : Nat := 0
  crc : Nat := 0
  places : List (Nat × Nat × Nat × Nat) := []
  others : List (Nat × List Byte) := []
  basins : List (Nat × BasinDef) := []
  pins : List (Nat × PinDef) := []
  parts : List Part := []
  sevs : List Nat := []
  routes : List (Nat × Nat) := []
  deriving DecidableEq, Repr

/-! ## Bursts (chapters 03, 04, 10) -/

/-- A stall record (Table 4.4); `unit` tells the shortages of several Delta units apart (R159). -/
structure StallRec where
  ns : Nat
  frac : Nat
  cause : Nat
  entry : Nat
  count : Nat
  word : Nat
  unit : Nat := 0
  deriving DecidableEq, Repr

/-- A stall in progress (R150): its cause, the boundary at which it began, and the streamed word it awaits. -/
structure Stall where
  cause : Nat
  start : Instant
  word : Nat := 0
  deriving DecidableEq, Repr

/-- The running burst of a basin (R300) and its place in the course (R125 to R143); whether a reaction has halted its engines (R121), the streamed words
consumed in it (R148), the stalls of the pass, latest first (R152), and whether the word to begin resumes from a stall (R151, R176). -/
structure Run where
  ctx : Nat
  startTick : Nat
  start : Instant
  chained : Bool := false
  deferTicks : Nat := 0
  armCode : Nat := 0
  entry : Nat := 0
  pass : Nat := 1
  passStart : Instant := 0
  passWords : Nat := 0
  passSyms : Nat := 0
  landingEnd : Option Instant := none
  tailDone : Bool := false
  waits : Nat := 0
  waitStart : Instant := 0
  timeoutDue : Bool := false
  atBoundary : Bool := false
  succ : Option (Nat × Bool) := none
  stall : Option Stall := none
  underrun : Bool := false
  stalls : List StallRec := []
  aborting : Option (Nat × Instant) := none
  halted : Bool := false
  taken : Nat := 0
  pauses : List (Instant × Instant) := []
  resumed : Bool := false
  deriving DecidableEq, Repr

/-- A course entry as it was fetched (R144): its number, when it landed, and its 64 bytes. -/
structure Held where
  entry : Nat
  at_ : Instant
  bytes : List Byte
  deriving DecidableEq, Repr

/-- The burst in a basin's on-deck slot (R297 to R299), from its dispatch on; `asked` the tick in which its first entry was requested, `seen` once a
tick program has seen it primed, `told` once the
other devices of its span have been told so (R301), `aborting` the exchange point from which a cancel with ABORT that met its decided start ends it (R306). -/
structure Deck where
  ctx : Nat
  list : Nat
  tick : Nat
  delivered : Bool := false
  onDeck : Bool := false
  setupDone : Bool := false
  stages : List (Nat × Nat) := []
  first : Option Held := none
  loaded : Bool := false
  asked : Nat := 0
  lockFirst : Nat := 0
  lockCount : Nat := 0
  primedAt : Option Instant := none
  startTick : Option Nat := none
  deferTicks : Nat := 0
  armCode : Nat := 0
  seen : Bool := false
  told : Bool := false
  aborting : Option Instant := none
  deriving DecidableEq, Repr

/-- A burst that has ended and whose completion has not been written (R304), with the tick of its end. -/
structure Done where
  ctx : Nat
  tick : Nat := 0
  status : Nat
  chained : Bool := false
  padded : Bool := false
  underrun : Bool := false
  deferTicks : Nat := 0
  armCode : Nat := 0
  detail : Nat := 0
  source : Nat := 0
  ran : Bool := false
  startNs : Nat := 0
  startFrac : Nat := 0
  endNs : Nat := 0
  endFrac : Nat := 0
  entry : Nat := 0
  pass : Nat := 0
  vcnt : Nat := 0
  fails : Nat := 0
  failVec : Nat := 0
  first : Nat := 0
  stallCount : Nat := 0
  stallUnits : Nat := 0
  ffv : Nat := 0xFFFFFFFFFFFFFFFF
  stalls : List StallRec := []
  bulk : Option Nat := none
  record : Bool := true
  deriving DecidableEq, Repr

/-- A submission entry that has landed and awaits the tick program's READY checks (R293, R467); `clear` tells whether its bytes 48 to 63
were zero. -/
structure Landed where
  ctx : Nat
  clear : Bool
  deriving DecidableEq, Repr

/-- A completion queue entry (Table 10.8) that waits to be posted: its flags, its AUX, and whether it sends its vector. -/
structure CqEntry where
  tag : Nat
  ctx : Nat
  status : Nat
  flags : Nat
  aux : Nat
  irq : Bool
  deriving DecidableEq, Repr

/-- Weir beside its registers: entries landed, cancels waiting with their arrival ticks, cancels held for a READY, basin cancels with the
contexts they name, entries waiting for a completion queue, queue tails and heads written by doorbells (R306, R307, R467, R468). -/
structure WeirX where
  landed : List Landed := []
  cancels : List (Nat × Bool × Nat) := []
  heldCancels : List (Nat × Bool) := []
  basinCancels : List (Nat × Bool × List Nat) := []
  waiting : List (Nat × List CqEntry) := []
  sqTail : List (Nat × Nat) := []
  cqHead : List (Nat × Nat) := []
  queues : List Nat := []
  fetching : List (Nat × Nat) := []
  lastChain : Nat := 0
  returns : Nat := 0
  deriving DecidableEq, Repr

/-! ## Capture (chapter 07) -/

/-- A captured slot (R229): the bits of each judging pin, the slot's start and end, and its position (R140). -/
structure CapSlot where
  data : List Nat
  start : Instant
  stop : Instant
  vcnt : Nat
  slot : Nat
  entry : Nat
  pass : Nat
  deriving DecidableEq, Repr

/-- A capture record, open or waiting to be written (R233 to R238): `cut` the slots kept from the trigger slot on where a later one found its drain space full
(R237), and `units` the 64-byte units of each lane that HBM has taken, by tributary. -/
structure CapRec where
  trigger : Instant
  tsrc : Nat
  ctx : Nat
  seg : Nat
  pre : List CapSlot := []
  post : List CapSlot := []
  missed : Nat := 0
  dead : Nat := 0xFFFFFFFF
  truncated : Bool := false
  overflow : Bool := false
  underrun : Bool := false
  stall : Bool := false
  lost : Nat := 0
  cut : Option Nat := none
  units : List (Nat × Nat) := []
  deriving DecidableEq, Repr

/-- The capture unit of a basin (R232 to R239): the captured slots since history last restarted (at `since`), the latest stall and the latest shortage in
them, the record open, those closed and not yet complete, the ring of the arming, the re-arm under way, the end of the last record,
the triggers missed since and the ECLK of the latest, the records closed since ARM, whether the last record closed with OVERFLOW and its drain space has not
emptied since, when it emptied, the units that HBM took in this tick, the burst that runs or ran last, and the burst from which a held ARM came. -/
structure CapX where
  history : List CapSlot := []
  since : Instant := 0
  stallAt : Option Instant := none
  underAt : Option Instant := none
  opened : Option CapRec := none
  closed : List CapRec := []
  base : Nat := 0
  segSize : Nat := 0
  rearm : Option Instant := none
  lastEnd : Option Instant := none
  missed : Nat := 0
  missedAt : Option Nat := none
  taken : Nat := 0
  finished : Bool := false
  lapsed : Bool := false
  emptied : Option Instant := none
  units : Nat := 0
  burst : Nat := 0
  burstArm : Option Nat := none
  deriving DecidableEq, Repr

/-! ## Pins and basins (chapters 03 to 07) -/

/-- True once the first entry of the on-deck burst is held (R298). -/
def Deck.entryHeld (d : Deck) : Bool := d.first.isSome

/-- Where a lane's refill stands on the default path: entry, pass and next unit (R146). -/
structure Ptr where
  entry : Nat
  pass : Nat
  unit : Nat
  deriving DecidableEq, Repr

/-- What a pin's engine and front end hold beside their registers (R80 to R102, R187, R196, R205). The refill FIFO holds each word with the instant at which it
landed; `cur` is the streamed word decoded and in execution (R82); `units` the units landed for the lane in this tick (R147). `ball` is the ball path
(Table 6.2): 0 the driver at VIL, 1 at VIH, 3 at VT (Table 6.3), 2 driver off with termination closed, 7 driver off with termination open; `ddl` tells that the
last slot followed the Delta stream (R257). `holdAt` is the hold vector due next, `holdFresh` that none has played since hold was entered, `holdSwitch` that
its first vector follows a switch of set (R177). `drvStep` and `cmpStep` are the first ECLK in which the deskew walks may step (R180). `shutAt` is
when the PPMU's shutdown began (R205), `forceFrom` the ECLK up to which the force path with a tone has been looked at, and `limiting` that its limit
has acted since the
last change (R208). `window` is the loop-store window access under way (R123): a write or not, its address and its data. -/
structure PinX where
  pc : Nat := 0
  fifo : List (Instant × VecWord) := []
  deckFifo : List (Instant × VecWord) := []
  cur : Option VecWord := none
  units : Nat := 0
  rPtr : Option Ptr := none
  rDeck : Option Ptr := none
  stack : List Nat := []
  prev : Nat := 7
  last : Bool := false
  minPlay : Nat := 0
  nonPlay : Nat := 0
  ball : Nat := 7
  ddl : Bool := false
  lastMove : Instant := 0
  holdAt : Instant := 0
  holdFresh : Bool := false
  holdSwitch : Bool := false
  drvStep : Nat := 0
  cmpStep : Nat := 0
  shutAt : Option Instant := none
  forceFrom : Nat := 0
  limiting : Bool := false
  applied : Bool := false
  ampNow : Nat := 0
  pmuMode : Nat := 0
  pmuRange : Nat := 4
  levelAt : Option Instant := none
  forceNext : Option Nat := none
  ramped : Option Instant := none
  window : Option (Bool × Nat × VecWord) := none
  deriving DecidableEq, Repr

/-- A LOAD strobe on its way to the outputs (R194, R195): its instant, the modulator edge that applies it, and per pin the six codes and the tone
amplitude staged in or before its ECLK, once something was staged after it. -/
structure Strobe where
  at_ : Instant
  edge : Instant
  codes : Option (List (Nat × List Nat)) := none
  deriving DecidableEq, Repr

/-- What a basin holds beside its registers: timeline, bursts, conditions and their times, capture, triggers on their way to it, and whether the
exchange point that delivered an enable has taken the staged timing values (R79). Of the other devices of a span it holds the decisions and course
successors received, the stream horizon and the fields of their hold words by the link they came from, and what each told of the next start (R72,
R109, R117, R148,
R301). `perLow` is the low word of each set's PERIOD as the last pair of writes staged it (R185). A latched condition
taken true is consumed (R105): its line, the sample time whose registrations it consumed, and the boundary from which they are gone. The course
fetches requested and not served stand in order, each with its tick, beside the HOUSE units and STREAM units served in this tick (R145, R147), and
`paid` the units that
earlier ticks gave to the record of the oldest burst that has ended. -/
structure BasinX where
  epoch : Option Instant := none
  grid : Instant := 0
  pos : Instant := 0
  tset : Nat := 0
  marks : Nat := 0
  run : Option Run := none
  deck : Option Deck := none
  lists : List (List Nat) := [[], [], [], [], [], [], [], []]
  chains : List (List Nat) := [[], [], [], [], [], [], [], []]
  need : Option Nat := none
  lastStart : Option Nat := none
  closing : Bool := false
  recourse : Nat := 0
  recourseState : Nat := 0
  heldAfter : Bool := false
  events : List (Nat × Instant) := []
  results : List (Instant × Nat) := []
  waiting : List (Instant × Nat) := []
  trig : List (Instant × Nat) := []
  seqHist : List (Instant × Nat) := []
  consumed : List (Nat × Instant × Instant) := []
  crossings : List (Nat × Instant) := []
  remote : List (Instant × Nat) := []
  succs : List (Instant × Nat) := []
  farHorizon : List (Nat × Nat) := []
  farHold : List (Nat × Nat × Nat × Nat) := []
  perLow : List (Nat × Nat) := []
  window : List Held := []
  asked : List (Nat × Nat) := []
  house : Nat := 0
  paid : Nat := 0
  stream : Nat := 0
  strobes : List Strobe := []
  strobeAt : Option Instant := none
  cap : CapX := {}
  done : List Done := []
  ramp : Nat := 0
  rampStart : Option Nat := none
  primedBy : List SpanId := []
  userWait : Bool := false
  sync : Option (Instant × Bool) := none
  hold : Option Instant := none
  triggers : List Instant := []
  enableTaken : Bool := false
  deriving DecidableEq, Repr

/-- What a trigger sequencer holds beside its registers (R224 to R227): when its state was entered, and its latest occurrence. -/
structure SeqX where
  entered : Instant := 0
  lastOcc : Option Instant := none
  deriving DecidableEq, Repr

/-! ## Tones, Delta units and converters (chapters 08, 09) -/

/-- A tone (R245 to R252): its accumulator as it stood at ECLK `ref`, the latest ECLK up to then in which it crossed zero rising, the frequency word and
phase offset in force, and those committed and not yet applied, with the tick of the last commit and, for APPLY = 1, the ECLK of the first LOAD strobe
after it (R249). `shown` is
the phase at a tick boundary since which the accumulator has jumped or stopped (R265). -/
structure ToneX where
  phase : Nat := 0
  ref : Nat := 0
  lastCross : Option Nat := none
  ftw : Nat := 0
  poff : Nat := 0
  nextFtw : Option Nat := none
  nextPoff : Option Nat := none
  commitTick : Nat := 0
  loadAt : Option Nat := none
  shown : Nat × Nat := (0, 0)
  running : Bool := false
  enabled : Bool := false
  mode : Bool := false
  atLoad : Bool := false
  deriving DecidableEq, Repr

/-- A Delta unit (R253 to R260): its sample FIFO, the sample held and the one before it (R259), the pin-clock period up to which its modulator input
has been formed (R254),
the instant at which the sample segment in play began with the
samples taken since, the samples left of a ONCE pass, and the rate waiting for a burst start. -/
structure DeltaX where
  fifo : List Nat := []
  held : Nat := 0
  before : Nat := 0
  seenTo : Nat := 0
  sampling : Option Instant := none
  taken : Nat := 0
  left : Option Nat := none
  ptr : Option Ptr := none
  deckFifo : List Nat := []
  deckPtr : Option Ptr := none
  dryAt : Option Instant := none
  units : Nat := 0
  nextDiv : Option Nat := none
  div : Nat := 0
  enabled : Bool := false
  deriving DecidableEq, Repr

/-! ## Digitizers (chapter 09) -/

/-- A result in an ADC's FIFO (Table 9.3). -/
structure AdcRes where
  ns : Nat
  value : Nat
  input : Nat
  clip : Bool
  suspect : Bool
  gap : Bool
  scan : Nat
  deriving DecidableEq, Repr

/-- A general ADC beside its registers (R271 to R280): the committed mask, the inputs of the scan in progress still to be converted (the
first of them since `dwellAt`, or its result not yet written), whether a shutdown has cut it short, the conversions of each dwell, the input converted
just before without a gap, the tick of the last
start, a start that waits for READY, the FIFO oldest first, whether entries were dropped since the last one stored, when the last
CHECK result was written, and per stage the rounds failed in a row. -/
structure AdcX where
  mask : Nat := 0
  scan : List Nat := []
  short : Bool := false
  dwell : Nat := 16
  dwellAt : Instant := 0
  before : Option Nat := none
  lastStart : Nat := 0
  waiting : Bool := false
  fifo : List AdcRes := []
  gap : Bool := false
  checkAt : Option Instant := none
  fails : List Nat := [0, 0, 0, 0, 0, 0, 0, 0, 0, 0, 0, 0, 0, 0]
  deriving DecidableEq, Repr

/-- A reference-grade ADC beside its registers (R281 to R284): the results since its last change, its calibration session (sum of the 64
raw results and applied value, of ZERO and of FULL), whether a session was lost, the first step's tick, and coefficients that come into
force at the next tick boundary. -/
structure PAdcX where
  results : Nat := 0
  zero : Option (Int × Int) := none
  full : Option (Int × Int) := none
  lost : Bool := false
  since : Nat := 0
  next : Option (Nat × Nat) := none
  deriving DecidableEq, Repr

/-! ## Calibration (chapter 13) -/

/-- Calibration beside its registers (R367 to R377): the sum of the temperatures of each tributary over the interval under way and the ticks
summed, the mean at the last interpolation, the tributary kinds that lie out of band (3 × tributary + kind), the tick at which each gather
began, the tick of each tributary's last step of Table 13.2, and the tick before which none begins, the tributaries whose kinds are done and whose
outage ends at the next boundary, the ADCs
that calibration powers, coefficients that wait to come into force (pin, coefficient, value), PPMU writes that wait for an outage's end
(pin, value, enable), and what CAL_RUN still awaits (tributary, kind). -/
structure CalX where
  sums : List (Nat × Int) := []
  count : Nat := 0
  lastInterp : List (Nat × Int) := []
  drifted : List Nat := []
  gatherAt : List (Nat × Nat) := []
  stepAt : List (Nat × Nat) := []
  notBefore : List (Nat × Nat) := []
  done : List Nat := []
  powered : List Nat := []
  waiting : List (Nat × Nat × Int) := []
  pmuWrites : List (Nat × Nat × Bool) := []
  wanted : List (Nat × Nat) := []
  rejected : Bool := false
  failed : Bool := false
  deriving DecidableEq, Repr

/-- A log entry (Table 14.4). -/
structure LogEntry where
  ns : Nat
  frac : Nat
  source : Nat
  sev : Nat
  forced : Bool
  reserved : Bool
  again : Nat
  inst : Nat
  detail : Nat
  tick : Nat
  deriving DecidableEq, Repr

/-- A copy of a Reservoir record (R374, R375): 256 × KIND + INDEX, whether it lies in slot B, GEN, TEMP, RUNS and the payload. -/
structure RsvCopy where
  key : Nat
  slotB : Bool
  gen : Nat
  temp : Nat
  runs : Nat
  payload : List Byte
  deriving DecidableEq, Repr

/-- What Reservoir holds (Table 13.4) as far as the device's behaviour shows it: the measured coefficients of each pin (64 × pin +
coefficient) as the copies in use hold them, the temperature of each table (3 × tributary + kind, in the form of TRB_CAL_T0), ADC stage retirements,
the reference value, P ADC coefficients, the training results'
operating points, the persistent counters, the dumps written since manufacture, and the sealed summary: the sealing report's log entry
and the lifetime count of sealing events (R402). -/
structure RsvX where
  measured : List (Nat × Int) := []
  temps : List (Nat × Nat) := []
  retired : List (Nat × Nat) := []
  refUv : Option Nat := none
  padc : List (Nat × Nat × Nat) := []
  trained : List (Nat × Nat × Nat) := []
  laneRepairs : Nat := 0
  counters : List (Nat × Nat) := []
  copies : List RsvCopy := []
  dumps : Nat := 0
  sealEntry : Option LogEntry := none
  seals : Nat := 0
  deriving DecidableEq, Repr

/-! ## Mailbox (chapter 17) -/

/-- The operation of a mailbox slot (R472): its id, whether its end sends the slot's vector, its parameters as they stood at the issue,
and how far it has gone. -/
structure MbxX where
  op : Nat := 0
  irq : Bool := false
  params : List Nat := []
  committed : Bool := false
  deriving DecidableEq, Repr

/-! ## JTAG (chapter 17) -/

/-- The test access port (R478, R479): the instruction register, and the boundary cells as they were last sampled or preloaded. -/
structure JtagX where
  instr : Nat := 1
  cells : List Bool := []
  driven : Bool := false
  deriving DecidableEq, Repr

/-! ## Sluice (chapter 11) -/

/-- Sluice beside its registers (R323 to R333): rows marked for repair, rows in which this scrub pass and an earlier one found corrected
errors, the tick of the last repair of each pseudo-channel, the repairs made in each bank, the retries of this tick by pseudo-channel, the
words reported in this tick, the tick of each stack's last request, pseudo-channels whose faulty lane waits for repair, the stacks refreshed
at twice the base rate, the seed of the patterns that training left in its region (0: none), and an operating-point change: its step of
Table 11.5, slot, target and start, and whether it is forced; the operating points that a training under way names, with its slot; the operating
points with training results in force and the stack temperatures at which they were taken (R328); the units of HOST requests that wait for service;
and the last 4,096
error addresses with kind and class, newest first (Table 14.7). -/
structure SlcX where
  marked : List Nat := []
  foundNow : List Nat := []
  foundBefore : List Nat := []
  repaired : List (Nat × Nat) := []
  spent : List (Nat × Nat) := []
  retries : List (Nat × Nat) := []
  reported : List Nat := []
  lastRequest : List Nat := [0, 0]
  lanes : List Nat := []
  fast : List Bool := [false, false]
  patterns : Nat := 0
  step : Nat := 0
  slot : Nat := 0
  target : Nat := 0
  since : Nat := 0
  force : Bool := false
  training : Option (Nat × Nat) := none
  trained : List (Nat × Nat × Nat) := []
  hostUnits : Nat := 0
  errors : List (Nat × Nat × Nat) := []
  deriving DecidableEq, Repr

/-! ## Clocks, time base and links (chapter 12) -/

/-- A Vutil link beside its registers (R355 to R359): the cycles discarded in a row; the device identities that lie beyond the link and the
latency beyond its peer, in ECLK, as CTRL told them; and the stamps of the exchange under way, in 2^-24 ns: the peer's origin with its
correction, our receipt of it, and our DREQ's departure. -/
structure LinkX where
  misses : Nat := 0
  beyond : List Nat := []
  far : Nat := 0
  origin : Option Nat := none
  receipt : Nat := 0
  request : Option Nat := none
  exchanged : Option Nat := none
  deriving DecidableEq, Repr

/-- Headwater, the time base, the Ethernet ports and the links beside their registers (R338 to R359): whether TT runs, the step of the SYNC
event under way (0 none, 1 pulse taken, 2 TT placed) with its S and the SKEW of the last event, enables held during it, the staged INC
and the tick at which staged values apply, the phase that each CLKOUT has reached, its AMP in force, its first rising edge and the edge at which it
stops (R341, R342), the transmit stamps of each port oldest first, the links,
the cycle window (plus 1) in which each transmitted trigger line last changed, levels on their way to driven TRIG balls (instant, ball, level; R221),
and whether
REFCLK was lost in the slack state. -/
structure ClkX where
  locked : Bool := false
  event : Nat := 0
  eventS : Instant := 0
  skew : Option Nat := none
  enables : List (Nat × Bool) := []
  inc : Nat := 0x0A000000
  applyAt : Option Nat := none
  phases : List (Nat × Nat) := []
  swings : List (Nat × Nat) := []
  ckoFrom : List (Nat × Instant) := []
  ckoUntil : List (Nat × Instant) := []
  stamps : List (Nat × List Nat) := []
  links : List (Nat × LinkX) := []
  sent : List (Nat × Nat) := []
  balls : List (Instant × Nat × Nat) := []
  slackLost : Bool := false
  deriving DecidableEq, Repr

/-! ## Spate (chapter 15) -/

/-- Spate beside its registers (R412 to R430): whether a sensor tripped in this tick, the clean ticks since, whether a throttling episode
runs, a wake event that came during entry, and supply-fault reports that wait for the end of a wake (monitor, instant). -/
structure SptX where
  tripped : Bool := false
  clean : Nat := 0
  episode : Bool := false
  woken : Bool := false
  supply : List (Nat × Instant) := []
  deriving DecidableEq, Repr

/-! ## Levee (chapter 14) -/

/-- A state dump in progress or held (R400, R401), with the registers as they stood at its event. -/
structure DumpX where
  cause : Nat
  regs : List (Nat × Word) := []
  source : Nat := 0
  inst : Nat := 0
  ns : Nat := 0
  frac : Nat := 0
  tick : Nat := 0
  imageId : Nat := 0
  gen : Nat := 0
  acked : Bool := false
  slot : Option Nat := none
  deriving DecidableEq, Repr

/-- A tributary's audit (R403): its step (0 rotation, 1 second look at an engine, 2 cross-check), the local engine in question, and the
mask of what differed. -/
structure AudX where
  step : Nat := 0
  engine : Nat := 0
  mask : Nat := 0
  deriving DecidableEq, Repr

/-- What Levee holds beside its registers (R389 to R402): the log oldest first, the entries taken in this tick, whether the first SEALED
report since power-on has been taken, the arm sequence (source, keys taken, instant of the second key), the dump being written and the
dump held, the entry of the sealing report, whether die over-temperature reports, THERM_N and ALERT_N, whether the persistent
accumulators have taken up the record in Reservoir (R402), and the pins whose level-clamp report is made at the end of the command (R193). -/
structure LevX where
  log : List LogEntry := []
  intake : Nat := 0
  firstSealed : Bool := false
  armSource : Option Nat := none
  armKeys : Nat := 0
  armAt : Instant := 0
  writing : Option DumpX := none
  held : Option DumpX := none
  sealing : Option LogEntry := none
  dieHot : Bool := false
  thermN : Bool := true
  alertN : Bool := true
  counted : Bool := false
  owed : List Nat := []
  deriving DecidableEq, Repr

/-! ## The host interface and the firmware (chapters 16, 17) -/

/-- The host interface beside its registers (R463, R476): the words of each snapshot not yet returned, by requester × 2^24 + low word, each
an offset and a value; the SMBus offset; the tails of the rings, by 2 × engine + ring; and the BAR2 size, 2^n GiB, as the Resizable BAR capability
holds it (R456). -/
structure HostX where
  snaps : List (Nat × List (Nat × Nat)) := []
  smbAddr : Nat := 0
  tails : List (Nat × Nat) := []
  barSize : Nat := 7
  deriving DecidableEq, Repr

/-- The boot flash and what the firmware carries out (R444, R450, R451): the preferred slot, the slots marked invalid, the staging under way
(mailbox slot, ACTIVATE), and the servo's adjustments. -/
structure FirmX where
  preferred : Nat := 0
  invalid : List Nat := []
  staging : Option (Nat × Bool) := none
  adjustments : Nat := 0
  deriving DecidableEq, Repr

/-- Millrace beside its registers (R432 to R440): the control stores, word a of lane l at key 8,192 × l + a, an unlisted word being 0, and their words
that hold an error of 1 or 2 bits, by
the same keys; where the tick program starts, and whether a call-stack fault ended the last one; and the routines requested and not ended, in order of
request. -/
structure MrcX where
  store : List (Nat × BitVec 128) := []
  errors : List (Nat × Nat) := []
  entry : Nat := 0
  faulted : Bool := false
  routines : List Routine := []
  deriving DecidableEq, Repr

/-- Power good on VDD_CORE and on VDD_IO18 (R488, R499), and whether the device may be used: after a loss it may not until a power-on reset with
both good. -/
structure PowerX where
  core : Bool := true
  io : Bool := true
  usable : Bool := true
  deriving DecidableEq, Repr

end Sys2Proof.Machine
end

