-- ==== Sys2Proof/Machine/Table.lean ====
section
/-! DEFINITION. Sparse tables: lists of key and entry with keys strictly rising and no entry equal to what an unlisted key
reads as, so that equal tables are equal data. -/

namespace Sys2Proof.Machine

/-- A sparse table from numbers to entries. -/
abbrev Tbl (α : Type) := List (Nat × α)

/-- What key k reads as; an unlisted key reads as d. -/
def Tbl.find {α : Type} (d : α) : List (Nat × α) → Nat → α
  | [], _ => d
  | (j, v) :: t, k => if j = k then v else Tbl.find d t k

/-- The table with key k set to v; writing what an unlisted key reads as removes the entry. -/
def Tbl.set {α : Type} [DecidableEq α] (d : α) : List (Nat × α) → Nat → α → List (Nat × α)
  | [], k, v => if v = d then [] else [(k, v)]
  | (j, w) :: t, k, v =>
    if k < j then (if v = d then (j, w) :: t else (k, v) :: (j, w) :: t)
    else if k = j then (if v = d then t else (k, v) :: t)
    else (j, w) :: Tbl.set d t k v

/-- Every key of the table lies above k. -/
def Tbl.above {α : Type} (k : Nat) : List (Nat × α) → Bool
  | [] => true
  | (j, _) :: _ => decide (k < j)

/-- The canonical form: keys strictly rising, no entry equal to what its key would read as unlisted. -/
def Tbl.wf {α : Type} [DecidableEq α] (d : Nat → α) : List (Nat × α) → Bool
  | [] => true
  | (j, v) :: t => decide (v ≠ d j) && Tbl.above j t && Tbl.wf d t

/-- The table with the keys from lo up to hi taken from another table. -/
def Tbl.graft {α : Type} (lo hi : Nat) (src dst : List (Nat × α)) : List (Nat × α) :=
  dst.filter (fun e => decide (e.1 < lo)) ++ src.filter (fun e => decide (lo ≤ e.1) && decide (e.1 < hi)) ++
  dst.filter (fun e => decide (hi ≤ e.1))

/-- Every entry changed by a function; those that become what an unlisted key reads as are dropped. -/
def Tbl.change {α : Type} [DecidableEq α] (d : α) (f : α → α) (t : List (Nat × α)) : List (Nat × α) :=
  (t.map fun e => (e.1, f e.2)).filter fun e => decide (e.2 ≠ d)

/-- The keys that are listed, rising. -/
def Tbl.keys {α : Type} (t : List (Nat × α)) : List Nat := t.map (·.1)

end Sys2Proof.Machine
end

