-- ==== Sys2Proof/Machine/Dev.lean ====
section
/-! DEFINITION. The block's state as plain data: its registers, its memories, and what its units hold beside their registers. -/

namespace Sys2Proof.Machine

/-- What the last command put out (chapters 05, 12 and 17): a driver transition, its place in pin-clock periods and interpolator steps (R171), its
instant at the ball (R164)
and the ball path after it; a strobe window, placed alike, with the ball instants it judges; data returned to a requester, bytes of HBM, a write to or
a read of host memory with its
address, length and little-endian value, an MSI-X message, an Ethernet frame, a link service message, a FLOW block and a trigger-line change of a link
cycle with its ECLK (Table 12.6); that what went before is poisoned (R459);
that a request was unsupported (R460); a NACK (R476). -/
inductive Out where
  | data (v : Nat)
  | bytes (l : List Byte)
  | hostWrite (addr : Nat) (len : Nat) (v : Nat)
  | hostRead (addr : Nat) (len : Nat)
  | msix (vector : Nat) (addr : Nat) (data : Nat)
  | edge (pin coarse fine ball path : Nat)
  | strobe (pin coarse fine opens closes : Nat)
  | sample (trib : Nat) (value : Int) (parts ball : Nat)
  | force (pin : Nat) (current : Bool) (code : Int) (limit : Nat) (at_ : Nat)
  | trig (ball level at_ : Nat)
  | frame (port : Nat) (l : List Byte)
  | service (link : Nat) (kind : Nat) (fields : List Nat)
  | flow (link : Nat) (block : FlowBlock)
  | line (link line eclks : Nat)
  | poisoned
  | unsupported
  | nack
  deriving DecidableEq, Repr

/-- The state of the BL1024 but for the queue of waiting commands. -/
structure Dev where
  /-- What the last command put out (the model's own record of its outputs). -/
  out : List Out := []
  /-- Registers by BAR0 offset; an unlisted one holds its reset value (R8, R9). -/
  regs : List (Nat × Word) := []
  /-- Values taken at the exchange point that delivered a dispatch or an enable (R79, R170), by BAR0 offset. -/
  deck : List (Nat × Word) := []
  /-- Values in force where they differ in time from what is written (taken at a burst start, R124, R170, R179, R219). -/
  force : List (Nat × Word) := []
  /-- Host writes to pin-plane registers that have arrived in this tick (R24). -/
  posted : List (Nat × Word) := []
  /-- Writes that the tick program of this tick commits, and those that the previous one committed and the next exchange point takes (R24). -/
  committing : List (Nat × Word) := []
  committed : List (Nat × Word) := []
  /-- Writes delivered that are carried out at the next tick boundary (R24). -/
  delivered : List (Nat × Word) := []
  /-- HBM, by byte address; an unlisted byte is 0 (R447). -/
  hbm : List Host.Cell := []
  /-- Loop stores: word a of engine e at key 2048 × e + a; an unlisted word is 0 (R80). -/
  store : List (Nat × VecWord) := []
  /-- Loop-store words that hold an error (R81), by the same keys: 1 single-bit, 2 double-bit; an unlisted word holds none. -/
  flips : List (Nat × Nat) := []
  /-- Millrace's control stores and routines (R432 to R440). -/
  mrc : MrcX := {}
  /-- The admitted catchment image (R64). -/
  image : Option Image := none
  /-- A checked image that waits for its commit (R64, R68). -/
  staged : Option Image := none
  /-- Ticks since the SYNC event (R291); TT is 1,024 times this at each boundary. -/
  tick : Nat := 0
  /-- The time base at the latest tick boundary, 32-bit ns and 24-bit fraction (R348), the remainder of its REFCLK edges in
  twenty-fifths, and the latches of the latest ticks, newest first (R350). -/
  timeBase : Nat := 0
  timeRest : Nat := 0
  latches : List (Nat × Nat) := []
  /-- How many free values have been drawn (the model's own field). -/
  drawn : Nat := 0
  basins : List (Nat × BasinX) := []
  pins : List (Nat × PinX) := []
  seqs : List (Nat × SeqX) := []
  tones : List (Nat × ToneX) := []
  deltas : List (Nat × DeltaX) := []
  adcs : List (Nat × AdcX) := []
  padcs : List (Nat × PAdcX) := []
  mbx : List (Nat × MbxX) := []
  jtag : JtagX := {}
  weir : WeirX := {}
  lev : LevX := {}
  slc : SlcX := {}
  /-- The lines of the crossbar that leave the device or enter it, by code of Table 2.10: TRIG and LDAC balls as sources present
  them, TRIG drivers and Vutil trigger lines; an unlisted one is low. -/
  wires : List (Nat × Nat) := []
  cal : CalX := {}
  clk : ClkX := {}
  spt : SptX := {}
  rsv : RsvX := {}
  /-- Pins whose spare waits to take over, with the instant at which its copy completed (R404). -/
  takeovers : List (Nat × Instant) := []
  /-- Engines that Reservoir records as faulty (R45, R404). -/
  faulty : List Nat := []
  auds : List (Nat × AudX) := []
  host : HostX := {}
  firm : FirmX := {}
  power : PowerX := {}
  deriving DecidableEq, Repr

end Sys2Proof.Machine
end

