-- ==== Sys2Proof/Machine/Ops.lean ====
section
/-! DEFINITION. The named operations over registers, memories and units: the one place where each is read and written. -/

namespace Sys2Proof.Machine

/-! ## Registers -/

/-- What the register at a BAR0 offset holds (R8, R9). -/
def Dev.reg (m : Dev) (off : Nat) : Nat := (Tbl.find (BitVec.ofNat 32 (resetOf off)) m.regs off).toNat

/-- The register at a BAR0 offset takes a value; one that returns to its reset value is no longer listed. -/
def Dev.setReg (m : Dev) (off : Nat) (v : Nat) : Dev :=
  { m with regs := Tbl.set (BitVec.ofNat 32 (resetOf off)) m.regs off (BitVec.ofNat 32 v) }

/-- A named field. -/
def Dev.get (m : Dev) (f : Fld) : Nat := bitsOf (m.reg f.off) f.hi f.lo

/-- A one-bit field, as a condition. -/
def Dev.on (m : Dev) (f : Fld) : Bool := m.get f == 1

/-- A named field takes a value; the register's other bits keep theirs. -/
def Dev.put (m : Dev) (f : Fld) (v : Nat) : Dev := m.setReg f.off (setBits (m.reg f.off) f.hi f.lo v)

/-- A field that counts, saturating at its maximum. -/
def Dev.count (m : Dev) (f : Fld) (n : Nat) : Dev := m.put f (min (m.get f + n) (2 ^ (f.hi + 1 - f.lo) - 1))

/-- A field that counts and wraps. -/
def Dev.bump (m : Dev) (f : Fld) : Dev := m.put f (m.get f + 1)

/-- The value of a pair of registers, low word first (R463). -/
def Dev.pair (m : Dev) (lo hi : Nat) : Nat := m.reg lo + 2 ^ 32 * m.reg hi

/-- A pair of registers takes a 64-bit value. -/
def Dev.setPair (m : Dev) (lo hi v : Nat) : Dev := (m.setReg lo v).setReg hi (v / 2 ^ 32)

/-- A value of the bank taken at delivery (R170). -/
def Dev.deckReg (m : Dev) (off : Nat) : Nat := (Tbl.find (BitVec.ofNat 32 (resetOf off)) m.deck off).toNat

/-- The bank taken at delivery takes the value now written in a register. -/
def Dev.takeDeck (m : Dev) (off : Nat) : Dev :=
  { m with deck := Tbl.set (BitVec.ofNat 32 (resetOf off)) m.deck off (BitVec.ofNat 32 (m.reg off)) }

/-- A value in force. -/
def Dev.inForce (m : Dev) (off : Nat) : Nat := (Tbl.find (BitVec.ofNat 32 (resetOf off)) m.force off).toNat

/-- A field of a value in force. -/
def Dev.getForce (m : Dev) (f : Fld) : Nat := bitsOf (m.inForce f.off) f.hi f.lo

/-- The value in force takes a given value. -/
def Dev.setForce (m : Dev) (off v : Nat) : Dev :=
  { m with force := Tbl.set (BitVec.ofNat 32 (resetOf off)) m.force off (BitVec.ofNat 32 v) }

/-- The value in force takes what is written in the register. -/
def Dev.takeForce (m : Dev) (off : Nat) : Dev := m.setForce off (m.reg off)

/-- The value in force takes what was taken at delivery. -/
def Dev.forceDeck (m : Dev) (off : Nat) : Dev := m.setForce off (m.deckReg off)

/-! ## Memories -/

/-- A byte of HBM; a byte nothing has written reads 0 (R447). -/
def Dev.byte (m : Dev) (a : Nat) : Byte := Tbl.find 0 m.hbm a

/-- A byte of HBM takes a value. -/
def Dev.setByte (m : Dev) (a : Nat) (v : Byte) : Dev := { m with hbm := Tbl.set 0 m.hbm a v }

/-- The n bytes of HBM at a. -/
def Dev.bytes (m : Dev) (a n : Nat) : List Byte := (List.range n).map fun i => m.byte (a + i)

/-- HBM takes a list of bytes at a. -/
def Dev.setBytes (m : Dev) (a : Nat) : List Byte → Dev
  | [] => m
  | v :: t => (m.setByte a v).setBytes (a + 1) t

/-- The n bytes of HBM at a as a little-endian number (R7). -/
def Dev.mem (m : Dev) (a n : Nat) : Nat := leNat (m.bytes a n)

/-- HBM takes the n little-endian bytes of a number at a (R7). -/
def Dev.setMem (m : Dev) (a n v : Nat) : Dev := m.setBytes a (leBytes n v)

/-- The device's HBM capacity in bytes (R49). -/
def Dev.capacity (m : Dev) : Nat := if m.get F.GLB_ID_MEM == 1 then 0x1200000000 else 0xC00000000

/-- A loop-store word of an engine (R80). -/
def Dev.word (m : Dev) (e a : Nat) : VecWord := Tbl.find 0 m.store (2048 * e + a)

/-- The error that a loop-store word of an engine holds (R81): 0 none, 1 single-bit, 2 double-bit. -/
def Dev.flip (m : Dev) (e a : Nat) : Nat := Tbl.find 0 m.flips (2048 * e + a)

/-- A loop-store word comes to hold an error, or to hold none (R81). -/
def Dev.setFlip (m : Dev) (e a v : Nat) : Dev := { m with flips := Tbl.set 0 m.flips (2048 * e + a) v }

/-- A loop-store word of an engine takes a value, with its SECDED check bits (R80, R123, R135). -/
def Dev.setWord (m : Dev) (e a : Nat) (w : VecWord) : Dev := { m.setFlip e a 0 with store := Tbl.set 0 m.store (2048 * e + a) w }

/-- The loop store of one engine is copied into another's (R404). -/
def Dev.copyStore (m : Dev) (src dst : Nat) : Dev :=
  let l := (m.store.filter fun e => decide (2048 * src ≤ e.1) && decide (e.1 < 2048 * (src + 1))).map fun e =>
    (e.1 - 2048 * src + 2048 * dst, e.2)
  { m with store := Tbl.graft (2048 * dst) (2048 * (dst + 1)) l m.store }

/-! ## Units -/

def Dev.bsn (m : Dev) (b : Nat) : BasinX := Tbl.find {} m.basins b
def Dev.setBsn (m : Dev) (b : Nat) (x : BasinX) : Dev := { m with basins := Tbl.set {} m.basins b x }
def Dev.pin (m : Dev) (p : Nat) : PinX := Tbl.find {} m.pins p
def Dev.setPin (m : Dev) (p : Nat) (x : PinX) : Dev := { m with pins := Tbl.set {} m.pins p x }
def Dev.seq (m : Dev) (q : Nat) : SeqX := Tbl.find {} m.seqs q
def Dev.setSeq (m : Dev) (q : Nat) (x : SeqX) : Dev := { m with seqs := Tbl.set {} m.seqs q x }
def Dev.tone (m : Dev) (b c : Nat) : ToneX := Tbl.find {} m.tones (4 * b + c)
def Dev.setTone (m : Dev) (b c : Nat) (x : ToneX) : Dev := { m with tones := Tbl.set {} m.tones (4 * b + c) x }
def Dev.delta (m : Dev) (t : Nat) : DeltaX := Tbl.find {} m.deltas t
def Dev.setDelta (m : Dev) (t : Nat) (x : DeltaX) : Dev := { m with deltas := Tbl.set {} m.deltas t x }

def Dev.link (m : Dev) (l : Nat) : LinkX := Tbl.find {} m.clk.links l
def Dev.setLink (m : Dev) (l : Nat) (x : LinkX) : Dev := { m with clk := { m.clk with links := Tbl.set {} m.clk.links l x } }
def Dev.adc (m : Dev) (k : Nat) : AdcX := Tbl.find {} m.adcs k
def Dev.setAdc (m : Dev) (k : Nat) (x : AdcX) : Dev := { m with adcs := Tbl.set {} m.adcs k x }
def Dev.padc (m : Dev) (p : Nat) : PAdcX := Tbl.find {} m.padcs p
def Dev.setPadc (m : Dev) (p : Nat) (x : PAdcX) : Dev := { m with padcs := Tbl.set {} m.padcs p x }

/-- Applies a step to the device for each element of a list, in order. -/
def Dev.each {α : Type} (m : Dev) (l : List α) (f : Dev → α → Dev) : Dev := l.foldl f m

/-- The next free value of w bits (assumption log 3): nothing constrains it. -/
def Dev.free (m : Dev) (w : Nat) : Nat := (Config.freeValue w m.drawn).toNat

/-- One free value has been drawn. -/
def Dev.draw (m : Dev) : Dev := { m with drawn := m.drawn + 1 }

/-- Changes what Levee holds. -/
def Dev.modLev (m : Dev) (f : LevX → LevX) : Dev := { m with lev := f m.lev }

/-! ## The image (chapter 02) -/

/-- The definition of basin b in the admitted image. -/
def Dev.bdef? (m : Dev) (b : Nat) : Option BasinDef := m.image.bind fun i => i.basins.lookup b

/-- The definition of basin b; all zero where no image defines it. -/
def Dev.bdef (m : Dev) (b : Nat) : BasinDef := (m.bdef? b).getD {}

/-- True where the admitted image defines basin b. -/
def Dev.defined (m : Dev) (b : Nat) : Bool := (m.bdef? b).isSome

/-- The defined basins, rising. -/
def Dev.definedBasins (m : Dev) : List Nat := (m.image.map fun i => i.basins.map (·.1)).getD []

/-- Pin p as the admitted image maps it; unused where it lists none (R42). -/
def Dev.pinDef (m : Dev) (p : Nat) : PinDef := ((m.image.bind fun i => i.pins.lookup p)).getD {}

/-- The pins of basin b, in any role, rising. -/
def Dev.allPins (m : Dev) (b : Nat) : List Nat :=
  (m.image.map fun i => (i.pins.filter fun p => p.2.role ≠ 0 ∧ p.2.basin = b).map (·.1)).getD []

/-- The streaming and judging pins of basin b: those in the normal and companion-drive roles, rising (R128). -/
def Dev.lanes (m : Dev) (b : Nat) : List Nat :=
  (m.allPins b).filter fun p => (m.pinDef p).role == 1 || (m.pinDef p).role == 2

/-- The tributaries in which basin b has judging pins, rising (R230). -/
def Dev.tribs (m : Dev) (b : Nat) : List Nat :=
  (List.range 64).filter fun t => (m.lanes b).any fun p => p / 16 == t

/-- The judging pins of basin b in tributary t, rising. -/
def Dev.lanesIn (m : Dev) (b t : Nat) : List Nat := (m.lanes b).filter fun p => p / 16 == t

/-- The basin of a pin, where the pin is in a role. -/
def Dev.basinOf (m : Dev) (p : Nat) : Option Nat :=
  if (m.pinDef p).role == 0 then none else some (m.pinDef p).basin

/-- The defined basins with a pin in tributary t, rising. -/
def Dev.basinsIn (m : Dev) (t : Nat) : List Nat :=
  m.definedBasins.filter fun b => (m.allPins b).any fun p => p / 16 == t

/-- The Delta pin of tributary t, if the image gives it one (R44). -/
def Dev.deltaPin (m : Dev) (t : Nat) : Option Nat :=
  (List.range 16).map (16 * t + ·) |>.find? fun p => (m.pinDef p).delta

/-- The tributaries whose Delta unit basin b holds, rising (R44, R156). -/
def Dev.deltasOf (m : Dev) (b : Nat) : List Nat :=
  (List.range 64).filter fun t => match m.deltaPin t with
    | some p => (m.pinDef p).basin == b
    | none => false

/-- The partition record of an index. -/
def Dev.part? (m : Dev) (n : Nat) : Option Part := m.image.bind fun i => i.parts[n]?

/-- The base address and size of a partition; both 0 where none. -/
def Dev.part (m : Dev) (n : Nat) : Part := (m.part? n).getD ⟨0, 0, 0⟩

/-- This device's index (R35). -/
def Dev.deviceIndex (m : Dev) : Nat := (m.image.map (·.deviceIndex)).getD 0

/-- The lowest-numbered judging pin that basin b has on this device. -/
def Dev.master (m : Dev) (b : Nat) : Option Nat := (m.lanes b).head?

/-- True where basin b spans devices and another device leads the span (R109). -/
def Dev.follows (m : Dev) (b : Nat) : Bool := (m.bdef b).span && (m.bdef b).leader != m.deviceIndex

/-- The links of LINK_MASK that are UP (R358). -/
def Dev.flowLinks (m : Dev) (b : Nat) : List Nat := (onesOf 8 (m.bdef b).links).filter fun l => m.get (F.VTL_STAT_STATE l) == 4

/-- The link toward the leader of basin b (R358): its peer is the leader, or has told that the leader lies beyond it. -/
def Dev.leaderLink (m : Dev) (b : Nat) : Option Nat :=
  (m.flowLinks b).find? fun l => m.get (F.VTL_STAT_PEER l) == (m.bdef b).leader || (m.link l).beyond.contains (m.bdef b).leader

/-- A FLOW block goes out on links (R355). -/
def Dev.sendFlow (m : Dev) (ls : List Nat) (f : FlowBlock) : Dev := { m with out := m.out ++ ls.map fun l => .flow l f }

/-- The leader of a spanning basin tells the span (R109, R301, R358); a device that follows tells the leader of a condition registered there. -/
def Dev.tellSpan (m : Dev) (f : FlowBlock) : Dev :=
  if (m.bdef f.basin).span && !m.follows f.basin then m.sendFlow (m.flowLinks f.basin) f else m
def Dev.tellLeader (m : Dev) (b line : Nat) (t : Instant) : Dev :=
  if m.follows b then m.sendFlow (m.leaderLink b).toList { basin := b, conds := [(line, t)] } else m

/-- The flow master of basin b where it lies on this device: its lowest-numbered judging pin, on the leader device (R111). -/
def Dev.flowMaster (m : Dev) (b : Nat) : Option Nat := if m.follows b then none else m.master b

/-- The engine that serves pin p now: a spare that has taken over, else the admitted map's (R122, R404). -/
def Dev.engineOf (m : Dev) (p : Nat) : Nat := m.get (F.PIN_ENG_STAT_ENGINE p)

/-! ## Basin states (Table 2.15) -/

/-- Codes of BSN_STATE.STATE. -/
def St.undefined : Nat := 0
def St.disabled : Nat := 1
def St.idle : Nat := 2
def St.running : Nat := 3
def St.shutting : Nat := 4
def St.recoursing : Nat := 5
def St.held : Nat := 6

/-- The state of basin b. -/
def Dev.bstate (m : Dev) (b : Nat) : Nat := m.get (F.BSN_STATE_STATE b)

/-- Basin b enters a state. -/
def Dev.setState (m : Dev) (b v : Nat) : Dev := m.put (F.BSN_STATE_STATE b) v

/-- True while a JTAG test instruction is loaded, and the PCIe link down with it (R479): EXTEST to HIGHZ are codes 3 to 7. -/
def Dev.inTest (m : Dev) : Bool := decide (3 ≤ m.jtag.instr) && decide (m.jtag.instr ≤ 7)

/-- True while CLR_N, or a JTAG test instruction, holds the pins cleared (R200, R479). -/
def Dev.clrHeld (m : Dev) : Bool := m.on F.GLB_CLR_STAT_LEVEL || m.inTest

/-- True while the device is in the slack state (R424). -/
def Dev.asleep (m : Dev) : Bool := m.get F.SPT_SLACK_STATE == 2

/-! ## Time -/

/-- Units of 0.25 ps in one tick (R162) and in one ECLK. -/
def tickUnits : Nat := 4096000
def eclk : Nat := 4000

/-- The instant of the latest tick boundary. -/
def Dev.now (m : Dev) : Instant := m.tick * tickUnits

/-- The exchange point of the current tick (R24: ECLK 16). -/
def Dev.exchangeNow (m : Dev) : Instant := m.now + 16 * eclk

/-- The time base as latched at a tick's boundary (R350); for a tick without a latch, counted at the nominal rate. -/
def Dev.latchOf (m : Dev) (n : Nat) : Int :=
  match m.latches.lookup n with
  | some v => (v : Int)
  | none => (m.timeBase : Int) + ((n : Int) - (m.tick : Int)) * (1024 * 2 ^ 24)

/-- The time-base stamp of a pin-plane instant in units of 3.90625 ps (R350): the latch of its tick plus its nominal offset,
rounded down. -/
def Dev.stampUnits (m : Dev) (t : Instant) : Nat :=
  ((m.latchOf (t / tickUnits) + ((t % tickUnits) * 2 ^ 24 / 4000 : Nat)) / 2 ^ 16 % 2 ^ 48).toNat

/-- The ns field of a stamp. -/
def Dev.stampNs (m : Dev) (t : Instant) : Nat := m.stampUnits t / 256 % 2 ^ 32

/-- The fraction field of a stamp, in 3.90625 ps units. -/
def Dev.stampFrac (m : Dev) (t : Instant) : Nat := m.stampUnits t % 256

/-- A pair of stamp registers takes the stamp of an instant. -/
def Dev.putStamp (m : Dev) (lo hi : Fld) (t : Instant) : Dev := (m.put lo (m.stampNs t)).put hi (m.stampFrac t)

/-- The first ECLK edge at or after an instant. -/
def eclkUp (t : Instant) : Instant := ceilDiv t eclk * eclk

/-- A timed history, newest first, with one more entry in its place. -/
def timed (l : List (Instant × Nat)) (e : Instant × Nat) : List (Instant × Nat) := insertBy (fun a c => decide (c.1 ≤ a.1)) e l

/-- Units of 0.25 ps in one microsecond. -/
def microsecond : Nat := 4000000

/-- True while the ball switch of a pin is open, in an outage of its tributary (R366): nothing that it drives or forces reaches the ball. -/
def Dev.ballOpen (m : Dev) (p : Nat) : Bool := m.get (F.TRB_CAL_STAT_STATE (p / 16)) == 3

/-- True while the output switch of a pin's PPMU is closed (R203, R205): a shutdown opens it after 4 µs. -/
def Dev.pmuClosed (m : Dev) (p : Nat) (t : Instant) : Bool :=
  m.on (F.PIN_PMU_STAT_CONNECTED p) && !(m.pin p).shutAt.any fun s => decide (s + 4 * microsecond ≤ t)

/-- T_REF, 38.000 ns (R164). -/
def tRef : Nat := 152000

/-- FLOW_LAT of basin b in units (R108, R109). -/
def Dev.flowLat (m : Dev) (b : Nat) : Nat := m.get (F.BSN_FLOW_LAT_FLOW_LAT b) * eclk

/-- The jump horizon H of basin b in units (R136). -/
def Dev.horizon (m : Dev) (b : Nat) : Nat := m.get (F.BSN_CRS_HZN_H b) * eclk

end Sys2Proof.Machine
end

