-- ==== Sys2Proof/Machine/Burst.lean ====
section
/-! DEFINITION. Bursts as Weir holds them: contexts in HBM (R290, R291), the trace (R309), the end of a burst (R303), the return
of an on-deck burst (Table 10.11), and MSI-X messages (R469). -/

namespace Sys2Proof.Machine

/-- The HBM address of a context (R290). -/
def ctxAddr (c : Nat) : Nat := 64 * c

/-- The basin of a context (R290). -/
def ctxBasin (c : Nat) : Nat := c / 4096

/-- A field of a context's descriptor bytes (Table 10.1). -/
def Dev.desc (m : Dev) (c i n : Nat) : Nat := m.mem (ctxAddr c + i) n

/-- Context states (Table 10.2). -/
def Ctx.free : Nat := 0
def Ctx.ready : Nat := 1
def Ctx.spilled : Nat := 2
def Ctx.onDeck : Nat := 3
def Ctx.running : Nat := 4
def Ctx.ended : Nat := 5

/-- The state of a context. -/
def Dev.ctxState (m : Dev) (c : Nat) : Nat := m.mem (ctxAddr c + 48) 1

/-- A context takes a state (Table 10.2, byte 48). -/
def Dev.setCtx (m : Dev) (c v : Nat) : Dev := m.setMem (ctxAddr c + 48) 1 v

/-- Sends an MSI-X message, or sets its pending bit where the vector is masked (R469, Table 17.3). -/
def Dev.msix (m : Dev) (v : Nat) : Dev :=
  if m.reg (0x0900000 + v * 16 + 12) % 2 == 0 then
    { m with out := m.out ++ [.msix v (m.pair (0x0900000 + v * 16) (0x0900000 + v * 16 + 4)) (m.reg (0x0900000 + v * 16 + 8))] }
  else m.setReg (0x0908000 + v / 32 * 4) (setBits (m.reg (0x0908000 + v / 32 * 4)) (v % 32) (v % 32) 1)

/-- The trace ring's size in records: 4 MiB × 2^LOG of 8 bytes (R309). -/
def Dev.traceLen (m : Dev) : Nat := 0x80000 * 2 ^ m.get F.WEI_TRACE_SIZE_LOG

/-- Writes one 64-bit word to the trace ring, or loses it in STOP mode (R309). -/
def Dev.traceWord (m : Dev) (v : Nat) : Dev :=
  let i := m.get F.WEI_TRACE_WR_IDX
  let n := (i + 1) % m.traceLen
  if !m.on F.WEI_CTL_TRACE_EN then m
  else if m.on F.WEI_CTL_TRACE_MODE && n == m.get F.WEI_TRACE_RD_IDX % m.traceLen then
    (m.count F.WEI_TRACE_LOST_COUNT 1).put F.WEI_STAT_TRACE_FULL 1
  else (m.setMem (m.get F.WEI_TRACE_BASE_BASE + 8 * i) 8 v).put F.WEI_TRACE_WR_IDX n

/-- Writes a trace record (Table 10.9). -/
def Dev.trace (m : Dev) (kind arg b c : Nat) : Dev :=
  m.traceWord (kind * 2 ^ 60 + arg % 256 * 2 ^ 52 + b % 256 * 2 ^ 44 + c % 2 ^ 20 * 2 ^ 24 + m.tick % 2 ^ 24)

/-- Trace kinds (Table 10.9). -/
def Trace.ready : Nat := 0
def Trace.dispatch : Nat := 1
def Trace.prefetch : Nat := 2
def Trace.cancel : Nat := 3
def Trace.annul : Nat := 4
def Trace.complete : Nat := 5
def Trace.spill : Nat := 6
def Trace.unspill : Nat := 7
def Trace.defer : Nat := 8
def Trace.timemark : Nat := 9

/-- Changes what a basin, a pin holds. -/
def Dev.modBsn (m : Dev) (b : Nat) (f : BasinX → BasinX) : Dev := m.setBsn b (f (m.bsn b))

def Dev.modPin (m : Dev) (p : Nat) (f : PinX → PinX) : Dev := m.setPin p (f (m.pin p))

/-- The running burst of basin b is changed in place. -/
def Dev.modRun (m : Dev) (b : Nat) (f : Run → Run) : Dev := m.modBsn b fun x => { x with run := x.run.map f }

/-- The on-deck burst of basin b is changed in place. -/
def Dev.modDeck (m : Dev) (b : Nat) (f : Deck → Deck) : Dev := m.modBsn b fun x => { x with deck := x.deck.map f }

/-- Sets the state shown for the engines of basin b (PIN_ENG_STAT.STATE, Table 3.9). -/
def Dev.engState (m : Dev) (b v : Nat) : Dev := m.each (m.lanes b) fun m p => m.put (F.PIN_ENG_STAT_STATE p) v

/-- The course state shown for basin b (BSN_CRS_POS.STATE, Table 4.7). -/
def Crs.idle : Nat := 0
def Crs.play : Nat := 1
def Crs.stall : Nat := 2
def Crs.landing : Nat := 3
def Crs.ended : Nat := 4

/-- The hold vectors that basin b has played by an instant, its set in force being that of its hold word (R151). -/
def Dev.holdVectors (m : Dev) (b : Nat) (t : Instant) : Nat :=
  match (m.bsn b).hold with
  | some g =>
    let s := (m.bsn b).tset
    (t - g) / max 1 (m.inForce (Reg.BSN_TS_PER_LO b s) + 2 ^ 32 * m.getForce (F.BSN_TS_PER_HI_PERIOD b s))
  | none => 0

/-- The stall in progress of a burst becomes a stall record at its end (R153, R155). -/
def Dev.closeStall (m : Dev) (b : Nat) (t : Instant) : Dev :=
  match (m.bsn b).run with
  | some r => match r.stall with
    | some s =>
      let rec1 : StallRec := ⟨m.stampNs s.start, m.stampFrac s.start, s.cause, r.entry, min (m.holdVectors b t) 0xFFFFFFFF, s.word, 0⟩
      let m := m.modRun b fun r => { r with
        stall := none, underrun := true, stalls := if r.stalls.length < 8 then r.stalls ++ [rec1] else r.stalls }
      let m := m.setPair (Reg.BSN_STALL_TIME_LO b) (Reg.BSN_STALL_TIME_HI b)
        (m.pair (Reg.BSN_STALL_TIME_LO b) (Reg.BSN_STALL_TIME_HI b) + (t - s.start))
      m
    | none => m
  | none => m

/-! ## Crossbar routes (R56, R221) -/

/-- When a source that changes at t reaches an internal destination (Table 7.2). -/
def arrival (src t : Nat) : Instant :=
  if src < 0x0500 then eclkUp t + 4 * eclk
  else if src < 0x0600 then eclkUp (t + 2000) + 4 * eclk
  else t + 2 * eclk

/-- The destinations that a change of a source at t reaches, with their instants; a driven TRIG ball that is itself a source is
followed (R57), each ball once. -/
def reach (routes : List (Nat × Nat)) : Nat → Nat → Instant → List (Nat × Instant)
  | 0, _, _ => []
  | fuel + 1, src, t =>
    ((routes.filter fun r => r.2 == src).map (·.1)).flatMap fun d =>
      (d, arrival src t) ::
        (if 0x1000 ≤ d ∧ d < 0x1010 then
          reach (routes.filter fun r => r.2 != src) fuel (d - 0x1000 + 0x0500) (arrival src t + 32000)
         else [])

/-- The destinations of a source in the admitted image. -/
def Dev.reaches (m : Dev) (src : Nat) (t : Instant) : List (Nat × Instant) :=
  reach ((m.image.map (·.routes)).getD []) 17 src t

/-- A line of the crossbar. -/
def Dev.wire (m : Dev) (c : Nat) : Nat := Tbl.find 0 m.wires c
def Dev.setWire (m : Dev) (c v : Nat) : Dev := { m with wires := Tbl.set 0 m.wires c v }

/-- A transmitted trigger line takes a level (R356): a second change in one link cycle goes out in the next cycle, at its first ECLK (DESIGN CHOICE,
log 113), and counts in TRIG_SLIP of
every link that sends the line. -/
def Dev.sendLine (m : Dev) (l : Nat) (v : Bool) (t : Instant) : Dev :=
  if m.wire (0x1C00 + l) == flag v then m
  else
    let w := t / (8 * eclk) + 1
    let last := Tbl.find 0 m.clk.sent l
    let slip := decide (w ≤ last)
    let m := (m.setWire (0x1C00 + l) (flag v))
    let m := { m with clk := { m.clk with sent := Tbl.set 0 m.clk.sent l (if slip then last + 1 else w) } }
    let ks := (List.range 8).filter fun k => bitOf (m.get (F.VTL_CTL_TRIG_TX k)) l
    let up := ks.filter fun k => m.get (F.VTL_STAT_STATE k) == 4
    let m := { m with out := m.out ++ up.map fun k => .line k l (if slip then 8 * last else t / eclk) }
    if slip then m.each ks fun m k => m.count (F.VTL_ERR_TRIG_SLIP k) 1 else m

/-- A driven TRIG ball takes a level 8.0 ns after its destination did (R221, Table 7.2). -/
def Dev.driveBall (m : Dev) (k : Nat) (v : Bool) (t : Instant) : Dev :=
  { m with out := m.out ++ [.trig k (flag v) (t + 32000)], clk := { m.clk with balls := m.clk.balls ++ [(t + 32000, k, flag v)] } }

/-- The level of a driven TRIG ball at an instant (R221, R222). -/
def Dev.ballAt (m : Dev) (k : Nat) (t : Instant) : Nat :=
  ((m.clk.balls.filter fun e => e.2.1 == k && decide (e.1 ≤ t)).getLast?.map (·.2.2)).getD (m.wire (0x1000 + k))

/-- Levels that have come to their TRIG balls by an instant stand there (R221). -/
def Dev.settleBalls (m : Dev) (t : Instant) : Dev :=
  let due := m.clk.balls.filter fun e => decide (e.1 ≤ t)
  ({ m with clk := { m.clk with balls := m.clk.balls.filter fun e => decide (t < e.1) } } : Dev).each due fun m e => m.setWire (0x1000 + e.2.1) e.2.2

/-- A destination takes a level (R221, R222, Table 3.6, Table 3.7): a line at once, a TRIG ball 8.0 ns later, a TRIG condition input when registered. -/
def Dev.setLevel (m : Dev) (v : Bool) (e : Nat × Instant) : Dev :=
  if 0x1900 ≤ e.1 ∧ e.1 < 0x1A00 then
    (m.modBsn (e.1 - 0x1900) fun x => { x with trig := timed x.trig (e.2 + 2 * eclk, flag v) }).tellLeader (e.1 - 0x1900) (if v then 8 else 9)
      (e.2 + 2 * eclk)
  else if 0x1C00 ≤ e.1 then m.sendLine (e.1 - 0x1C00) v e.2
  else if e.1 < 0x1010 then m.driveBall (e.1 - 0x1000) v e.2
  else m

/-- A source takes a level: every destination that follows levels takes it. -/
def Dev.spread (m : Dev) (src : Nat) (t : Instant) (v : Bool) : Dev := m.each (m.reaches src t) fun m e => m.setLevel v e

/-- The marker lines of a basin that are asserted fall (R114). -/
def Dev.marksOff (m : Dev) (b : Nat) (t : Instant) : Dev :=
  let on := onesOf 4 (m.bsn b).marks
  let m := m.modBsn b fun x => { x with marks := 0 }
  m.each on fun m k => m.spread (0x0100 + 4 * b + k) t false

/-! ## The end of a burst -/

/-- The slots that the record has taken from the trigger slot on, of those offered up to its POST-th (R234, R237). -/
def CapRec.kept (r : CapRec) (post : Nat) : List CapSlot := (r.post.take post).take (r.cut.getD post)

/-- A record ends (R234, R237): it keeps the slots offered up to its POST-th, but for those lost to OVERFLOW, which are counted in symbols of `pins`
pins; TRUNCATED where
its POST-th slot was not reached. -/
def CapRec.ended (r : CapRec) (post pins : Nat) : CapRec :=
  let n := (r.post.take post).length
  { r with post := r.kept post, truncated := decide (n < post), overflow := r.cut.isSome,
           lost := min ((n - (r.kept post).length) * pins) (2 ^ 40 - 1) }

/-- A record closes (R234, R235): its drain begins, and re-arm follows 496 ECLK after its last slot, after an OVERFLOW not before its drain space has
emptied. -/
def CapX.close (c : CapX) (r : CapRec) : CapX :=
  let last := (r.post.getLast?.or r.pre.getLast?).map (·.stop)
  let e := last.getD r.trigger
  let ready := eclkUp e + 496 * eclk
  { c with opened := none, closed := c.closed ++ [r], rearm := some ready, since := ready, lastEnd := some e, stallAt := none, underAt := none,
           taken := c.taken + 1, lapsed := r.overflow, emptied := none }

/-- The open record of basin b closes with what it has (R234, R235, R237); history starts at re-arm with `rest`. -/
def Dev.closeRecord (m : Dev) (b : Nat) (r : CapRec) (rest : List CapSlot) : Dev :=
  let n := m.get (F.BSN_CAP_RECS_RECORDS b)
  let r := r.ended (m.get (F.BSN_CAP_POST_POST b)) (m.lanes b).length
  let m := m.modBsn b fun x =>
    let c := x.cap.close r
    { x with cap := { c with history := rest.filter (fun s => decide (c.since ≤ s.start)), finished := n != 0 && decide (n ≤ c.taken) } }
  let m := (m.put (F.BSN_CAP_STAT_OPEN b) 0).put (F.BSN_CAP_STAT_REARM b) 1
  m.setPair (Reg.BSN_CAP_LOST_LO b) (Reg.BSN_CAP_LOST_HI b) (m.pair (Reg.BSN_CAP_LOST_LO b) (Reg.BSN_CAP_LOST_HI b) + r.lost)

/-- Capture of basin b is cut off at an instant: an open record closes with the slots that have ended by then (R234), TRUNCATED unless its POST-th is
among them, and
history is cleared (Table 7.8). DESIGN CHOICE (log 105): a slot that the instant cuts is not captured. -/
def Dev.endCapture (m : Dev) (b : Nat) (t : Instant) : Dev :=
  let m := match (m.bsn b).cap.opened with
    | some r => m.closeRecord b { r with post := r.post.filter fun s => decide (s.stop ≤ t) } []
    | none => m
  m.modBsn b fun x => { x with cap := { x.cap with history := [], stallAt := none, underAt := none } }

/-- The source code of a sequencer's output (Table 2.10). -/
def seqSource (q : Nat) : Nat := if q < 256 then 0x0600 + q else 0x0700 + (q - 256)

/-- The condition of the state that a sequencer is in: SEL and PARAM (Table 7.3). -/
def Dev.seqSel (m : Dev) (q : Nat) : Nat × Nat :=
  let s := m.get (F.TSQ_STAT_STATE q)
  (m.get (F.TSQ_COND_SEL q s), m.get (F.TSQ_COND_PARAM q s))

/-- The occurrence target of the state of sequencer q (R224): a COUNT of 0 acts as 1. -/
def Dev.seqTarget (m : Dev) (q : Nat) : Nat := max 1 (m.get (F.TSQ_COUNT_COUNT q (m.get (F.TSQ_STAT_STATE q))))

/-- The occurrences in the state of sequencer q at an instant (R223, R224): where its condition is always, one per ECLK after the entry. -/
def Dev.seqOccurs (m : Dev) (q : Nat) (t : Instant) : Nat :=
  if m.on (F.TSQ_STAT_RUNNING q) && (m.seqSel q).1 == 1 then min (t / eclk - (m.seq q).entered / eclk) 0xFFFFFFFF
  else m.get (F.TSQ_OCC_OCC q)

/-- A sequencer freezes, its output 0 and its state held (R226, R227). -/
def Dev.freezeSeq (m : Dev) (q : Nat) (t : Instant) : Dev :=
  let was := m.on (F.TSQ_STAT_OUT q)
  let m := m.setReg (Reg.TSQ_OCC q) (m.seqOccurs q t)
  let m := (m.put (F.TSQ_STAT_OUT q) 0).put (F.TSQ_STAT_RUNNING q) 0
  if was then m.spread (seqSource q) t false else m

/-- The samples of a unit of D = `div` + 1 that a stay dry from t0 to t has held back (R159). -/
def heldSamples (div : Nat) (t0 t : Instant) : Nat := (t - t0) / (8000 * (div + 1))

/-- A dry unit's shortage ends at an instant (R159): its samples held are counted in DLT_SHORT and in its stall record. -/
def Dev.closeDry (m : Dev) (b t : Nat) (at_ : Instant) : Dev :=
  let x := m.delta t
  match x.dryAt with
  | none => m
  | some t0 =>
    let n := heldSamples x.div t0 at_
    let ns := m.stampNs t0
    let fr := m.stampFrac t0
    let m := (m.count (F.DLT_SHORT_COUNT t) n).put (F.DLT_STAT_DRY t) 0
    let m := m.setDelta t { x with dryAt := none }
    m.modRun b fun r => { r with stalls := r.stalls.map fun s =>
      if s.cause == 3 && s.ns == ns && s.frac == fr && s.unit == t then { s with count := min n 0xFFFFFFFF } else s }

/-- Sample play of a basin's units stops at a boundary (R157): samples of a pass that ended first, and of a LOOP segment, are
dropped. -/
def Dev.stopSamples (m : Dev) (b : Nat) (t : Instant) : Dev :=
  m.each (m.deltasOf b) fun m k =>
    let m := (m.closeDry b k t).put (F.DLT_STAT_SAMPLING k) 0
    let x := m.delta k
    if x.sampling.isNone then m
    else m.setDelta k { x with sampling := none, left := none,
                               fifo := match x.left with
                                 | some n => x.fifo.drop n
                                 | none => [] }

/-- The completion of a running burst, as its registers and state stand at its end (R304, Table 10.7). -/
def Dev.doneOf (m : Dev) (b : Nat) (r : Run) (status source : Nat) (t : Instant) : Done :=
  { ctx := r.ctx, tick := m.tick, status := status, chained := r.chained,
    padded := decide (t < r.start + (m.bdef b).minBurst * tickUnits),
    underrun := r.underrun, deferTicks := min r.deferTicks 0xFFFF, armCode := r.armCode,
    detail := r.armCode, source := source, ran := true,
    startNs := m.stampNs r.start, startFrac := m.stampFrac r.start, endNs := m.stampNs t, endFrac := m.stampFrac t,
    entry := r.entry, pass := r.pass % 2 ^ 32,
    vcnt := match m.master b with
      | some p => m.pair (Reg.PIN_VCNT_LO p) (Reg.PIN_VCNT_HI p)
      | none => 0,
    fails := m.reg (Reg.BSN_GAU_FAILS b), failVec := m.reg (Reg.BSN_GAU_FAILVEC b), first := m.reg (Reg.BSN_GAU_FIRST b),
    stallCount := m.get (F.BSN_STALL_CNT_STALLS b),
    stallUnits := m.pair (Reg.BSN_STALL_TIME_LO b) (Reg.BSN_STALL_TIME_HI b),
    ffv := m.pair (Reg.BSN_GAU_FFV_LO b) (Reg.BSN_GAU_FFV_HI b), stalls := r.stalls }

/-- Where the completion record of an ended burst goes: RESULT_ADDR of its partition, where RESULT is set and names a place (R304). -/
def Dev.recordFor (m : Dev) (b : Nat) (d : Done) : Option Nat :=
  let a := m.desc d.ctx 32 8
  if !d.record || !bitOf (m.desc d.ctx 6 1) 5 || a % 64 ≠ 0 || decide ((m.part (m.bdef b).coursePart).size < a + 192) then none
  else some ((m.part (m.bdef b).coursePart).base + a)

/-- The HOUSE units that a completion costs (R304). -/
def Dev.houseCost (m : Dev) (b : Nat) (d : Done) : Nat := if (m.recordFor b d).isSome then 1 + ceilDiv d.stalls.length 4 else 0

/-- The units that the HOUSE allowance of basin b still has in this tick (R145). -/
def Dev.houseLeft (m : Dev) (b : Nat) : Nat := 1 + (m.bdef b).houseSh - (m.bsn b).house

/-- True where a course fetch of basin b that was requested before a tick waits (R145). -/
def Dev.fetchWaits (m : Dev) (b k : Nat) : Bool :=
  (m.bsn b).asked.any (fun e => decide (e.2 < k)) || (m.bsn b).deck.any fun d => d.onDeck && d.first.isNone && decide (d.asked < k)

/-- True where a completion of basin b that was requested before a tick waits for HOUSE units (R145). -/
def Dev.recordWaits (m : Dev) (b k : Nat) : Bool := (m.bsn b).done.any fun d => decide (d.tick < k) && m.houseCost b d != 0

/-- What is left of the HOUSE allowance of a tick that ends goes to the record of the oldest burst that has ended, unless a course fetch comes before
it (R145). -/
def Dev.payHouse (m : Dev) (b : Nat) : Dev :=
  match (m.bsn b).done with
  | [] => m
  | d :: _ => if m.fetchWaits b (d.tick + 1) then m else m.modBsn b fun x => { x with paid := min (m.houseCost b d) (x.paid + m.houseLeft b) }

/-- The running burst of basin b ends at instant t with a status (R303): its completion waits for Weir, its context is ENDED,
its words are discarded up to the mark (R146), capture and the sequencer see the burst's end, and the engines hold. The marker lines fall with what
follows: a chained word may keep them (R114). -/
def Dev.endBurst (m : Dev) (b status source : Nat) (t : Instant) : Dev :=
  let m := (m.closeStall b t).stopSamples b t
  match (m.bsn b).run with
  | none => m
  | some r =>
    let d := m.doneOf b r status source t
    let m := m.endCapture b t
    let m := m.freezeSeq b t
    let m := m.setCtx r.ctx Ctx.ended
    let m := m.modBsn b fun x => { x with
      run := none, pos := t, done := x.done ++ [d], window := [], asked := [], closing := false }
    let m := m.each (m.lanes b) fun m p => m.modPin p fun x => { x with fifo := [], cur := none, rPtr := none }
    let m := m.each (m.deltasOf b) fun m k => m.setDelta k { m.delta k with fifo := [], ptr := none }
    let m := m.put (F.BSN_CRS_POS_STATE b) Crs.ended
    let m := (m.put (F.BSN_CRS_PASS_PASS b) 0).put (F.BSN_CRS_WIN_HELD b) 0
    let m := m.put (F.BSN_FLOW_STAT_WAITING b) 0
    m.engState b 1

/-- The on-deck burst of basin b returns unchanged to the head of its ready list; its prefetch is discarded and the trace
records DEFER with a reason (Table 10.10). -/
def Dev.returnDeck (m : Dev) (b reason : Nat) : Dev :=
  match (m.bsn b).deck with
  | none => m
  | some d =>
    let m := m.modBsn b fun x => { x with
      deck := none, lists := x.lists.modify d.list (d.ctx :: ·), ramp := 0, rampStart := none, primedBy := [] }
    let m := m.each (m.lanes b) fun m p => m.modPin p fun x => { x with
      deckFifo := [], rDeck := none, ramped := none }
    let m := m.each (m.deltasOf b) fun m k => m.setDelta k { m.delta k with deckFifo := [], deckPtr := none }
    (m.setCtx d.ctx Ctx.ready).trace Trace.defer reason b d.ctx

end Sys2Proof.Machine
end

