-- ==== Sys2Proof/Machine/Mailbox.lean ====
section
/-! DEFINITION. The mailbox slots and the status word of long operations (R448, R449, R472 to R475). -/

namespace Sys2Proof.Machine

/-- States of a slot (Table 17.6). -/
def Slot.free : Nat := 0
def Slot.queued : Nat := 1
def Slot.running : Nat := 2
def Slot.aborting : Nat := 3
def Slot.done : Nat := 4
def Slot.failed : Nat := 5

/-- Operation ids (Table 16.7). -/
def Op.catchLoad : Nat := 0x0101
def Op.catchWithdraw : Nat := 0x0102
def Op.recourse : Nat := 0x0103
def Op.catchCheck : Nat := 0x0104
def Op.slcTrain : Nat := 0x0201
def Op.opChange : Nat := 0x0202
def Op.syscal : Nat := 0x0301
def Op.calRun : Nat := 0x0401
def Op.calRef : Nat := 0x0402
def Op.dump : Nat := 0x0501
def Op.slack : Nat := 0x0601
def Op.servo : Nat := 0x0701
def Op.fwStage : Nat := 0x0801
def Op.fwSelect : Nat := 0x0802

/-- The common error codes (Table 16.8). -/
def Err.unknownOp : Nat := 0xFFF0
def Err.aborted : Nat := 0xFFF1
def Err.fwRestart : Nat := 0xFFF2
def Err.sealed : Nat := 0xFFF3
def Err.busy : Nat := 0xFFF4
def Err.notReady : Nat := 0xFFF5
def Err.microcode : Nat := 0xFFF6

/-- The status word of a slot (R473), and a field of it. -/
def Dev.status (m : Dev) (s : Nat) : Nat := m.pair (Reg.MBX_STAT_LO s) (Reg.MBX_STAT_HI s)
def Dev.putStatus (m : Dev) (s hi lo v : Nat) : Dev :=
  m.setPair (Reg.MBX_STAT_LO s) (Reg.MBX_STAT_HI s) (setBits (m.status s) hi lo v)

/-- The state of a slot. -/
def Dev.slotState (m : Dev) (s : Nat) : Nat := bitsOf (m.status s) 44 42

/-- True while a slot is QUEUED, RUNNING or ABORTING. -/
def Dev.slotActive (m : Dev) (s : Nat) : Bool :=
  m.slotState s == Slot.queued || m.slotState s == Slot.running || m.slotState s == Slot.aborting

/-- What a slot holds beside its registers. -/
def Dev.slot (m : Dev) (s : Nat) : MbxX := Tbl.find {} m.mbx s
def Dev.setSlot (m : Dev) (s : Nat) (x : MbxX) : Dev := { m with mbx := Tbl.set {} m.mbx s x }

/-- A bit of MBX_SUM for a slot: ENDED at 0, REFUSED at 8, ACTIVE at 16. -/
def Dev.sumBit (m : Dev) (s at_ v : Nat) : Dev :=
  m.setReg Reg.MBX_SUM (setBits (m.reg Reg.MBX_SUM) (s + at_) (s + at_) v)

/-- The HBM address of a slot's result buffer (R474). -/
def resultBase (s : Nat) : Nat := 0x0F000000 + s * 0x100000

/-- An operation ends, DONE with error 0 or FAILED with its code (R448, R472, R473). -/
def Dev.opEnd (m : Dev) (s err : Nat) : Dev :=
  if !m.slotActive s then m else
  let m := (m.putStatus s 31 16 err).putStatus s 41 32 1000
  let m := m.putStatus s 44 42 (if err == 0 then Slot.done else Slot.failed)
  let m := (m.sumBit s 0 1).sumBit s 16 0
  if (m.slot s).irq then m.msix (1032 + s) else m

/-- The count of result entries written (PARTIAL). -/
def Dev.partialCount (m : Dev) (s n : Nat) : Dev := m.putStatus s 63 48 n

/-- The progress that running operations show moves on by a free amount, below 1,000 until they end (R473; log 117). -/
def Dev.progress (m : Dev) : Dev :=
  m.each ((List.range 8).filter fun s => m.slotState s == Slot.running || m.slotState s == Slot.aborting) fun m s =>
    (m.putStatus s 41 32 (min 999 (bitsOf (m.status s) 41 32 + (Config.freeValue 10 m.drawn).toNat))).draw

/-- The slot in which an operation of a group runs, other than a given one (R448). -/
def Dev.groupSlot (m : Dev) (g not_ : Nat) : Option Nat :=
  (List.range 8).find? fun s => s != not_ && (m.slotState s == Slot.running || m.slotState s == Slot.aborting) && (m.slot s).op / 256 == g

/-- The slot in which an operation runs. -/
def Dev.opSlot (m : Dev) (op : Nat) : Option Nat :=
  (List.range 8).find? fun s => (m.slotState s == Slot.running || m.slotState s == Slot.aborting) && (m.slot s).op == op

/-- True where start-up has reached READY (R445). -/
def Dev.isReady (m : Dev) : Bool := m.get F.MRC_BOOT_STAGE == 7

/-- An issue is taken in a slot: its status word is cleared and it is QUEUED (R472); in the sealed state none is taken (R398). The
second component tells whether it was taken. -/
def Dev.opIssue (m : Dev) (s op : Nat) (irq : Bool) : Dev × Bool :=
  if m.on F.LEV_STAT_SEALED then (m, false)
  else if m.slotActive s then (m.sumBit s 8 1, false)
  else
    let m := m.setPair (Reg.MBX_STAT_LO s) (Reg.MBX_STAT_HI s) (op % 65536 + Slot.queued * 2 ^ 42)
    let m := m.setSlot s { op := op, irq := irq, params := (List.range 8).map fun k => m.reg (Reg.MBX_PARAM s k) }
    (m.sumBit s 16 1, true)

/-- Firmware starts an operation: one that waits QUEUED in its slot, or one that is issued here (R472); before READY it ends NOT_READY
(R446), and where its group is busy it ends with the group's BUSY code (R448). The second component tells whether it goes on. -/
def Dev.opStart (m : Dev) (s op : Nat) (irq : Bool) (busy : Nat) : Dev × Bool :=
  let r := if m.slotState s == Slot.queued && (m.slot s).op == op then (m, true) else m.opIssue s op irq
  if !r.2 then (r.1, false)
  else
    let m := r.1.putStatus s 44 42 Slot.running
    if !m.isReady then (m.opEnd s Err.notReady, false)
    else if (m.groupSlot (op / 256) s).isSome then (m.opEnd s busy, false)
    else (m, true)

/-- Parameter word k of the operation in a slot (Table 17.5). -/
def Dev.param (m : Dev) (s k : Nat) : Nat := (m.slot s).params.getD k 0

end Sys2Proof.Machine
end

