-- ==== Sys2Proof/Machine/Reservoir.lean ====
section
/-! DEFINITION. The records of Reservoir (R373 to R375): their header, their check word, and the two copies of each. -/

namespace Sys2Proof.Machine

/-- The record kinds that the spec numbers (Table 13.5, R402). -/
def Rec.reference : Nat := 0x0010
def Rec.padc : Nat := 0x0011
def Rec.stage : Nat := 0x0012
def Rec.counters : Nat := 0x0020
def Rec.summary : Nat := 0x0021

/-- The place of a record among all: its KIND and INDEX. -/
def recKey (kind index : Nat) : Nat := 256 * kind + index

/-- The copy in use of a record (R375): the valid one of A and B with the higher GEN. -/
def Dev.recInUse (m : Dev) (key : Nat) : Option RsvCopy :=
  (m.rsv.copies.filter fun c => c.key == key).foldl (fun b c => if b.any fun x => decide (c.gen < x.gen) then b else some c) none

/-- A record's header with its CHECK field given (Table 13.5). -/
def RsvCopy.header (c : RsvCopy) (check : Nat) : List Byte :=
  leBytes 2 (c.key / 256) ++ leBytes 1 c.key ++ leBytes 1 1 ++ leBytes 4 c.gen ++ leBytes 2 c.temp ++ leBytes 2 c.payload.length ++
  leBytes 4 c.runs ++ leBytes 12 0 ++ leBytes 4 check

/-- CHECK (Table 13.5): CRC-32C over header and payload, with the field taken as 0; and the record as it lies in its slot (R374). -/
def RsvCopy.check (c : RsvCopy) : Nat := crc32c (c.header 0 ++ c.payload)
def RsvCopy.bytes (c : RsvCopy) : List Byte := c.header c.check ++ c.payload

/-- A record is written (R375): to the slot other than that of the copy in use, with GEN one higher; RSV_WRITES counts the write. -/
def Dev.recWrite (m : Dev) (kind index temp : Nat) (payload : List Byte) : Dev :=
  let key := recKey kind index
  let old := m.recInUse key
  let new : RsvCopy := { key := key, slotB := old.any fun c => !c.slotB, gen := (old.elim 0 (·.gen)) + 1, temp := temp,
                         runs := min ((old.elim 0 (·.runs)) + 1) 0xFFFFFFFF, payload := payload }
  let m := { m with rsv := { m.rsv with copies := m.rsv.copies.filter (fun (c : RsvCopy) => c.key != key || c.slotB != new.slotB) ++ [new] } }
  m.setPair Reg.RSV_WRITES_LO Reg.RSV_WRITES_HI (m.pair Reg.RSV_WRITES_LO Reg.RSV_WRITES_HI + 1)

end Sys2Proof.Machine
end

