-- ==== Sys2Proof/Machine/Safe.lean ====
section
/-! DEFINITION. The safe state (R196 to R201) and what takes a basin there: clearing, halting, and the functions that a reaction
disables (R75). -/

namespace Sys2Proof.Machine

/-- The codes that R193 makes of the codes of VIH, VIL, VOH, VOL and VT: range, then swing. -/
def limitRange (c : Nat) : Nat := max 2622 (min 55050 c)

/-- True where a code lies outside the ball range (R193). -/
def outOfRange (c : Nat) : Bool := limitRange c != c

/-- True where the applied VIH and VIL codes differ by more than the swing limit (R193). -/
def swingOver (vih vil : Nat) : Bool :=
  let h := limitRange vih
  let l := limitRange vil
  decide (l + 36700 < h) || decide (h + 36700 < l)

/-- The code that a level channel plays (R193), from the active codes of VIH and VIL and its own. -/
def playedCode (c vih vil own : Nat) : Nat :=
  let h := limitRange vih
  let l := limitRange vil
  if c = 5 then own
  else if c = 0 ∧ h + 36700 < l then l - 36700
  else if c = 1 ∧ l + 36700 < h then h - 36700
  else limitRange own

/-- The code that a level channel of a pin plays (R193). -/
def Dev.playedLevel (m : Dev) (p c : Nat) : Nat :=
  playedCode c (m.get (F.PIN_LVL_ACT_CODE p 0)) (m.get (F.PIN_LVL_ACT_CODE p 1)) (m.get (F.PIN_LVL_ACT_CODE p c))

/-- What the active codes of a pin break of R193: a code outside the ball range, and the swing. -/
def Dev.codesOver (m : Dev) (p : Nat) : Bool × Bool :=
  ((List.range 5).any fun c => outOfRange (m.get (F.PIN_LVL_ACT_CODE p c)),
   swingOver (m.get (F.PIN_LVL_ACT_CODE p 0)) (m.get (F.PIN_LVL_ACT_CODE p 1)))

/-- The clamp flags of a pin after codes were applied to it (R193). -/
def Dev.clampFlags (m : Dev) (p : Nat) : Dev :=
  let m := if (m.codesOver p).1 then m.put (F.PIN_FE_STAT_LVL_CLAMP p) 1 else m
  if (m.codesOver p).2 then m.put (F.PIN_FE_STAT_SWING_CLAMP p) 1 else m

/-- The codes just applied to a pin are limited (R193): its clamp flags, and a report at the end of the command. -/
def Dev.limitOwed (m : Dev) (p : Nat) : Dev :=
  let m := m.clampFlags p
  let beyond := (m.codesOver p).1 || (m.codesOver p).2
  if beyond && !m.lev.owed.contains p then m.modLev fun l => { l with owed := l.owed ++ [p] } else m

/-- The active and staged codes of a pin take its clear codes (R197). -/
def Dev.clearLevels (m : Dev) (p : Nat) : Dev :=
  m.each (List.range 6) fun m c =>
    let v := m.get (F.PIN_LVL_CLR_CODE p c)
    (m.put (F.PIN_LVL_ACT_CODE p c) v).put (F.PIN_LVL_STG_CODE p c) v

/-- Clears the level channels of a pin (R197): active and staged codes take the clear codes, the tone amplitude is 0 (R208). A clear code that
R193 limits is reported at the end of the command. -/
def Dev.clearPin (m : Dev) (p : Nat) : Dev :=
  let m := ((m.clearLevels p).put (F.PIN_FE_STAT_CLEARED p) 1).put (F.PIN_PMU_AMP_AMP p) 0
  (m.modPin p fun x => { x with applied := false, ampNow := 0, levelAt := some m.now, forceNext := none }).limitOwed p

/-- Disables the PPMU of a pin at once (Table 6.6, step 3; R75, R205). -/
def Dev.dropPmu (m : Dev) (p : Nat) : Dev :=
  let m := m.put (F.PIN_PMU_CTL_ENABLE p) 0
  let m := m.put (F.PIN_PMU_STAT_CONNECTED p) 0
  let m := m.put (F.PIN_PMU_STAT_PENDING p) 0
  let m := m.put (F.PIN_PMU_STAT_SHUTTING p) 0
  let m := m.modPin p fun x => { x with forceNext := none, shutAt := none, limiting := false }
  (m.put (F.PIN_PMU_STAT_RANGE_CHG p) 0).put (F.PIN_PMU_STAT_CLAMP p) 0

/-- A pin enters the safe state (Table 6.6), cleared or not (Table 6.5): engine halted, drive state reset (R89), walks stopped
(Table 5.4), driver off and termination open, PPMU off. -/
def Dev.safePin (m : Dev) (clear : Bool) (p : Nat) : Dev :=
  let m := if clear then m.clearPin p else m
  let m := (m.put (F.PIN_FE_STAT_SAFE p) 1).put (F.PIN_ENG_STAT_STATE p) 0
  let m := (m.put (F.PIN_DSK_STAT_DRV_WALK p) 0).put (F.PIN_DSK_STAT_CMP_WALK p) 0
  let m := m.modPin p fun x => { x with prev := 7, last := false, ball := 7, ddl := false, ramped := none }
  m.dropPmu p

/-- Every pin of a basin enters the safe state; its events are cleared (R105) and its tones stop (R248). -/
def Dev.safeBasin (m : Dev) (b : Nat) (clear : Bool) (t : Instant) : Dev :=
  let m := m.each (m.allPins b) fun m p => m.safePin clear p
  (m.marksOff b t).modBsn b fun x => { x with events := [], consumed := [], hold := none }

/-- The phase of a tone at ECLK count tt (R247). -/
def ToneX.phaseAt (x : ToneX) (tt : Nat) : Nat :=
  if x.running then (x.phase + x.ftw * (tt - x.ref)) % 2 ^ 48 else x.phase

/-- The latest ECLK up to tt in which a tone crossed zero rising, bit 47 of its phase going from 1 to 0 (R251): a running tone does so where its phase wraps. -/
def ToneX.crossedBy (x : ToneX) (tt : Nat) : Option Nat :=
  let k := if x.running then (x.phase + x.ftw * (tt - x.ref)) / 2 ^ 48 else 0
  if k = 0 then x.lastCross.filter fun c => decide (c ≤ tt) else some (x.ref + ceilDiv (k * 2 ^ 48 - x.phase) x.ftw)

/-- A tone's accumulator is about to leave its course in ECLK tt: the phase at the last tick boundary is kept (R265). -/
def ToneX.keepShown (x : ToneX) (tt : Nat) : ToneX :=
  if tt % 1024 = 0 ∨ tt / 1024 * 1024 < x.ref then x else { x with shown := (tt / 1024, x.phaseAt (tt / 1024 * 1024)) }

/-- The phase of a tone at the boundary of a tick (R265). -/
def ToneX.phaseShown (x : ToneX) (tick : Nat) : Nat := if x.shown.1 == tick && decide (tick * 1024 < x.ref) then x.shown.2 else x.phaseAt (tick * 1024)

/-- The accumulator of a tone takes a value in ECLK tt, by a load or an offset change, which can itself cross zero rising (R250, R251). -/
def ToneX.jump (x : ToneX) (tt v : Nat) : ToneX :=
  let before := x.phaseAt (tt - 1)
  { x.keepShown tt with lastCross := if decide (2 ^ 47 ≤ before) && decide (v < 2 ^ 47) then some tt else x.crossedBy (tt - 1), phase := v, ref := tt }

/-- A tone stops at ECLK count tt, keeping its last phase (R248, R252). -/
def Dev.stopTone (m : Dev) (b c tt : Nat) : Dev :=
  let x := m.tone b c
  (m.setTone b c { x.keepShown tt with phase := x.phaseAt tt, lastCross := x.crossedBy tt, ref := tt, running := false }).put (F.TON_STAT_RUNNING b c) 0

/-- The tones of a basin stop at an instant, their ENABLE kept (R248). -/
def Dev.stopTones (m : Dev) (b : Nat) (t : Instant) : Dev := m.each (List.range 4) fun m c => m.stopTone b c (t / eclk)

/-- A tone is loaded at ECLK count tt under R247, with the values committed and not yet applied (R249, R252). -/
def Dev.loadTone (m : Dev) (b c tt : Nat) : Dev :=
  let x := m.tone b c
  let f := x.nextFtw.getD x.ftw
  let p := x.nextPoff.getD x.poff
  let m := if x.nextFtw.isSome || x.nextPoff.isSome then m.bump (F.TON_STAT_CHANGES b c) else m
  let m := (m.put (F.TON_STAT_RUNNING b c) 1).put (F.TON_STAT_STAGED b c) 0
  m.setTone b c { x.jump tt ((f * tt + p) % 2 ^ 48) with ftw := f, poff := p, nextFtw := none, nextPoff := none, loadAt := none, running := true }

/-- Every enabled tone of a basin is loaded at the current tick boundary (R248). -/
def Dev.loadTones (m : Dev) (b : Nat) : Dev :=
  m.each (List.range 4) fun m c =>
    if (m.tone b c).enabled then m.loadTone b c (m.tick * 1024) else m

/-- What a reaction disables in a basin under R75: tones, Delta units, capture arming and the basin sequencer. -/
def Dev.disableUnits (m : Dev) (b : Nat) (t : Instant) : Dev :=
  let m := m.stopTones b t
  let m := m.each (List.range 4) fun m c =>
    let m := (m.put (F.TON_CTL_ENABLE b c) 0).put (F.TON_STAT_PENDING b c) 0
    (m.setTone b c { m.tone b c with enabled := false }).put (F.TON_STAT_SHUTTING b c) 0
  let m := m.each (m.deltasOf b) fun m t =>
    let m := (m.put (F.DLT_CTL_ENABLE t) 0).put (F.DLT_STAT_PENDING t) 0
    let m := m.setDelta t { m.delta t with enabled := false }
    (m.put (F.DLT_STAT_RUNNING t) 0).put (F.DLT_STAT_SHUTTING t) 0
  let m := m.endCapture b t
  let m := (m.put (F.BSN_CAP_CTL_ARM b) 0).put (F.BSN_CAP_STAT_PENDING b) 0
  let m := if m.on (F.BSN_CAP_STAT_ARMED b) then
      (m.put (F.BSN_CAP_STAT_ARMED b) 0).put (F.BSN_CAP_STAT_SHUTTING b) 1 else m
  let m := (m.put (F.TSQ_CTL_ENABLE b) 0).put (F.TSQ_STAT_PENDING b) 0
  (m.put (F.TSQ_STAT_SHUTTING b) 0).freezeSeq b t

/-- Buffered host writes with the enable bit, bit 0, taken away where the register is one of those named (R75). -/
def discardEnable (hit : Nat → Bool) (l : List (Nat × Word)) : List (Nat × Word) :=
  l.map fun e => if hit e.1 then (e.1, BitVec.ofNat 32 (setBits e.2.toNat 0 0 0)) else e

/-- Host enables on their way to the pin plane are discarded for the registers named (R75, Table 6.10). DEDUCED (log 94): those written before the
reaction and not yet carried out go with those of its own cycle, since a fault never re-enables what it stopped. -/
def Dev.discardEnables (m : Dev) (hit : Nat → Bool) : Dev :=
  { m with posted := discardEnable hit m.posted, committing := discardEnable hit m.committing, committed := discardEnable hit m.committed,
           delivered := discardEnable hit m.delivered }

/-- The enables of basin b and of what a reaction on it disables are discarded (R75). -/
def Dev.discardBasin (m : Dev) (b : Nat) : Dev :=
  let regs := [Reg.BSN_CTL b, Reg.TSQ_CTL b, Reg.BSN_CAP_CTL b] ++ (List.range 4).map (Reg.TON_CTL b ·) ++ (m.deltasOf b).map (Reg.DLT_CTL ·) ++
    (m.allPins b).map (Reg.PIN_PMU_CTL ·)
  let m := m.discardEnables regs.contains
  ({ m with clk := { m.clk with enables := m.clk.enables.filter fun (e : Nat × Bool) => e.1 != b } }).modBsn b fun x => { x with enableTaken := false }

/-- A reaction on basin b at instant t (R75, R388, R200): its running burst ends with a status and source, its on-deck burst
returns with DEFER REACTION, its pins are cleared to the safe state, and it enters HELD with ENABLE and PENDING cleared. During a
re-course the basin ends in HELD after the commit (R71). Enables on their way are discarded (R75). -/
def Dev.react (m : Dev) (b status source : Nat) (t : Instant) : Dev :=
  let m := m.endBurst b status source t
  let m := m.returnDeck b 3
  let m := m.disableUnits b t
  let m := (m.safeBasin b true t).discardBasin b
  let m := (m.put (F.BSN_CTL_ENABLE b) 0).put (F.BSN_STATE_PENDING b) 0
  if m.bstate b == St.recoursing then m.modBsn b fun x => { x with heldAfter := true }
  else m.setState b St.held

end Sys2Proof.Machine
end

