-- ==== Sys2Proof/Machine/Sine.lean ====
section
/-! DEFINITION. The sine table of the tones (R245), computed exactly, a tone's output, and the modulator input of the Delta units (R253 to R258). -/

namespace Sys2Proof.Machine

/-- Half a turn, in units of 2^-70. -/
def piUnits : Nat := 3708937962535486895300

/-- The Taylor series of the sine from its term in x^n on, with x² and the term in units of 2^-70. -/
def sineSeries : Nat → Nat → Int → Int → Int
  | 0, _, _, _ => 0
  | fuel + 1, n, x2, term => term + sineSeries fuel (n + 2) x2 (-(term * x2) / 2 ^ 70 / ((n + 1) * (n + 2)))

/-- round(131,071 × sin) of k of 16,384 parts of a turn, for k in the first quadrant. -/
def sineQuarter (k : Nat) : Nat :=
  let x : Int := (2 * piUnits * k / 16384 : Nat)
  ((131071 * sineSeries 16 1 (x * x / 2 ^ 70) x + 2 ^ 69) / 2 ^ 70).toNat

/-- Entry k of the sine table (R245): round(131,071 × sin(2πk ÷ 16,384)). -/
def sineAt (k : Nat) : Int :=
  let q := k % 16384 / 4096
  let r := k % 4096
  if q = 0 then sineQuarter r
  else if q = 1 then sineQuarter (4096 - r)
  else if q = 2 then -(sineQuarter r : Int)
  else -(sineQuarter (4096 - r) : Int)

/-- The output of a tone at ECLK tt, times 131,071 (R245): 0 while the tone is stopped or disabled (R248). -/
def ToneX.output (x : ToneX) (tt : Nat) : Int := if x.running then sineAt (x.phaseAt tt / 2 ^ 34) else 0

/-- The output of a tone at pin-clock instant i of ECLK tt, times 131,071 (R256): the 51-bit phase is 8 × phase + i × FTW. -/
def ToneX.outputAt (x : ToneX) (tt i : Nat) : Int :=
  if x.running then sineAt ((8 * x.phaseAt tt + i * x.ftw) % 2 ^ 51 / 2 ^ 37) else 0

/-- True in the basin states in which tones run and Delta units play (R248, R260). -/
def Dev.playsNow (m : Dev) (b : Nat) : Bool :=
  m.bstate b == St.idle || m.bstate b == St.running || m.bstate b == St.shutting

/-- The basin that owns the Delta unit of tributary t, where the image gives the tributary a Delta pin (R253). -/
def Dev.deltaOwner (m : Dev) (t : Nat) : Option Nat := (m.deltaPin t).map fun p => (m.pinDef p).basin

/-- True while the Delta unit plays (R260). -/
def Dev.deltaPlays (m : Dev) (t : Nat) : Bool :=
  (m.delta t).enabled && (m.deltaOwner t).any fun b => m.playsNow b

/-- The tone that is the source of a Delta unit, where no sample segment is (R253). -/
def Dev.deltaTone (m : Dev) (t : Nat) : Option ToneX :=
  if m.on (F.DLT_CTL_SRC t) then (m.deltaOwner t).map fun b => m.tone b (m.get (F.DLT_CTL_TONE t)) else none

/-- GAIN × x + OFFSET of a Delta unit, x given in parts of `one`, in parts of 32,768 × one (R254). -/
def Dev.deltaSum (m : Dev) (t : Nat) (x one : Int) : Int := (m.get (F.DLT_GAIN_GAIN t) : Int) * x + toSigned 16 (m.get (F.DLT_GAIN_OFFSET t)) * one

/-- True where a sum is limited to the stable range of ±0.75 (R254); and the sum as it is limited. -/
def rangeOver (y one : Int) : Bool := decide (24576 * one < y) || decide (y < -(24576 * one))
def rangeLimit (y one : Int) : Int := max (-(24576 * one)) (min (24576 * one) y)

/-- GAIN × x + OFFSET in pin-clock period n, from the tone source at its instant of that period or from ZERO, in parts of 32,768 × 131,071 (R253,
R254, R256). -/
def Dev.deltaInput (m : Dev) (t n : Nat) : Int := m.deltaSum t ((m.deltaTone t).elim 0 fun x => x.outputAt (n / 8) (n % 8)) 131071

/-- True where the limiting of R254 acts in pin-clock period n; while samples are the source it is what the last of them gave. -/
def Dev.deltaLimits (m : Dev) (t n : Nat) : Bool :=
  m.deltaPlays t && (if (m.delta t).sampling.isSome then m.on (F.DLT_STAT_CLAMP t) else rangeOver (m.deltaInput t n) 131071)

/-- The in-band level at the ball at an instant, y in parts of 32,768 × 131,071: with the tone source, that of the tone T_REF + 16.000 ns earlier
(R254, R258). -/
def Dev.deltaLevel (m : Dev) (t : Nat) (at_ : Instant) : Int := rangeLimit (m.deltaInput t ((at_ - tRef - 64000) / 500)) 131071

/-- The ball time of sample j of a pass whose play began at p′, at a rate of D (R258). -/
def sampleAtBall (start : Instant) (d j : Nat) : Instant :=
  start + 8000 * d * j + tRef + 192000 + (if d = 1 then 0 else 8000 * d)

/-- The outputs of stage 1 that lead to sample j (R259), the last of them the sample itself: each a value in parts of D, and its ball time. -/
def sampleRamp (before held : Int) (start : Instant) (d j : Nat) : List (Int × Instant) :=
  (List.range d).map fun i => (before * ((d - 1 - i : Nat) : Int) + held * ((i + 1 : Nat) : Int), sampleAtBall start d j - 8000 * (d - 1 - i))

end Sys2Proof.Machine
end

