-- ==== Sys2Proof/Machine/View.lean ====
section
/-! DEFINITION. The fields that show what a unit holds: each read computes them from the unit (Tables 3.9, 3.10, 4.7, 6.10, 6.11, 7.11, 8.5,
8.6, 10.12, 10.13, 12.10, 14.12, 17.10). -/

namespace Sys2Proof.Machine

/-- Microseconds that remain of the settling time of 25 µs after an instant (R192), as at the latest tick boundary. -/
def Dev.settleLeft (m : Dev) (t : Option Instant) : Nat :=
  match t with
  | some t => ceilDiv (t + 25 * 4000000 - m.now) 4000000
  | none => 0

/-- The live fields of a pin's block. -/
def Dev.viewPin (m : Dev) (p : Nat) : Dev :=
  let x := m.pin p
  let m := m.put (F.PIN_ENG_PC_FIFO_LEVEL p) (min (x.fifo.length + x.deckFifo.length) 512)
  let m := m.put (F.PIN_FE_STAT_OT p) (m.get (F.TRB_FE_STAT_OT (p / 16)))
  let m := m.put (F.PIN_PMU_STAT_CONNECTED p) (flag (m.pmuClosed p m.now))
  m.put (F.PIN_FE_STAT_SETTLE p) (m.settleLeft x.levelAt)

/-- The on-deck slot as BSN_WEI_STAT shows it (Table 10.13). -/
def Deck.shown (d : Deck) : Nat := if d.startTick.isSome then 3 else if d.primedAt.isSome then 2 else 1

/-- The live fields of a basin's block: registered events, the streamed words that every lane holds, settling, tones, and Weir. -/
def Dev.viewBasin (m : Dev) (b : Nat) : Dev :=
  let x := m.bsn b
  let held := (m.lanes b).map fun p => (m.pin p).fifo.length + (m.pin p).deckFifo.length
  let ready := (x.lists.zip x.chains).map fun l => l.1.length + l.2.length
  let m := m.put (F.BSN_EVENT_EVENT b) ((x.events.filter fun e => !x.consumed.any fun c => c.1 == e.1 && decide (e.2 ≤ c.2.1)).foldl (fun n e => n ||| 2 ^ e.1) 0)
  let m := m.put (F.BSN_CRS_WIN_HZN_MIN b) (min (held.foldl min (held.headD 0)) 0x3FF)
  let m := m.put (F.BSN_LVL_STAT_SETTLING b) (flag (decide (0 < m.settleLeft x.strobeAt)))
  let m := m.each (List.range 4) fun m c => m.setPair (Reg.TON_PH_LO b c) (Reg.TON_PH_HI b c) ((m.tone b c).phaseShown m.tick)
  let m := m.setReg (Reg.TSQ_OCC b) (m.seqOccurs b m.now)
  let m := m.put (F.BSN_WEI_STAT_DECK b) (x.deck.elim 0 Deck.shown)
  let m := m.put (F.BSN_WEI_STAT_PLAYING b) (flag x.run.isSome)
  let m := m.put (F.BSN_WEI_STAT_LISTS b) (((List.range 8).filter fun l => ready.getD l 0 != 0).foldl (fun n l => n + 2 ^ l) 0)
  let m := (m.put (F.BSN_WEI_RUN_CTX b) (x.run.elim 0 (·.ctx))).put (F.BSN_WEI_RUN_VALID b) (flag x.run.isSome)
  let m := (m.put (F.BSN_WEI_DECK_CTX b) (x.deck.elim 0 (·.ctx))).put (F.BSN_WEI_DECK_VALID b) (flag x.deck.isSome)
  m.put (F.BSN_WEI_COUNT_READY b) (ready.foldl (· + ·) 0)

/-- The live field of a global sequencer's block. -/
def Dev.viewSeq (m : Dev) (q : Nat) : Dev := m.setReg (Reg.TSQ_OCC q) (m.seqOccurs q m.now)

/-- The live fields of a tributary's block: samples, and whether its Delta unit plays and limits now (R254, R260); without a Delta pin the DLT_ registers but
DLT_STAT read 0 (R253). -/
def Dev.viewTrib (m : Dev) (t : Nat) : Dev :=
  let m := m.put (F.DLT_STAT_FIFO t) (min (m.delta t).fifo.length 4096)
  let m := (m.put (F.DLT_STAT_RUNNING t) (flag (m.deltaPlays t))).put (F.DLT_STAT_CLAMP t) (flag (m.deltaLimits t (m.tick * 8192)))
  if (m.deltaPin t).isSome then m
  else m.each [Reg.DLT_CTL t, Reg.DLT_GAIN t, Reg.DLT_RATE t, Reg.DLT_OWNER t, Reg.DLT_SHORT t] fun m r => m.setReg r 0

/-- Word k of the oldest log entry (Table 14.4); an empty log reads with SEV = 7 (R394). -/
def Dev.logWord (m : Dev) (k : Nat) : Nat :=
  match m.lev.log with
  | [] => if k = 1 then 7 * 2 ^ 17 else 0
  | e :: _ =>
    if k = 0 then e.ns
    else if k = 1 then e.frac + 2 ^ 8 * e.source + 2 ^ 17 * e.sev + 2 ^ 20 * flag e.forced + 2 ^ 21 * flag e.reserved + 2 ^ 24 * e.again
    else if k = 2 then e.inst + 2 ^ 16 * e.detail
    else e.tick

/-- The live fields of the other regions: Weir, the time base, Levee, the crossbar, and the BAR2 window. -/
def Dev.viewOthers (m : Dev) : Dev :=
  let bs := m.basins.map (·.2)
  let m := m.put F.WEI_READY_ONCHIP (bs.foldl (fun n x => x.lists.foldl (fun n l => n + l.length) n) 0)
  let m := m.put F.WEI_SPILLED_COUNT (bs.foldl (fun n x => x.chains.foldl (fun n l => n + l.length) n) 0)
  let m := m.setPair Reg.WEI_TICK_LO Reg.WEI_TICK_HI m.tick
  let m := (m.put F.TMB_NOW_LO_NS (m.timeBase / 2 ^ 24)).put F.TMB_NOW_HI_FRAC m.timeBase
  let m := m.put F.LEV_STAT_LEVEL m.lev.log.length
  let m := m.put F.LEV_STAT_ARMED (flag (decide (m.lev.armKeys = 2)))
  let m := m.each (List.range 4) fun m k => m.setReg (Reg.LEV_LOG k) (m.logWord k)
  let m := m.put F.GLB_WIN_STAT_OPEN (flag (m.on F.SLC_STAT_AVAIL && !m.on F.LEV_STAT_SEALED))
  m

/-- The live fields that a read at a BAR0 offset may return. -/
def Dev.viewAt (m : Dev) (off : Nat) : Dev :=
  if off < 0x0100000 then m.viewOthers
  else if off < 0x0500000 then
    if off % 0x10000 < 0x8000 then m.viewPin ((off - 0x0100000) / 0x10000 * 16 + off % 0x10000 / 0x800)
    else m.viewTrib ((off - 0x0100000) / 0x10000)
  else if off < 0x0600000 then m.viewBasin ((off - 0x0500000) / 0x1000)
  else if 0x0601000 ≤ off ∧ off < 0x0602000 then m.viewSeq (256 + (off - 0x0601000) / 0x100)
  else m

/-- What the register at a BAR0 offset shows. -/
def Dev.show (m : Dev) (off : Nat) : Nat := (m.viewAt off).reg off

/-- Every live field of the device, for a dump (Table 14.7). -/
def Dev.viewAll (m : Dev) : Dev :=
  ((((m.each (List.range 1024) Dev.viewPin).each (List.range 256) Dev.viewBasin).each ((List.range 16).map (256 + ·)) Dev.viewSeq).each
    (List.range 64) Dev.viewTrib).viewOthers

end Sys2Proof.Machine
end

