-- ==== Sys2Proof/Machine/Levee.lean ====
section
/-! DEFINITION. Fault reports (R384 to R397): severity, reaction, log, counters. Every step that raises a source makes its report
through `Dev.report`. -/

namespace Sys2Proof.Machine

/-- The fault sources by number (Table 14.1). -/
def Src.wordFormat : Nat := 0x000
def Src.streamContract : Nat := 0x001
def Src.reservedSymbol : Nat := 0x002
def Src.storeCorrected : Nat := 0x003
def Src.storeUncorrectable : Nat := 0x004
def Src.flowLink : Nat := 0x005
def Src.flowDivergence : Nat := 0x006
def Src.courseFormat : Nat := 0x007
def Src.streamUnderrun : Nat := 0x008
def Src.timingSet : Nat := 0x009
def Src.edgeSpacing : Nat := 0x00A
def Src.levelClamp : Nat := 0x00B
def Src.ppmuClamp : Nat := 0x00C
def Src.feOverTemp : Nat := 0x00D
def Src.compareWindow : Nat := 0x00E
def Src.captureOverflow : Nat := 0x00F
def Src.deltaClamp : Nat := 0x010
def Src.deltaRate : Nat := 0x011
def Src.auditMismatch : Nat := 0x012
def Src.engineFaulty : Nat := 0x013
def Src.auditFaulty : Nat := 0x014
def Src.adcPlausibility : Nat := 0x040
def Src.adcStage : Nat := 0x041
def Src.adcDegraded : Nat := 0x042
def Src.pCalibration : Nat := 0x043
def Src.calDrift : Nat := 0x044
def Src.calDeferred : Nat := 0x045
def Src.calPlausibility : Nat := 0x046
def Src.calTable : Nat := 0x047
def Src.calFactory : Nat := 0x048
def Src.reservoirWrite : Nat := 0x049
def Src.hbmOverTemp : Nat := 0x080
def Src.hbmTraining : Nat := 0x081
def Src.hbmStorm : Nat := 0x082
def Src.hbmBasin : Nat := 0x083
def Src.hbmDevice : Nat := 0x084
def Src.hbmHost : Nat := 0x085
def Src.hbmRowRepair : Nat := 0x086
def Src.hbmExhausted : Nat := 0x087
def Src.hbmLaneRepair : Nat := 0x088
def Src.refclkLoss : Nat := 0x0C0
def Src.headwaterUnlock : Nat := 0x0C1
def Src.syncDrift : Nat := 0x0C2
def Src.syncGrid : Nat := 0x0C3
def Src.stampLost : Nat := 0x0C4
def Src.linkDown : Nat := 0x0C5
def Src.linkError : Nat := 0x0C6
def Src.linkOffset : Nat := 0x0C7
def Src.millraceLane : Nat := 0x100
def Src.millraceVote : Nat := 0x101
def Src.tickDeadline : Nat := 0x102
def Src.leveeInternal : Nat := 0x103
def Src.controlStore : Nat := 0x104
def Src.leveeLogCorrected : Nat := 0x105
def Src.managementWatchdog : Nat := 0x106
def Src.lockedWrite : Nat := 0x107
def Src.stepLimit : Nat := 0x108
def Src.droop : Nat := 0x109
def Src.supplyFault : Nat := 0x10A
def Src.dieOverTemp : Nat := 0x10B
def Src.pcieCorrectable : Nat := 0x10C
def Src.pcieUncorrectable : Nat := 0x10D

/-- What an instance of a source names (Table 14.1, the Instance column, as far as R388 tells instances apart). -/
inductive InstKind where
  | pin | basin | tributary | other
  deriving DecidableEq, Repr

/-- The instance kind of a source (Table 14.1). -/
def instKind (s : Nat) : InstKind :=
  if [0x000, 0x001, 0x002, 0x003, 0x004, 0x009, 0x00A, 0x00B, 0x00C, 0x00E, 0x012, 0x013].contains s then .pin
  else if [0x005, 0x006, 0x007, 0x008, 0x00F, 0x083].contains s then .basin
  else if [0x00D, 0x010, 0x011, 0x014, 0x044, 0x045, 0x046, 0x047, 0x048, 0x10B].contains s then .tributary
  else .other

/-- The basins affected by a reaction to a report (R388). -/
def Dev.affected (m : Dev) (s inst : Nat) : List Nat :=
  match instKind s with
  | .pin => (m.basinOf inst).toList
  | .basin => if m.defined inst then [inst] else []
  | .tributary => m.basinsIn inst
  | .other => m.definedBasins

/-- The severity in force of a source (R386). -/
def Dev.severity (m : Dev) (s : Nat) : Nat := m.get (F.LEV_SEV_SEV s)

/-- Counts a report in its source's persistent counter, forced reports excepted (R402). -/
def Dev.countPersistent (m : Dev) (s : Nat) (forced : Bool) : Dev :=
  if forced then m else m.count (F.LEV_PCNT_COUNT s) 1

/-- True where an unread entry has the same source, instance, severity and FORCED bit (R395). -/
def LogEntry.same (e : LogEntry) (s inst sev : Nat) (forced : Bool) : Bool :=
  e.source == s && e.inst == inst && e.sev == sev && e.forced == forced

/-- The first unread entry that a report repeats gains one REPEAT, saturating at 255 (R395). -/
def repeatIn (s inst sev : Nat) (forced : Bool) : List LogEntry → List LogEntry
  | [] => []
  | e :: t => if e.same s inst sev forced then { e with again := min (e.again + 1) 255 } :: t
              else e :: repeatIn s inst sev forced t

/-- The log entry of a report (Table 14.4). -/
def Dev.entryOf (m : Dev) (s inst detail sev : Nat) (forced reserved : Bool) (t : Instant) : LogEntry :=
  { ns := m.stampNs t, frac := m.stampFrac t, source := s, sev := sev, forced := forced, reserved := reserved, again := 0,
    inst := inst, detail := detail, tick := m.tick % 2 ^ 32 }

/-- Logs a report (R394 to R396): it repeats an unread entry, takes an ordinary entry, takes the reserved entry where it is the
first SEALED report since power-on, or is lost. -/
def Dev.logReport (m : Dev) (s inst detail sev : Nat) (forced : Bool) (t : Instant) : Dev :=
  let l := m.lev
  let first := decide (sev = 5) && !l.firstSealed
  let l1 := { l with firstSealed := l.firstSealed || decide (sev = 5) }
  if l.log.any (·.same s inst sev forced) then
    { m with lev := { l1 with log := repeatIn s inst sev forced l.log } }
  else
    let room := decide ((l.log.filter (!·.reserved)).length < 255) && decide (l.intake < 32)
    if room || first then
      let e := m.entryOf s inst detail sev forced (!room) t
      let m := { m with lev := { l1 with log := l.log ++ [e], intake := if room then l.intake + 1 else l.intake } }
      let irq := m.get F.LEV_CTL_IRQ_SEV
      if irq ≤ sev ∧ irq < 6 then m.msix 1040 else m
    else (({ m with lev := l1 }).count (F.LEV_LOST_LOST s) 1).put F.LEV_STAT_OVERFLOW 1

/-- The HBM address of the state dump region (Table 2.6). -/
def dumpBase : Nat := 0x08000000

/-- A dump begins (R400, step 1): its registers are taken as they stand, the dump held before is given up, and the header's MAGIC is zeroed. -/
def Dev.beginDump (m : Dev) (cause s inst : Nat) (t : Instant) : Dev :=
  let d : DumpX := { cause := cause, regs := m.viewAll.regs, source := s, inst := inst, ns := m.stampNs t, frac := m.stampFrac t,
                     tick := m.tick, imageId := m.reg Reg.GLB_CATCH_ID, gen := m.reg Reg.GLB_CATCH_GEN }
  let m := { m with lev := { m.lev with writing := some d, held := none } }
  let m := (m.put F.LEV_STAT_DUMPING 1).put F.LEV_STAT_DUMP_VALID 0
  if m.on F.SLC_STAT_AVAIL then m.setMem dumpBase 4 0 else m

/-- A dump starts after a DEVICE or SEALED reaction (R400, R401): a SEALED one always, a DEVICE one unless another is being written or is
held unacknowledged. -/
def Dev.startDump (m : Dev) (cause s inst : Nat) (t : Instant) : Dev :=
  if cause == 2 then m.beginDump cause s inst t
  else if m.lev.writing.isSome || m.lev.held.any (fun h => !h.acked) then m.count F.LEV_STAT_DUMP_SKIPPED 1
  else m.beginDump cause s inst t

/-- The persistent counters are written to Reservoir, as one record of KIND 0x0020 (R402). -/
def Dev.storeCounters (m : Dev) : Dev :=
  let l := (List.range 512).filterMap fun s => if m.reg (Reg.LEV_PCNT s) = 0 then none else some (s, m.reg (Reg.LEV_PCNT s))
  ({ m with rsv := { m.rsv with counters := l } }).recWrite Rec.counters 0 0 ((List.range 512).flatMap fun s => leBytes 4 (m.reg (Reg.LEV_PCNT s)))

/-- Units of one conversion: 4 ns (R267). -/
def conversion : Nat := 16000

/-- The inputs of a scan that a shutdown at an instant leaves to complete (R274): those whose dwell has ended but whose result is not written, and the
dwell in progress.
Where scans follow one another without a gap, `more` are the inputs of the next. -/
def AdcX.left (x : AdcX) (more : List Nat) (t : Instant) : List Nat := (x.scan ++ more).take (ceilDiv (t - x.dwellAt) (x.dwell * conversion))

/-- A scan shuts down at an instant (R274): the dwell in progress completes first; with no dwell in progress the shutdown completes at once. RUN and
SCAN_PENDING clear. -/
def Dev.scanShut (m : Dev) (k : Nat) (t : Instant) : Dev :=
  let m := (m.put (F.ADC_CTL_RUN k) 0).put (F.ADC_STAT_SCAN_PENDING k) 0
  let m := m.setAdc k { m.adc k with waiting := false }
  if !m.on (F.ADC_STAT_SCAN_RUN k) then m
  else
    let m := m.put (F.ADC_STAT_SCAN_RUN k) 0
    if !m.on (F.ADC_STAT_SCANNING k) then m
    else
      let x := m.adc k
      let follows := m.get (F.ADC_CTL_SRC k) == 1 && m.get (F.ADC_PERIOD_PERIOD k) == 0
      let l := x.left (if follows then onesOf 40 x.mask else []) t
      let m := m.setAdc k { x with scan := l, short := l != x.scan }
      (m.put (F.ADC_STAT_SCANNING k) (flag !l.isEmpty)).put (F.ADC_STAT_SCAN_SHUTTING k) (flag !l.isEmpty)

/-- A DEVICE or SEALED reaction shuts down every scan and clears RUN and SCAN_PENDING (R285). -/
def Dev.stopScans (m : Dev) (t : Instant) : Dev := m.each (List.range 32) fun m k => m.scanShut k t

/-- A calibration result entry joins the result buffer of a slot (R379). -/
def Dev.calEntry (m : Dev) (s t kind mask temp outcome : Nat) : Dev :=
  let n := bitsOf (m.status s) 63 48
  (m.setMem (resultBase s + 8 * n) 8 (t + 2 ^ 8 * kind + 2 ^ 16 * mask + 2 ^ 32 * (temp % 4096) + 2 ^ 44 * outcome)).partialCount s (n + 1)

/-- Every outage is abandoned (Table 13.8): old values are kept, the ball switches close at once, and the kinds stay due; a CAL_RUN
with a tributary in outage ends ABANDONED. -/
def Dev.abandonCal (m : Dev) : Dev :=
  let l := (List.range 64).filter fun t => m.get (F.TRB_CAL_STAT_STATE t) == 3
  if l.isEmpty then m
  else
    let hit := m.cal.wanted.filter fun e => l.contains e.1
    let m := m.each l fun m t => m.put (F.TRB_CAL_STAT_STATE t) 1
    let m := m.put F.RSV_STAT_OUTAGES 0
    let m := m.each m.cal.powered fun m k =>
      if m.on (F.ADC_CTL_ENABLE k) then m else (m.put (F.ADC_STAT_POWERED k) 0).put (F.ADC_STAT_READY k) 0
    let m := { m with cal := { m.cal with
      powered := [], pmuWrites := [], done := [], waiting := m.cal.waiting.filter fun e => !l.contains (e.1 / 16) } }
    match m.opSlot Op.calRun, hit with
    | some s, _ :: _ =>
      let m := m.each hit fun m e => m.calEntry s e.1 e.2 0 (m.get (F.TRB_CAL_T1_T_MEAN e.1)) 2
      { m with cal := { m.cal with wanted := [] } }.opEnd s 0x03
    | _, _ => m

/-- Every pin of the device is cleared and enters the safe state (Table 6.5). -/
def Dev.clearAll (m : Dev) : Dev := m.each (List.range 1024) fun m p => m.safePin true p

/-- The long operations that run end when the device seals (Table 16.8, Table 14.8): SEALED, and RESTARTED for a host dump; nothing
that they had not committed takes effect. -/
def Dev.sealOps (m : Dev) : Dev :=
  let m := { m with staged := none, slc := { m.slc with training := none, step := if m.slc.step = 2 then 0 else m.slc.step } }
  let m := m.put F.SLC_STAT_OP_BUSY (flag (m.slc.step != 0))
  m.each (List.range 8) fun m s => m.opEnd s (if (m.slot s).op == Op.dump then 0x04 else Err.sealed)

/-- The sealed state is entered (R397): the latch and ALERT_N, every pin cleared to the safe state, every basin HELD, Weir stopped
without completions, long operations ended, and a SEALED dump begun. -/
def Dev.seal (m : Dev) (s inst : Nat) (t : Instant) : Dev :=
  if m.on F.LEV_STAT_SEALED then m
  else
    let m := (m.put F.LEV_STAT_SEALED 1).put F.WEI_STAT_DISPATCHING 0
    let m := { m with lev := { m.lev with
      alertN := false, sealing := m.lev.log.reverse.find? fun e => e.source == s && e.inst == inst && e.sev == 5 } }
    let m := m.each m.definedBasins fun m b =>
      let m := ((m.disableUnits b t).safeBasin b true t).modRun b fun r => { r with halted := true }
      ((m.put (F.BSN_CTL_ENABLE b) 0).put (F.BSN_STATE_PENDING b) 0).setState b St.held
    ((m.clearAll.stopScans t).abandonCal.sealOps).startDump 2 s inst t

/-- A reaction by severity (Table 14.2, R387, R388). -/
def Dev.reactTo (m : Dev) (s inst sev : Nat) (t : Instant) : Dev :=
  if sev == 3 then m.each (m.affected s inst) fun m b => m.react b 0x0B s t
  else if sev == 4 then
    let m := m.each m.definedBasins fun m b => m.react b 0x0B s t
    let m := { m with lev := { m.lev with alertN := false } }
    (((m.clearAll.put F.LEV_STAT_DEVICE 1).stopScans t).abandonCal).storeCounters.startDump 1 s inst t
  else if sev == 5 then m.seal s inst t
  else m

/-- A fault report is registered (R384, R387): counted, logged unless its severity is IGNORE, and reacted to. -/
def Dev.reportAs (m : Dev) (s inst detail : Nat) (forced : Bool) (t : Instant) : Dev :=
  let sev := m.severity s
  let m := m.countPersistent s forced
  if sev == 0 then m
  else (m.logReport s inst detail sev forced t).reactTo s inst sev t

/-- A detected report (R384); in the slack state no source is powered that could make one (R424). -/
def Dev.report (m : Dev) (s inst detail : Nat) (t : Instant) : Dev := if m.asleep then m else m.reportAs s inst detail false t

/-- The level-clamp reports of pins whose clearing, inside another effect, applied codes that R193 limits. -/
def Dev.payOwed (m : Dev) : Dev :=
  match m.lev.owed with
  | [] => m
  | l => ({ m with lev := { m.lev with owed := [] } } : Dev).each l fun m p => m.report Src.levelClamp p 0 m.now

end Sys2Proof.Machine
end

