-- ==== Sys2Proof/Machine/Access.lean ====
section
/-! DEFINITION. A write to a register by its access codes (R8 to R11, Table 0.4). -/

namespace Sys2Proof.Machine

/-- True where a field takes a host write as a value. -/
def Access.writable (a : Access) (locked : Bool) : Bool :=
  match a with
  | .rw | .rws => true
  | .rwl => !locked
  | .ro | .wo | .w1c | .rc => false

/-- A register's value after a host write, field by field (Table 0.4). -/
def writtenValue (fs : List FieldRow) (locked : Bool) (old v : Nat) : Nat :=
  fs.foldl (fun n f =>
    if f.acc.writable locked then setBits n f.hi f.lo (bitsOf v f.hi f.lo)
    else if f.acc == .w1c then setBits n f.hi f.lo (bitsOf n f.hi f.lo - (bitsOf n f.hi f.lo &&& bitsOf v f.hi f.lo))
    else n) old

/-- The start-up step from which the region of a BAR0 offset is served (Table 16.4). -/
def regionStage (off : Nat) : Nat :=
  if off < 0x0010000 then 1
  else if off < 0x0020000 then 1
  else if off < 0x0030000 then 1
  else if off < 0x0040000 then 4
  else if off < 0x0060000 then 4
  else if off < 0x0070000 then 6
  else if off < 0x0080000 then 5
  else if off < 0x0090000 then (if off == Reg.MRC_BOOT then 1 else 3)
  else if off < 0x00A0000 then 6
  else if 0x00C0000 ≤ off ∧ off < 0x00D0000 then 6
  else if 0x0100000 ≤ off ∧ off < 0x0600000 then 6
  else 7

/-- The start-up step that has been reached: service mode and a halt serve what step 1 serves. -/
def Dev.stageReached (m : Dev) : Nat :=
  let s := m.get F.MRC_BOOT_STAGE
  if 8 ≤ s then 1 else s

/-- True where a host write to a BAR0 offset acts (R398, R427, R446): not in the sealed state, in slack only to SPT_, and not before the
region's start-up step. -/
def Dev.writable (m : Dev) (off : Nat) : Bool :=
  !m.on F.LEV_STAT_SEALED && (!m.asleep || (decide (0x0030000 ≤ off) && decide (off < 0x0040000))) &&
  decide (regionStage off ≤ m.stageReached)

/-- True where a host read of a BAR0 offset returns its value (R398, R427, R446); elsewhere it returns all ones. -/
def Dev.readable (m : Dev) (off : Nat) : Bool :=
  (!m.on F.LEV_STAT_SEALED || decide (off < 0x0030000)) && (!m.asleep || decide (off < 0x0050000)) &&
  decide (regionStage off ≤ m.stageReached)

/-- A step that a host access to a BAR0 offset makes; while a JTAG test instruction is loaded the PCIe link is down (R479). -/
def Dev.hostWrite (m : Dev) (off : Nat) (f : Dev → Dev) : Dev := if m.writable off && !m.inTest then f m else m

/-- A host write acts by the access codes of its register's fields; an RWL field that is locked raises locked-write (R8, R10). -/
def Dev.writeFields (m : Dev) (off v : Nat) : Dev :=
  match rowOf off with
  | none => m
  | some r =>
    let locked := m.image.isSome
    let m := m.setReg off (writtenValue r.fields locked (m.reg off) v)
    if locked && r.fields.any fun f => f.acc == .rwl then m.report Src.lockedWrite 0 0 m.now else m

/-- A host read of an RC field clears it (R8). -/
def Dev.readClear (m : Dev) (off : Nat) : Dev :=
  match rowOf off with
  | none => m
  | some r => m.setReg off (r.fields.foldl (fun n f => if f.acc == .rc then setBits n f.hi f.lo 0 else n) (m.reg off))

/-- The bits that a host read returns of what a register holds: WO and reserved bits read 0 (R8, R11). -/
def readMask (off v : Nat) : Nat :=
  match rowOf off with
  | none => 0
  | some r => r.fields.foldl (fun n f => if f.acc == .wo then n else setBits n f.hi f.lo (bitsOf v f.hi f.lo)) 0

end Sys2Proof.Machine
end

