-- ==== Sys2Proof/Machine/State.lean ====
section
/-! DEFINITION. The state: the block, and the commands that wait for it; why a step could stop; and the state after reset. -/

namespace Sys2Proof.Machine

/-- The state of the model: the commands that wait, first in, first out, and the BL1024 itself. -/
structure State where
  pending : List Instr := []
  dev : Dev := {}
  deriving DecidableEq, Repr

/-- Why the machine could stop with a fault. No command raises one: every condition that the spec describes is an effect on the state, so that this
type has no constructor. -/
inductive Fault where
  deriving DecidableEq, Repr

/-- Why a command could be refused. -/
inductive Refusal where
  /-- A command that has no meaning yet, by its mnemonic; raised by an arm of exec only, and safe. No arm raises it now. -/
  | notModelled (mnemonic : String)
  deriving DecidableEq, Repr

/-- The machine right after power-on reset (R9, Table 16.6): no command waits, every register holds its reset value, HBM and loop stores read 0, no image
is admitted, and start-up has reached no step (MRC_BOOT.STAGE 0). -/
def State.reset : State := {}

end Sys2Proof.Machine
end

