-- ==== Sys2Proof/Machine/Act.lean ====
section
/-! DEFINITION. How a meaning acts on the state: the shared frame of every command. -/

namespace Sys2Proof.Machine

/-- A command acts on the block, whose outputs so far are taken away first. -/
def State.always (s : State) (f : Dev → Dev) : Host.Outcome State Fault Refusal := .next { s with dev := f { s.dev with out := [] } }

/-- A command acts on the block while it has power and has been reset since it last lost it (R488, R499); else nothing happens. -/
def State.act (s : State) (f : Dev → Dev) : Host.Outcome State Fault Refusal := s.always fun m => if m.power.usable then (f m).payOwed else m

/-- A command that is a host write to a BAR0 offset: dropped where the region is closed to writes (R398, R427, R446). -/
def State.hostAct (s : State) (off : Nat) (f : Dev → Dev) : Host.Outcome State Fault Refusal := s.act fun m => m.hostWrite off f

/-- A command that is a host write to a register of basin b: an UNDEFINED basin ignores it (R77). -/
def State.basinAct (s : State) (b off : Nat) (f : Dev → Dev) : Host.Outcome State Fault Refusal :=
  s.hostAct off fun m => if m.defined b then f m else m

/-- A command that is a host write to a register of trigger sequencer q: that of a basin is in its BSN_ block (R242). -/
def State.seqAct (s : State) (q off : Nat) (f : Dev → Dev) : Host.Outcome State Fault Refusal :=
  s.hostAct off fun m => if 256 ≤ q || m.defined q then f m else m

end Sys2Proof.Machine
end

