-- ==== Sys2Proof/Machine/Levels.lean ====
section
/-! DEFINITION. Deskew walks (R178 to R180), level channels and the LOAD strobe (R191 to R197), and the PPMU (R203 to R208). -/

namespace Sys2Proof.Machine

/-! ## Deskew -/

/-- The applied delay of a path: CAL in the register, USER as it is in force (R178, R179). -/
def Dev.deskewTarget (m : Dev) (cal : Fld) (user : Nat) : Int := (m.get cal : Int) + toSigned 16 user

/-- A path's target is formed again (R178, R180): a clamp is flagged and reported, and a walk runs where the applied delay differs
and the pin is out of the safe state. -/
def Dev.retarget (m : Dev) (p : Nat) (cmp : Bool) : Dev :=
  let reg := if cmp then Reg.PIN_DSK_CMP p else Reg.PIN_DSK_DRV p
  let cal := if cmp then F.PIN_DSK_CMP_CAL p else F.PIN_DSK_DRV_CAL p
  let now := if cmp then F.PIN_DSK_STAT_CMP_NOW p else F.PIN_DSK_STAT_DRV_NOW p
  let walk := if cmp then F.PIN_DSK_STAT_CMP_WALK p else F.PIN_DSK_STAT_DRV_WALK p
  let t := m.deskewTarget cal (m.inForce reg / 2 ^ 16)
  let c := clampInt 0 32767 t
  let m := m.put walk (flag (!(m.on (F.PIN_FE_STAT_SAFE p)) && c.toNat != m.get now))
  if c == t then m
  else (m.put (F.PIN_TG_STAT_DSK_CLAMP p) 1).report Src.edgeSpacing p 0 m.now

/-- Both paths of a pin resume their walks, where its basin leaves the safe state (Table 5.4). -/
def Dev.resumeWalks (m : Dev) (p : Nat) : Dev := (m.retarget p false).retarget p true

/-- True while the basin of pin p is RUNNING. -/
def Dev.pinRuns (m : Dev) (p : Nat) : Bool :=
  match m.basinOf p with
  | some b => m.bstate b == St.running
  | none => false

/-- The USER field of a path is written. -/
def Dev.userField (m : Dev) (p : Nat) (cmp : Bool) (user : Nat) : Dev := m.put (if cmp then F.PIN_DSK_CMP_USER p else F.PIN_DSK_DRV_USER p) user

/-- A USER write takes effect (R179): at once where the basin is not RUNNING, for a burst already delivered too, else it stays written for a later burst
start. -/
def Dev.userWrite (m : Dev) (p : Nat) (cmp : Bool) (user : Nat) : Dev :=
  let m := m.userField p cmp user
  if m.pinRuns p then m
  else
    let r := if cmp then Reg.PIN_DSK_CMP p else Reg.PIN_DSK_DRV p
    ((m.takeForce r).takeDeck r).retarget p cmp

/-- The exchange point delivers a USER write (R179): it is staged for a RUNNING basin, and taken at the next tick boundary for any other. -/
def Dev.userDeliver (m : Dev) (p : Nat) (cmp : Bool) (v : Nat) : Dev :=
  let m := m.userField p cmp (v / 2 ^ 16)
  if m.pinRuns p then m
  else { m with delivered := m.delivered ++ [(if cmp then Reg.PIN_DSK_CMP p else Reg.PIN_DSK_DRV p, BitVec.ofNat 32 v)] }

/-! ## Levels -/

/-- The PPMU of a pin clamps or limits (R203, R208, Table 6.10): CLAMP_HIT sets and the source reports. -/
def Dev.ppmuHit (m : Dev) (p : Nat) (t : Instant) : Dev :=
  (m.put (F.PIN_PMU_STAT_CLAMP_HIT p) 1).report Src.ppmuClamp p 0 t

/-- Full scale of a current range, and the limit of 110 % of it, in pA (Tables 6.7 and 6.8). -/
def fullScale (r : Nat) : Nat := 2000000 * 10 ^ r
def currentLimit (r : Nat) : Nat := fullScale r / 10 * 11

/-- What FORCE with its tone asks for at ECLK tt, in 131,071sts of a code (R208); full range in volts and full scale in amperes are both 0 to 65,536 codes. -/
def Dev.forceSum (m : Dev) (p tt : Nat) : Int :=
  131071 * (m.get (F.PIN_LVL_ACT_CODE p 5) : Int) +
    (match m.basinOf p with
     | some b => if m.on (F.PIN_PMU_CTL_TONE_EN p) then (m.tone b (m.get (F.PIN_PMU_CTL_TONE p))).output tt * ((m.pin p).ampNow : Int) else 0
     | none => 0)

/-- The largest force, in 131,071sts of a code, and whether a sum is limited (R208). -/
def forceTop : Int := 131071 * 65536
def forceOver (v : Int) : Bool := decide (v < 0) || decide (forceTop < v)

/-- What a PPMU forces at its ball: a current or a voltage, in 131,071sts of a FORCE code, and the limit on its current in pA. -/
structure Forced where
  current : Bool
  code : Int
  limit : Nat
  deriving DecidableEq, Repr

/-- True where FIMV has no room between its voltage clamps, as VIH does not exceed VIL (R203). -/
def Dev.fimvShut (m : Dev) (p : Nat) : Bool :=
  m.get (F.PIN_PMU_STAT_MODE_NOW p) == 1 && decide (m.playedLevel p 0 ≤ m.playedLevel p 1)

/-- What the PPMU of a pin forces at an instant (R203, R205, R206, R208): the clear code as a voltage during a shutdown and a range change, with the
limit of the range
in force or of the smaller range; none in MV, with the switch open, or in an outage (R366). -/
def Dev.forcedAt (m : Dev) (p : Nat) (t : Instant) : Option Forced :=
  let r := m.get (F.PIN_PMU_STAT_RANGE_NOW p)
  let clear : Int := 131071 * (m.get (F.PIN_LVL_CLR_CODE p 5) : Int)
  if !m.pmuClosed p t || m.ballOpen p then none
  else if m.on (F.PIN_PMU_STAT_SHUTTING p) then some ⟨false, clear, currentLimit r⟩
  else if m.on (F.PIN_PMU_STAT_RANGE_CHG p) then some ⟨false, clear, currentLimit (min r (m.pin p).pmuRange)⟩
  else if m.get (F.PIN_PMU_STAT_MODE_NOW p) == 2 then none
  else if m.fimvShut p then some ⟨false, 131071 * (m.playedLevel p 1 : Int), currentLimit r⟩
  else some ⟨m.get (F.PIN_PMU_STAT_MODE_NOW p) == 1, max 0 (min forceTop (m.forceSum p (t / eclk))), currentLimit r⟩

/-- The device puts out what a PPMU forces from an instant on. -/
def Dev.tellForce (m : Dev) (p : Nat) (t : Instant) : Dev :=
  match m.forcedAt p t with
  | some f => { m with out := m.out ++ [.force p f.current f.code f.limit t] }
  | none => m

/-- True where the PPMU of a pin forces FORCE's active code. -/
def Dev.forcesActive (m : Dev) (p : Nat) (t : Instant) : Bool :=
  m.pmuClosed p t && !m.on (F.PIN_PMU_STAT_SHUTTING p) && !m.on (F.PIN_PMU_STAT_RANGE_CHG p) &&
  m.get (F.PIN_PMU_STAT_MODE_NOW p) != 2 && !m.fimvShut p

/-- What the codes, the mode or the tone in force from an instant on mean to a connected PPMU: CLAMP in FIMV where VIH does not exceed VIL (R203), and the limit
of a modulated force (R208). -/
def Dev.ppmuCheck (m : Dev) (p : Nat) (t : Instant) : Dev :=
  if !m.on (F.PIN_PMU_STAT_CONNECTED p) then m
  else
    let clamp := m.pmuClosed p t && !m.on (F.PIN_PMU_STAT_SHUTTING p) && !m.on (F.PIN_PMU_STAT_RANGE_CHG p) && m.fimvShut p
    let limited := m.forcesActive p t && forceOver (m.forceSum p (t / eclk))
    let m := m.put (F.PIN_PMU_STAT_CLAMP p) (flag clamp)
    let m := (m.modPin p fun x => { x with limiting := limited, forceFrom := t / eclk + 1 }).tellForce p t
    if clamp || limited then m.ppmuHit p t else m

/-- The force path of a pin is looked at up to ECLK tt (R208): its limit acts in the first ECLK in which the sum leaves the range. DESIGN CHOICE (log
98): it reports
once until a code, the mode or the tone changes. -/
def Dev.lookForce (m : Dev) (p tt : Nat) : Dev :=
  let x := m.pin p
  if !m.on (F.PIN_PMU_STAT_CONNECTED p) || !m.on (F.PIN_PMU_CTL_TONE_EN p) then m
  else
    let m := m.modPin p fun x => { x with forceFrom := max x.forceFrom tt }
    if x.limiting || !m.forcesActive p (x.forceFrom * eclk) then m
    else match (List.range (tt - x.forceFrom)).find? fun k => forceOver (m.forceSum p (x.forceFrom + k)) with
      | some k => (m.modPin p fun x => { x with limiting := true }).ppmuHit p ((x.forceFrom + k) * eclk)
      | none => m

/-- The DUT begins or ends to draw what a clamp of Table 6.7 holds back (R203). -/
def Dev.dutClamp (m : Dev) (p : Nat) (acts : Bool) (t : Instant) : Dev :=
  if !m.on (F.PIN_PMU_STAT_CONNECTED p) then m
  else
    let was := m.on (F.PIN_PMU_STAT_CLAMP p)
    let m := m.put (F.PIN_PMU_STAT_CLAMP p) (flag (acts || m.fimvShut p))
    if acts && !was then m.ppmuHit p t else m

/-- The active codes of a pin are limited as they are applied (R193): flags and one report for each kind of correction. -/
def Dev.limitLevels (m : Dev) (p : Nat) (t : Instant) : Dev :=
  let beyond := (m.codesOver p).1 || (m.codesOver p).2
  if beyond then (m.clampFlags p).report Src.levelClamp p 0 t else m

/-- True where every pin of a basin is in the safe state. -/
def Dev.allSafe (m : Dev) (b : Nat) : Bool := (m.allPins b).all fun p => m.on (F.PIN_FE_STAT_SAFE p)

/-- The modulator edge at which a strobe takes effect (R194): the first edge of the 5 ns grid at least 10 ns after it. -/
def strobeEdge (t : Instant) : Instant := ceilDiv (t + 40000) 20000 * 20000

/-- The codes and amplitude staged on the pins of a basin. -/
def Dev.stagedCodes (m : Dev) (b : Nat) : List (Nat × List Nat) :=
  (m.allPins b).map fun p =>
    (p, (List.range 6).map (fun c => m.get (F.PIN_LVL_STG_CODE p c)) ++ [m.get (F.PIN_PMU_AMP_AMP p)])

/-- The basin LOAD strobe at an instant (R194, R195): ignored where the basin's pins are in the safe state, else one strobe for its modulator
period; changes of tones that wait for it are due (R249). -/
def Dev.loadStrobe (m : Dev) (b : Nat) (t : Instant) : Dev :=
  if m.allSafe b then m.put (F.BSN_LVL_STAT_IGNORED b) 1
  else
    let same := (m.bsn b).strobes.find? fun q => q.edge == strobeEdge t
    let s : Strobe := match same with
      | some q => if q.at_ ≤ t then ⟨t, q.edge, none⟩ else q
      | none => ⟨t, strobeEdge t, none⟩
    let m := m.each (List.range 4) fun m c =>
      let x := m.tone b c
      if x.running && x.atLoad && m.on (F.TON_STAT_STAGED b c) && x.loadAt.isNone && decide (x.commitTick * tickUnits + 16 * eclk ≤ t) then
        m.setTone b c { x with loadAt := some (ceilDiv t eclk) }
      else m
    m.modBsn b fun x => { x with
      strobes := insertBy (fun a c => decide (a.edge ≤ c.edge)) s (x.strobes.filter fun q => q.edge != s.edge) }

/-- Codes are about to be staged at an instant (R195): the strobes of earlier ECLKs keep those staged now. -/
def Dev.settleStrobes (m : Dev) (b : Nat) (t : Instant) : Dev :=
  if (m.bsn b).strobes.isEmpty then m
  else
    let now := m.stagedCodes b
    m.modBsn b fun x => { x with strobes := x.strobes.map fun s =>
      if s.at_ / eclk < t / eclk ∧ s.codes = none then { s with codes := some now } else s }

/-- The strobes of a pin's basin settle before a host write stages a code of the pin at an instant. -/
def Dev.settlePin (m : Dev) (p : Nat) (t : Instant) : Dev :=
  match m.basinOf p with
  | some b => m.settleStrobes b t
  | none => m

/-- The codes of a strobe reach one pin (R194, R206, R208): FORCE waits for the end of a range change. DESIGN CHOICE (log 97): AMP does not. -/
def Dev.applyPin (m : Dev) (t : Instant) (e : Nat × List Nat) : Dev :=
  let p := e.1
  if m.on (F.PIN_FE_STAT_SAFE p) then m
  else
    let m := m.lookForce p (t / eclk)
    let m := m.each (List.range 5) fun m c => m.put (F.PIN_LVL_ACT_CODE p c) (e.2.getD c 0)
    let m := if m.on (F.PIN_PMU_STAT_RANGE_CHG p) then m.modPin p fun x => { x with forceNext := some (e.2.getD 5 0) }
      else m.put (F.PIN_LVL_ACT_CODE p 5) (e.2.getD 5 0)
    let m := m.modPin p fun x => { x with applied := true, ampNow := e.2.getD 6 0, levelAt := some t }
    (m.limitLevels p t).ppmuCheck p t

/-- The earliest strobe of a basin takes effect at its modulator edge (R194), with every code staged in or before its ECLK (R195). -/
def Dev.levelApply (m : Dev) (b : Nat) : Dev :=
  match (m.bsn b).strobes with
  | [] => m
  | s :: rest =>
    let codes := s.codes.getD (m.stagedCodes b)
    let m := m.modBsn b fun x => { x with strobes := rest }
    if m.allSafe b then m
    else
      let m := (m.bump (F.BSN_LVL_STAT_LOAD_CNT b)).putStamp (F.BSN_LVL_LAST_LO_NS b) (F.BSN_LVL_LAST_HI_FRAC b) s.edge
      let m := m.modBsn b fun x => { x with strobeAt := some s.edge }
      m.each codes fun m e => m.applyPin s.edge e

/-- A LEVEL_STAGE word stages codes from its payload (R101). -/
def Dev.stageLevels (m : Dev) (p mask payload : Nat) : Dev :=
  m.each (onesOf 6 mask) fun m c => m.put (F.PIN_LVL_STG_CODE p c) (bitsOf payload (16 * c + 15) (16 * c))

/-- A clear code is written (R196, R200): not taken while CLR_N is low; a pin that is cleared moves to it. -/
def Dev.clearCode (m : Dev) (p c code : Nat) : Dev :=
  if m.clrHeld then m
  else
    let m := m.put (F.PIN_LVL_CLR_CODE p c) code
    if m.on (F.PIN_FE_STAT_SAFE p) && !(m.pin p).applied then
      let m := (m.put (F.PIN_LVL_ACT_CODE p c) code).put (F.PIN_LVL_STG_CODE p c) code
      (m.modPin p fun x => { x with levelAt := some m.now }).limitLevels p m.now
    else m

/-! ## PPMU -/

/-- True where an enable of the PPMU of pin p is refused (R205, R207). -/
def Dev.ppmuRefused (m : Dev) (p : Nat) : Bool :=
  (m.pinDef p).role != 1 || decide (5 ≤ m.get (F.PIN_PMU_CTL_RANGE p)) ||
  (match m.basinOf p with
   | some b => m.bstate b != St.idle && m.bstate b != St.running
   | none => true)

/-- The PPMU of a pin connects in the MODE and RANGE written, or the enable is refused (R205). -/
def Dev.ppmuConnect (m : Dev) (p : Nat) : Dev :=
  if m.ppmuRefused p then (m.put (F.PIN_PMU_CTL_ENABLE p) 0).put (F.PIN_PMU_STAT_REFUSED p) 1
  else
    let md := m.get (F.PIN_PMU_CTL_MODE p)
    let rg := m.get (F.PIN_PMU_CTL_RANGE p)
    let m := ((m.put (F.PIN_PMU_CTL_ENABLE p) 1).put (F.PIN_PMU_STAT_CONNECTED p) 1)
    let m := (m.put (F.PIN_PMU_STAT_RANGE_NOW p) rg).put (F.PIN_PMU_STAT_MODE_NOW p) md
    let m := m.modPin p fun x => { x with pmuMode := md, pmuRange := rg }
    m.ppmuCheck p m.now

/-- A change of MODE or RANGE on a connected PPMU (R206). -/
def Dev.ppmuChange (m : Dev) (p : Nat) : Dev :=
  let md := m.get (F.PIN_PMU_CTL_MODE p)
  let rg := m.get (F.PIN_PMU_CTL_RANGE p)
  if 5 ≤ rg then m.put (F.PIN_PMU_STAT_REFUSED p) 1
  else if !m.on (F.PIN_PMU_STAT_RANGE_CHG p) && md == m.get (F.PIN_PMU_STAT_MODE_NOW p) && rg == m.get (F.PIN_PMU_STAT_RANGE_NOW p) then
    m.ppmuCheck p m.now
  else
    ((m.modPin p fun x => { x with pmuMode := md, pmuRange := rg }).put (F.PIN_PMU_STAT_RANGE_CHG p) 1).ppmuCheck p m.now

/-- The writable fields of PIN_PMU_CTL but ENABLE take a written value. -/
def Dev.ppmuFields (m : Dev) (p ctl : Nat) : Dev :=
  m.setReg (Reg.PIN_PMU_CTL p) (m.get (F.PIN_PMU_CTL_ENABLE p) + bitsOf ctl 8 1 * 2)

/-- A shutdown of the PPMU begins (R205): it forces the clear code, and a range change in progress is abandoned. DESIGN CHOICE (log 96): with it goes
a FORCE code
whose strobe fell within the change. -/
def Dev.ppmuShut (m : Dev) (p : Nat) : Dev :=
  let m := m.put (F.PIN_PMU_CTL_ENABLE p) 0
  if m.on (F.PIN_PMU_STAT_CONNECTED p) && !m.on (F.PIN_PMU_STAT_SHUTTING p) then
    let m := ((m.put (F.PIN_PMU_STAT_SHUTTING p) 1).put (F.PIN_PMU_STAT_RANGE_CHG p) 0).put (F.PIN_PMU_STAT_CLAMP p) 0
    (m.modPin p fun x => { x with forceNext := none, shutAt := some m.now, limiting := false }).tellForce p m.now
  else m.put (F.PIN_PMU_STAT_PENDING p) 0

/-- PPMU_ENABLE: PIN_PMU_CTL is written with ENABLE = 1 (R205, R206, R73, R200). -/
def Dev.ppmuEnable (m : Dev) (p ctl : Nat) : Dev :=
  if m.clrHeld then m
  else
    let m := m.ppmuFields p ctl
    if m.on (F.PIN_PMU_STAT_SHUTTING p) then (m.put (F.PIN_PMU_CTL_ENABLE p) 1).put (F.PIN_PMU_STAT_PENDING p) 1
    else if m.on (F.PIN_PMU_STAT_CONNECTED p) then m.ppmuChange p
    else m.ppmuConnect p

/-- PPMU_RANGE_CHANGE: MODE, RANGE, TONE_EN and TONE are written with ENABLE as it stands (R206, R208). -/
def Dev.ppmuRange (m : Dev) (p ctl : Nat) : Dev :=
  let m := m.ppmuFields p ctl
  if m.on (F.PIN_PMU_STAT_CONNECTED p) && !m.on (F.PIN_PMU_STAT_SHUTTING p) then m.ppmuChange p else m

/-- The 8 µs of a range change end (R206). -/
def Dev.ppmuRangeEnd (m : Dev) (p : Nat) : Dev :=
  if !m.on (F.PIN_PMU_STAT_RANGE_CHG p) then m
  else
    let x := m.pin p
    let m := m.put (F.PIN_PMU_STAT_RANGE_CHG p) 0
    let m := (m.put (F.PIN_PMU_STAT_RANGE_NOW p) x.pmuRange).put (F.PIN_PMU_STAT_MODE_NOW p) x.pmuMode
    let m := match x.forceNext with
      | some c => m.put (F.PIN_LVL_ACT_CODE p 5) c
      | none => m
    (m.modPin p fun x => { x with forceNext := none }).ppmuCheck p m.now

/-- The shutdown of a PPMU completes, and an enable that waits is taken (R73, R205). -/
def Dev.ppmuShutDone (m : Dev) (p : Nat) : Dev :=
  if !m.on (F.PIN_PMU_STAT_SHUTTING p) then m
  else
    let m := ((m.put (F.PIN_PMU_STAT_SHUTTING p) 0).put (F.PIN_PMU_STAT_CONNECTED p) 0).put (F.PIN_PMU_STAT_CLAMP p) 0
    let m := m.modPin p fun x => { x with shutAt := none }
    if m.on (F.PIN_PMU_STAT_PENDING p) then (m.put (F.PIN_PMU_STAT_PENDING p) 0).ppmuConnect p else m

end Sys2Proof.Machine
end

