-- ==== Sys2Proof/Machine/Millrace.lean ====
section
/-! DEFINITION. Millrace (R432 to R440, R442, R443): control words and their sequence, the control stores of its lanes, and the routines that run in
the cycles that the tick
program leaves free. -/

namespace Sys2Proof.Machine

/-! ## Control words (R433, Table 16.1) -/

/-- The fields of a control word (Table 16.1). -/
def Ctrl.next (w : BitVec 128) : Nat := bitsOf w.toNat 127 115
def Ctrl.seq (w : BitVec 128) : Nat := bitsOf w.toNat 114 112
def Ctrl.cond (w : BitVec 128) : Nat := bitsOf w.toNat 111 106
def Ctrl.alt (w : BitVec 128) : Nat := bitsOf w.toNat 105 93
def Ctrl.cmt (w : BitVec 128) : Bool := bitOf w.toNat 92
def Ctrl.unit (w : BitVec 128) : Nat := bitsOf w.toNat 91 88
def Ctrl.op (w : BitVec 128) : Nat := bitsOf w.toNat 87 80
def Ctrl.dst (w : BitVec 128) : Nat := bitsOf w.toNat 79 72
def Ctrl.src (w : BitVec 128) : Nat := bitsOf w.toNat 71 64
def Ctrl.imm (w : BitVec 128) : Nat := bitsOf w.toNat 63 0

/-- True for a control word without a reserved encoding: SEQ and UNIT (R433). -/
def Ctrl.ok (w : BitVec 128) : Bool := decide (Ctrl.seq w ≤ 4) && decide (Ctrl.unit w ≤ 8)

/-- What follows a control word (R434, R435): the next address and the call stack, or none where the routine ends; `fault` tells that a CALL with 8
entries held or a RETURN with none ends it. -/
structure CtrlNext where
  pc : Option Nat
  stack : List Nat
  fault : Bool := false
  deriving DecidableEq, Repr

/-- What follows a control word whose condition is `cond` (R433, R435). -/
def Ctrl.follow (w : BitVec 128) (cond : Bool) (stack : List Nat) : CtrlNext :=
  match Ctrl.seq w with
  | 0 => ⟨some (Ctrl.next w), stack, false⟩
  | 1 => ⟨some (if cond then Ctrl.alt w else Ctrl.next w), stack, false⟩
  | 2 => if 8 ≤ stack.length then ⟨none, stack, true⟩ else ⟨some (Ctrl.alt w), Ctrl.next w :: stack, false⟩
  | 3 => match stack with
    | [] => ⟨none, [], true⟩
    | a :: l => ⟨some a, l, false⟩
  | _ => ⟨none, stack, false⟩

/-- A control word of a lane (R432). -/
def Dev.ctrlWord (m : Dev) (lane a : Nat) : BitVec 128 := Tbl.find 0 m.mrc.store (8192 * lane + a)

/-- A control word's condition: true for COND 63, else as the next of the outcomes listed for the branches (R433). -/
def Ctrl.taken (w : BitVec 128) (conds : List Bool) : Bool × List Bool :=
  if Ctrl.seq w != 1 then (false, conds)
  else if Ctrl.cond w == 63 then (true, conds)
  else (conds.headD false, conds.tail)

/-- The words that a program executes from an address on, at most n, one in each CCLK (R434), and whether a call-stack fault ended it (R435). -/
def Dev.ctrlRun (m : Dev) : Nat → Nat → List Nat → List Bool → Nat × Bool
  | 0, _, _, _ => (0, false)
  | n + 1, a, stack, conds =>
    let w := m.ctrlWord 0 a
    let c := Ctrl.taken w conds
    let f := Ctrl.follow w c.1 stack
    match f.pc with
    | none => (1, f.fault)
    | some b => let r := m.ctrlRun n b f.stack c.2; (r.1 + 1, r.2)

/-! ## The control stores (R432, R441 to R443, R406) -/

/-- Changes what Millrace holds. -/
def Dev.modMrc (m : Dev) (f : MrcX → MrcX) : Dev := { m with mrc := f m.mrc }

/-- A load write goes to all three lanes at once (R432). -/
def Dev.loadCtrl (m : Dev) (a : Nat) (w : BitVec 128) : Dev :=
  m.each (List.range 3) fun m l => m.modMrc fun x => { x with
    store := Tbl.set 0 x.store (8192 * l + a) w, errors := Tbl.set 0 x.errors (8192 * l + a) 0 }

/-- True where a base microcode image is acceptable (R433, R441): it is signed under a key that holds, and no word has a reserved encoding. -/
def codeOk (s : SlotIn) : Bool := s.signed && s.code.all fun e => decide (e.1 < 8192) && Ctrl.ok e.2

/-- True where two patch slots overlap (R443). -/
def patchesMeet (a b : Nat × List (BitVec 128)) : Bool := decide (a.1 < b.1 + b.2.length) && decide (b.1 < a.1 + a.2.length)

/-- True where two of the patch slots overlap. -/
def anyMeet : List (Nat × List (BitVec 128)) → Bool
  | [] => false
  | p :: l => l.any (patchesMeet p) || anyMeet l

/-- True where a slot's patch bundle is taken (R442, R443): at most 32 slots of 1 to 256 words, none past 0x1FFF, none overlapping; and no word has a
reserved encoding (R433). -/
def patchOk (s : SlotIn) : Bool :=
  s.bundleOk && decide (s.patches.length ≤ 32) && !anyMeet s.patches &&
  s.patches.all fun p => decide (1 ≤ p.2.length) && decide (p.2.length ≤ 256) && decide (p.1 + p.2.length ≤ 8192) && p.2.all Ctrl.ok

/-- The base microcode fills the control stores, and the patches then overwrite words of them (R432). -/
def Dev.loadMicrocode (m : Dev) (s : SlotIn) : Dev :=
  let m := m.modMrc fun _ => { entry := s.entry }
  let m := m.each s.code fun m e => m.loadCtrl e.1 e.2
  if s.bundle && patchOk s then
    m.each s.patches fun m p => m.each (List.range p.2.length) fun m i => m.loadCtrl (p.1 + i) (p.2.getD i 0)
  else m

/-- Errors arise in control-store words (R432). -/
def Dev.upsetCtrl (m : Dev) (l : List (Nat × Nat × Nat)) : Dev :=
  m.each l fun m u => m.modMrc fun x => { x with errors := Tbl.set 0 x.errors (8192 * u.1 + u.2.1) u.2.2 }

/-- Control-store words are read (R432): a single-bit error is corrected, counted and reported. -/
def Dev.readCtrl (m : Dev) (l : List (Nat × Nat)) : Dev :=
  m.each l fun m u =>
    if Tbl.find 0 m.mrc.errors (8192 * u.1 + u.2) == 1 then (m.count (F.MRC_LANE_STORE_CE u.1) 1).report Src.controlStore u.1 0 m.now else m

/-- A lane's control store is rewritten from another lane's (R406, R432). -/
def Dev.rewriteLane (m : Dev) (lane src : Nat) : Dev :=
  let mine := fun (k : Nat) => decide (8192 * lane ≤ k) && decide (k < 8192 * (lane + 1))
  let l := (m.mrc.store.filter fun e => decide (8192 * src ≤ e.1) && decide (e.1 < 8192 * (src + 1))).map fun e => (e.1 - 8192 * src + 8192 * lane, e.2)
  m.modMrc fun x => { x with store := Tbl.graft (8192 * lane) (8192 * (lane + 1)) l x.store, errors := x.errors.filter fun e => !mine e.1 }

/-! ## Routines (R437 to R440, R452) -/

/-- The priority of a routine, 0 the highest (Table 16.2). -/
def priority : RoutineKind → Nat
  | .sealedEntry => 0
  | .reaction | .clrN => 1
  | .syncEvent | .refclk => 2
  | .opChange => 3
  | .catchCommit | .recourse => 4
  | .calApply => 5
  | .bulkCompletion | .cancelQueue => 6
  | .firmware => 7

/-- True once a routine has executed its CMT word: it is in its tail (R440). -/
def inTail (r : Routine) : Bool := decide (r.commit ≤ r.ran)

/-- True where routine a goes before routine b (R438, R440): a tail runs to its END; else the higher priority goes first. -/
def goesBefore (a b : Routine) : Bool := inTail a || (!inTail b && decide (priority a.kind < priority b.kind))

/-- The routine that runs next, the others in order of request (R438): of routines of equal priority the one requested first. -/
def pickRoutine : List Routine → Option (Routine × List Routine)
  | [] => none
  | r :: l => match pickRoutine l with
    | none => some (r, [])
    | some (q, rest) => if goesBefore q r then some (q, r :: rest) else some (r, l)

/-- n free cycles run the routines requested, one word in each: what is left, and those that came to their end. One that is not through goes to the
front, where no equal of it was
requested before it. -/
def runRoutines : Nat → Nat → List Routine → List Routine × List Routine
  | 0, _, q => (q, [])
  | fuel + 1, n, q =>
    match pickRoutine q with
    | none => (q, [])
    | some (r, rest) =>
      let k := min n (r.words - r.ran)
      let r := { r with ran := r.ran + k }
      if r.words ≤ r.ran then let d := runRoutines fuel (n - k) rest; (d.1, r :: d.2) else (r :: rest, [])

/-- A routine is requested (R439): one of lower priority that has begun and not committed is abandoned, to restart from its first word. -/
def Dev.requestRoutine (m : Dev) (r : Routine) : Dev :=
  let hit := fun (q : Routine) => decide (0 < q.ran) && !inTail q && decide (priority r.kind < priority q.kind)
  let m := m.each (m.mrc.routines.filter hit) fun m q => (m.bump F.MRC_ABANDON_COUNT).put F.MRC_ABANDON_LAST q.id
  m.modMrc fun x => { x with routines := (x.routines.map fun q => if hit q then { q with ran := 0 } else q) ++ [{ r with ran := 0 }] }

/-- Routines that the end of their operation leaves without a purpose are not restarted (R452): those that have committed go on. -/
def Dev.dropRoutines (m : Dev) : Dev :=
  m.modMrc fun x => { x with routines := x.routines.filter fun r => inTail r || r.slot.all m.slotActive }

/-- n free cycles run the routines (R437): those that end are answered. -/
def Dev.freeCycles (m : Dev) (n : Nat) : Dev × List Routine :=
  let d := runRoutines (m.mrc.routines.length + 1) n m.mrc.routines
  (m.modMrc fun x => { x with routines := d.1 }, d.2)

/-- The free cycles of a tick run the routines, requests coming after the free cycles that they name (R437 to R440); those that end are answered. -/
def Dev.runTick (m : Dev) (n done : Nat) : List (Nat × Routine) → Dev × List Routine
  | [] => m.freeCycles (n - done)
  | (at_, r) :: l =>
    let k := max done (min at_ n)
    let d := m.freeCycles (k - done)
    let e := Dev.runTick (d.1.requestRoutine r) n k l
    (e.1, d.2 ++ e.2)

end Sys2Proof.Machine
end

