-- ==== Sys2Proof/Machine/Tones.lean ====
section
/-! DEFINITION. Tones (R245 to R252) and Delta units (R253 to R260). -/

namespace Sys2Proof.Machine

/-! ## Tones -/

/-- MODE and APPLY of a TON_CTL write are taken (R250, R252). -/
def Dev.toneFields (m : Dev) (b c ctl : Nat) : Dev :=
  let m := (m.put (F.TON_CTL_MODE b c) (bitsOf ctl 1 1)).put (F.TON_CTL_APPLY b c) (bitsOf ctl 2 2)
  m.setTone b c { m.tone b c with mode := bitOf ctl 1, atLoad := bitOf ctl 2 }

/-- A tone becomes enabled at the current tick boundary: it is loaded where its basin lets it run (R248, R252). -/
def Dev.toneStart (m : Dev) (b c : Nat) : Dev :=
  let m := (m.put (F.TON_CTL_ENABLE b c) 1).setTone b c { m.tone b c with enabled := true }
  if m.playsNow b then m.loadTone b c (m.tick * 1024) else m

/-- TONE_ENABLE: TON_CTL is taken with ENABLE = 1 (R252, R73). -/
def Dev.toneEnable (m : Dev) (b c ctl : Nat) : Dev :=
  let m := m.toneFields b c ctl
  if m.on (F.TON_STAT_SHUTTING b c) then (m.put (F.TON_CTL_ENABLE b c) 1).put (F.TON_STAT_PENDING b c) 1
  else if (m.tone b c).enabled then m else m.toneStart b c

/-- TONE_DISABLE: TON_CTL is taken with ENABLE = 0 (R252, R73): the output is 0 from this boundary, and shutdown begins. -/
def Dev.toneDisable (m : Dev) (b c ctl : Nat) : Dev :=
  let m := (m.toneFields b c ctl).put (F.TON_CTL_ENABLE b c) 0
  if (m.tone b c).enabled then
    let m := (m.stopTone b c (m.tick * 1024)).put (F.TON_STAT_SHUTTING b c) 1
    m.setTone b c { m.tone b c with enabled := false }
  else m.put (F.TON_STAT_PENDING b c) 0

/-- The shutdown of a tone completes (R252, R73). -/
def Dev.toneShutDone (m : Dev) (b c : Nat) : Dev :=
  if !m.on (F.TON_STAT_SHUTTING b c) then m
  else
    let m := m.put (F.TON_STAT_SHUTTING b c) 0
    if m.on (F.TON_STAT_PENDING b c) then (m.put (F.TON_STAT_PENDING b c) 0).toneStart b c else m

/-- A write to TON_FTW_HI commits the staged pair (R249). -/
def Dev.ftwCommit (m : Dev) (b c hi : Nat) : Dev :=
  let m := (m.put (F.TON_FTW_HI_FTW b c) hi).put (F.TON_STAT_STAGED b c) 1
  m.setTone b c { m.tone b c with commitTick := m.tick, nextFtw := some (m.reg (Reg.TON_FTW_LO b c) + 2 ^ 32 * m.get (F.TON_FTW_HI_FTW b c)) }

/-- A write to TON_POFF_HI commits the staged pair (R249). -/
def Dev.poffCommit (m : Dev) (b c hi : Nat) : Dev :=
  let m := (m.put (F.TON_POFF_HI_POFF b c) hi).put (F.TON_STAT_STAGED b c) 1
  m.setTone b c { m.tone b c with commitTick := m.tick, nextPoff := some (m.reg (Reg.TON_POFF_LO b c) + 2 ^ 32 * m.get (F.TON_POFF_HI_POFF b c)) }

/-- The limiting of R254 acts at an instant: CLAMP, and where it begins, CLAMP_HIT and the report. -/
def Dev.deltaActs (m : Dev) (t : Nat) (acts : Bool) (at_ : Instant) : Dev :=
  let was := m.on (F.DLT_STAT_CLAMP t)
  let m := m.put (F.DLT_STAT_CLAMP t) (flag acts)
  if acts && !was then (m.put (F.DLT_STAT_CLAMP_HIT t) 1).report Src.deltaClamp t 0 at_ else m

/-- The modulator input of a unit is formed in every pin-clock period up to period n (R254), where samples are not its source. DESIGN CHOICE (log
103): limiting that
comes and goes within a look reports once. -/
def Dev.deltaLook (m : Dev) (t n : Nat) : Dev :=
  let x := m.delta t
  if !m.deltaPlays t then m
  else
    let m := m.setDelta t { x with seenTo := max x.seenTo n }
    if x.sampling.isSome || (m.deltaTone t).isNone then m
    else match (List.range (n - x.seenTo)).find? fun k => m.deltaLimits t (x.seenTo + k) with
      | some k => (m.deltaActs t true ((x.seenTo + k) * 500)).put (F.DLT_STAT_CLAMP t) (flag (m.deltaLimits t (n - 1)))
      | none => m.put (F.DLT_STAT_CLAMP t) 0

/-- What a unit takes from the current tick boundary on is looked at (R254). -/
def Dev.deltaClamp (m : Dev) (t : Nat) : Dev :=
  let n := m.tick * 8192
  (m.setDelta t { m.delta t with seenTo := n }).deltaActs t (m.deltaLimits t n) m.now

/-- The users of a basin's tones, Delta units and PPMUs, are looked at up to ECLK tt (R208, R254). -/
def Dev.lookBasin (m : Dev) (b tt : Nat) : Dev :=
  (m.each (m.deltasOf b) fun m t => m.deltaLook t (8 * tt)).each (m.allPins b) fun m p => m.lookForce p tt

/-- Every user of a tone is looked at up to the current tick boundary. -/
def Dev.lookAll (m : Dev) : Dev := m.each m.definedBasins fun m b => m.lookBasin b (m.tick * 1024)

/-- A CONTINUOUS change of a running tone at ECLK tt (R250): the accumulator adds the change of POFF and advances by the new FTW. -/
def Dev.shiftTone (m : Dev) (b c tt : Nat) : Dev :=
  let x := m.tone b c
  let p := x.nextPoff.getD x.poff
  let m := (m.bump (F.TON_STAT_CHANGES b c)).put (F.TON_STAT_STAGED b c) 0
  m.setTone b c { x.jump tt ((x.phaseAt tt + p + 2 ^ 48 - x.poff) % 2 ^ 48) with
    ftw := x.nextFtw.getD x.ftw, poff := p, nextFtw := none, nextPoff := none, loadAt := none }

/-- The ECLK at which a tone's committed change is due by an instant (R249): that of the first tick boundary after the exchange point which delivered it, or
the first edge at or after the first LOAD strobe that follows it; none while the tone does not run. -/
def Dev.toneDue (m : Dev) (b c : Nat) (t : Instant) : Option Nat :=
  let x := m.tone b c
  if !x.running || (x.nextFtw.isNone && x.nextPoff.isNone) then none
  else if x.atLoad then x.loadAt.filter fun n => decide (n * eclk ≤ t)
  else if x.commitTick < m.tick then some (m.tick * 1024) else none

/-- TONE_APPLY: the apply point of a tone's committed change has come by an instant (R249, R250); a tone that does not run keeps it staged. -/
def Dev.toneApply (m : Dev) (b c : Nat) (t : Instant) : Dev :=
  match m.toneDue b c t with
  | none => m
  | some tt =>
    let m := m.lookBasin b tt
    if (m.tone b c).mode then m.loadTone b c tt else m.shiftTone b c tt

/-- A tone crosses zero rising (R251), bit 47 of its phase going from 1 to 0 in the ECLK of an instant: it is registered for COND 12 after 4 ECLK
(Table 3.7) where the
basin tests that tone. -/
def Dev.toneCross (m : Dev) (b c : Nat) (t : Instant) : Dev :=
  if (m.tone b c).crossedBy (t / eclk) == some (t / eclk) && m.getForce (F.BSN_FLOW_CTL_TONE b) == c then
    (m.modBsn b fun x => { x with crossings := x.crossings ++ [(c, eclkUp t + 4 * eclk)] }).tellLeader b 10 (eclkUp t + 4 * eclk)
  else m

/-! ## Delta units -/

/-- SRC, TONE and LEVELS of a DLT_CTL write (R260): a LEVELS write that would change the unit while it is enabled, pending or
shutting is ignored and flagged. -/
def Dev.deltaFields (m : Dev) (t ctl : Nat) : Dev :=
  let busy := m.on (F.DLT_CTL_ENABLE t) || m.on (F.DLT_STAT_PENDING t) || m.on (F.DLT_STAT_SHUTTING t)
  let m := (m.put (F.DLT_CTL_SRC t) (bitsOf ctl 2 2)).put (F.DLT_CTL_TONE t) (bitsOf ctl 4 3)
  if bitsOf ctl 1 1 == m.get (F.DLT_CTL_LEVELS t) then m
  else if busy then m.put (F.DLT_STAT_CFG_IGNORED t) 1
  else m.put (F.DLT_CTL_LEVELS t) (bitsOf ctl 1 1)

/-- DELTA_ENABLE: DLT_CTL is taken with ENABLE = 1 (R260, R73); without a Delta pin the write is ignored (R253). -/
def Dev.deltaEnable (m : Dev) (t ctl : Nat) : Dev :=
  if (m.deltaPin t).isNone then m
  else
    let m := m.deltaFields t ctl
    let m := m.put (F.DLT_CTL_ENABLE t) 1
    if m.on (F.DLT_STAT_SHUTTING t) then m.put (F.DLT_STAT_PENDING t) 1
    else (m.setDelta t { m.delta t with enabled := true }).deltaClamp t

/-- DELTA_DISABLE: DLT_CTL is taken with ENABLE = 0 (R260, R73). -/
def Dev.deltaDisable (m : Dev) (t ctl : Nat) : Dev :=
  if (m.deltaPin t).isNone then m
  else
    let m := (m.deltaFields t ctl).put (F.DLT_CTL_ENABLE t) 0
    if (m.delta t).enabled then
      ((m.setDelta t { m.delta t with enabled := false }).put (F.DLT_STAT_SHUTTING t) 1).deltaClamp t
    else m.put (F.DLT_STAT_PENDING t) 0

/-- The shutdown of a Delta unit completes (R260, R73). -/
def Dev.deltaShutDone (m : Dev) (t : Nat) : Dev :=
  if !m.on (F.DLT_STAT_SHUTTING t) then m
  else
    let m := m.put (F.DLT_STAT_SHUTTING t) 0
    if m.on (F.DLT_STAT_PENDING t) then
      ((m.put (F.DLT_STAT_PENDING t) 0).setDelta t { m.delta t with enabled := true }).deltaClamp t
    else m

/-- Units per tick of a sample lane at D = DIV + 1 (R158, Table 8.2). -/
def laneDemand (div : Nat) : Nat := ceilDiv 16 (div + 1)

/-- The streamed words of a lane per tick and the R51 demand of basin b on this device. -/
def Dev.wordsPerTick (m : Dev) (b : Nat) : Nat := ceilDiv (m.bdef b).rate (if (m.bdef b).full then 48 else 96)
def Dev.streamDemand (m : Dev) (b : Nat) : Nat := (m.lanes b).length * ceilDiv (m.wordsPerTick b) 2

/-- The demand of a basin's sample lanes at the rates written (R158). -/
def Dev.sampleDemand (m : Dev) (b : Nat) : Nat :=
  (m.deltasOf b).foldl (fun n t => n + laneDemand (m.get (F.DLT_RATE_DIV t))) 0

/-- DELTA_RATE_WRITE: a DIV that keeps the basin within STREAM_SH is written and waits for a burst start; another leaves the rate
unchanged and reports (R259, R158). -/
def Dev.deltaRate (m : Dev) (t v : Nat) : Dev :=
  match m.deltaOwner t with
  | none => m
  | some b =>
    let n := m.put (F.DLT_RATE_DIV t) v
    if n.streamDemand b + n.sampleDemand b ≤ (m.bdef b).streamSh then
      n.setDelta t { n.delta t with nextDiv := some (v % 65536) }
    else (m.put (F.DLT_STAT_RATE_REFUSED t) 1).report Src.deltaRate t 0 m.now

/-- A burst start takes the rates that wait (R259) and clears the count of held samples. -/
def Dev.startDeltas (m : Dev) (b : Nat) : Dev :=
  m.each (m.deltasOf b) fun m t =>
    let x := m.delta t
    (m.setDelta t { x with div := x.nextDiv.getD x.div, nextDiv := none }).setReg (Reg.DLT_SHORT t) 0

/-- Takes the next sample of a unit: it is the sample held. -/
def DeltaX.takeSample (x : DeltaX) : DeltaX :=
  match x.fifo with
  | [] => x
  | v :: l => { x with fifo := l, before := x.held, held := v, taken := x.taken + 1, left := x.left.map (· - 1) }

/-- True where an output of stage 2 is limited (R254, R259): the filter's coefficients are not given, so its output is a free value (log 104), in
parts of 2^30. -/
def Dev.stage2Over (m : Dev) (t n : Nat) : Bool :=
  rangeOver (m.deltaSum t (toSigned 32 (Config.freeValue 32 n).toNat) (2 ^ 30)) (2 ^ 30)

/-- A unit takes its next sample (R258, R259): stage 1's outputs are put out with their ball times, and each of the 16 × D outputs of stage 2 is limited. -/
def Dev.playSample (m : Dev) (t : Nat) : Dev :=
  let x := m.delta t
  let d := x.div + 1
  if x.fifo.isEmpty then m
  else
    let n := m.drawn
    let y := x.takeSample
    let outs := (sampleRamp (toSigned 16 y.before) (toSigned 16 y.held) (x.sampling.getD 0) d x.taken).map fun e => Out.sample t e.1 d e.2
    let m := { m.setDelta t y with out := m.out ++ outs, drawn := n + 16 * d }
    m.deltaActs t (m.deltaPlays t && (List.range (16 * d)).any fun i => m.stage2Over t (n + i)) ((x.sampling.getD 0) + 8000 * d * x.taken)

/-- A unit takes k samples. -/
def Dev.playSamplesN (m : Dev) (t k : Nat) : Dev := m.each (List.range k) fun m _ => m.playSample t

/-- The samples of a unit that are due at an instant and not yet taken (R157, R258). -/
def DeltaX.due (x : DeltaX) (t : Instant) : Nat :=
  match x.sampling with
  | some s =>
    let n := if t < s then 0 else (t - s) / (8000 * (x.div + 1)) + 1 - x.taken
    match x.left with
    | some k => min n k
    | none => n
  | none => 0

/-- A unit's samples play up to an instant; a dry unit holds its last sample (R157, R159). -/
def Dev.playSamples (m : Dev) (t : Nat) (at_ : Instant) : Dev :=
  let x := m.delta t
  if x.sampling.isNone || x.dryAt.isSome then m
  else m.playSamplesN t (min (x.due at_) x.fifo.length)

/-- Sample play of a basin's units starts at a pass start (R157): p′ is the first multiple of 500 units at or after it. -/
def Dev.startSamples (m : Dev) (b : Nat) (once : Bool) (gran : Nat) (t : Instant) : Dev :=
  m.each (m.deltasOf b) fun m k =>
    let m := m.put (F.DLT_STAT_SAMPLING k) 1
    m.setDelta k { m.delta k with sampling := some (ceilDiv t 500 * 500), taken := 0,
                                  left := if once then some (512 * gran) else none }

end Sys2Proof.Machine
end

