-- ==== Sys2Proof/Machine/Timing.lean ====
section
/-! DEFINITION. Timing sets (R165 to R170): their values taken at delivery and in force, their validation, and the transitions of a
symbol slot (Table 5.2). -/

namespace Sys2Proof.Machine

/-- Symbols per vector of an SPV code; 0 for the reserved code (Table 5.9). -/
def spvOf (code : Nat) : Nat := if code == 0 then 1 else if code == 1 then 2 else if code == 2 then 4 else 0

/-- PERIOD of set s of basin b in force. -/
def Dev.period (m : Dev) (b s : Nat) : Nat := m.inForce (Reg.BSN_TS_PER_LO b s) + 2 ^ 32 * m.getForce (F.BSN_TS_PER_HI_PERIOD b s)

/-- SPV of set s of basin b in force. -/
def Dev.spv (m : Dev) (b s : Nat) : Nat := spvOf (m.getForce (F.BSN_TS_PER_HI_SPV b s))

/-- True where set s of basin b is COHERENT (R173). -/
def Dev.coherent (m : Dev) (b s : Nat) : Bool := m.getForce (F.BSN_TS_PER_HI_MODE b s) == 1

/-- The slot length of a set (R166). -/
def Dev.slotLen (m : Dev) (b s : Nat) : Nat := if m.spv b s == 0 then 0 else m.period b s / m.spv b s

/-- The edges of one slot of a set on a pin: format and offsets (Table 5.8). -/
structure Edges where
  fmt : Nat
  drv : Nat
  ret : Nat
  sopen : Nat
  sclose : Nat
  deriving DecidableEq, Repr

/-- The edges of set s, slot i on pin p, in a given bank. -/
def edgesIn (bank : Nat → Nat) (p s i : Nat) : Edges :=
  ⟨bitsOf (bank (Reg.PIN_TS_DRV p s i)) 25 24, bitsOf (bank (Reg.PIN_TS_DRV p s i)) 23 0,
   bitsOf (bank (Reg.PIN_TS_RET p s i)) 23 0, bitsOf (bank (Reg.PIN_TS_SOPEN p s i)) 23 0,
   bitsOf (bank (Reg.PIN_TS_SCLOSE p s i)) 23 0⟩

/-- The transition instants of one slot, from the slot's start (R169). -/
def Edges.instants (e : Edges) : List Nat :=
  (if e.fmt == 3 then [0] else []) ++ [e.drv] ++ (if e.fmt == 0 then [] else [e.ret])

/-- True where each instant lies at least 400 units after the one before (R169). -/
def spaced : List Nat → Bool
  | a :: b :: t => decide (a + 400 ≤ b) && spaced (b :: t)
  | _ => true

/-- The codes of Table 5.3 that a set fails, lowest first, on a pin, from the PERIOD, SPV code and edges given (R166 to R169). -/
def setCodes (period spvCode : Nat) (edge : Nat → Edges) : List Nat :=
  let spv := spvOf spvCode
  let slot := if spv == 0 then 0 else period / spv
  let es := (List.range spv).map edge
  let range := es.any fun e => decide (slot ≤ e.drv) || (e.fmt ≠ 0 && decide (slot ≤ e.ret)) || decide (slot < e.sclose)
  let order := es.any fun e => (e.fmt ≠ 0 && decide (e.ret ≤ e.drv)) || decide (e.sclose < e.sopen)
  let all := (List.range spv).flatMap fun i => (edge i).instants.map (· + i * slot)
  let spacing := !spaced (all ++ ((edge 0).instants.map (· + period)))
  (if period < 2000 then [0x01] else []) ++ (if spvCode == 3 then [0x02] else []) ++
  (if spv ≠ 0 ∧ period % spv ≠ 0 then [0x03] else []) ++ (if range then [0x04] else []) ++ (if order then [0x05] else []) ++
  (if spv ≠ 0 ∧ spacing then [0x06] else [])

/-- The codes that set s fails on pin p of basin b with the values taken at delivery (R170). -/
def Dev.deckCodes (m : Dev) (b p s : Nat) : List Nat :=
  setCodes (m.deckReg (Reg.BSN_TS_PER_LO b s) + 2 ^ 32 * bitsOf (m.deckReg (Reg.BSN_TS_PER_HI b s)) 7 0)
    (bitsOf (m.deckReg (Reg.BSN_TS_PER_HI b s)) 9 8) (edgesIn m.deckReg p s)

/-- The codes that set s fails on pin p of basin b with the values in force. -/
def Dev.forceCodes (m : Dev) (b p s : Nat) : List Nat :=
  setCodes (m.period b s) (m.getForce (F.BSN_TS_PER_HI_SPV b s)) (edgesIn m.inForce p s)

/-- The pin whose timing sets time pin p: the companion-drive pin for a companion-return pin (R172). -/
def Dev.timingPin (m : Dev) (p : Nat) : Nat := if (m.pinDef p).role == 3 then p - 1 else p

/-- The PERIOD of set s, as a pair of writes staged it, is one 40-bit value (R185). DEDUCED (log 99): the write of its high word completes the pair,
as it does for a
tone's (R249). -/
def Dev.stagePair (m : Dev) (b s : Nat) : Dev :=
  let v := m.reg (Reg.BSN_TS_PER_LO b s)
  m.modBsn b fun x => { x with perLow := Tbl.set 0 x.perLow s v }

/-- The staged timing values of a basin and its pins are taken (R79, R170) and validated; PIN_TG_VALID shows the result for every
set, on a companion-return pin that of the sets which time the pair (R172), and its error fields are cleared. -/
def Dev.takeTiming (m : Dev) (b : Nat) : Dev :=
  let m := { m with deck := Tbl.graft (Reg.BSN_TS_PER_LO b 0) (Reg.BSN_TS_PER_LO b 16) m.regs m.deck }
  let m := m.each (List.range 16) fun m s =>
    { m with deck := Tbl.set 0 m.deck (Reg.BSN_TS_PER_LO b s) (BitVec.ofNat 32 (Tbl.find 0 (m.bsn b).perLow s)) }
  let m := m.each (m.lanes b) fun m p =>
    { m with deck := Tbl.graft (Reg.PIN_TS_DRV p 0 0) (Reg.PIN_TS_DRV p 16 0) m.regs m.deck }
  m.each (m.allPins b) fun m p =>
    let v := (List.range 16).foldl (fun n s => if (m.deckCodes b (m.timingPin p) s).isEmpty then n + 2 ^ s else n) 0
    m.setReg (Reg.PIN_TG_VALID p) v

/-- The timing values taken at delivery come into force (R170). -/
def Dev.forceTiming (m : Dev) (b : Nat) : Dev :=
  let m := { m with force := Tbl.graft (Reg.BSN_TS_PER_LO b 0) (Reg.BSN_TS_PER_LO b 16) m.deck m.force }
  m.each (m.lanes b) fun m p =>
    { m with force := Tbl.graft (Reg.PIN_TS_DRV p 0 0) (Reg.PIN_TS_DRV p 16 0) m.deck m.force }

/-- A timing-set fault on every pin where set s fails (R170): recorded where no code is held yet, and reported. -/
def Dev.timingFault (m : Dev) (b s : Nat) (t : Instant) : Dev :=
  let code := fun (m : Dev) (p : Nat) => (m.forceCodes b (m.timingPin p) s).headD 0
  let bad := (m.allPins b).filter fun p => !(m.forceCodes b (m.timingPin p) s).isEmpty
  let m := m.each bad fun m p =>
    if m.get (F.PIN_TG_VALID_ERR_CODE p) == 0 then
      (m.put (F.PIN_TG_VALID_ERR_CODE p) (code m p)).put (F.PIN_TG_VALID_ERR_SET p) s
    else m
  m.each bad fun m p => m.report Src.timingSet p (code m p + 256 * s) t

/-- The first grid point of a period at or after an instant, counted from a base (R173). -/
def gridUp (base t p : Nat) : Nat := if p == 0 then t else base + ceilDiv (t - base) p * p

/-- The driver transitions of a slot (Table 5.2): offsets and states, 0 low, 1 high, 2 off and terminated, 7 off. -/
def movesOf (e : Edges) (sym : Nat) : List (Nat × Nat) :=
  if sym == 0 ∨ sym == 1 then
    let n := 1 - sym
    if e.fmt == 0 then [(e.drv, sym)]
    else if e.fmt == 1 then (if sym == 1 then [(e.drv, 1), (e.ret, 0)] else [(e.drv, 0)])
    else if e.fmt == 2 then (if sym == 1 then [(e.drv, 1)] else [(e.drv, 0), (e.ret, 1)])
    else [(0, n), (e.drv, sym), (e.ret, n)]
  else [(e.drv, sym)]

/-- The transitions that change the state the ball holds (Table 5.2). -/
def realMoves : Nat → List (Nat × Nat) → List (Nat × Nat)
  | _, [] => []
  | held, (t, v) :: rest => if v == held then realMoves held rest else (t, v) :: realMoves v rest

end Sys2Proof.Machine
end

