-- ==== Sys2Proof/Machine/Operands.lean ====
section
/-! DEFINITION. The operand forms of a vector word (Tables 3.2 and 3.5) and of a course entry (Table 4.1), and the fetch of the word
at hand. -/

namespace Sys2Proof.Machine

/-! ## Vector words -/

/-- Bits [hi:lo] of a vector word. -/
def wbits (w : VecWord) (hi lo : Nat) : Nat := bitsOf w.toNat hi lo

def wKind (w : VecWord) : Nat := wbits w 255 252
def wNext (w : VecWord) : Nat := wbits w 251 240
def wSpan (w : VecWord) : Nat := wbits w 239 232
def wSymw (w : VecWord) : Nat := wbits w 231 230
def wTset (w : VecWord) : Nat := wbits w 229 226
def wPal (w : VecWord) : Nat := wbits w 225 224
def wCount (w : VecWord) : Nat := wbits w 223 208
def wCond (w : VecWord) : Nat := wbits w 207 204
def wLctr (w : VecWord) : Nat := wbits w 203 200
def wMark (w : VecWord) : Nat := wbits w 199 196
def wCapt (w : VecWord) : Bool := wbits w 195 195 == 1
def wCmpen (w : VecWord) : Bool := wbits w 194 194 == 1
def wLoad (w : VecWord) : Bool := wbits w 193 193 == 1
def wSyncpt (w : VecWord) : Bool := wbits w 192 192 == 1

/-- COUNT [11:0]: ALT, EXIT or RET (Table 3.5). -/
def wAddr2 (w : VecWord) : Nat := wCount w % 4096

/-- Word kinds (Table 3.5). -/
def Kind.run : Nat := 0
def Kind.repeat : Nat := 1
def Kind.wait : Nat := 2
def Kind.loopBegin : Nat := 3
def Kind.loopEnd : Nat := 4
def Kind.call : Nat := 5
def Kind.ret : Nat := 6
def Kind.halt : Nat := 7
def Kind.palette : Nat := 8
def Kind.levelStage : Nat := 9

/-- True for a playing word (R92). -/
def wPlays (w : VecWord) : Bool := decide (wKind w < 7)

/-- The successor address of the next streamed word (R93). -/
def streamAddr : Nat := 0xFFF

/-- True for a reserved successor address (R93). -/
def addrReserved (a : Nat) : Bool := decide (0x800 ≤ a) && a ≠ 0xFFF

/-- The successor addresses a word can take (Table 3.8, ADDR_RESERVED), the word being the tail of a resident pass or not. -/
def addrsInUse (w : VecWord) (tail : Bool) : List Nat :=
  let k := wKind w
  let c := wCond w
  if tail then []
  else if k == 0 then (if c == 13 then [] else [wNext w]) ++ (if c == 14 then [] else [wAddr2 w])
  else if k == 4 then (if c == 13 then [] else [wNext w]) ++ [wAddr2 w]
  else if k == 5 then [wNext w, wAddr2 w]
  else if k == 1 ∨ k == 2 ∨ k == 3 ∨ k == 8 ∨ k == 9 then [wNext w]
  else []

/-- Symbol i of a word, as a full code, through the pin's live palettes (R84, R91). -/
def wSymbol (w : VecWord) (palettes i : Nat) : Nat :=
  if wSymw w == 0 then
    bitsOf palettes (16 * wPal w + 4 * bitsOf w.toNat (2 * i + 1) (2 * i) + 3) (16 * wPal w + 4 * bitsOf w.toNat (2 * i + 1) (2 * i))
  else bitsOf w.toNat (4 * i + 3) (4 * i)

/-- The minimum play time of a word, at a slot length (R102). -/
def wMinPlay (w : VecWord) (slot spv : Nat) : Nat :=
  if !wPlays w then 0
  else if wKind w == 1 then (wSpan w + 1) * slot * (wCount w + 1)
  else if wKind w == 2 then spv * slot
  else (wSpan w + 1) * slot

/-- The four live palettes of a pin as one number (R91). -/
def Dev.palettes (m : Dev) (p : Nat) : Nat := m.pair (Reg.PIN_PAL_LIVE_LO p) (Reg.PIN_PAL_LIVE_HI p)

/-- The word at hand of a pin: from its loop store, or the oldest of its refill FIFO (R82, R93). -/
def Dev.fetch (m : Dev) (p : Nat) : Option VecWord :=
  let x := m.pin p
  if x.pc == streamAddr then x.cur.or (x.fifo.head?.map (·.2)) else some (m.word (m.engineOf p) x.pc)

/-- True where the word at hand of a pin is a streamed one. -/
def Dev.streamed (m : Dev) (p : Nat) : Bool := (m.pin p).pc == streamAddr

/-! ## Course entries -/

/-- A course entry (Table 4.1). -/
structure Entry where
  segAddr : Nat
  segKind : Nat
  sampMode : Nat
  emark : Nat
  last : Bool
  again : Nat
  next : Nat
  jmask : Nat
  gran : Nat
  words : Nat
  jumps : List Nat
  sampAddr : Nat
  sampGran : Nat
  strmAddr : Nat
  reserved : Bool
  deriving DecidableEq, Repr

/-- The HBM address of entry i of basin b's course table (R125). -/
def Dev.entryAddr (m : Dev) (b i : Nat) : Nat :=
  (m.part (m.bdef b).coursePart).base + (m.bdef b).courseOffset + 64 * i

/-- Entry i of basin b as it is held: in its course window, or as the first entry of its on-deck burst (R144, R298). -/
def Dev.heldEntry (m : Dev) (b i : Nat) : Option Held :=
  ((m.bsn b).window.find? fun h => h.entry == i).or (((m.bsn b).deck.bind (·.first)).filter fun h => h.entry == i)

/-- Entry i of basin b: as it was fetched where it is held, else as its course table now has it. -/
def Dev.entry (m : Dev) (b i : Nat) : Entry :=
  let l := ((m.heldEntry b i).map (·.bytes)).getD (m.bytes (m.entryAddr b i) 64)
  let k := fieldAt l 6 1
  let gran := fieldAt l 16 4
  let words := fieldAt l 20 4
  let seg := fieldAt l 0 6
  let resident := k % 4 == 0
  { segAddr := seg, segKind := k % 4, sampMode := bitsOf k 3 2, emark := bitsOf k 7 4, last := bitOf (fieldAt l 7 1) 0,
    again := fieldAt l 8 4, next := fieldAt l 12 2, jmask := fieldAt l 14 1, gran := gran, words := words,
    jumps := (List.range 8).map fun e => fieldAt l (24 + 2 * e) 2,
    sampAddr := fieldAt l 40 6, sampGran := fieldAt l 48 4, strmAddr := fieldAt l 52 6,
    reserved := decide (2 ≤ fieldAt l 7 1) || fieldAt l 15 1 ≠ 0 || fieldAt l 46 2 ≠ 0 || fieldAt l 58 6 ≠ 0 ||
      (resident && (decide (2048 ≤ seg) || decide (2048 ≤ gran))) ||
      (bitsOf k 3 2 == 0 && (fieldAt l 40 6 ≠ 0 || fieldAt l 48 4 ≠ 0)) ||
      (!(resident && words ≠ 0) && fieldAt l 52 6 ≠ 0) }

/-- The tail word's address of a resident entry (R130). -/
def Entry.tail (e : Entry) : Nat := e.gran % 2048

/-- The current course entry of basin b's running burst. -/
def Dev.curEntry (m : Dev) (b : Nat) : Option Entry := (m.bsn b).run.map fun r => m.entry b r.entry

end Sys2Proof.Machine
end

