-- ==== Sys2Proof/Machine/Flags.lean ====
section
/-! DEFINITION. Conditions and their sample times (R104 to R107), the flow signature (R112), and the checks of a decoded word
(R52, R102, R103, R129 to R133). -/

namespace Sys2Proof.Machine

/-- The latest value of a timed history, newest first, at or before an instant. -/
def seenAt (l : List (Instant × Nat)) (t : Instant) : Option Nat := (l.find? fun e => decide (e.1 ≤ t)).map (·.2)

/-- A timed history keeps what a later sample can still see. -/
def pruneAt : List (Instant × Nat) → Instant → List (Instant × Nat)
  | [], _ => []
  | e :: l, t => if e.1 ≤ t then [e] else e :: pruneAt l t

/-- True where a registration of a latched condition counts at a sample time: it has been made by then, and no decision whose boundary has come by
then consumed it (R104, R105, R107). -/
def BasinX.seen (x : BasinX) (line : Nat) (at_ t : Instant) : Bool :=
  decide (at_ ≤ t) && !(x.consumed.any fun c => c.1 == line && decide (at_ ≤ c.2.1) && decide (c.2.2 ≤ t))

/-- The state of a condition at a sample time (Table 3.6). A vector result is coded judged + 2 × failed + …. -/
def Dev.condAt (m : Dev) (b cond : Nat) (t : Instant) : Bool :=
  let x := m.bsn b
  if cond < 8 then x.events.any fun e => e.1 == cond && x.seen cond e.2 t
  else if cond == 8 then (seenAt x.results t).any fun r => r % 4 == 1
  else if cond == 9 then (seenAt x.results t).any fun r => bitOf r 1
  else if cond == 10 then (seenAt x.seqHist t).getD 0 == m.getForce (F.BSN_FLOW_CTL_TSQ_STATE b)
  else if cond == 11 then (seenAt x.trig t).getD 0 == 1
  else if cond == 12 then
    let c := m.getForce (F.BSN_FLOW_CTL_TONE b)
    (x.crossings.any fun e => e.1 == c && x.seen 12 e.2 t) ||
    ((m.tone b c).crossedBy (t / eclk - 4)).any fun k => x.seen 12 ((k + 4) * eclk) t
  else cond == 13

/-- A decision for the boundary `at_`, taken true, consumes the registrations of a latched condition that its sample time t saw, from its boundary on
(R105). What
earlier decisions consumed for good is dropped. -/
def Dev.consume (m : Dev) (b cond : Nat) (t at_ : Instant) : Dev :=
  if cond < 8 ∨ cond = 12 then
    let h := m.horizon b
    m.modBsn b fun x =>
      let gone := fun (line : Nat) (e : Instant) => x.consumed.any fun c => c.1 == line && decide (e ≤ c.2.1) && decide (c.2.2 + h ≤ t)
      { x with consumed := (x.consumed.filter fun c => decide (t < c.2.2 + h)) ++ [(cond, t, at_)],
               events := x.events.filter fun e => !gone e.1 e.2, crossings := x.crossings.filter fun e => !gone 12 e.2 }
  else m

/-- The decision for the boundary t of basin b (R107, R109): the condition at t − FLOW_LAT, or on a device that does not lead the
span the decision received for that boundary. -/
def Dev.decision (m : Dev) (b cond : Nat) (t : Instant) : Bool :=
  if m.follows b then
    ((m.bsn b).remote.lookup t).getD 0 == 1
  else m.condAt b cond (t - m.flowLat b)

/-- A basin event is registered at an instant (R105). -/
def Dev.registerEvent (m : Dev) (b e : Nat) (t : Instant) : Dev :=
  (m.modBsn b fun x => { x with events := x.events ++ [(e, t)] }).tellLeader b e t

/-! ## The flow signature (R112) -/

/-- FLOWSIG after one byte. -/
def sigByte (s v : Nat) : Nat := crcByte s (BitVec.ofNat 8 v)

/-- FLOWSIG after the bytes 24 to 31 of a word, with SYMW, PAL, CAPT and CMPEN taken as 0. -/
def sigWord (s : Nat) (w : VecWord) : Nat :=
  let v := setBits (setBits (setBits w.toNat 231 230 0) 225 224 0) 195 194 0
  (List.range 8).foldl (fun s i => sigByte s (bitsOf v (192 + 8 * i + 7) (192 + 8 * i))) s

/-! ## Checks of a decoded word -/

/-- The word-format codes a word breaks on a pin, lowest first (Table 3.8). `tail` marks the tail word of a resident pass; with
`timed` false the codes that depend on the word's timing set are left out, the set having failed validation. -/
def Dev.wordCodes (m : Dev) (b p : Nat) (w : VecWord) (tail timed : Bool) : List Nat :=
  let x := m.pin p
  let k := wKind w
  let plays := wPlays w
  let spv := m.spv b (wTset w)
  let slot := m.slotLen b (wTset w)
  let addrs := addrsInUse w tail
  let c := fun (q : Bool) (n : Nat) => if q then [n] else []
  c (decide (10 ≤ k)) 0x01 ++
  c (plays && decide (2 ≤ wSymw w)) 0x02 ++
  c (addrs.any addrReserved) 0x03 ++
  c (plays && ((wSymw w == 0 && decide (95 < wSpan w)) || (wSymw w == 1 && decide (47 < wSpan w)))) 0x04 ++
  c (timed && plays && spv ≠ 0 && ((wSpan w + 1) % spv ≠ 0 || (k == 2 && wSpan w + 1 ≠ spv))) 0x05 ++
  c ((k == 0 || k == 2 || k == 4) && wCond w == 15) 0x06 ++
  c ((k == 3 || k == 4) && decide (3 < wLctr w)) 0x07 ++
  c (k == 5 && decide (4 ≤ x.stack.length)) 0x08 ++
  c (k == 6 && x.stack.isEmpty) 0x09 ++
  c (if plays then timed && decide (wMinPlay w slot spv < eclk)
     else decide (k < 10) && (decide (2 < x.nonPlay + 1) || decide (x.minPlay < (x.nonPlay + 2) * eclk))) 0x0A ++
  c ((m.bdef b).rate == 0 && addrs.contains streamAddr) 0x0B

/-- The stream-contract detail of a streamed word (R52): bit 0 full symbols not declared, bit 1 rate above the declaration. -/
def Dev.contract (m : Dev) (b : Nat) (w : VecWord) : Nat :=
  let d := m.bdef b
  let spv := m.spv b (wTset w)
  let period := m.period b (wTset w)
  flag (wSymw w == 1 && !d.full) +
  2 * flag (wPlays w && period ≠ 0 && decide (d.rate < ceilDiv (tickUnits * spv) period))

/-- The symbols that a streamed word adds to its pass when it has played a number of repetitions of a WAIT (R129). -/
def wSymbols (w : VecWord) (reps : Nat) : Nat :=
  if !wPlays w then 0 else (wSpan w + 1) * (if wKind w == 1 then wCount w + 1 else if wKind w == 2 then reps else 1)

/-- The course-format codes that a word breaks as its `reps`-th repetition begins, lowest first (R129 to R133, Table 4.6): GRAN_MISMATCH and TAIL, which in the
straight tail binds the words that play. Whether a WAIT that is a pass's last word fills the pass, and the count of a resident pass, are judged as the
pass ends (R129, R131). -/
def Dev.courseCodes (m : Dev) (b : Nat) (e : Entry) (r : Run) (w : VecWord) (streamed tail : Bool) (reps : Nat) : List Nat :=
  let h := m.horizon b
  let slot := m.slotLen b (wTset w)
  let spv := m.spv b (wTset w)
  let words := r.passWords + flag streamed
  let syms := r.passSyms + (if streamed then wSymbols w reps else 0)
  let straight := 512 * e.gran - min (512 * e.gran) (512 * ceilDiv (m.get (F.BSN_CRS_HZN_H b)) 64)
  let plain := (wKind w == 0 && wCond w == 14) || wKind w == 1
  let gran :=
    if e.segKind == 1 then
      streamed && (decide (512 * e.gran < syms) || (words == e.words && wKind w != 2 && decide (syms < 512 * e.gran)))
    else streamed && decide (e.words < words)
  let tails :=
    if e.segKind == 1 then streamed && wPlays w && decide (straight < syms) && !(plain && wNext w == streamAddr)
    else tail && (!plain || decide (wMinPlay w slot spv < h))
  (if gran then [0x06] else []) ++ (if tails then [0x07] else [])

/-- A word-format fault on a pin (R103): the first code since basin enable is recorded, and the source reports. -/
def Dev.wordFault (m : Dev) (p code addr : Nat) (streamed : Bool) (t : Instant) : Dev :=
  let m := if m.get (F.PIN_ENG_ERR_CODE p) == 0 then
      ((m.put (F.PIN_ENG_ERR_CODE p) code).put (F.PIN_ENG_ERR_ADDR p) (if streamed then 0 else addr)).put
        (F.PIN_ENG_ERR_STREAMED p) (flag streamed)
    else m
  m.report Src.wordFormat p code t

/-- A course-format fault of basin b (R160): the first code since basin enable is recorded, and the source reports once. -/
def Dev.courseFault (m : Dev) (b code entry : Nat) (t : Instant) : Dev :=
  let m := if m.get (F.BSN_CRS_ERR_CODE b) == 0 then
      (m.put (F.BSN_CRS_ERR_CODE b) code).put (F.BSN_CRS_ERR_ENTRY b) entry else m
  m.report Src.courseFormat b code t

end Sys2Proof.Machine
end

