-- ==== Sys2Proof/Machine/Play.lean ====
section
/-! DEFINITION. The play of one word by the engines of a basin: symbols, drive state and transitions (R88 to R91, R167, R177), their place at the ball
(R164, R171,
R180), strobes and verdicts (R215 to R220), captured slots (R229), and the vector results they form (R106). -/

namespace Sys2Proof.Machine

/-! ## Voltages at a ball (R164, R188, R215 to R217) -/

/-- The voltage of a ball at an instant, where it is known: the latest one listed by then. -/
def waveAt (w : List (Instant × Int)) (t : Instant) : Option Int := ((w.filter fun e => decide (e.1 ≤ t)).getLast?).map (·.2)

/-- True where a voltage in nV lies above the output of a level code (R191): v > -0.5 V + code × 2.5 V ÷ 65,536. -/
def aboveCode (v : Int) (code : Nat) : Bool := decide (2500000000 * (code : Int) < (v + 500000000) * 65536)

/-- True where a voltage in nV lies below the output of a level code (R191). -/
def belowCode (v : Int) (code : Nat) : Bool := decide ((v + 500000000) * 65536 < 2500000000 * (code : Int))

/-- The longest departure from the passing state in a window that ends at `stop`, over its voltages with the instants from which they hold; none where it never
departs. The second argument is when the departure under way began. -/
def longestDeparture (bad : Int → Bool) (stop : Instant) : Option Instant → List (Instant × Int) → Option Nat
  | none, [] => none
  | some s, [] => some (stop - s)
  | none, (t, v) :: l => longestDeparture bad stop (if bad v then some t else none) l
  | some s, (t, v) :: l =>
    if bad v then longestDeparture bad stop (some s) l
    else some (max (t - s) ((longestDeparture bad stop none l).getD 0))

/-- What a comparator showed over one strobe (R215): the thresholds in force, the window at the ball, the voltages in it from SOPEN on, and whether a
departure too
short to be sure of is seen. -/
structure Strobed where
  voh : Nat
  vol : Nat
  opens : Instant
  closes : Instant
  volts : List (Instant × Int)
  short : Bool

/-- H and L at a voltage (R188, R215). -/
def Strobed.high (s : Strobed) (v : Int) : Bool := aboveCode v s.voh
def Strobed.low (s : Strobed) (v : Int) : Bool := belowCode v s.vol

/-- The voltages at SOPEN and at SCLOSE. -/
def Strobed.first (s : Strobed) : Int := (s.volts.head?.map (·.2)).getD 0
def Strobed.last (s : Strobed) : Int := (s.volts.getLast?.map (·.2)).getD 0

/-- True where a state holds throughout (R216, R217): at the instant of an edge strobe; else over the window, a departure of 40 ps or more always being
seen, and a shorter one perhaps. -/
def Strobed.throughout (s : Strobed) (ok : Int → Bool) : Bool :=
  match longestDeparture (fun v => !ok v) s.closes none s.volts with
  | none => true
  | some n => decide (s.opens < s.closes) && decide (n < 160) && s.short

/-- The verdict of Table 7.1: true where the symbol passes. A CR or CF with an edge strobe always fails (R218). -/
def verdict (sym : Nat) (s : Strobed) (edge : Bool) : Bool :=
  if sym == 4 then s.throughout s.low
  else if sym == 5 then s.throughout s.high
  else if sym == 6 then s.throughout fun v => !s.high v && !s.low v
  else if sym == 10 then !edge && !s.high s.first && s.high s.last
  else if sym == 11 then !edge && !s.low s.first && s.low s.last
  else true

/-! ## One pin's symbols -/

/-- What one pin's symbols of one vector gave: whether a strobe fell, a symbol was judged, one failed, H at the last strobe, and when
the last strobe closed. -/
structure VecSeen where
  strobed : Bool := false
  judged : Bool := false
  failed : Bool := false
  lastH : Bool := false
  close : Instant := 0
  deriving DecidableEq, Repr

/-- A report that a symbol raised: source, detail, instant. -/
abbrev SymReport := Nat × Nat × Instant

/-- A deskew path as it plays (R178, R180): the applied delay, its target, and the first ECLK in which the walk may step. -/
structure Path where
  now : Nat
  target : Nat
  step : Nat
  deriving DecidableEq, Repr

/-- The step of a walk at a symbol-slot boundary (R180): at most 32 units towards the target, at most one in an ECLK. -/
def Path.at_ (w : Path) (t : Instant) : Path :=
  if w.now == w.target || decide (t / eclk < w.step) then w
  else { w with now := if w.now < w.target then min w.target (w.now + 32) else max w.target (w.now - 32), step := t / eclk + 1 }

/-- What accumulates over the symbols of a pin: drive state (R89), the ball path, its last transition and whether it has moved yet, the deskew paths,
verdicts by
vector, captured bits by slot, reports, what the pin put out, transitions moved by R177, and the free values drawn. -/
structure PlayAcc where
  prev : Nat
  last : Bool
  ball : Nat
  ddl : Bool := false
  moved : Bool := false
  lastMove : Instant
  clamps : Nat := 0
  drv : Path
  cmp : Path
  fails : Nat := 0
  firstFail : Option Nat := none
  shown : Option (Bool × Bool) := none
  vec : VecSeen := {}
  vecs : List VecSeen := []
  caps : List Nat := []
  reports : List SymReport := []
  outs : List Out := []
  drawn : Nat := 0
  deriving DecidableEq, Repr

/-- What the play of a word fixes for every symbol of a pin. `judge` is the pin whose comparator judges (R43, R190); `guard` the instant before which
no first transition may lie (R177), 0 for none; `calD` and `calC` the calibrated delays that T_REF takes in (R164). -/
structure PlaySet where
  pin : Nat
  judge : Nat
  word : VecWord
  palettes : Nat
  start : Instant
  period : Nat
  slot : Nat
  spv : Nat
  edges : Nat → Edges
  companion : Bool
  cmpTerm : Bool
  forced : Bool
  deltaPin : Bool
  deltaOn : Bool
  levels : Nat
  free : Nat → Nat
  format : Nat
  guard : Instant
  calD : Nat
  calC : Nat
  voh : Nat
  vol : Nat
  wave : List (Instant × Int)

/-- True for a symbol that strobes: expect symbols and CV (Table 3.4). -/
def strobes (sym : Nat) : Bool := sym == 4 || sym == 5 || sym == 6 || sym == 8 || sym == 10 || sym == 11

/-- The capture bits of a slot (Table 7.5). -/
def captureBits (format : Nat) (fail l h judged : Bool) : Nat :=
  if format == 0 then flag fail
  else if format == 1 then flag l + 2 * flag h
  else flag fail + 2 * flag l + 4 * flag h + 8 * flag judged

/-- What a symbol drives (Table 6.2, R44, R88 to R90): 0 or 1 a level, 2 driver off and terminated, 7 driver off with termination open, 12 the Delta stream. -/
def effective (c : PlaySet) (a : PlayAcc) (raw : Nat) : Nat :=
  let off := if c.cmpTerm then 2 else 7
  if raw ≤ 2 then raw
  else if raw == 3 then a.prev
  else if raw == 9 then (if a.last then 0 else 1)
  else if raw == 12 then (if !c.deltaPin then off else if c.deltaOn then 12 else 2)
  else off

/-- The ball path of a drive state: a companion-drive pin sends VT where its driver is off (Table 6.3). -/
def ballPath (companion : Bool) (st : Nat) : Nat := if companion && (st == 2 || st == 7) then 3 else st

/-- The stream symbols of the pin-clock periods that begin from `t` up to `stop` (R257), each with its instant: an output of the modulator in the alphabet of
Table 8.1, which is a free value, since the modulator's coefficients are not given (R255). -/
def streamOf (c : PlaySet) (drawn : Nat) (t stop : Instant) : List (Instant × Nat) :=
  let k := ceilDiv t 500
  (List.range (ceilDiv stop 500 - k)).map fun i => (500 * (k + i), c.free (drawn + i) % (if c.levels == 1 then 3 else 2))

/-- The transitions of R177: the first one of a word after a switch lies at 400 units after the last one before it, or later. -/
def guarded (guard : Instant) : List (Instant × Nat) → List (Instant × Nat)
  | [] => []
  | (t, v) :: l => (max t guard, v) :: l

/-- A driver transition as it is put out (R164, R171): x = t + DLY in pin-clock periods and steps, and its instant at the ball. -/
def placed (c : PlaySet) (dly : Nat) (e : Instant × Nat) : Out :=
  .edge c.pin ((e.1 + dly) / 500) ((e.1 + dly) % 500) (e.1 + dly + tRef - c.calD) e.2

/-- The driver takes transitions, those that change what the ball holds (Table 5.2); while the PPMU is connected, or the ball switch is open, nothing
moves at the ball, and `ball` is
what the driver goes back to (R203). -/
def PlayAcc.drive (c : PlaySet) (a : PlayAcc) (moves : List (Instant × Nat)) : PlayAcc :=
  let real := realMoves a.ball (moves.map fun e => (e.1, ballPath c.companion e.2))
  let ball := (real.getLast?.map (·.2)).getD a.ball
  if c.forced then { a with ball := ball }
  else
    let late := !a.moved && real.head?.any fun e => decide (e.1 < c.guard)
    let real := if late then guarded c.guard real else real
    { a with ball := ball, lastMove := (real.getLast?.map (·.1)).getD a.lastMove,
             moved := a.moved || !real.isEmpty, clamps := a.clamps + flag late, outs := a.outs ++ real.map (placed c a.drv.now) }

/-- The drive state follows the Delta stream (R89, R257). -/
def PlayAcc.stream (c : PlaySet) (a : PlayAcc) (t stop : Instant) : PlayAcc :=
  let l := streamOf c a.drawn t stop
  let a := a.drive c l
  { a with prev := (l.getLast?.map (·.2)).getD a.prev, last := l.foldl (fun h e => if e.2 == 2 then h else e.2 == 1) a.last,
           ddl := true, drawn := a.drawn + l.length }

/-- What the judging comparator shows over a slot's strobe window (R164, R171, R215): the voltages at the ball, one that is not known being free. -/
def strobeOf (c : PlaySet) (a : PlayAcc) (t : Instant) (e : Edges) : Strobed :=
  let opens := t + e.sopen + a.cmp.now + tRef - c.calC
  let closes := t + e.sclose + a.cmp.now + tRef - c.calC
  let v := (waveAt c.wave opens).getD ((c.free a.drawn : Int) - 500000000)
  { voh := c.voh, vol := c.vol, opens := opens, closes := closes,
    volts := (opens, v) :: c.wave.filter fun x => decide (opens < x.1) && decide (x.1 ≤ closes), short := c.free (a.drawn + 1) % 2 == 1 }

/-- A strobe of a symbol is taken and, but for CV, judged (R216, R218, R219). -/
def PlayAcc.judge (c : PlaySet) (a : PlayAcc) (raw v : Nat) (t : Instant) (e : Edges) : PlayAcc :=
  let s := strobeOf c a t e
  let edge := e.sopen == e.sclose
  let judged := raw ≠ 8
  let fail := judged && !verdict raw s edge
  let h := s.high s.last
  let l := s.low s.last
  { a with
    fails := a.fails + flag fail, firstFail := a.firstFail.or (if fail then some v else none), shown := some (l, h),
    vec := { strobed := true, judged := a.vec.judged || judged, failed := a.vec.failed || fail, lastH := h, close := max a.vec.close (t + e.sclose) },
    caps := (if wCapt c.word then captureBits c.format fail l h judged else 0) :: a.caps,
    reports := a.reports ++ (if edge && (raw == 10 || raw == 11) then [(Src.compareWindow, 0, t)] else []),
    outs := a.outs ++ [.strobe c.judge ((t + e.sopen + a.cmp.now) / 500) ((t + e.sopen + a.cmp.now) % 500) s.opens s.closes],
    drawn := a.drawn + 2 }

/-- What a symbol does to the driver: the stream of a DDL slot, or the transitions of its format, and the drive state (R89, R167). -/
def PlayAcc.driveSymbol (c : PlaySet) (a : PlayAcc) (raw : Nat) (t : Instant) (e : Edges) : PlayAcc :=
  let sym := effective c a raw
  if sym == 12 then a.stream c t (t + c.slot)
  else
    let a := a.drive c ((movesOf e sym).map fun x => (t + x.1, x.2))
    { a with prev := sym, last := if sym == 0 || sym == 1 then sym == 1 else a.last, ddl := false }

/-- One symbol slot of a pin is played. -/
def playSymbol (c : PlaySet) (a : PlayAcc) (n : Nat) : PlayAcc :=
  let v := n / c.spv
  let i := n % c.spv
  let t := c.start + v * c.period + i * c.slot
  let raw := wSymbol c.word c.palettes (n % (wSpan c.word + 1))
  let e := c.edges i
  let a := { a with drv := a.drv.at_ t, cmp := a.cmp.at_ t, vec := if i == 0 then {} else a.vec }
  let a := a.driveSymbol c raw t e
  let a := if decide (13 ≤ raw) || (raw == 12 && !c.deltaPin) then { a with reports := a.reports ++ [(Src.reservedSymbol, raw, t)] } else a
  let a := if wCmpen c.word && strobes raw then a.judge c raw v t e else { a with caps := 0 :: a.caps }
  { a with vecs := if i + 1 == c.spv then a.vec :: a.vecs else a.vecs }

/-- The passes that a command plays of a word: all of a REPEAT, else one (R94). -/
def passesOf (w : VecWord) : Nat := if wKind w == 1 then wCount w + 1 else 1

/-- The pin whose comparator judges pin p's symbols: the companion-return pin for a companion-drive pin (R43, R190). -/
def Dev.judgePin (m : Dev) (p : Nat) : Nat := if (m.pinDef p).role == 2 then p + 1 else p

/-- The drive-path and compare-path deskew of a pin as they stand (R178, R180). -/
def Dev.drvPath (m : Dev) (p : Nat) : Path :=
  ⟨m.get (F.PIN_DSK_STAT_DRV_NOW p), (clampInt 0 32767 (m.deskewTarget (F.PIN_DSK_DRV_CAL p) (m.inForce (Reg.PIN_DSK_DRV p) / 2 ^ 16))).toNat,
   (m.pin p).drvStep⟩
def Dev.cmpPath (m : Dev) (p : Nat) : Path :=
  ⟨m.get (F.PIN_DSK_STAT_CMP_NOW p), (clampInt 0 32767 (m.deskewTarget (F.PIN_DSK_CMP_CAL p) (m.inForce (Reg.PIN_DSK_CMP p) / 2 ^ 16))).toNat,
   (m.pin p).cmpStep⟩

/-- The deskew paths of a pin take what a play made of them: the applied delays and their WALK bits. -/
def Dev.setDrvPath (m : Dev) (p : Nat) (w : Path) : Dev :=
  ((m.put (F.PIN_DSK_STAT_DRV_NOW p) w.now).put (F.PIN_DSK_STAT_DRV_WALK p) (flag (w.now != w.target))).modPin p fun x => { x with drvStep := w.step }
def Dev.setCmpPath (m : Dev) (p : Nat) (w : Path) : Dev :=
  ((m.put (F.PIN_DSK_STAT_CMP_NOW p) w.now).put (F.PIN_DSK_STAT_CMP_WALK p) (flag (w.now != w.target))).modPin p fun x => { x with cmpStep := w.step }

/-- The play of pin p's word from an instant; `guard` is the instant before which its first transition may not lie (R177). -/
def Dev.playSet (m : Dev) (b p : Nat) (w : VecWord) (t guard : Instant) (l : List (Nat × Instant × Int)) : PlaySet :=
  let s := wTset w
  let q := m.judgePin p
  let k := p / 16
  { pin := p, judge := q, word := w, palettes := m.palettes p, start := t, period := m.period b s, slot := m.slotLen b s, spv := m.spv b s,
    edges := edgesIn m.inForce p s, companion := (m.pinDef p).role == 2, cmpTerm := m.getForce (F.PIN_FE_CTL_CMP_TERM p) == 1,
    forced := m.pmuClosed p t || m.ballOpen p, deltaPin := m.deltaPin k == some p,
    deltaOn := m.deltaPlays k, levels := m.get (F.DLT_CTL_LEVELS k),
    free := fun n => (Config.freeValue 32 (m.drawn + n)).toNat, format := m.get (F.BSN_CAP_CTL_FORMAT b), guard := guard,
    calD := m.get (F.PIN_DSK_DRV_CAL p), calC := m.get (F.PIN_DSK_CMP_CAL q), voh := m.playedLevel q 2, vol := m.playedLevel q 3,
    wave := (l.filter fun e => e.1 == q).map (·.2) }

/-- What a pin brings to the play of a word. -/
def Dev.playStart (m : Dev) (p : Nat) : PlayAcc :=
  let x := m.pin p
  { prev := x.prev, last := x.last, ball := x.ball, ddl := x.ddl, lastMove := x.lastMove, drv := m.drvPath p, cmp := m.cmpPath (m.judgePin p) }

/-- The first n symbols of a pin's word from an instant, in order. -/
def Dev.playPin (m : Dev) (b p : Nat) (w : VecWord) (t guard : Instant) (l : List (Nat × Instant × Int)) (n : Nat) : PlayAcc :=
  (List.range n).foldl (playSymbol (m.playSet b p w t guard l)) (m.playStart p)

/-- The instant before which a pin's first transition after a switch may not lie (R177); 0 where nothing has moved or no set is switched. -/
def Dev.guardOf (m : Dev) (p : Nat) (switch : Bool) : Instant := if switch && (m.pin p).lastMove != 0 then (m.pin p).lastMove + 400 else 0

/-- A pin keeps what a play made of its driver and its deskew paths, and the device puts out the transitions. -/
def Dev.keepPlay (m : Dev) (p : Nat) (a : PlayAcc) : Dev :=
  let m := { m with drawn := m.drawn + a.drawn, out := m.out ++ a.outs }
  let m := (m.setDrvPath p a.drv).setCmpPath (m.judgePin p) a.cmp
  m.modPin p fun x => { x with prev := a.prev, last := a.last, ball := a.ball, ddl := a.ddl, lastMove := a.lastMove }

/-- A slot that a COHERENT switch extends from `t` up to `stop` goes on with the Delta stream, where it played DDL (R257, Table 5.4). -/
def Dev.extendStream (m : Dev) (b p : Nat) (w : VecWord) (t stop : Instant) : Dev :=
  if (m.pin p).ddl && decide (t < stop) && m.deltaPlays (p / 16) then
    m.keepPlay p ((m.playStart p).stream (m.playSet b p w t 0 []) t stop)
  else m

/-- Transitions of a pin that R177 moved are flagged, counted and reported. -/
def Dev.edgeClamp (m : Dev) (p n : Nat) (t : Instant) : Dev :=
  if n = 0 then m
  else ((m.put (F.PIN_TG_STAT_EDGE_CLAMP p) 1).count (F.PIN_TG_STAT_CLAMP_CNT p) n).report Src.edgeSpacing p 0 t

/-- What a basin's vector gave, over its pins (R106, R219): coded judged + 2 × failed + 4 × (sets with a failure) + 64 × (sets whose
pattern matched). DESIGN CHOICE (log 100): PATTERN looks at unmasked pins only, so a vector in which only masked pins of a set strobed matches nothing. -/
def Dev.vectorCode (m : Dev) (l : List (Nat × VecSeen)) : Nat :=
  let unmasked := l.filter fun e => m.getForce (F.PIN_GAU_CTL_MASK e.1) == 0
  let inSet := fun (s p : Nat) => bitOf (m.getForce (F.PIN_GAU_CTL_SET p)) s
  let failSet := (List.range 4).foldl (fun n s => if unmasked.any (fun e => e.2.failed && inSet s e.1) then n + 2 ^ s else n) 0
  let pattern := (List.range 4).foldl (fun n s =>
    let strobing := unmasked.filter fun e => e.2.strobed && inSet s e.1
    if !strobing.isEmpty && strobing.all (fun e => flag e.2.lastH == m.getForce (F.PIN_GAU_CTL_PAT e.1)) then n + 2 ^ s else n) 0
  flag (l.any (·.2.judged)) + 2 * flag (unmasked.any (·.2.failed)) + 4 * failSet + 64 * pattern

/-- The fail records of a basin after a vector that failed (R220): counted, and the first one kept with its lowest-numbered pin. -/
def Dev.failVector (m : Dev) (b : Nat) (l : List (Nat × VecSeen)) (vcnt : Nat) : Dev :=
  let m := m.count (F.BSN_GAU_FAILVEC_COUNT b) 1
  if m.on (F.BSN_GAU_FIRST_VALID b) then m
  else
    let first := (l.find? fun e => e.2.failed && m.getForce (F.PIN_GAU_CTL_MASK e.1) == 0).map (·.1)
    let m := (m.put (F.BSN_GAU_FIRST_PIN b) (first.getD 0)).put (F.BSN_GAU_FIRST_VALID b) 1
    m.setPair (Reg.BSN_GAU_FFV_LO b) (Reg.BSN_GAU_FFV_HI b) vcnt

/-- One vector of a basin is over: its failures are counted and its result waits 20 ECLK after its last strobe closed (R106). -/
def Dev.closeVector (m : Dev) (b vcnt : Nat) (l : List (Nat × VecSeen)) : Dev :=
  let code := m.vectorCode l
  let m := if bitOf code 1 then m.failVector b l vcnt else m
  if l.any (·.2.strobed) then
    let due := l.foldl (fun n e => if e.2.strobed then max n e.2.close else n) 0 + 20 * eclk
    m.modBsn b fun x => { x with waiting := x.waiting ++ [(due, code)] }
  else m

/-- A pin's counters and registers after its symbols (R118, R220); its engine's drive state and minimum play time. -/
def Dev.endPin (m : Dev) (p : Nat) (a : PlayAcc) (vcnt vecs : Nat) (minPlay : Nat) : Dev :=
  let masked := m.getForce (F.PIN_GAU_CTL_MASK p) == 1
  let m := m.count (F.PIN_GAU_FAIL_COUNT p) a.fails
  let m := match (m.basinOf p) with
    | some b => if masked then m else m.count (F.BSN_GAU_FAILS_COUNT b) a.fails
    | none => m
  let m := match a.firstFail with
    | some v => if m.pair (Reg.PIN_GAU_FFV_LO p) (Reg.PIN_GAU_FFV_HI p) == 2 ^ 64 - 1 then
        m.setPair (Reg.PIN_GAU_FFV_LO p) (Reg.PIN_GAU_FFV_HI p) (vcnt + v) else m
    | none => m
  let m := match a.shown with
    | some (l, h) => (m.put (F.PIN_GAU_CMP_L p) (flag l)).put (F.PIN_GAU_CMP_H p) (flag h)
    | none => m
  let m := m.setPair (Reg.PIN_VCNT_LO p) (Reg.PIN_VCNT_HI p) (vcnt + vecs)
  (m.keepPlay p a).modPin p fun x => { x with minPlay := minPlay, nonPlay := 0 }

/-- The captured slots of a word over the judging pins of a basin (R229). -/
def capturedSlots (accs : List (Nat × PlayAcc)) (start : Instant) (period slot spv vcnt entry pass : Nat) : List CapSlot :=
  let cols := accs.map fun a => a.2.caps.reverse
  let n := (cols.map List.length).foldl max 0
  (List.range n).map fun k =>
    let t := start + k / spv * period + k % spv * slot
    { data := cols.map fun c => c.getD k 0, start := t, stop := t + slot, vcnt := vcnt + k / spv, slot := k % spv,
      entry := entry, pass := pass }

/-- New captured slots join the open record or the history (R233). -/
def CapX.take (c : CapX) (pre : Nat) (l : List CapSlot) : CapX :=
  let l := l.filter fun s => decide (c.since ≤ s.start)
  match c.opened with
  | some r => { c with opened := some { r with post := r.post ++ l } }
  | none => { c with history := (c.history.drop (c.history.length - pre)) ++ l }

end Sys2Proof.Machine
end

