-- ==== Sys2Proof/Machine/Gauge.lean ====
section
/-! DEFINITION. Gauge: crossbar edges (R221, R222), trigger sequencers (R223 to R227) and segmented capture (R229 to R239). -/

namespace Sys2Proof.Machine

/-! ## Sequencer conditions -/

/-- An occurrence of the condition `sel` with `param` at an instant is counted where the running sequencer's state asks for it: one in the
ECLK of the state's entry is lost, and an ECLK adds at most one (R224). -/
def Dev.occur (m : Dev) (q sel param : Nat) (t : Instant) : Dev :=
  let x := m.seq q
  if m.on (F.TSQ_STAT_RUNNING q) && m.seqSel q == (sel, param) && decide (x.entered / eclk < t / eclk) &&
      !(x.lastOcc.any fun u => u / eclk == t / eclk) then
    (m.count (F.TSQ_OCC_OCC q) 1).setSeq q { x with lastOcc := some t }
  else m

/-! ## Routes -/

/-- A rising edge reaches a destination (R105, R194, R224, Table 3.7). -/
def Dev.edgeAt (m : Dev) (e : Nat × Instant) : Dev :=
  if 0x1100 ≤ e.1 ∧ e.1 < 0x1900 then m.registerEvent ((e.1 - 0x1100) / 8) ((e.1 - 0x1100) % 8) (e.2 + 2 * eclk)
  else if 0x1900 ≤ e.1 ∧ e.1 < 0x1A00 then m.occur (e.1 - 0x1900) 6 0 (e.2 + 2 * eclk)
  else if 0x1A00 ≤ e.1 ∧ e.1 < 0x1B00 then m.loadStrobe (e.1 - 0x1A00) e.2
  else if 0x1B00 ≤ e.1 ∧ e.1 < 0x1B40 then m.occur (256 + (e.1 - 0x1B00) / 4) 7 ((e.1 - 0x1B00) % 4) e.2
  else m

/-- A source of the crossbar changes to a level at an instant: its destinations take the level, and a rising edge acts (R221). -/
def Dev.drive (m : Dev) (src : Nat) (t : Instant) (v : Bool) : Dev :=
  let m := m.spread src t v
  if v then m.each (m.reaches src t) Dev.edgeAt else m

/-- The marker lines of a basin take a value at a vector boundary (R114, R139). -/
def Dev.setMarks (m : Dev) (b v : Nat) (t : Instant) : Dev :=
  let was := (m.bsn b).marks
  let m := m.modBsn b fun x => { x with marks := v }
  m.each (List.range 4) fun m k =>
    if bitOf was k == bitOf v k then m
    else
      let m := if bitOf v k then m.occur b 4 k (eclkUp t + 2 * eclk) else m
      m.drive (0x0100 + 4 * b + k) t (bitOf v k)

/-- A rising or falling edge reaches an event or the TRIG condition input of a basin from its crossbar source (R105): line 0 to 7 an
event, 8 the TRIG condition; registered 2 ECLK after its arrival. -/
def Dev.lineEdge (m : Dev) (b line : Nat) (rise : Bool) (t : Instant) : Dev :=
  if !m.defined b then m
  else
    let e := (if line < 8 then 0x1100 + 8 * b + line else 0x1900 + b, t)
    let m := m.setLevel rise e
    if rise then m.edgeAt e else m

/-- An edge on a TRIG input ball (R222); a ball that a route drives is no input. -/
def Dev.trigEdge (m : Dev) (k : Nat) (rise : Bool) (t : Instant) : Dev :=
  if ((m.image.map (·.routes)).getD []).any fun r => r.1 == 0x1000 + k then m
  else (m.setWire (0x0500 + k) (flag rise)).drive (0x0500 + k) t rise

/-- An edge on an LDAC ball (R222): a falling edge is a rising edge of its source, since the crossbar presents the inverted level. -/
def Dev.ldacEdge (m : Dev) (k : Nat) (fall : Bool) (t : Instant) : Dev :=
  (m.setWire (0x0510 + k) (flag fall)).drive (0x0510 + k) t fall

/-! ## Trigger sequencers -/

/-- A sequencer enters a state at an instant (R224, R225, Table 7.4): occurrences 0, output after 1 ECLK, its state registered for COND 10
after 4 ECLK, and a capture trigger on its way for 2 ECLK where the state fires one. -/
def Dev.enterState (m : Dev) (q s : Nat) (t : Instant) : Dev :=
  let out := m.on (F.TSQ_COND_OUT q s)
  let was := m.on (F.TSQ_STAT_OUT q)
  let m := (m.put (F.TSQ_STAT_STATE q) s).setReg (Reg.TSQ_OCC q) 0
  let m := m.setSeq q { entered := t }
  let m := if q < 256 then
      let m := m.modBsn q fun x => { x with seqHist := timed x.seqHist (t + 4 * eclk, s) }
      if m.on (F.TSQ_COND_TRIGGER q s) then
        (m.bump (F.TSQ_TRIGS_TRIGS q)).modBsn q fun x => { x with triggers := x.triggers ++ [t + 2 * eclk] }
      else m
    else m
  let m := m.put (F.TSQ_STAT_OUT q) (flag out)
  if out == was then m else m.drive (seqSource q) (t + eclk) out

/-- The instant of the hit transition of sequencer q (R224): the occurrence with which the count reached COUNT. -/
def Dev.hitAt (m : Dev) (q : Nat) : Option Instant :=
  if (m.seqSel q).1 = 0 then none
  else if (m.seqSel q).1 = 1 then some ((m.seq q).entered / eclk * eclk + m.seqTarget q * eclk)
  else if m.seqTarget q ≤ m.get (F.TSQ_OCC_OCC q) then (m.seq q).lastOcc
  else none

/-- The instant of the time transition of sequencer q (R225); none where TIMER is 0. -/
def Dev.expireAt (m : Dev) (q : Nat) : Option Instant :=
  let n := m.get (F.TSQ_TIMER_TIMER q (m.get (F.TSQ_STAT_STATE q)))
  if n = 0 then none else some ((m.seq q).entered / eclk * eclk + n * eclk)

/-- SEQ_HIT: the count of the state has reached COUNT and the hit transition is taken (R224, R225). -/
def Dev.seqHit (m : Dev) (q : Nat) : Dev :=
  match m.hitAt q with
  | some t => if m.on (F.TSQ_STAT_RUNNING q) then m.enterState q (m.get (F.TSQ_COND_NEXT_HIT q (m.get (F.TSQ_STAT_STATE q)))) t else m
  | none => m

/-- SEQ_TIMER_EXPIRE: TIMER ECLK have passed and the time transition is taken, unless a hit has come by that ECLK (R225). -/
def Dev.seqTime (m : Dev) (q : Nat) : Dev :=
  match m.expireAt q with
  | some t =>
    if m.on (F.TSQ_STAT_RUNNING q) && !((m.hitAt q).any fun h => decide (h / eclk ≤ t / eclk)) then
      m.enterState q (m.get (F.TSQ_COND_NEXT_TIME q (m.get (F.TSQ_STAT_STATE q)))) t
    else m
  | none => m

/-- True where a state's condition is one that this kind of sequencer may hold, with its PARAM in range (Table 7.3). -/
def seqStateOk (globalSeq : Bool) (sel param : Nat) : Bool :=
  match sel with
  | 0 | 1 => param == 0
  | 2 | 5 => !globalSeq && decide (param < 4)
  | 3 | 6 => !globalSeq && param == 0
  | 4 => !globalSeq && decide (param < 4)
  | 7 => globalSeq && decide (param < 4)
  | 8 => decide (param < 36)
  | _ => false

/-- The lowest state of a sequencer that fails the check of R227. -/
def Dev.seqBad (m : Dev) (q : Nat) : Option Nat :=
  (List.range 8).find? fun s => !seqStateOk (decide (256 ≤ q)) (m.get (F.TSQ_COND_SEL q s)) (m.get (F.TSQ_COND_PARAM q s))

/-- A sequencer is enabled at the current boundary, or the enable is refused (R226, R227). -/
def Dev.seqStart (m : Dev) (q : Nat) : Dev :=
  match m.seqBad q with
  | some s => ((m.put (F.TSQ_CTL_ENABLE q) 0).put (F.TSQ_STAT_REFUSED q) 1).put (F.TSQ_STAT_ERR_STATE q) s
  | none =>
    let m := m.put (F.TSQ_CTL_ENABLE q) 1
    if 256 ≤ q || (m.bsn q).run.isSome then (m.put (F.TSQ_STAT_RUNNING q) 1).enterState q 0 m.now else m

/-- True where a sequencer is enabled and neither shutting down nor pending. -/
def Dev.seqEnabled (m : Dev) (q : Nat) : Bool :=
  m.on (F.TSQ_CTL_ENABLE q) && !m.on (F.TSQ_STAT_SHUTTING q) && !m.on (F.TSQ_STAT_PENDING q)

/-- TSQ_ENABLE (R227, R73). -/
def Dev.tsqEnable (m : Dev) (q : Nat) : Dev :=
  if m.on (F.TSQ_STAT_SHUTTING q) then (m.put (F.TSQ_CTL_ENABLE q) 1).put (F.TSQ_STAT_PENDING q) 1
  else if m.seqEnabled q then m else m.seqStart q

/-- TSQ_DISABLE (R227, R73): shutdown runs to the next tick boundary. -/
def Dev.tsqDisable (m : Dev) (q : Nat) : Dev :=
  let was := m.seqEnabled q
  let m := m.put (F.TSQ_CTL_ENABLE q) 0
  if was then m.put (F.TSQ_STAT_SHUTTING q) 1 else m.put (F.TSQ_STAT_PENDING q) 0

/-- TSQ_SHUTDOWN_DONE (R227): the output goes to 0, and a held enable is taken. -/
def Dev.tsqShutDone (m : Dev) (q : Nat) : Dev :=
  if !m.on (F.TSQ_STAT_SHUTTING q) then m
  else
    let m := (m.put (F.TSQ_STAT_SHUTTING q) 0).freezeSeq q m.now
    if m.on (F.TSQ_STAT_PENDING q) then (m.put (F.TSQ_STAT_PENDING q) 0).seqStart q else m

/-- A burst start lets an enabled basin sequencer enter state 0 (R226), its triggers counted afresh. -/
def Dev.startSeq (m : Dev) (b : Nat) (t : Instant) : Dev :=
  let m := m.setReg (Reg.TSQ_TRIGS b) 0
  if m.seqEnabled b then (m.put (F.TSQ_STAT_RUNNING b) 1).enterState b 0 (eclkUp t) else m

/-- GAU_TSQ_RESTART: an enabled global sequencer enters state 0 (R226). -/
def Dev.seqRestart (m : Dev) (g : Nat) : Dev :=
  if m.seqEnabled (256 + g) then m.enterState (256 + g) 0 m.now else m

/-- The occurrences of a registered vector result (Table 7.3, R224), 2 ECLK after it: FAIL_SET, PASS and PATTERN. -/
def Dev.vectorOccurs (m : Dev) (b code : Nat) (t : Instant) : Dev :=
  let t := eclkUp t + 2 * eclk
  let m := m.each (List.range 4) fun m s => if bitOf code (2 + s) then m.occur b 2 s t else m
  let m := if code % 4 == 1 then m.occur b 3 0 t else m
  m.each (List.range 4) fun m s => if bitOf code (6 + s) then m.occur b 5 s t else m

/-- VECTOR_RESULT: the oldest result that waits is registered (R106). -/
def Dev.vectorResult (m : Dev) (b : Nat) : Dev :=
  match (m.bsn b).waiting with
  | [] => m
  | (t, code) :: rest =>
    let m := m.modBsn b fun x => { x with waiting := rest, results := timed x.results (t, code) }
    let m := (m.put (F.BSN_FLOW_STAT_MATCH_PASS b) (flag (code % 4 == 1))).put (F.BSN_FLOW_STAT_MATCH_FAIL b) (flag (bitOf code 1))
    let m := if code % 4 == 1 then m.tellLeader b 11 t else if bitOf code 1 then m.tellLeader b 12 t else m
    m.vectorOccurs b code t

/-! ## Capture -/

/-- Bits per pin and slot of a FORMAT (Table 7.5). -/
def capBits (format : Nat) : Nat := if format == 0 then 1 else if format == 1 then 2 else 4

/-- PRE and POST of a basin. -/
def Dev.capPre (m : Dev) (b : Nat) : Nat := m.get (F.BSN_CAP_PRE_PRE b)
def Dev.capPost (m : Dev) (b : Nat) : Nat := m.get (F.BSN_CAP_POST_POST b)

/-- The largest number of judging pins that basin b has in one tributary. -/
def Dev.mostPins (m : Dev) (b : Nat) : Nat := (m.tribs b).foldl (fun n t => max n (m.lanesIn b t).length) 0

/-- LANE_UNITS (R230). -/
def Dev.laneUnits (m : Dev) (b : Nat) : Nat :=
  ceilDiv ((m.capPre b + m.capPost b) * m.mostPins b * capBits (m.get (F.BSN_CAP_CTL_FORMAT b))) 512

/-- The size of a record (R230). -/
def Dev.recordSize (m : Dev) (b : Nat) : Nat := 64 + (m.tribs b).length * m.laneUnits b * 64

/-- SEG_SIZE, NSEG and SEG_COUNT of the parameters written (R231, R234). -/
def Dev.segSize (m : Dev) (b : Nat) : Nat := 2 ^ m.get (F.BSN_CAP_SEG_SEG_LOG2 b)
def Dev.capSize (m : Dev) (b : Nat) : Nat := (m.part (m.bdef b).capturePart).size
def Dev.nseg (m : Dev) (b : Nat) : Nat := m.capSize b / m.segSize b
def Dev.segCount (m : Dev) (b : Nat) : Nat := ceilDiv (m.recordSize b) (m.segSize b)

/-- History units of basin b in tributary t (Table 7.6, PRE_SPACE). -/
def Dev.histUnits (m : Dev) (b t : Nat) : Nat :=
  ceilDiv (ceilDiv (m.capPre b * (m.lanesIn b t).length * capBits (m.get (F.BSN_CAP_CTL_FORMAT b))) 8) 64

/-- The arming check (Table 7.6): the first code that fails, 0 for none. -/
def Dev.armCode (m : Dev) (b : Nat) : Nat :=
  let log := m.get (F.BSN_CAP_SEG_SEG_LOG2 b)
  if (m.bdef b).capturePart == 0xFFFF then 0x01
  else if m.get (F.BSN_CAP_CTL_FORMAT b) == 3 then 0x02
  else if log < 12 ∨ 26 < log ∨ m.capSize b < m.segSize b then 0x03
  else if m.capPost b == 0 then 0x04
  else if 4096 < m.capPre b then 0x05
  else if (m.tribs b).any fun t => decide (512 < m.get (F.TRB_GAU_HIST_USED t) + m.histUnits b t) then 0x06
  else if m.segSize b < m.recordSize b ∧ !m.on (F.BSN_CAP_CTL_CHAIN b) then 0x07
  else if m.nseg b * m.segSize b < m.recordSize b ∨ 65535 < m.segCount b then 0x08
  else if 1048576 < m.get F.GAU_SEG_USED_SEGS + m.nseg b then 0x09
  else 0

/-- Capture of basin b is armed with the parameters written (R231, R232). -/
def Dev.capStart (m : Dev) (b : Nat) : Dev :=
  let n := m.nseg b
  let m := (m.put (F.BSN_CAP_CTL_ARM b) 1).put (F.BSN_CAP_STAT_ARMED b) 1
  let m := m.each [Reg.BSN_CAP_WR b, Reg.BSN_CAP_RD b, Reg.BSN_CAP_OCC b, Reg.BSN_CAP_SEQ b, Reg.BSN_CAP_MISSED b,
    Reg.BSN_CAP_LOST_LO b, Reg.BSN_CAP_LOST_HI b, Reg.BSN_CAP_OVWR b] fun m r => m.setReg r 0
  let m := ((m.put (F.BSN_CAP_NSEG_NSEG b) n).put (F.BSN_CAP_UNITS_LANE_UNITS b) (m.laneUnits b))
  let m := (m.put (F.BSN_CAP_GEOM_LANES b) (m.tribs b).length).put (F.BSN_CAP_GEOM_SEGS_PER_REC b) (m.segCount b)
  let m := m.put F.GAU_SEG_USED_SEGS (m.get F.GAU_SEG_USED_SEGS + n)
  let m := m.each (m.tribs b) fun m t => m.put (F.TRB_GAU_HIST_USED t) (m.get (F.TRB_GAU_HIST_USED t) + m.histUnits b t)
  m.modBsn b fun x => { x with
    cap := { base := (m.part (m.bdef b).capturePart).base, segSize := m.segSize b, since := x.cap.since, units := x.cap.units, burst := x.cap.burst } }

/-- Tries to arm capture (R232): armed, or refused with its code, which is answered. -/
def Dev.tryArm (m : Dev) (b : Nat) : Dev × Nat :=
  let c := m.armCode b
  if c == 0 then (m.capStart b, 0)
  else (((m.put (F.BSN_CAP_CTL_ARM b) 0).put (F.BSN_CAP_STAT_REFUSED b) 1).put (F.BSN_CAP_STAT_ARM_ERR b) c, c)

/-- True while parameter writes are ignored (R232). -/
def Dev.capBusy (m : Dev) (b : Nat) : Bool :=
  m.on (F.BSN_CAP_STAT_ARMED b) || m.on (F.BSN_CAP_STAT_PENDING b) || m.on (F.BSN_CAP_STAT_SHUTTING b)

/-- RING_MODE, CHAIN and FORMAT of a BSN_CAP_CTL write (R232): a change while capture is armed, pending or shutting is ignored. -/
def Dev.capFields (m : Dev) (b ctl : Nat) : Dev :=
  if bitsOf ctl 5 2 == bitsOf (m.reg (Reg.BSN_CAP_CTL b)) 5 2 then m
  else if m.capBusy b then m.put (F.BSN_CAP_STAT_CFG_IGNORED b) 1
  else m.setReg (Reg.BSN_CAP_CTL b) (setBits (m.reg (Reg.BSN_CAP_CTL b)) 5 2 (bitsOf ctl 5 2))

/-- CAPTURE_ARM by the host (R232, R73). -/
def Dev.captureArm (m : Dev) (b ctl : Nat) : Dev :=
  if !m.defined b then m
  else
    let m := m.capFields b ctl
    if m.on (F.BSN_CAP_STAT_SHUTTING b) then
      if m.on (F.BSN_CAP_STAT_PENDING b) then m
      else
        let m := (m.put (F.BSN_CAP_CTL_ARM b) 1).put (F.BSN_CAP_STAT_PENDING b) 1
        m.modBsn b fun x => { x with cap := { x.cap with burstArm := none } }
    else if m.on (F.BSN_CAP_STAT_ARMED b) then m
    else (m.tryArm b).1

/-- An ARM from the burst of a context, at the exchange point that delivers it (R232): the code that the completion carries, 0 where armed or
held. -/
def Dev.burstArm (m : Dev) (b ctx : Nat) : Dev × Nat :=
  if m.on (F.BSN_CAP_STAT_ARMED b) || m.on (F.BSN_CAP_STAT_PENDING b) then
    ((m.put (F.BSN_CAP_STAT_REFUSED b) 1).put (F.BSN_CAP_STAT_ARM_ERR b) 0x0A, 0x0A)
  else if m.on (F.BSN_CAP_STAT_SHUTTING b) then
    let m := (m.put (F.BSN_CAP_CTL_ARM b) 1).put (F.BSN_CAP_STAT_PENDING b) 1
    (m.modBsn b fun x => { x with cap := { x.cap with burstArm := some ctx } }, 0)
  else m.tryArm b

/-- Capture begins its disarm shutdown (R232). -/
def Dev.capShut (m : Dev) (b : Nat) : Dev :=
  let m := m.put (F.BSN_CAP_CTL_ARM b) 0
  if m.on (F.BSN_CAP_STAT_ARMED b) then
    ((m.endCapture b m.now).put (F.BSN_CAP_STAT_ARMED b) 0).put (F.BSN_CAP_STAT_SHUTTING b) 1
  else m.put (F.BSN_CAP_STAT_PENDING b) 0

/-- CAPTURE_DISARM by the host (R232, R73). -/
def Dev.captureDisarm (m : Dev) (b ctl : Nat) : Dev := if m.defined b then (m.capFields b ctl).capShut b else m

/-! ### Records -/

/-- The segments of records placed and not yet complete. -/
def Dev.placedSegs (m : Dev) (b : Nat) : Nat :=
  let c := (m.bsn b).cap
  (c.closed.length + (if c.opened.isSome then 1 else 0)) * m.get (F.BSN_CAP_GEOM_SEGS_PER_REC b)

/-- The segments of complete records that are not released (R231). -/
def Dev.heldSegs (m : Dev) (b : Nat) : Nat := m.get (F.BSN_CAP_OCC_OCC b) - m.placedSegs b

/-- RD moves forward by d segments, which are released (R231). -/
def Dev.release (m : Dev) (b d : Nat) : Dev :=
  let m := m.put (F.BSN_CAP_OCC_OCC b) (m.get (F.BSN_CAP_OCC_OCC b) - d)
  m.put (F.BSN_CAP_RD_RD b) ((m.get (F.BSN_CAP_RD_RD b) + d) % max 1 (m.get (F.BSN_CAP_NSEG_NSEG b)))

/-- Advances RD past the oldest complete record (R239, OVERWRITE). -/
def Dev.overwriteOne (m : Dev) (b : Nat) : Dev :=
  let k := m.get (F.BSN_CAP_GEOM_SEGS_PER_REC b)
  let h := m.heldSegs b
  (m.release b (if h % k = 0 then k else h % k)).bump (F.BSN_CAP_OVWR_OVWR b)

/-- The free segments of the ring (R231). -/
def Dev.freeSegs (m : Dev) (b : Nat) : Nat := m.get (F.BSN_CAP_NSEG_NSEG b) - m.get (F.BSN_CAP_OCC_OCC b)

/-- Room is made for a record in OVERWRITE mode: at most two of the oldest records hold the segments it needs. -/
def Dev.makeRoom (m : Dev) (b : Nat) : Dev :=
  let k := m.get (F.BSN_CAP_GEOM_SEGS_PER_REC b)
  let m := if m.freeSegs b < k then m.overwriteOne b else m
  if m.freeSegs b < k then m.overwriteOne b else m

/-- A trigger is missed (R235); two in one ECLK are one trigger (Table 7.8). -/
def Dev.missTrigger (m : Dev) (b : Nat) (t : Instant) : Dev :=
  if (m.bsn b).cap.missedAt == some (t / eclk) then m
  else
    let m := m.count (F.BSN_CAP_MISSED_MISSED b) 1
    m.modBsn b fun x =>
      let c := { x.cap with missedAt := some (t / eclk) }
      { x with cap := if c.finished then c else { c with missed := min (c.missed + 1) 0xFFFFFFFF } }

/-- DEAD_NS of a record whose history collection starts at an instant (R235). -/
def CapX.deadNs (c : CapX) (since : Instant) : Nat :=
  match c.lastEnd with
  | some e => min ((since - e) / 4000) 0xFFFFFFFE
  | none => 0xFFFFFFFF

/-- A record is placed at its trigger (R233, R239). -/
def Dev.placeRecord (m : Dev) (b tsrc : Nat) (t : Instant) : Dev :=
  let c := (m.bsn b).cap
  let t0 := t / eclk * eclk
  let before := c.history.filter fun s => decide (s.start < t0)
  let pre := before.drop (before.length - m.capPre b)
  let seg := (m.get (F.BSN_CAP_WR_WR b) + m.placedSegs b) % max 1 (m.get (F.BSN_CAP_NSEG_NSEG b))
  let r : CapRec :=
    { trigger := t0, tsrc := tsrc, ctx := c.burst, seg := seg, pre := pre, post := c.history.filter fun s => decide (t0 ≤ s.start),
      missed := c.missed, dead := c.deadNs c.since,
      underrun := c.underAt.any fun s => (pre.head?.map (·.start)).any fun h => decide (h ≤ s),
      stall := c.stallAt.any fun s => (pre.head?.map (·.start)).any fun h => decide (h ≤ s) }
  let m := m.put (F.BSN_CAP_OCC_OCC b) (m.get (F.BSN_CAP_OCC_OCC b) + m.get (F.BSN_CAP_GEOM_SEGS_PER_REC b))
  let m := m.put (F.BSN_CAP_STAT_OPEN b) 1
  m.modBsn b fun x => { x with cap := { x.cap with opened := some r, history := [], missed := 0, stallAt := none, underAt := none } }

/-- A trigger reaches the capture unit of basin b (R233, R235, R239, Table 7.8). One from the sequencer that comes after its burst's end has the next
captured slot for
its trigger slot as any other (R233); the record then names the burst of that slot. -/
def Dev.trigger (m : Dev) (b tsrc : Nat) (t : Instant) : Dev :=
  let c := (m.bsn b).cap
  if c.opened.any fun o => o.trigger / eclk == t / eclk then m
  else if c.finished then m.missTrigger b t
  else if !m.on (F.BSN_CAP_STAT_ARMED b) then m
  else if c.opened.isSome || m.on (F.BSN_CAP_STAT_REARM b) then m.missTrigger b t
  else
    let k := m.get (F.BSN_CAP_GEOM_SEGS_PER_REC b)
    if k ≤ m.freeSegs b then m.placeRecord b tsrc t
    else if m.on (F.BSN_CAP_CTL_RING_MODE b) && decide (k ≤ m.freeSegs b + m.heldSegs b) then
      (m.makeRoom b).placeRecord b tsrc t
    else (m.missTrigger b t).put (F.BSN_CAP_STAT_FULL b) 1

/-- CAPTURE_TRIGGER: the oldest trigger of the basin's sequencer reaches its capture unit (R225, R233, Table 7.4). -/
def Dev.captureTrigger (m : Dev) (b : Nat) : Dev :=
  match (m.bsn b).triggers with
  | [] => m
  | t :: rest => (m.modBsn b fun x => { x with triggers := rest }).trigger b 0 t

/-- FORCE_TRIG (R233): ignored where no burst runs. -/
def Dev.forceTrig (m : Dev) (b : Nat) : Dev :=
  if (m.bsn b).run.isNone then m.put (F.BSN_CAP_STAT_FORCE_IGNORED b) 1 else m.trigger b 1 m.now

/-! ### Drain space (R237) -/

/-- The bits of n captured slots in the lane of tributary t. -/
def Dev.slotBits (m : Dev) (b t n : Nat) : Nat := n * (m.lanesIn b t).length * capBits (m.get (F.BSN_CAP_CTL_FORMAT b))

/-- The slots from the trigger slot on that an open record has taken by an instant. -/
def CapRec.takenBy (r : CapRec) (post : Nat) (t : Instant) : Nat := ((r.kept post).filter fun s => decide (s.stop ≤ t)).length

/-- The bits that a record with n slots from the trigger slot on keeps in the drain space of tributary t, those that HBM has taken set aside. DEDUCED
(log 106): the
history of a record leaves its lane from the history space, before the slots that follow it, so that it fills no drain space. -/
def Dev.drainBits (m : Dev) (b t : Nat) (r : CapRec) (n : Nat) : Nat :=
  min (m.slotBits b t n) (m.slotBits b t (r.pre.length + n) - 512 * (r.units.lookup t).getD 0)

/-- The bits of basin b in the drain space of tributary t at an instant. -/
def Dev.drainOf (m : Dev) (b t : Nat) (at_ : Instant) : Nat :=
  let c := (m.bsn b).cap
  let n := c.closed.foldl (fun n r => n + m.drainBits b t r r.post.length) 0
  match c.opened with
  | some r => n + m.drainBits b t r (r.takenBy (m.capPost b) at_)
  | none => n

/-- The drain space of a basin in tributary t, in bits: 8 KiB for each of its judging pins there (R237). -/
def Dev.drainRoom (m : Dev) (b t : Nat) : Nat := 8 * 8192 * (m.lanesIn b t).length

/-- The first slot of the open record, counted from its trigger slot, that has ended by an instant and for which a lane's drain space has no room, with that
tributary (R237). -/
def Dev.overflowOf (m : Dev) (b : Nat) (r : CapRec) (at_ : Instant) : Option (Nat × Nat) :=
  (List.range (r.takenBy (m.capPost b) at_)).findSome? fun k =>
    ((m.tribs b).find? fun t =>
      let n := (m.bsn b).cap.closed.foldl (fun n c => n + m.drainBits b t c c.post.length) 0
      decide (m.drainRoom b t < n + m.drainBits b t r (k + 1))).map (k, ·)

/-- A captured slot that finds its drain space full by an instant is lost, and the record takes no further slots (R237). -/
def Dev.overflow (m : Dev) (b : Nat) (at_ : Instant) : Dev :=
  match (m.bsn b).cap.opened with
  | none => m
  | some r =>
    match (if r.cut.isSome then none else m.overflowOf b r at_) with
    | none => m
    | some (k, t) =>
      let m := m.modBsn b fun x => { x with cap := { x.cap with opened := some { r with cut := some k } } }
      (m.count (F.TRB_GAU_OVF_COUNT t) 1).report Src.captureOverflow b 0 ((r.post[k]?.map (·.start)).getD m.now)

/-- The units of a lane that HBM may take of a record by an instant (R230, R237): of a closed record the whole lane, of an open one the units that are full. -/
def Dev.laneReady (m : Dev) (b t : Nat) (closed : Bool) (r : CapRec) (at_ : Instant) : Nat :=
  if closed then m.get (F.BSN_CAP_UNITS_LANE_UNITS b)
  else m.slotBits b t (r.pre.length + r.takenBy (m.capPost b) at_) / 512

/-- HBM takes up to n more units of a record, lane by lane; what is left of n is answered. -/
def CapRec.drain (r : CapRec) (n : Nat) : List (Nat × Nat) → CapRec × Nat
  | [] => (r, n)
  | (t, ready) :: l =>
    let was := (r.units.lookup t).getD 0
    let k := min n (ready - was)
    CapRec.drain { r with units := (t, was + k) :: r.units.filter (·.1 != t) } (n - k) l

/-- The units of basin b that wait for HBM at an instant: those of its lanes (R237). -/
def Dev.capWaiting (m : Dev) (b : Nat) (at_ : Instant) : Nat :=
  let c := (m.bsn b).cap
  let of := fun (closed : Bool) (r : CapRec) =>
    (m.tribs b).foldl (fun n t => n + (m.laneReady b t closed r at_ - (r.units.lookup t).getD 0)) 0
  c.closed.foldl (fun n r => n + of true r) ((c.opened.map (of false)).getD 0)

/-- HBM takes n units of basin b's capture data by an instant, the oldest record's first (R237). -/
def Dev.drainUnits (m : Dev) (b n : Nat) (at_ : Instant) : Dev :=
  let c := (m.bsn b).cap
  let lanes := fun (closed : Bool) (r : CapRec) => (m.tribs b).map fun t => (t, m.laneReady b t closed r at_)
  let q := c.closed.foldl (fun (q : List CapRec × Nat) r => let d := r.drain q.2 (lanes true r); (q.1 ++ [d.1], d.2)) ([], n)
  let opened := c.opened.map fun r => (r.drain q.2 (lanes false r)).1
  m.modBsn b fun x => { x with cap := { x.cap with closed := q.1, opened := opened } }

/-- True once nothing of basin b is left in the drain space (R235). -/
def Dev.drained (m : Dev) (b : Nat) (at_ : Instant) : Bool := (m.tribs b).all fun t => m.drainOf b t at_ == 0

/-- The instant at which the drain space has emptied after an OVERFLOW is kept (R235). -/
def Dev.seeDrained (m : Dev) (b : Nat) : Dev :=
  if (m.bsn b).cap.lapsed && (m.bsn b).cap.emptied.isNone && m.drained b m.now then
    m.modBsn b fun x => { x with cap := { x.cap with emptied := some m.now } }
  else m

/-- RECORD_CLOSE: the open record closes after its POST-th slot, captured or lost (R234, R237). -/
def Dev.recordClose (m : Dev) (b : Nat) : Dev :=
  let m := m.overflow b (m.now + tickUnits)
  match (m.bsn b).cap.opened with
  | none => m
  | some r => if r.post.length < m.capPost b then m else m.closeRecord b r (r.post.drop (m.capPost b))

/-- REARM_COMPLETE: re-arm completes (R235): 496 ECLK after the record's last slot; after an OVERFLOW at an instant that lies 496 ECLK after the drain space has
emptied or later. -/
def Dev.rearmDone (m : Dev) (b : Nat) (t : Instant) : Dev :=
  let c := (m.bsn b).cap
  if !m.on (F.BSN_CAP_STAT_REARM b) || (c.lapsed && !c.emptied.any fun e => decide (e + 496 * eclk ≤ t)) then m
  else
    let m := m.put (F.BSN_CAP_STAT_REARM b) 0
    let since := if c.lapsed then max c.since t else c.since
    m.modBsn b fun x =>
      { x with cap := { x.cap with since := since, rearm := none, lapsed := false, history := x.cap.history.filter fun s => decide (since ≤ s.start) } }

/-- The bits of one lane of a record, as a number (R230). -/
def laneBits (slots : List CapSlot) (first n bits : Nat) : Nat :=
  (slots.flatMap fun s => (s.data.drop first).take n).foldr (fun v acc => v + acc * 2 ^ bits) 0

/-- The HBM address of byte x of a record (R231). -/
def CapX.at_ (c : CapX) (nseg seg x : Nat) : Nat := c.base + (seg + x / c.segSize) % nseg * c.segSize + x % c.segSize

/-- HBM takes the bytes of a record from byte x on. -/
def Dev.writeRecord (m : Dev) (c : CapX) (nseg seg : Nat) : Nat → List Byte → Dev
  | _, [] => m
  | x, v :: t => (m.setByte (c.at_ nseg seg x) v).writeRecord c nseg seg (x + 1) t

/-- The 64-byte header of a record (Table 7.7). -/
def Dev.recordHeader (m : Dev) (b : Nat) (r : CapRec) (seq : Nat) : List Byte :=
  let s := r.post.head?
  let t := (s.map (·.start)).getD r.trigger + tRef
  let segs := m.get (F.BSN_CAP_GEOM_SEGS_PER_REC b)
  let flags := flag r.truncated + 2 * flag r.overflow + 4 * flag r.underrun + 8 * flag r.stall +
    16 * flag (decide (r.pre.length < m.capPre b)) + 32 * flag (decide (1 < segs))
  leBytes 4 (m.stampNs t) ++ leBytes 1 (m.stampFrac t) ++ leBytes 1 flags ++ leBytes 1 (m.get (F.BSN_CAP_CTL_FORMAT b)) ++
  leBytes 1 (m.tribs b).length ++ leBytes 4 r.dead ++ leBytes 4 seq ++ leBytes 8 ((s.map (·.vcnt)).getD 0) ++
  leBytes 2 ((s.map (·.entry)).getD 0) ++ leBytes 1 ((s.map (·.slot)).getD 0) ++ leBytes 1 r.tsrc ++
  leBytes 4 ((s.map (·.pass)).getD 0) ++ leBytes 2 r.pre.length ++ leBytes 2 0 ++ leBytes 4 r.post.length ++ leBytes 5 r.lost ++
  leBytes 1 0 ++ leBytes 2 segs ++ leBytes 4 r.missed ++ leBytes 4 (m.get (F.BSN_CAP_UNITS_LANE_UNITS b)) ++ leBytes 4 r.ctx ++
  leBytes 4 0

/-- The lanes of a record (R230): tributaries in order, each with its first pin's place among the judging pins. -/
def Dev.recordLanes (m : Dev) (b : Nat) (r : CapRec) : List (List Byte) :=
  let bits := capBits (m.get (F.BSN_CAP_CTL_FORMAT b))
  (m.tribs b).map fun t =>
    let first := ((m.lanes b).filter fun p => decide (p / 16 < t)).length
    leBytes (m.get (F.BSN_CAP_UNITS_LANE_UNITS b) * 64) (laneBits (r.pre ++ r.post) first (m.lanesIn b t).length bits)

/-- RECORD_COMPLETE: the oldest closed record is in HBM, with the last units of its lanes and its header last; WR advances past it, and after RECORDS
records capture
disarms (R236, R238, R232). -/
def Dev.recordComplete (m : Dev) (b : Nat) : Dev :=
  let c := (m.bsn b).cap
  match c.closed with
  | [] => m
  | r :: rest =>
    let left := (m.tribs b).foldl (fun n t => n + (m.get (F.BSN_CAP_UNITS_LANE_UNITS b) - (r.units.lookup t).getD 0)) 1
    let n := max 1 (m.get (F.BSN_CAP_NSEG_NSEG b))
    let seq := m.reg (Reg.BSN_CAP_SEQ b)
    let head := m.recordHeader b r seq
    let m := m.writeRecord c n r.seg 64 (m.recordLanes b r).flatten
    let m := m.writeRecord c n r.seg 0 head
    let m := m.put (F.BSN_CAP_WR_WR b) ((m.get (F.BSN_CAP_WR_WR b) + m.get (F.BSN_CAP_GEOM_SEGS_PER_REC b)) % n)
    let m := m.setReg (Reg.BSN_CAP_SEQ b) (seq + 1)
    let m := (m.modBsn b fun x => { x with cap := { x.cap with closed := rest, units := x.cap.units + left } }).seeDrained b
    let k := m.get (F.BSN_CAP_RECS_RECORDS b)
    if k ≠ 0 ∧ seq + 1 = k ∧ m.on (F.BSN_CAP_STAT_ARMED b) then m.capShut b else m

/-- The code with which a held ARM from a burst was refused goes to that burst, wherever it stands (R232). -/
def Dev.tellArm (m : Dev) (b ctx code : Nat) : Dev :=
  let m := m.modRun b fun r => if r.ctx == ctx then { r with armCode := code } else r
  let m := m.modDeck b fun d => if d.ctx == ctx then { d with armCode := code } else d
  m.modBsn b fun x => { x with done := x.done.map fun d => if d.ctx == ctx then { d with armCode := code } else d }

/-- CAPTURE_SHUTDOWN_DONE: every closed record has drained and the shutdown completes; a held ARM is checked (R232). DESIGN CHOICE (log 101): until it
completes the basin
counts as armed in GAU_SEG_USED, TRB_GAU_HIST and the sums of Table 7.6. -/
def Dev.captureShutDone (m : Dev) (b : Nat) : Dev :=
  if !m.on (F.BSN_CAP_STAT_SHUTTING b) then m
  else
    let m := m.each (m.bsn b).cap.closed fun m _ => m.recordComplete b
    let m := m.put F.GAU_SEG_USED_SEGS (m.get F.GAU_SEG_USED_SEGS - m.get (F.BSN_CAP_NSEG_NSEG b))
    let m := m.each (m.tribs b) fun m t => m.put (F.TRB_GAU_HIST_USED t) (m.get (F.TRB_GAU_HIST_USED t) - m.histUnits b t)
    let m := (m.put (F.BSN_CAP_STAT_SHUTTING b) 0).put (F.BSN_CAP_STAT_REARM b) 0
    let burst := (m.bsn b).cap.burstArm
    let m := m.modBsn b fun x => { x with cap := { since := x.cap.since, units := x.cap.units, burst := x.cap.burst } }
    if m.on (F.BSN_CAP_STAT_PENDING b) then
      let r := (m.put (F.BSN_CAP_STAT_PENDING b) 0).tryArm b
      match burst with
      | some c => if r.2 == 0 then r.1 else r.1.tellArm b c r.2
      | none => r.1
    else m

/-- CAP_RD_WRITE (R231): a value reached from RD without passing WR releases the segments between; another sets RD_BAD. -/
def Dev.capRd (m : Dev) (b v : Nat) : Dev :=
  let v := v % 2 ^ 20
  let n := max 1 (m.get (F.BSN_CAP_NSEG_NSEG b))
  let d := (v + n - m.get (F.BSN_CAP_RD_RD b)) % n
  if (m.on (F.BSN_CAP_STAT_ARMED b) || m.on (F.BSN_CAP_STAT_SHUTTING b)) && decide (v < n) && decide (d ≤ m.heldSegs b) then
    m.release b d
  else m.put (F.BSN_CAP_STAT_RD_BAD b) 1

/-- Captured slots of a word join capture where it is armed (R229, R233). -/
def Dev.capTake (m : Dev) (b : Nat) (l : List CapSlot) : Dev :=
  if m.on (F.BSN_CAP_STAT_ARMED b) && !l.isEmpty then
    m.modBsn b fun x => { x with cap := x.cap.take (m.capPre b) l }
  else m

/-- A REFILL or COURSE stall falls in the record open or the history collecting (Table 7.8). -/
def Dev.capStall (m : Dev) (b : Nat) (t : Instant) : Dev :=
  m.modBsn b fun x => { x with cap := match x.cap.opened with
    | some r => { x.cap with opened := some { r with stall := true } }
    | none => { x.cap with stallAt := some t } }

/-- A SAMPLE shortage, or an ABORT underrun, falls in the record open or the history collecting (Table 7.7). -/
def Dev.capUnder (m : Dev) (b : Nat) (t : Instant) : Dev :=
  m.modBsn b fun x => { x with cap := match x.cap.opened with
    | some r => { x.cap with opened := some { r with underrun := true } }
    | none => { x.cap with underAt := some t } }

/-- History restarts at the start of a burst, or at re-arm where that is later (R233, Table 7.8). A record whose trigger came between bursts takes its
slots from this one. -/
def Dev.startCapture (m : Dev) (b ctx : Nat) (t : Instant) : Dev :=
  m.modBsn b fun x =>
    let since := max (x.cap.rearm.getD 0) t
    { x with cap := { x.cap with
        history := [], stallAt := none, underAt := none, since := since, burst := ctx,
        opened := x.cap.opened.map fun r => { r with ctx := ctx, dead := x.cap.deadNs since } } }

end Sys2Proof.Machine
end

