-- ==== Sys2Proof/Machine/Digitizer.lean ====
section
/-! DEFINITION. The general ADCs G00 to G31 and the reference-grade ADCs P0 to P3 (chapter 09). -/

namespace Sys2Proof.Machine

/-! ## Threshold flags (R277) -/

/-- Threshold flag n takes a value; a rising edge is an occurrence of SEL 8 at every sequencer, 4 ECLK after the result (Table 9.2). -/
def Dev.setFlag (m : Dev) (n : Nat) (v : Bool) (t : Instant) : Dev :=
  let r := if n < 32 then Reg.ADC_FLAGS_LO else Reg.ADC_FLAGS_HI
  let was := bitOf (m.reg r) (n % 32)
  let m := m.setReg r (setBits (m.reg r) (n % 32) (n % 32) (flag v))
  let m := if n < 32 then m.put (F.ADC_THR_FLAG n) (flag v) else m.put (F.P_STAT_FLAG (n - 32)) (flag v)
  if v && !was then m.each (List.range 272) fun m q => m.occur q 8 n (t + 4 * eclk) else m

/-! ## General ADCs -/

/-- The plausibility pair's even ADC (R278). -/
def pairOf (k : Nat) : Nat := k / 2 * 2

/-- The mask that a scan converts (R273, R278): bit 32 is forced where the pair's plausibility is enabled. -/
def Dev.scanMask (m : Dev) (k : Nat) : Nat :=
  let v := (m.adc k).mask
  if m.on (F.ADC_PLS_CTL_EN (pairOf k)) && !bitOf v 32 then v + 2 ^ 32 else v

/-- The inputs of a scan, rising. -/
def Dev.scanInputs (m : Dev) (k : Nat) : List Nat := onesOf 40 (m.scanMask k)

/-- DWELL of the value written (R273). -/
def Dev.dwellOf (m : Dev) (k : Nat) : Nat := m.get (F.ADC_DWELL_DWELL_M1 k) + 1

/-- The codes of Table 9.4 that MASK, DWELL and PERIOD fail, lowest first (codes 1, 2, 3 and 5). -/
def Dev.scanSetup (m : Dev) (k : Nat) : List Nat :=
  let l := m.scanInputs k
  let period := m.get (F.ADC_PERIOD_PERIOD k)
  (if l.isEmpty then [1] else []) ++ (if l.any fun i => decide (36 ≤ i) then [2] else []) ++
  (if m.dwellOf k < 16 then [3] else []) ++
  (if m.get (F.ADC_CTL_SRC k) = 1 ∧ period ≠ 0 ∧ period * 1024 < l.length * m.dwellOf k * 4 then [5] else [])

/-- The codes of Table 9.4 that a scan setup fails, lowest first. -/
def Dev.scanCodes (m : Dev) (k : Nat) : List Nat :=
  let src := m.get (F.ADC_CTL_SRC k)
  let c := m.scanSetup k ++ (if src = 3 then [4] else []) ++
    (if src = 2 ∧ !m.defined (m.get (F.ADC_CTL_BASIN k)) then [6] else [])
  sortBy (fun a b => decide (a ≤ b)) c

/-- A scan is stopped or refused with a code (Table 9.4). -/
def Dev.scanRefuse (m : Dev) (k code : Nat) : Dev := ((m.scanShut k m.now).put (F.ADC_STAT_REFUSED k) 1).put (F.ADC_STAT_ERR k) code

/-- A scan of ADC k starts at a conversion edge (R272, R273): not while one is in progress; before READY it waits;
a MASK or DWELL that breaks Table 9.4 stops scanning. `before` is the input just converted without a gap. -/
def Dev.scanStart (m : Dev) (k : Nat) (t : Instant) (before : Option Nat) : Dev :=
  if m.on (F.ADC_STAT_SCANNING k) then m.put (F.ADC_STAT_MISSED k) 1
  else if !m.on (F.ADC_STAT_READY k) then m.setAdc k { m.adc k with waiting := true }
  else match m.scanSetup k with
    | c :: _ => m.scanRefuse k c
    | [] =>
      (m.put (F.ADC_STAT_SCANNING k) 1).setAdc k { m.adc k with
        scan := m.scanInputs k, short := false, dwell := m.dwellOf k, dwellAt := t, before := before, lastStart := m.tick, waiting := false }

/-- Starts that waited for READY start at a tick boundary (R272). -/
def Dev.startWaiting (m : Dev) : Dev :=
  m.each (List.range 32) fun m k =>
    if (m.adc k).waiting && m.on (F.ADC_STAT_READY k) && m.on (F.ADC_STAT_SCAN_RUN k) then m.scanStart k m.now none else m

/-- RUN takes effect: the setup is checked, and scanning is enabled (R272). -/
def Dev.scanEnable (m : Dev) (k : Nat) : Dev :=
  match m.scanCodes k with
  | c :: _ => m.scanRefuse k c
  | [] =>
    let m := (m.put (F.ADC_CTL_RUN k) 1).put (F.ADC_STAT_SCAN_RUN k) 1
    if m.get (F.ADC_CTL_SRC k) == 1 then m.scanStart k m.now none else m

/-- True while writes of SRC, BASIN and PERIOD are ignored (R272). -/
def Dev.scanBusy (m : Dev) (k : Nat) : Bool :=
  m.on (F.ADC_CTL_RUN k) || m.on (F.ADC_STAT_SCAN_PENDING k) || m.on (F.ADC_STAT_SCAN_SHUTTING k)

/-- SRC and BASIN of an ADC_CTL write (R272). -/
def Dev.scanFields (m : Dev) (k ctl : Nat) : Dev :=
  if bitsOf ctl 3 2 == m.get (F.ADC_CTL_SRC k) && bitsOf ctl 15 8 == m.get (F.ADC_CTL_BASIN k) then m
  else if m.scanBusy k then m.put (F.ADC_STAT_CFG_IGNORED k) 1
  else (m.put (F.ADC_CTL_SRC k) (bitsOf ctl 3 2)).put (F.ADC_CTL_BASIN k) (bitsOf ctl 15 8)

/-- A PERIOD write (R272). -/
def Dev.periodWrite (m : Dev) (k v : Nat) : Dev :=
  if m.scanBusy k then m.put (F.ADC_STAT_CFG_IGNORED k) 1 else m.put (F.ADC_PERIOD_PERIOD k) v

/-- A write to ADC_MASK_HI commits the pair (R273). -/
def Dev.maskCommit (m : Dev) (k hi : Nat) : Dev :=
  let m := m.put (F.ADC_MASK_HI_MASK k) hi
  m.setAdc k { m.adc k with mask := m.reg (Reg.ADC_MASK_LO k) + 2 ^ 32 * m.get (F.ADC_MASK_HI_MASK k) }

/-- ADC_ENABLE (R271, R73): the channel powers at the tick boundary, or the enable is held. -/
def Dev.adcEnable (m : Dev) (k ctl : Nat) : Dev :=
  let m := (m.scanFields k ctl).put (F.ADC_CTL_ENABLE k) 1
  if m.on (F.ADC_STAT_SHUTTING k) then m.put (F.ADC_STAT_PENDING k) 1 else m.put (F.ADC_STAT_POWERED k) 1

/-- ADC_DISABLE (R271, R73): any scan shuts down, and the channel's shutdown begins. -/
def Dev.adcDisable (m : Dev) (k ctl : Nat) : Dev :=
  let m := (m.scanFields k ctl).put (F.ADC_CTL_ENABLE k) 0
  if m.on (F.ADC_STAT_SHUTTING k) || !m.on (F.ADC_STAT_POWERED k) then m.put (F.ADC_STAT_PENDING k) 0
  else (m.scanShut k m.now).put (F.ADC_STAT_SHUTTING k) 1

/-- ADC_POWER_DOWN (R271, R73): the channel powers down once no scan is in progress; a held enable is taken. -/
def Dev.adcPowerDown (m : Dev) (k : Nat) : Dev :=
  if !m.on (F.ADC_STAT_SHUTTING k) || m.on (F.ADC_STAT_SCANNING k) then m
  else
    let m := ((m.put (F.ADC_STAT_SHUTTING k) 0).put (F.ADC_STAT_POWERED k) 0).put (F.ADC_STAT_READY k) 0
    if m.on (F.ADC_STAT_PENDING k) then (m.put (F.ADC_STAT_PENDING k) 0).put (F.ADC_STAT_POWERED k) 1 else m

/-- GAIN and OFFS from the raw means of inputs 33 and 35, in sixteenths of a code (R276). -/
def gainOf (refUv r33 r35 : Int) : Int := if r33 ≤ r35 then 0 else roundDiv (32768 * refUv * 262144 * 16) ((r33 - r35).toNat * 10000000)
def offsOf (gain r35 : Int) : Int :=
  if gain ≤ 0 then 0 else roundDiv (r35 * gain * 10 - 16 * 131072 * 32768) (160 * gain.toNat)

/-- ADC_GAIN_ROUTINE (R276, R371): new coefficients from the raw means of inputs 33 and 35; those outside Table 13.3 are not taken. -/
def Dev.gainRoutine (m : Dev) (k r33 r35 : Nat) : Dev :=
  let g := gainOf (m.reg Reg.ADC_REF_VAL : Nat) r33 r35
  let o := offsOf g r35
  if g < 32440 ∨ 33096 < g ∨ o < -328 ∨ 328 < o then m.report Src.calPlausibility (2 * k) 0 m.now
  else (m.put (F.ADC_GAIN_GAIN k) g.toNat).put (F.ADC_OFFS_OFFS k) (ofSigned 16 o)

/-- ADC_READY (R271, R372): the gain routine has run on the powered channel, and READY sets. -/
def Dev.adcReady (m : Dev) (k r33 r35 : Nat) : Dev :=
  if m.on (F.ADC_STAT_POWERED k) && !m.on (F.ADC_STAT_SHUTTING k) && !m.on (F.ADC_STAT_READY k) then
    (m.gainRoutine k r33 r35).put (F.ADC_STAT_READY k) 1
  else m

/-- SCAN_RUN (R272, R73). -/
def Dev.scanRun (m : Dev) (k ctl : Nat) : Dev :=
  let m := m.scanFields k ctl
  if m.on (F.ADC_STAT_SCAN_SHUTTING k) then (m.put (F.ADC_CTL_RUN k) 1).put (F.ADC_STAT_SCAN_PENDING k) 1
  else if m.on (F.ADC_STAT_SCAN_RUN k) then m
  else m.scanEnable k

/-- SCAN_STOP (R272, R274): the write's SRC and BASIN meet RUN as it stands. -/
def Dev.scanStop (m : Dev) (k ctl : Nat) : Dev := (m.scanFields k ctl).scanShut k m.now

/-- SCAN_START_HOST (R272): one scan under SRC 0. -/
def Dev.scanStartHost (m : Dev) (k : Nat) : Dev :=
  if m.on (F.ADC_STAT_SCAN_RUN k) && m.get (F.ADC_CTL_SRC k) == 0 then m.scanStart k m.now none else m

/-- SCAN_START_PERIODIC (R272): PERIOD ticks after the previous start. -/
def Dev.scanStartPeriodic (m : Dev) (k : Nat) : Dev :=
  let n := m.get (F.ADC_PERIOD_PERIOD k)
  if m.on (F.ADC_STAT_SCAN_RUN k) && m.get (F.ADC_CTL_SRC k) == 1 && n != 0 && decide ((m.adc k).lastStart + n ≤ m.tick) then
    m.scanStart k m.now none
  else m

/-- SCAN_START_LOAD (R272): the first conversion edge at least DELAY ECLK after the ECLK of a LOAD strobe. -/
def Dev.scanStartLoad (m : Dev) (k : Nat) (strobe : Instant) : Dev :=
  if m.on (F.ADC_STAT_SCAN_RUN k) && m.get (F.ADC_CTL_SRC k) == 2 then
    m.scanStart k (ceilDiv (strobe / eclk * eclk + m.get (F.ADC_DWELL_DELAY k) * eclk) conversion * conversion) none
  else m

/-- The corrected mean of a dwell, limited, and whether it was limited (R268, R276): the raw mean in sixteenths of a code. -/
def Dev.corrected (m : Dev) (k raw : Nat) : Nat × Bool :=
  let o := toSigned 16 (m.get (F.ADC_OFFS_OFFS k))
  let c := roundDiv (((raw : Int) - 16 * o) * m.get (F.ADC_GAIN_GAIN k)) 524288
  ((clampInt 0 65535 c).toNat, decide (c < 0) || decide (65535 < c))

/-- A CHECK result is compared with its partner's latest (R278). -/
def Dev.plausible (m : Dev) (k value : Nat) (t : Instant) : Dev :=
  let e := pairOf k
  let o := if k == e then k + 1 else e
  let m := m.setAdc k { m.adc k with checkAt := some t }
  if !m.on (F.ADC_PLS_CTL_EN e) then m
  else
    let win := max 1 (m.get (F.ADC_PLS_CTL_WIN e))
    if (m.adc o).checkAt.any fun w => decide (t ≤ w + win * tickUnits) then
      let v := m.get (F.ADC_LAST_VALUE o 32)
      let d := max value v - min value v
      let m := m.put (F.ADC_PLS_STAT_DIFF e) d
      if m.get (F.ADC_PLS_CTL_LIMIT e) < d then
        let m := (m.put (F.ADC_PLS_STAT_FAIL e) 1).put (F.ADC_PLS_STAT_SUSPECT e) 1
        let m := m.setReg Reg.ADC_PLS_SUM (setBits (m.reg Reg.ADC_PLS_SUM) (k / 2) (k / 2) 1)
        m.report Src.adcPlausibility (k / 2) 0 t
      else m.put (F.ADC_PLS_STAT_SUSPECT e) 0
    else m.count (F.ADC_PLS_STAT_STALE e) 1

/-- A result joins the FIFO of 1,024 entries, or is dropped (R275). -/
def Dev.fifoPush (m : Dev) (k : Nat) (r : AdcRes) : Dev :=
  let x := m.adc k
  if 1024 ≤ x.fifo.length then (m.count (F.ADC_FIFO_STAT_DROPPED k) 1).setAdc k { x with gap := true }
  else
    (m.setAdc k { x with fifo := x.fifo ++ [{ r with gap := x.gap }], gap := false }).put (F.ADC_FIFO_STAT_LEVEL k) (x.fifo.length + 1)

/-- The pin whose PPMU measure node feeds input i of ADC k (R204, Table 9.1). -/
def nodePin (k i : Nat) : Nat := 32 * k + i

/-- The volts of a code of R191 or R268, in nV. -/
def codeVolts (c : Nat) : Int := (c : Int) * 2500000000 / 65536 - 500000000

/-- The voltage of a pin's PPMU measure node at an instant, in nV (R204, R270, Table 6.7). The quantity at its ball is the current out of it in pA in
FVMI, and else its voltage in
nV; a clamp in force holds it. With the switch open the node is at ground. -/
def Dev.nodeVolts (m : Dev) (p : Nat) (ball : Int) (t : Instant) : Int :=
  let full := fullScale (m.get (F.PIN_PMU_STAT_RANGE_NOW p))
  let most : Int := currentLimit (m.get (F.PIN_PMU_STAT_RANGE_NOW p))
  let mode := m.get (F.PIN_PMU_STAT_MODE_NOW p)
  if !m.pmuClosed p t then 0
  else if mode == 0 then 750000000 + clampInt (-most) most ball * 1000000000 / full
  else if m.fimvShut p then codeVolts (m.playedLevel p 1)
  else if mode == 1 then clampInt (codeVolts (m.playedLevel p 1)) (codeVolts (m.playedLevel p 0)) ball
  else ball

/-- True where the quantity at a pin's ball lies at or beyond what the PPMU's mode limits it to (Table 6.7). -/
def Dev.beyondClamp (m : Dev) (p : Nat) (ball : Int) : Bool :=
  let most : Int := currentLimit (m.get (F.PIN_PMU_STAT_RANGE_NOW p))
  match m.get (F.PIN_PMU_STAT_MODE_NOW p) with
  | 0 => decide (ball ≤ -most) || decide (most ≤ ball)
  | 1 => decide (ball ≤ codeVolts (m.playedLevel p 1)) || decide (codeVolts (m.playedLevel p 0) ≤ ball)
  | _ => false

/-- The voltage at input i of ADC k, in nV (Table 9.1): a PPMU measure node; the CHECK ball and the reference as they stand; the die temperature, given in
thousandths of a °C; or ground. -/
def Dev.inputVolts (m : Dev) (k i : Nat) (q : Int) (t : Instant) : Int :=
  if i < 32 then m.nodeVolts (nodePin k i) q t
  else if i = 34 then 400000000 + 5000 * q
  else if i = 35 then 0
  else q

/-- The raw mean in sixteenths of a code that a converter with the coefficients in force gives for a voltage in nV, but for its error (R268, R276). -/
def Dev.rawOf (m : Dev) (k : Nat) (v err : Int) : Int :=
  let gain := max 1 (m.get (F.ADC_GAIN_GAIN k))
  roundDiv ((v + 500000000) * (65536 * 16 * 32768)) (2500000000 * gain) + 16 * toSigned 16 (m.get (F.ADC_OFFS_OFFS k)) + err

/-- A clamp that the measured quantity shows to act, or to act no longer, is seen (R203, R204). -/
def Dev.seeClamp (m : Dev) (k i : Nat) (q : Int) (t : Instant) : Dev :=
  if i < 32 && m.pmuClosed (nodePin k i) t && decide (m.get (F.PIN_PMU_STAT_MODE_NOW (nodePin k i)) < 2) then
    m.dutClamp (nodePin k i) (m.beyondClamp (nodePin k i) q) t
  else m

/-- ADC_RESULT (R204, R268 to R278): the result of the oldest dwell is written. The quantity at the ball or sensor of its input was `q` over the
averaged samples, and `err` is what the
converter's noise and errors added to their mean, in sixteenths of a code (Table 18.6; log 108); `limit` tells whether a sample was at the converter's
limit. The next
input of the scan, or the next scan, is then the oldest. -/
def Dev.adcResult (m : Dev) (k : Nat) (q err : Int) (limit : Bool) : Dev :=
  let x := m.adc k
  match x.scan with
  | [] => m
  | i :: rest =>
    if !m.on (F.ADC_STAT_SCANNING k) then m
    else
      let stop := x.dwellAt + x.dwell * conversion
      let t := stop + 16 * conversion
      let first := if x.before == some i then x.dwellAt else x.dwellAt + 8 * conversion
      let m := m.seeClamp k i q first
      let raw := m.rawOf k (m.inputVolts k i q first) err
      let c := m.corrected k (clampInt 0 (65535 * 16) raw).toNat
      let clip := limit || c.2 || decide (raw ≤ 0) || decide (65535 * 16 ≤ raw)
      let m := if i = 32 then m.plausible k c.1 t else m
      let suspect := m.on (F.ADC_PLS_STAT_SUSPECT (pairOf k))
      let scans := m.get (F.ADC_STAT_SCANS k)
      let m := (m.put (F.ADC_LAST_VALUE k i) c.1).put (F.ADC_LAST_VALID k i) 1
      let m := (m.put (F.ADC_LAST_CLIP k i) (flag clip)).put (F.ADC_LAST_SUSPECT k i) (flag suspect)
      let m := m.put (F.ADC_LAST_SCAN k i) scans
      let m := m.fifoPush k ⟨m.stampNs first, c.1, i, clip, suspect, false, scans % 128⟩
      let m := if m.on (F.ADC_THR_EN k) && m.get (F.ADC_THR_INPUT k) == i then
          m.setFlag k (decide (c.1 < m.get (F.ADC_THR_LIM_LO k)) || decide (m.get (F.ADC_THR_LIM_HI k) < c.1)) t
        else m
      if m.on (F.ADC_STAT_SCAN_SHUTTING k) && rest.isEmpty then
        let m := (m.put (F.ADC_STAT_SCANNING k) 0).put (F.ADC_STAT_SCAN_SHUTTING k) 0
        let m := if (m.adc k).short then m else m.bump (F.ADC_STAT_SCANS k)
        let m := m.setAdc k { m.adc k with scan := [], before := none }
        if m.on (F.ADC_STAT_SCAN_PENDING k) then (m.put (F.ADC_STAT_SCAN_PENDING k) 0).scanEnable k else m
      else if rest.isEmpty then
        let m := (m.put (F.ADC_STAT_SCANNING k) 0).bump (F.ADC_STAT_SCANS k)
        let m := m.setAdc k { m.adc k with scan := [], before := none }
        if m.get (F.ADC_CTL_SRC k) == 1 && m.get (F.ADC_PERIOD_PERIOD k) == 0 then m.scanStart k stop (some i) else m
      else m.setAdc k { m.adc k with scan := rest, dwellAt := stop, before := some i }

/-- The 64 bits of a FIFO entry (Table 9.3). -/
def AdcRes.word (r : AdcRes) : Nat :=
  r.ns + 2 ^ 32 * r.value + 2 ^ 48 * r.input + 2 ^ 54 * flag r.clip + 2 ^ 55 * flag r.suspect + 2 ^ 56 * flag r.gap + 2 ^ 57 * r.scan

/-- The oldest entry of a FIFO as its 64 bits; LO 0 and INPUT 0x3F where it is empty (R275). -/
def Dev.fifoWord (m : Dev) (k : Nat) : Nat := ((m.adc k).fifo.head?.map AdcRes.word).getD (0x3F * 2 ^ 48)

/-- The oldest entry is removed (R275). -/
def Dev.fifoPop (m : Dev) (k : Nat) : Dev :=
  let x := m.adc k
  (m.setAdc k { x with fifo := x.fifo.drop 1 }).put (F.ADC_FIFO_STAT_LEVEL k) (x.fifo.length - 1)

/-- ADC_STAGE_TAKEOVER (R279, R280): the stage at POS is measured; `good` tells whether its trim lies within its plausible limits. -/
def Dev.stageTakeover (m : Dev) (k : Nat) (good : Bool) : Dev :=
  if !m.on (F.ADC_STAT_READY k) || m.get (F.ADC_CAL_RETIRED k) != 0xF then m
  else
    let x := m.adc k
    let pos := m.get (F.ADC_CAL_POS k)
    let n := if good then 0 else x.fails.getD pos 0 + 1
    let m := m.setAdc k { x with fails := x.fails.set pos n }
    let m := if good then m else m.report Src.adcStage k pos m.now
    if 3 ≤ n then
      let m := ({ m with rsv := { m.rsv with retired := m.rsv.retired ++ [(k, pos)] } }).recWrite Rec.stage k 0 (leBytes 4 pos)
      ((m.put (F.ADC_CAL_RETIRED k) pos).put (F.ADC_STAT_DEGRADED k) 1).report Src.adcDegraded k pos m.now
    else if pos = 13 then (m.put (F.ADC_CAL_POS k) 0).bump (F.ADC_CAL_ROUNDS k)
    else m.put (F.ADC_CAL_POS k) (pos + 1)

/-! ## Reference-grade ADCs (R281 to R284) -/

/-- True for a BUS_SEL that names a source (R281). -/
def busOk (n : Nat) : Bool :=
  n == 0 || n == 1 || (decide (0x010 ≤ n) && decide (n < 0x020)) || (decide (0x400 ≤ n) && decide (n < 0x800))

/-- The calibration session of a P ADC is discarded (R284). -/
def Dev.dropSession (m : Dev) (p : Nat) : Dev :=
  let x := m.padc p
  m.setPadc p { x with zero := none, full := none, lost := x.lost || x.zero.isSome || x.full.isSome }

/-- SRC, OSR, BUS_SEL and THR_EN of a P_CTL write (R281, R284): SETTLED clears at a change, and a change of SRC or OSR discards the
session; clearing THR_EN clears the flag (R277). -/
def Dev.padcFields (m : Dev) (p ctl : Nat) : Dev :=
  let old := m.reg (Reg.P_CTL p)
  let input := bitsOf ctl 2 1 != bitsOf old 2 1 || bitsOf ctl 3 3 != bitsOf old 3 3
  let change := input || bitsOf ctl 26 16 != bitsOf old 26 16
  let m := (m.put (F.P_CTL_OSR p) (bitsOf ctl 2 1)).put (F.P_CTL_SRC p) (bitsOf ctl 3 3)
  let m := (m.put (F.P_CTL_THR_EN p) (bitsOf ctl 4 4)).put (F.P_CTL_BUS_SEL p) (bitsOf ctl 26 16)
  let m := if bitOf ctl 4 then m else m.setFlag (32 + p) false m.now
  let m := if change then (m.put (F.P_STAT_SETTLED p) 0).setPadc p { m.padc p with results := 0 } else m
  if input then m.dropSession p else m

/-- A P ADC starts to convert at the tick boundary (R281). -/
def Dev.padcStart (m : Dev) (p : Nat) : Dev :=
  ((m.put (F.P_CTL_ENABLE p) 1).put (F.P_STAT_RUNNING p) 1).put (F.P_STAT_SETTLED p) 0 |>.setPadc p { m.padc p with results := 0 }

/-- P_ADC_DISABLE (R281, R284, R73). -/
def Dev.padcDisable (m : Dev) (p ctl : Nat) : Dev :=
  let m := (m.padcFields p ctl).put (F.P_CTL_ENABLE p) 0
  if m.on (F.P_STAT_RUNNING p) && !m.on (F.P_STAT_SHUTTING p) then
    ((m.put (F.P_STAT_SHUTTING p) 1).put (F.P_STAT_SETTLED p) 0).dropSession p
  else m.put (F.P_STAT_PENDING p) 0

/-- P_ADC_ENABLE (R281, R73): a BUS_SEL that names no source refuses the enable; the write's other fields are taken. DESIGN CHOICE (log 109): on a
running converter the
refused enable leaves ENABLE 0, and it shuts down. -/
def Dev.padcEnable (m : Dev) (p ctl : Nat) : Dev :=
  if !busOk (bitsOf ctl 26 16) then (m.padcDisable p ctl).put (F.P_STAT_REFUSED p) 1
  else
    let m := m.padcFields p ctl
    if m.on (F.P_STAT_SHUTTING p) then (m.put (F.P_CTL_ENABLE p) 1).put (F.P_STAT_PENDING p) 1
    else if m.on (F.P_STAT_RUNNING p) then m
    else m.padcStart p

/-- P_ADC_SHUTDOWN_DONE (R281, R73). -/
def Dev.padcShutDone (m : Dev) (p : Nat) : Dev :=
  if !m.on (F.P_STAT_SHUTTING p) then m
  else
    let m := (m.put (F.P_STAT_SHUTTING p) 0).put (F.P_STAT_RUNNING p) 0
    if m.on (F.P_STAT_PENDING p) then (m.put (F.P_STAT_PENDING p) 0).padcStart p else m

/-- The voltage that P ADC p converts, in nV (R281): REFIN's difference or, over the measure bus, ground, the reference, a CHECK ball, or the measure
node of a pin. -/
def Dev.padcVolts (m : Dev) (p : Nat) (q : Int) (t : Instant) : Int :=
  let n := m.get (F.P_CTL_BUS_SEL p)
  if !m.on (F.P_CTL_SRC p) then q
  else if n == 0 then 0
  else if 0x400 ≤ n then m.nodeVolts (n - 0x400) q t
  else q

/-- The raw 24-bit result for a voltage in nV, but for the converter's error (R282): at most what 24 bits hold. -/
def Dev.padcRaw (m : Dev) (p : Nat) (v err : Int) : Int :=
  clampInt (-8388608) 8388607
    (roundDiv (v * 2 ^ 53) (2500000000 * max 1 (m.reg (Reg.P_GAIN p))) + toSigned 24 (m.get (F.P_OFFS_OFFS p)) + err)

/-- P_ADC_RESULT (R277, R281, R282): a result of the quantity `q` at the converter's input, stamped at its last modulator sample; `err` is what the
converter's noise and errors
add to the raw result (Table 18.7; log 108). -/
def Dev.padcResult (m : Dev) (p : Nat) (q err : Int) (t : Instant) : Dev :=
  if !m.on (F.P_STAT_RUNNING p) || m.on (F.P_STAT_SHUTTING p) then m
  else
    let v := roundDiv ((m.padcRaw p (m.padcVolts p q t) err - toSigned 24 (m.get (F.P_OFFS_OFFS p))) * m.reg (Reg.P_GAIN p)) (2 ^ 30)
    let c := clampInt (-8388607) 8388607 v
    let n := (m.padc p).results + 1
    let m := m.setPadc p { m.padc p with results := n }
    let m := (m.put (F.P_RES_LO_VALUE p) (ofSigned 24 c)).put (F.P_RES_LO_CLIP p) (flag (c != v))
    let m := (m.put (F.P_RES_HI_TS_NS p) (m.stampNs t)).bump (F.P_STAT_RESULTS p)
    let m := if 3 ≤ n then m.put (F.P_STAT_SETTLED p) 1 else m
    if m.on (F.P_CTL_THR_EN p) then
      m.setFlag (32 + p) (decide (c < toSigned 24 (m.get (F.P_THR_LO_LO p))) || decide (toSigned 24 (m.get (F.P_THR_HI_HI p)) < c)) t
    else m

/-! ### System calibration (R283, R284) -/

/-- The largest number whose square does not exceed n. -/
def isqrt (n : Nat) : Nat :=
  (List.range 40).foldl (fun r i => if (r + 2 ^ (39 - i)) * (r + 2 ^ (39 - i)) ≤ n then r + 2 ^ (39 - i) else r) 0

/-- The sum of 64 results, and 64 times their standard deviation, rounded down. -/
def sumOf (l : List Int) : Int := l.foldl (· + ·) 0
def spreadOf (l : List Int) : Nat := isqrt ((64 * l.foldl (fun n x => n + x * x) 0 - sumOf l * sumOf l).toNat)

/-- Starts a PADC_SYSCAL step in a slot and makes the checks that come first (R283, Table 9.6): the ADC where the step may go on. -/
def Dev.syscalStart (m : Dev) (s : Nat) (irq : Bool) (step : Nat) : Dev × Option Nat :=
  let r := m.opStart s Op.syscal irq Err.busy
  if !r.2 then (r.1, none)
  else
    let p := bitsOf (r.1.param s 0) 3 0
    let st := bitsOf (r.1.param s 0) 11 8
    if 3 < p then (r.1.opEnd s 0x01, none)
    else if 3 < st then (r.1.opEnd s 0x02, none)
    else if !r.1.on (F.P_CTL_ENABLE p) || !r.1.on (F.P_STAT_RUNNING p) || r.1.on (F.P_CTL_SRC p) then (r.1.opEnd s 0x03, none)
    else if st ≠ step then (r.1, none)
    else (r.1, some p)

/-- The applied value of a step in µV. -/
def Dev.syscalValue (m : Dev) (s : Nat) : Int := toSigned 32 (m.param s 1)

/-- The mean and the standard deviation of a step's 64 results go to the result buffer, each rounded to codes in 8 bytes. -/
def Dev.syscalBuffer (m : Dev) (s : Nat) (l : List Int) : Dev :=
  let m := m.setMem (resultBase s) 8 (ofSigned 64 (roundDiv (sumOf l) 64))
  (m.setMem (resultBase s + 8) 8 (spreadOf l / 64)).partialCount s 2

/-- The check of a ZERO or FULL step's value and results (Table 9.6): the error, 0 for none. -/
def Dev.syscalStepErr (m : Dev) (s : Nat) (l : List Int) : Nat :=
  let v := m.syscalValue s
  if v < -2400000 ∨ 2400000 < v then 0x04
  else if 67 * 67 * 4096 < 64 * l.foldl (fun n x => n + x * x) 0 - sumOf l * sumOf l then 0x05
  else 0

/-- A session begins with its first step (R284). -/
def Dev.sessionBegin (m : Dev) (p : Nat) : Dev :=
  let x := m.padc p
  if x.zero.isNone && x.full.isNone then m.setPadc p { x with since := m.tick, lost := false } else m

/-- PADC_SYSCAL_ZERO and PADC_SYSCAL_FULL with the 64 raw results that the step averaged. -/
def Dev.syscalZero (m : Dev) (s : Nat) (irq : Bool) (l : List Int) : Dev :=
  match m.syscalStart s irq 0 with
  | (m, none) => m
  | (m, some p) =>
    let e := m.syscalStepErr s l
    if e == 0x04 then m.opEnd s e
    else
      let m := m.syscalBuffer s l
      if e ≠ 0 then m.opEnd s e
      else ((m.sessionBegin p).setPadc p { (m.sessionBegin p).padc p with zero := some (sumOf l, m.syscalValue s) }).opEnd s 0

def Dev.syscalFull (m : Dev) (s : Nat) (irq : Bool) (l : List Int) : Dev :=
  match m.syscalStart s irq 1 with
  | (m, none) => m
  | (m, some p) =>
    let e := m.syscalStepErr s l
    if e == 0x04 then m.opEnd s e
    else
      let m := m.syscalBuffer s l
      if e ≠ 0 then m.opEnd s e
      else ((m.sessionBegin p).setPadc p { (m.sessionBegin p).padc p with full := some (sumOf l, m.syscalValue s) }).opEnd s 0

/-- P_GAIN and P_OFFS from a session (R283); 0 stands for a gain that the quotient does not give. -/
def syscalGain (z f : Int × Int) : Int :=
  if f.1 ≤ z.1 then 0 else roundDiv (2 ^ 30 * 64 * 100000000 * (f.2 - z.2)) ((f.1 - z.1).toNat * 29802322)
def syscalOffs (z : Int × Int) (gain : Int) : Int :=
  if gain ≤ 0 then 0 else roundDiv (z.1 * 29802322 * gain - z.2 * 100000000 * 2 ^ 30 * 64) (64 * 29802322 * gain.toNat)

/-- PADC_SYSCAL_COMMIT (R283): the coefficients are computed, checked and stored; `stored` tells whether the Reservoir write was good. They
come into force at the next tick boundary. -/
def Dev.syscalCommit (m : Dev) (s : Nat) (irq stored : Bool) : Dev :=
  match m.syscalStart s irq 2 with
  | (m, none) => m
  | (m, some p) =>
    let x := m.padc p
    match x.zero, x.full with
    | some z, some f =>
      let g := syscalGain z f
      let o := syscalOffs z g
      if f.2 - z.2 < 1500000 then m.opEnd s 0x07
      else if g < 1063004406 ∨ 1084479242 < g then (m.report Src.pCalibration p 0 m.now).opEnd s 0x08
      else if o < -16777 ∨ 16777 < o then (m.report Src.pCalibration p 0 m.now).opEnd s 0x09
      else if !stored then ((m.put F.RSV_STAT_WRITE_ERR 1).report Src.reservoirWrite 0x11 0 m.now).opEnd s 0x0B
      else
        let m := m.recWrite Rec.padc p 0 (leBytes 4 g.toNat ++ leBytes 4 (ofSigned 24 o))
        let m := m.setPadc p { x with zero := none, full := none, next := some (g.toNat, ofSigned 24 o) }
        let m := { m with rsv := { m.rsv with padc := m.rsv.padc.filter (fun (e : Nat × Nat × Nat) => e.1 != p) ++ [(p, g.toNat, ofSigned 24 o)] } }
        let m := (m.setMem (resultBase s) 8 g.toNat).setMem (resultBase s + 8) 8 (ofSigned 64 o)
        (m.partialCount s 2).opEnd s 0
    | _, _ => (m.setPadc p { x with lost := false }).opEnd s (if x.lost then 0x0A else 0x06)

/-- PADC_SYSCAL_DISCARD (R284). -/
def Dev.syscalDiscard (m : Dev) (s : Nat) (irq : Bool) : Dev :=
  match m.syscalStart s irq 3 with
  | (m, none) => m
  | (m, some p) => (m.dropSession p).opEnd s 0

/-- PADC_SESSION_EXPIRE (R284): 600 s, 585,937,500 ticks, after the first step the session is discarded. -/
def Dev.sessionExpire (m : Dev) (p : Nat) : Dev := if (m.padc p).since + 585937500 ≤ m.tick then m.dropSession p else m

/-- Coefficients that were committed come into force (R283). -/
def Dev.takePadc (m : Dev) : Dev :=
  m.each (List.range 4) fun m p =>
    match (m.padc p).next with
    | some (g, o) =>
      let m := ((m.put (F.P_GAIN_GAIN p) g).put (F.P_OFFS_OFFS p) o).put (F.P_STAT_UNCAL p) 0
      m.setPadc p { m.padc p with next := none }
    | none => m

end Sys2Proof.Machine
end

