-- ==== Sys2Proof/Machine/Calibration.lean ====
section
/-! DEFINITION. Calibration of the tributaries (chapter 13): due kinds, gathers, outages, checks, and factory interpolation. -/

namespace Sys2Proof.Machine

/-! ## Coefficients (Table 13.1, Table 13.11) -/

/-- The coefficients of a pin by number: 0 to 5 level gains, 6 to 11 level offsets, 12 and 13 comparator offsets H and L, 14 drive CAL, 15
compare CAL, 16 to 20 and 21 to 25 force-current gains and offsets, 26 to 30 and 31 to 35 measure-current gains and offsets, and 36 the
tributary's Delta offset. -/
def coefField (p c : Nat) : Fld :=
  if c < 6 then F.PIN_CAL_LVL_GAIN p c
  else if c < 12 then F.PIN_CAL_LVL_OFFS p (c - 6)
  else if c = 12 then F.PIN_CAL_CMP_H p
  else if c = 13 then F.PIN_CAL_CMP_L p
  else if c = 14 then F.PIN_DSK_DRV_CAL p
  else if c = 15 then F.PIN_DSK_CMP_CAL p
  else if c < 21 then F.PIN_CAL_PMUI_GAIN p (c - 16)
  else if c < 26 then F.PIN_CAL_PMUI_OFFS p (c - 21)
  else if c < 31 then F.PIN_CAL_PMUM_GAIN p (c - 26)
  else if c < 36 then F.PIN_CAL_PMUM_OFFS p (c - 31)
  else F.TRB_CAL_DLT_OFFS (p / 16)

/-- The coefficients of a pin that a kind writes (Table 13.1): kinds 0 LEVELS, 1 DESKEW, 2 PPMU. -/
def coefsOf (kind : Nat) : List Nat :=
  if kind = 0 then (List.range 14) else if kind = 1 then [14, 15] else (List.range 20).map (· + 16)

/-- The kind that a coefficient belongs to. -/
def kindOf (c : Nat) : Nat := if c < 14 ∨ c = 36 then 0 else if c < 16 then 1 else 2

/-- The temperature sets of the factory area, in 0.125 °C (Table 13.4). -/
def setTemps : List Int := [120, 280, 440, 600, 760]

/-- A pin's factory interpolation of a coefficient at temperature t (R377). -/
def factoryAt (p c : Nat) (t : Int) : Int :=
  let t := clampInt 120 760 t
  let k := (setTemps.filter (· ≤ t)).length - 1
  let lo := Config.factoryValue k p c
  let hi := Config.factoryValue (min 4 (k + 1)) p c
  lo + roundDiv ((hi - lo) * (t - setTemps.getD k 120)) 160

/-- The interpolated coefficient, or its nominal value where no factory record is valid (R376): CAL 1,400 and every trim 0. -/
def Dev.factoryCoef (m : Dev) (p c : Nat) (t : Int) : Int :=
  if m.on F.RSV_STAT_FACTORY_OK then factoryAt p c t else if c = 14 ∨ c = 15 then 1400 else 0

/-- The mean temperature of a tributary (T_MEAN). -/
def Dev.meanTemp (m : Dev) (t : Nat) : Int := toSigned 12 (m.get (F.TRB_CAL_T1_T_MEAN t))

/-- The measured value of a coefficient in Reservoir's copy in use. -/
def Dev.measured? (m : Dev) (p c : Nat) : Option Int := m.rsv.measured.lookup (64 * p + c)

/-- True where pin p takes a kind's coefficients from factory interpolation (R376, R377, RSV_CAL_CTL.FACTORY). -/
def Dev.onFactory (m : Dev) (p kind : Nat) : Bool :=
  m.on F.RSV_CAL_CTL_FACTORY || (coefsOf kind).any fun c => (m.measured? p c).isNone

/-- The coefficient that pin p ought to have in force: measured, or factory interpolation at the tributary's mean. -/
def Dev.coefWanted (m : Dev) (p c : Nat) : Int :=
  let factory := if c = 36 then m.on F.RSV_CAL_CTL_FACTORY || (m.measured? p 36).isNone else m.onFactory p (kindOf c)
  if factory then m.factoryCoef p c (m.meanTemp (p / 16)) else (m.measured? p c).getD 0

/-- True where a measured coefficient passes Table 13.3. -/
def Dev.plausibleCoef (m : Dev) (p c : Nat) (v : Int) : Bool :=
  let a := v.natAbs
  if c < 6 then decide (a ≤ 5243)
  else if c < 12 then decide (a ≤ 2097)
  else if c < 14 then decide (a ≤ 8388)
  else if c < 16 then
    decide ((v - m.factoryCoef p c (m.meanTemp (p / 16))).natAbs ≤ 200) && decide (0 ≤ v) && decide (v ≤ 32767)
  else if c < 21 ∨ (26 ≤ c ∧ c < 31) then decide (a ≤ 10486)
  else if c = 36 then decide (a ≤ 4194)
  else decide (a ≤ 5243)

/-- True where a USER value of a path takes effect at the same boundary as a CAL value that comes now, after it (R182): a write that the tick boundary
carries out, or
that of a burst which starts there. -/
def Dev.userFollows (m : Dev) (p : Nat) (cmp chained : Bool) : Bool :=
  let r := if cmp then Reg.PIN_DSK_CMP p else Reg.PIN_DSK_DRV p
  let starts := chained || (m.basinOf p).any fun b => (m.bsn b).deck.any fun d => d.startTick == some m.tick
  (!m.pinRuns p && m.delivered.any fun e => e.1 == r) || (starts && m.deckReg r / 2 ^ 16 != m.inForce r / 2 ^ 16)

/-- A coefficient comes into force (R365, R372): a CAL value is reached by a walk, one with that of a USER value of the same boundary. -/
def Dev.putCoef (m : Dev) (chained : Bool) (p c : Nat) (v : Int) : Dev :=
  let follows := m.userFollows p (c == 15) chained
  let m := m.put (coefField p c) (ofSigned 16 v)
  if (c = 14 ∨ c = 15) ∧ !follows then m.retarget p (c == 15) else m

/-- PIN_CAL_STAT.SOURCE of a pin, and FACTORY of its tributary (Tables 13.10, 13.11). -/
def Dev.showSource (m : Dev) (p : Nat) : Dev :=
  m.put (F.PIN_CAL_STAT_SOURCE p) (if !m.onFactory p 1 then 0 else if m.on F.RSV_STAT_FACTORY_OK then 1 else 2)
def Dev.showFactory (m : Dev) (t : Nat) : Dev :=
  m.put (F.TRB_CAL_STAT_FACTORY t)
    (flag ((List.range 16).any fun i => (List.range 3).any fun k => m.onFactory (16 * t + i) k))

/-- Changes what calibration holds. -/
def Dev.modCal (m : Dev) (f : CalX → CalX) : Dev := { m with cal := f m.cal }

/-- Coefficients of a pin that differ from those in force wait to come into force (R372). -/
def Dev.queueCoefs (m : Dev) (p : Nat) (cs : List Nat) : Dev :=
  let l := (cs.filter fun c => ofSigned 16 (m.coefWanted p c) != m.get (coefField p c)).map fun c => (p, c, m.coefWanted p c)
  m.modCal fun x => { x with waiting := x.waiting.filter (fun e => !(e.1 == p && cs.contains e.2.1)) ++ l }

/-- The coefficients that wait on the pins of a list come into force; `chained` tells that a burst of their basin starts there by chaining. -/
def Dev.takeCoefs (m : Dev) (chained : Bool) (due : Nat → Bool) : Dev :=
  let l := m.cal.waiting.filter fun e => due e.1
  let m := m.modCal fun x => { x with waiting := x.waiting.filter fun e => !due e.1 }
  let m := m.each l fun m e => m.putCoef chained e.1 e.2.1 e.2.2
  m.each (l.map (·.1)).eraseDups Dev.showSource

/-- The coefficients that wait on a basin's pins come into force at the end boundary of its running burst (R372); those of a tributary in
outage wait for the outage's end. -/
def Dev.takeCalOf (m : Dev) (b : Nat) (chained : Bool) : Dev :=
  m.takeCoefs chained fun p => m.basinOf p == some b && m.get (F.TRB_CAL_STAT_STATE (p / 16)) != 3

/-- At a tick boundary, the coefficients that wait on pins of no playing basin come into force (R372). -/
def Dev.takeCalIdle (m : Dev) : Dev :=
  m.takeCoefs false fun p => m.get (F.TRB_CAL_STAT_STATE (p / 16)) != 3 && (match m.basinOf p with
    | some b => (m.bsn b).run.isNone
    | none => true)

/-- Every pin of a tributary on factory values is interpolated again (R377). -/
def Dev.reinterpolate (m : Dev) (t : Nat) : Dev :=
  let m := m.modCal fun x => { x with lastInterp := x.lastInterp.filter (fun e => e.1 != t) ++ [(t, m.meanTemp t)] }
  m.each (List.range 16) fun m i => m.each (List.range 3) fun m k =>
    if m.onFactory (16 * t + i) k then m.queueCoefs (16 * t + i) (coefsOf k ++ if i = 0 ∧ k = 0 then [36] else []) else m

/-- A change of RSV_CAL_CTL.FACTORY (R372): every pin goes to factory interpolation, or back to its measured values. -/
def Dev.factoryWrite (m : Dev) (v : Nat) : Dev :=
  let m := (m.put F.RSV_CAL_CTL_AUTO_EN (bitsOf v 0 0)).put F.RSV_CAL_CTL_FACTORY (bitsOf v 1 1)
  let m := m.each (List.range 1024) fun m p => m.queueCoefs p (List.range (if p % 16 = 0 then 37 else 36))
  m.each (List.range 64) Dev.showFactory

/-! ## When calibration runs (R368) -/

/-- The temperature of a kind's last accepted run on tributary t. -/
def kindTemp (kind t : Nat) : Fld :=
  if kind = 0 then F.TRB_CAL_T0_T_LVL t else if kind = 1 then F.TRB_CAL_T0_T_DSK t else F.TRB_CAL_T1_T_PMU t

/-- A step of Table 13.2 is taken on tributary t in this tick, and whether one has been taken in it already. -/
def Dev.stepTaken (m : Dev) (t : Nat) : Dev := m.modCal fun x => { x with stepAt := x.stepAt.filter (fun e => e.1 != t) ++ [(t, m.tick)] }
def Dev.stepNow (m : Dev) (t : Nat) : Bool := m.cal.stepAt.lookup t == some m.tick

/-- A kind becomes due on tributary t; while its over-temperature flag is set nothing starts (R368). -/
def Dev.makeDue (m : Dev) (t kinds : Nat) : Dev :=
  let m := if 2 ≤ m.get (F.TRB_CAL_STAT_STATE t) then m else m.stepTaken t
  let due := m.get (F.TRB_CAL_STAT_DUE t) ||| kinds
  let m := m.put (F.TRB_CAL_STAT_DUE t) due
  let st := m.get (F.TRB_CAL_STAT_STATE t)
  if due = 0 ∨ 2 ≤ st then m else m.put (F.TRB_CAL_STAT_STATE t) (if m.on (F.TRB_FE_STAT_OT t) then 4 else 1)

/-- AUTO of tributary t. -/
def Dev.autoOn (m : Dev) (t : Nat) : Bool :=
  m.on F.RSV_CAL_CTL_AUTO_EN && bitOf (m.reg (if t < 32 then Reg.RSV_AUTO_LO else Reg.RSV_AUTO_HI)) (t % 32)

/-- The temperature test of one kind of one tributary at an interval's end (R368, case 1). -/
def Dev.tempTest (m : Dev) (t kind : Nat) : Dev :=
  let out := decide (m.get F.RSV_CAL_DELTA_CAL_TEMP_DELTA < (m.meanTemp t - toSigned 12 (m.get (kindTemp kind t))).natAbs)
  let key := 3 * t + kind
  let was := m.cal.drifted.contains key
  let m := m.modCal fun x => { x with drifted := if out then (if was then x.drifted else x.drifted ++ [key])
                                                 else x.drifted.filter (· != key) }
  if !out then m
  else if m.autoOn t then (if m.on (F.TRB_FE_STAT_OT t) then m else m.makeDue t (2 ^ kind))
  else
    let m := m.put (F.TRB_CAL_STAT_OUT_OF_BAND t) 1
    if was then m else m.report Src.calDrift t 0 m.now

/-- Due kinds wait while the over-temperature flag of their tributary is set (R368). -/
def Dev.blockDue (m : Dev) (t : Nat) : Dev :=
  let st := m.get (F.TRB_CAL_STAT_STATE t)
  let hot := m.on (F.TRB_FE_STAT_OT t)
  if st == 1 && hot then m.put (F.TRB_CAL_STAT_STATE t) 4
  else if st == 4 && !hot then m.put (F.TRB_CAL_STAT_STATE t) 1
  else m

/-- A kind's table loses its last valid copy (R376): calibration-table reports, and its coefficients are no longer measured. -/
def Dev.dropTable (m : Dev) (e : Nat × Nat) : Dev :=
  { m with rsv := { m.rsv with
      measured := m.rsv.measured.filter fun (q : Nat × Int) => !(q.1 / 64 / 16 == e.1 && kindOf (q.1 % 64) == e.2),
      copies := m.rsv.copies.filter fun c => c.key != recKey (2 ^ e.2) e.1,
      temps := m.rsv.temps.filter fun (q : Nat × Nat) => q.1 != 3 * e.1 + e.2 } }.report Src.calTable e.1 0 m.now

/-- A check-word failure during operation (R368, R376): the affected pins take factory interpolation under R372, and the kind becomes due. -/
def Dev.tableLost (m : Dev) (e : Nat × Nat) : Dev :=
  let m := m.dropTable e
  let m := m.each (List.range 16) fun m i => m.queueCoefs (16 * e.1 + i) (coefsOf e.2 ++ if i = 0 ∧ e.2 = 0 then [36] else [])
  (m.showFactory e.1).makeDue e.1 (2 ^ e.2)

/-- The temperatures of one tick are added to the interval's sums (R368). -/
def Dev.sumTemps (m : Dev) : Dev :=
  m.modCal fun x => { x with
    count := x.count + 1,
    sums := (List.range 64).map fun t => (t, ((x.sums.lookup t).getD 0) + toSigned 12 (m.get (F.TRB_FE_STAT_TEMP t))) }

/-- CAL_TEMP_INTERVAL (R368, R377): at the end of 1,024 ticks the means are taken and tested. -/
def Dev.calInterval (m : Dev) : Dev :=
  if m.cal.count < 1024 then m
  else
    let n := m.cal.count
    let m := m.each (List.range 64) fun m t =>
      m.put (F.TRB_CAL_T1_T_MEAN t) (ofSigned 12 (roundDiv ((m.cal.sums.lookup t).getD 0) n))
    let m := m.modCal fun x => { x with sums := [], count := 0 }
    m.each (List.range 64) fun m t =>
      let m := m.each (List.range 3) fun m k => m.tempTest t k
      if m.get F.RSV_CAL_DELTA_CAL_TEMP_DELTA < (m.meanTemp t - (m.cal.lastInterp.lookup t).getD 0).natAbs then m.reinterpolate t
      else m

/-! ## Gather and outage (R369, R370, Table 13.2) -/

/-- GATHER in ticks (R370): milliseconds, 0 acting as 1. -/
def Dev.gatherTicks (m : Dev) : Nat := ceilDiv (max 1 (m.get F.RSV_CAL_DELTA_GATHER) * 1000000) 1024

/-- True where CAL_RUN awaits tributary t. -/
def Dev.calCommanded (m : Dev) (t : Nat) : Bool := m.cal.wanted.any fun e => e.1 == t

/-- CAL_GATHER_BEGIN (Table 13.2, step 1). -/
def Dev.gatherBegin (m : Dev) (t : Nat) : Dev :=
  let early := (m.cal.notBefore.lookup t).any fun n => decide (m.tick < n)
  if m.get (F.TRB_CAL_STAT_STATE t) != 1 || m.on (F.TRB_FE_STAT_OT t) || (early && !m.calCommanded t) || m.stepNow t then m
  else ((m.stepTaken t).put (F.TRB_CAL_STAT_STATE t) 2).modCal fun x => { x with gatherAt := x.gatherAt.filter (fun e => e.1 != t) ++ [(t, m.tick)] }

/-- CAL_GATHER_TIMEOUT (R370): an automatic gather not complete within GATHER ms is abandoned. -/
def Dev.gatherTimeout (m : Dev) (t : Nat) : Dev :=
  let lapsed := (m.cal.gatherAt.lookup t).any fun n => decide (n + m.gatherTicks ≤ m.tick)
  if m.get (F.TRB_CAL_STAT_STATE t) != 2 || m.calCommanded t || !lapsed then m
  else
    let m := (m.put (F.TRB_CAL_STAT_STATE t) 1).count (F.TRB_CAL_STAT_DEFERRED t) 1
    let m := m.modCal fun x => { x with notBefore := x.notBefore.filter (fun e => e.1 != t) ++ [(t, m.tick + m.gatherTicks)] }
    m.report Src.calDeferred t 0 m.now

/-- True where every basin with a pin in tributary t is gathered (R369): no burst of it runs and no start of it is decided. -/
def Dev.gathered (m : Dev) (t : Nat) : Bool :=
  (m.basinsIn t).all fun b => (m.bsn b).run.isNone && (m.bsn b).rampStart.isNone && !(m.bsn b).deck.any fun d => d.startTick.isSome

/-- True where tributary t gathers and may go into outage, its pair aside. -/
def Dev.outageReady (m : Dev) (t : Nat) : Bool :=
  m.get (F.TRB_CAL_STAT_STATE t) == 2 && !m.on (F.TRB_FE_STAT_OT t) && m.gathered t

/-- A CAL_RUN that the host aborts ends its gathers (R370); the kinds stay due (DESIGN CHOICE, log 114). -/
def Dev.endGathers (m : Dev) : Dev :=
  m.each ((List.range 64).filter fun t => m.calCommanded t && m.get (F.TRB_CAL_STAT_STATE t) == 2) fun m t =>
    (m.stepTaken t).put (F.TRB_CAL_STAT_STATE t) 1

/-- CAL_OUTAGE_BEGIN (Table 13.2, step 2; R367, R370): one of a pair at a time, the lower-numbered first. -/
def Dev.outageBegin (m : Dev) (t : Nat) : Dev :=
  let pair := if t % 2 = 0 then t + 1 else t - 1
  if !m.outageReady t || m.get (F.TRB_CAL_STAT_STATE pair) == 3 || (t % 2 == 1 && m.outageReady pair) || m.stepNow t then m
  else
    let m := (m.put (F.TRB_CAL_STAT_STATE t) 3).put F.RSV_STAT_OUTAGES (m.get F.RSV_STAT_OUTAGES + 1)
    let k := t / 2
    if m.on (F.ADC_STAT_POWERED k) then m
    else ((m.put (F.ADC_STAT_POWERED k) 1).put (F.ADC_STAT_READY k) 1).modCal fun x => { x with powered := x.powered ++ [k] }

/-- The measured coefficients of a pin in a run: those given, else the one in force. -/
def runCoef (run : List (Nat × Nat × Int)) (m : Dev) (p c : Nat) : Int :=
  ((run.find? fun e => e.1 == p && e.2.1 == c).map (·.2.2)).getD (toSigned 16 (m.get (coefField p c)))

/-- A pin's part of a table's payload (R374): the register images that the kind writes, PIN_CAL_LVL0 to 5 and PIN_CAL_CMP, the two CAL fields, or
PIN_CAL_PMUI0 to 4 and
PIN_CAL_PMUM0 to 4. DEDUCED (log 115): the order within a pin is that of the registers. -/
def tablePin (kind : Nat) (v : Nat → Nat) : List Byte :=
  let word := fun lo hi => leBytes 4 (v lo + 2 ^ 16 * v hi)
  if kind = 0 then (List.range 6).flatMap (fun c => word c (6 + c)) ++ word 12 13
  else if kind = 1 then leBytes 2 (v 14) ++ leBytes 2 (v 15)
  else (List.range 5).flatMap (fun r => word (16 + r) (21 + r)) ++ (List.range 5).flatMap fun r => word (26 + r) (31 + r)

/-- One kind of a run is checked, stored, and set to wait for the outage's end (R371, R375). -/
def Dev.kindDone (m : Dev) (t kind : Nat) (run : List (Nat × Nat × Int)) (stored : Bool) : Dev :=
  let cs := coefsOf kind
  let pins := (List.range 16).map (16 * t + ·)
  let bad := pins.filter fun p => cs.any fun c => !m.plausibleCoef p c (runCoef run m p c)
  let good := pins.filter fun p => !bad.contains p
  let dlt := runCoef run m (16 * t) 36
  let dltBad := kind == 0 && !m.plausibleCoef (16 * t) 36 dlt
  let mask := bad.foldl (fun n p => n + 2 ^ (p % 16)) 0
  let rej := if kind = 0 then F.PIN_CAL_STAT_REJ_LVL else if kind = 1 then F.PIN_CAL_STAT_REJ_DSK else F.PIN_CAL_STAT_REJ_PMU
  let m := m.each bad fun m p => (m.put (rej p) 1).count (F.PIN_CAL_STAT_REJ_RUNS p) 1
  let m := m.each good fun m p => m.put (F.PIN_CAL_STAT_REJ_RUNS p) 0
  let m := m.put (F.TRB_CAL_REJ_PINS t) (m.get (F.TRB_CAL_REJ_PINS t) ||| mask)
  let m := if bad.isEmpty && !dltBad then m else m.report Src.calPlausibility t mask m.now
  let m := if bad.isEmpty then m else m.modCal fun x => { x with rejected := true }
  let m := if !stored then
      ((m.put F.RSV_STAT_WRITE_ERR 1).report Src.reservoirWrite (2 ^ kind) 0 m.now).modCal fun x => { x with failed := true }
    else
      let l := good.flatMap fun p => cs.map fun c => (64 * p + c, runCoef run m p c)
      let l := if kind == 0 && !dltBad then l ++ [(64 * (16 * t) + 36, dlt)] else l
      let m := { m with rsv := { m.rsv with
        measured := m.rsv.measured.filter (fun (e : Nat × Int) => !(e.1 / 1024 == t && l.any fun q => q.1 == e.1)) ++ l,
        temps := m.rsv.temps.filter (fun (e : Nat × Nat) => e.1 != 3 * t + kind) ++ [(3 * t + kind, m.get (F.TRB_CAL_T1_T_MEAN t))] } }
      let value := fun p c => ofSigned 16 (if (if c = 36 then dltBad else bad.contains p) then toSigned 16 (m.get (coefField p c)) else runCoef run m p c)
      let m := m.recWrite (2 ^ kind) t (m.get (F.TRB_CAL_T1_T_MEAN t)) (pins.flatMap (fun p => tablePin kind (value p)) ++
        (if kind == 0 then leBytes 4 (value (16 * t) 36) else []))
      let m := m.put (kindTemp kind t) (m.get (F.TRB_CAL_T1_T_MEAN t))
      let m := m.modCal fun x => { x with drifted := x.drifted.filter (· != 3 * t + kind) }
      let m := m.each good fun m p => m.queueCoefs p cs
      if kind == 0 && !dltBad then m.queueCoefs (16 * t) [36] else m
  match m.opSlot Op.calRun with
  | some s =>
    if m.cal.wanted.contains (t, 2 ^ kind) then
      let m := m.calEntry s t (2 ^ kind) mask (m.get (F.TRB_CAL_T1_T_MEAN t)) (if !stored then 3 else if bad.isEmpty then 0 else 1)
      m.modCal fun x => { x with wanted := x.wanted.filter (· != (t, 2 ^ kind)) }
    else m
  | none => m

/-- CAL_KINDS_DONE (Table 13.2, steps 3 and 4): the kinds due have run, with the coefficients they measured (pin, coefficient, value) and the
kinds whose Reservoir write was good. -/
def Dev.kindsDone (m : Dev) (t : Nat) (run : List (Nat × Nat × Int)) (stored : Nat) : Dev :=
  if m.get (F.TRB_CAL_STAT_STATE t) != 3 || m.cal.done.contains t then m
  else
    let kinds := onesOf 3 (m.get (F.TRB_CAL_STAT_DUE t))
    let m := m.each kinds fun m k => m.kindDone t k run (bitOf stored k)
    let m := (m.put (F.TRB_CAL_STAT_DUE t) 0).bump (F.TRB_CAL_REJ_RUNS t)
    ((m.bump F.RSV_STAT_RUNS).stepTaken t).modCal fun x => { x with done := x.done ++ [t] }

/-- A CAL_RUN that awaits nothing more ends (Table 13.7). -/
def Dev.calRunEnd (m : Dev) : Dev :=
  match m.opSlot Op.calRun with
  | some s =>
    if m.cal.wanted.isEmpty && m.cal.done.isEmpty then
      (m.modCal fun x => { x with rejected := false, failed := false }).opEnd s
        (if m.cal.failed then 0x08 else if m.cal.rejected then 0x04 else 0)
    else m
  | none => m

/-- An outage ends (Table 13.2, steps 5 and 6; Table 13.8): accepted values come into force, the switches close, PPMU writes that waited are
taken, and the hold is released. -/
def Dev.outageClose (m : Dev) (t : Nat) : Dev :=
  if !m.cal.done.contains t then m
  else
    let m := m.takeCoefs false fun p => p / 16 == t
    let m := m.put (F.TRB_CAL_STAT_STATE t) (if m.get (F.TRB_CAL_STAT_DUE t) = 0 then 0 else 1)
    let m := (m.put F.RSV_STAT_OUTAGES (m.get F.RSV_STAT_OUTAGES - 1)).showFactory t
    let w := m.cal.pmuWrites.filter fun e => e.1 / 16 == t
    let k := t / 2
    let own := m.cal.powered.contains k
    let m := m.modCal fun x => { x with
      done := x.done.filter (· != t), pmuWrites := x.pmuWrites.filter (fun e => e.1 / 16 != t), powered := x.powered.filter (· != k) }
    let m := if own && !m.on (F.ADC_CTL_ENABLE k) then (m.put (F.ADC_STAT_POWERED k) 0).put (F.ADC_STAT_READY k) 0 else m
    (m.each w fun m e => if e.2.2 then m.ppmuEnable e.1 e.2.1 else m.ppmuRange e.1 e.2.1).calRunEnd

/-- CAL_OUTAGE_END: the outage ends at a tick boundary after its last kind (Table 13.2, step 5). -/
def Dev.outageEnd (m : Dev) (t : Nat) : Dev := if m.stepNow t then m else m.outageClose t

/-- A PPMU write on a pin of a tributary in outage waits for its end (Table 13.8). -/
def Dev.ppmuWrite (m : Dev) (p ctl : Nat) (enable : Bool) : Dev :=
  if m.get (F.TRB_CAL_STAT_STATE (p / 16)) == 3 then m.modCal fun x => { x with pmuWrites := x.pmuWrites ++ [(p, ctl, enable)] }
  else if enable then m.ppmuEnable p ctl
  else m.ppmuRange p ctl

/-! ## Commands (R379) -/

/-- CAL_RUN (R379): the named kinds become due on the named tributaries; the operation ends when all have run. -/
def Dev.calRun (m : Dev) (s : Nat) (irq : Bool) : Dev :=
  let r := m.opStart s Op.calRun irq 0x02
  if !r.2 then r.1
  else
    let m := r.1
    let ts := onesOf 32 (m.param s 0) ++ (onesOf 32 (m.param s 1)).map (· + 32)
    let ks := onesOf 3 (m.param s 2)
    if ts.isEmpty ∨ ks.isEmpty then m.opEnd s 0x01
    else
      let m := m.modCal fun x => { x with wanted := ts.flatMap (fun t => ks.map fun k => (t, 2 ^ k)), rejected := false, failed := false }
      m.each ts fun m t => m.makeDue t (m.param s 2 % 8)

/-- CAL_REF (R379, Table 13.7): the mean of 64 corrected results of the reference, in µV, is checked and stored. -/
def Dev.calRef (m : Dev) (s : Nat) (irq : Bool) (l : List Int) (stored : Bool) : Dev :=
  let r := m.opStart s Op.calRef irq 0x02
  if !r.2 then r.1
  else
    let m := r.1
    let p := bitsOf (m.param s 0) 3 0
    let uv := roundDiv (sumOf l * 2500000) (64 * 8388608)
    if 3 < p then m.opEnd s 0x01
    else if !(m.on (F.P_CTL_ENABLE p) && m.on (F.P_STAT_SETTLED p) && !m.on (F.P_STAT_UNCAL p) && m.on (F.P_CTL_SRC p) &&
        m.get (F.P_CTL_BUS_SEL p) == 1) then m.opEnd s 0x05
    else if 67 * 67 * 4096 < 64 * l.foldl (fun n x => n + x * x) 0 - sumOf l * sumOf l then m.opEnd s 0x06
    else if uv < 1198000 ∨ 1202000 < uv then m.opEnd s 0x07
    else if !stored then ((m.put F.RSV_STAT_WRITE_ERR 1).report Src.reservoirWrite 0x10 0 m.now).opEnd s 0x08
    else
      let m := m.recWrite Rec.reference 0 0 (leBytes 4 uv.toNat)
      (({ m with rsv := { m.rsv with refUv := some uv.toNat } }).put F.ADC_REF_VAL_UV uv.toNat).opEnd s 0

end Sys2Proof.Machine
end

