-- ==== Sys2Proof/Machine/Admission.lean ====
section
/-! DEFINITION. The catchment image: its layout (R35 to R57) and the admission check (R58 to R60). -/

namespace Sys2Proof.Machine

/-- One reason of a refusal: code (Table 2.11), section TYPE and INDEX (R59). -/
structure Reason where
  code : Nat
  type : Nat
  index : Nat
  deriving DecidableEq, Repr

/-- A section-table entry (Table 2.2). -/
structure Section where
  type : Nat
  flags : Nat
  offset : Nat
  length : Nat
  scrc : Nat
  deriving DecidableEq, Repr

/-- INDEX where no index applies (R59). -/
def noIndex : Nat := 0xFFFFFFFF

/-- INDEX of a section-table entry (R59). -/
def tableIndex (i : Nat) : Nat := 0x80000000 + i

/-- The section table of an image of n sections (R36, Table 2.2). -/
def sectionsOf (l : List Byte) (n : Nat) : List Section :=
  (List.range n).map fun i =>
    let o := 64 + 16 * i
    ⟨fieldAt l o 2, fieldAt l (o + 2) 2, fieldAt l (o + 4) 4, fieldAt l (o + 8) 4, fieldAt l (o + 12) 4⟩

/-- The bytes of a section. -/
def Section.bytes (s : Section) (l : List Byte) : List Byte := (l.drop s.offset).take s.length

/-- True where a known section has its length of Table 2.3. -/
def Section.lengthOk (s : Section) : Bool :=
  match s.type with
  | 1 => s.length == 8192
  | 2 => s.length == 4096
  | 3 => s.length == 2048
  | 4 => decide (4096 ≤ s.length) && (s.length - 4096) % 32 == 0 && decide (s.length ≤ 4096 + 32 * 512)
  | 5 => s.length == 2048
  | 6 => s.length == 512
  | 7 => s.length == 2048
  | 8 => s.length % 4 == 0 && decide (s.length ≤ 4 * 4096)
  | _ => true

/-- True where two sections share a byte (R37). -/
def Section.overlaps (s t : Section) : Bool :=
  decide (0 < s.length) && decide (0 < t.length) && decide (s.offset < t.offset + t.length) &&
  decide (t.offset < s.offset + s.length)

/-- True where a section alone breaks R37 or Table 2.3: misaligned, outside the image, over the header or section table, or of
wrong length. DESIGN CHOICE (log 88): a section of no bytes overlaps nothing, so an empty crossbar may name any aligned offset in the image. -/
def Section.badPlace (s : Section) (length n : Nat) : Bool :=
  s.offset % 64 ≠ 0 || decide (length < s.offset + s.length) ||
  (decide (0 < s.length) && decide (s.offset < 64 + 16 * n)) || !s.lengthOk

/-- The positions of the sections that overlap section i. -/
def overlapsOf (ss : List Section) (i : Nat) : List Nat :=
  (List.range ss.length).filter fun j =>
    match ss[i]?, ss[j]? with
    | some s, some t => i ≠ j && s.overlaps t
    | _, _ => false

/-- The first reason of stage 1 about section bounds, with every entry involved (R58, R59). -/
def boundsReasons (ss : List Section) (length : Nat) : List Reason :=
  match (List.range ss.length).find? fun i =>
      (ss[i]?.map fun s => s.badPlace length ss.length).getD false || !(overlapsOf ss i).isEmpty with
  | none => []
  | some i =>
    sortBy (fun a b => decide (a.type ≤ b.type)) ((i :: overlapsOf ss i).map fun j => ⟨0x0005, (ss[j]?.map (·.type)).getD 0, tableIndex j⟩)

/-- The first entry whose type stands earlier in the table (R59: the later of the two). -/
def duplicateOf (ss : List Section) : Option Nat :=
  (List.range ss.length).find? fun i =>
    match ss[i]? with
    | some s => decide (1 ≤ s.type) && decide (s.type ≤ 8) && (ss.take i).any fun t => t.type == s.type
    | none => false

/-- Stage 1 (R58): header, CRCs and section bounds in the order of Table 2.11, ending at the first failure. -/
def stage1 (l : List Byte) : List Reason :=
  let length := fieldAt l 8 4
  let n := fieldAt l 16 2
  let ss := sectionsOf l n
  let one := fun c => [(⟨c, 0, noIndex⟩ : Reason)]
  if fieldAt l 0 4 ≠ 0x54435146 then one 0x0001
  else if fieldAt l 5 1 ≠ 1 then one 0x0002
  else if fieldAt l 6 2 ≠ 64 ∨ length % 64 ≠ 0 ∨ length < 128 ∨ 65536 < length ∨ n < 8 ∨ 32 < n ∨ 999 < fieldAt l 18 2 ∨
      fieldAt l 28 36 ≠ 0 ∨ length < 64 + 16 * n then one 0x0003
  else if crc32c (l.take 12 ++ [0, 0, 0, 0] ++ (l.take length).drop 16) ≠ fieldAt l 12 4 then one 0x0004
  else if !(boundsReasons ss length).isEmpty then boundsReasons ss length
  else match (List.range n).find? fun i => (ss[i]?.map fun s => crc32c (s.bytes l) != s.scrc).getD false with
  | some i => [⟨0x0006, (ss[i]?.map (·.type)).getD 0, tableIndex i⟩]
  | none => match (List.range 8).find? fun k => !(ss.any fun s => s.type == k + 1) with
    | some k => [⟨0x0007, k + 1, noIndex⟩]
    | none => match duplicateOf ss with
      | some i => [⟨0x0008, (ss[i]?.map (·.type)).getD 0, tableIndex i⟩]
      | none => match (List.range n).find? fun i =>
            (ss[i]?.map fun s => (s.type == 0 || decide (8 < s.type)) && s.flags % 2 == 1).getD false with
        | some i => [⟨0x0009, (ss[i]?.map (·.type)).getD 0, tableIndex i⟩]
        | none => []

/-! ## Reading the sections -/

/-- A basin's definition from its records of n bytes in the four sections (Tables 2.4, 2.7, 2.9 and R53). -/
def parseBasin (r sh we sp : List Byte) : BasinDef :=
  let f0 := fieldAt r 0 1
  { abort := bitOf f0 1, full := bitOf f0 2, span := bitOf f0 3, spanDevices := fieldAt r 1 1, leader := fieldAt r 2 2,
    links := fieldAt r 4 1, hold := fieldAt r 6 2 % 2048, rate := fieldAt r 8 4, coursePart := fieldAt r 12 2,
    courseLen := fieldAt r 14 2, courseOffset := fieldAt r 16 8,
    streamSh := fieldAt sh 0 2, captureSh := fieldAt sh 2 2, houseSh := fieldAt sh 4 2, streamPart := fieldAt sh 6 2,
    capturePart := fieldAt sh 8 2,
    bprio := fieldAt we 0 1 % 8, sqPrio := (List.range 4).map fun i => fieldAt we (1 + i) 1 % 8, minBurst := fieldAt we 6 2,
    stepCur := fieldAt sp 0 2, prespin := bitOf (fieldAt sp 2 1) 0, prespinAddr := fieldAt sp 4 2 % 2048,
    prespinTicks := fieldAt sp 6 2 }

/-- Record i of a section of records of k bytes. -/
def recordAt (l : List Byte) (k i : Nat) : List Byte := (l.drop (k * i)).take k

/-- True where every byte of a list is 0. -/
def allZero (l : List Byte) : Bool := l.all (· == 0)

/-- A pin as its pin-map and engine-map entries give it (Table 2.5, R45). -/
def parsePin (v e : Nat) : PinDef :=
  { basin := v % 256, role := bitsOf v 9 8, delta := bitOf v 10, named := e % 2048 }

/-- The tributary of an engine: pin engines by number, audit engine 1,024 + t (R45); none beyond them. -/
def engineTrib (e : Nat) : Option Nat :=
  if e < 1024 then some (e / 16) else if e < 1088 then some (e - 1024) else none

/-- True for a pin that an engine serves: normal or companion-drive (R80). -/
def PinDef.served (d : PinDef) : Bool := d.role == 1 || d.role == 2

/-- The engines named for the served pins of a list (R45). -/
def namedEngines (pins : List (Nat × PinDef)) : List Nat :=
  (pins.filter fun p => p.2.served && p.2.named != 0x7FF).map fun p => p.2.named

/-- Resolves the AUTO entries of the pins in ascending order (R46); an entry that cannot resolve keeps 0x7FF. -/
def resolveAuto (faulty named : List Nat) : List Nat → List (Nat × PinDef) → List (Nat × PinDef)
  | _, [] => []
  | spares, (p, d) :: t =>
    if !d.served then (p, { d with engine := 0x7FF }) :: resolveAuto faulty named spares t
    else if d.named != 0x7FF then (p, { d with engine := d.named }) :: resolveAuto faulty named spares t
    else if !faulty.contains p && !named.contains p then (p, { d with engine := p }) :: resolveAuto faulty named spares t
    else
      let a := 1024 + p / 16
      if !faulty.contains a && !named.contains a && !spares.contains a then
        (p, { d with engine := a }) :: resolveAuto faulty named (a :: spares) t
      else (p, { d with engine := 0x7FF }) :: resolveAuto faulty named spares t

/-- Everything stage 2 checks against, gathered from an image that has passed stage 1 and from the device. -/
structure Check where
  sections : List Section
  raw : Nat → List Byte
  header : List Byte
  deviceIndex : Nat
  basins : List (Nat × BasinDef)
  pins : List (Nat × PinDef)
  parts : List Part
  faulty : List Nat
  stepLimit : Nat
  capacity : Nat
  shares : Nat
  linkUp : Nat → Bool
  linkPath : Nat → Nat
  beyond : Nat → List Nat
  self : Nat

/-- The definition of a basin the image defines. -/
def Check.basin (c : Check) (b : Nat) : Option BasinDef := c.basins.lookup b

/-- True where link l of basin b counts as trained (R358): it is UP, one of its 4 FLOW slots is free for the basin, its paths are at most
480 ECLK, and it closes no loop with this device or with a lower link of the mask. -/
def Check.linkTrained (c : Check) (b : Nat) (d : BasinDef) (l : Nat) : Bool :=
  c.linkUp l && decide ((c.basins.filter fun e => decide (e.1 < b) && e.2.span && bitOf e.2.links l).length < 4) &&
  decide (c.linkPath l ≤ 480) && !(c.beyond l).contains c.self &&
  ((onesOf 8 d.links).filter (· < l)).all fun k => !(c.beyond k).any fun i => (c.beyond l).contains i

/-- A pin of the image. -/
def Check.pin (c : Check) (p : Nat) : PinDef := (c.pins.lookup p).getD {}

/-- The streamed words of a pin per tick (R51). -/
def BasinDef.words (d : BasinDef) : Nat := ceilDiv d.rate (if d.full then 48 else 96)

/-- A basin's stream demand in units over n pins (R51). -/
def BasinDef.demand (d : BasinDef) (n : Nat) : Nat := n * ceilDiv d.words 2

/-- The codes a condition gives. -/
def codeIf (c : Bool) (n : Nat) : List Nat := if c then [n] else []

/-- The reasons about one basin-table entry, in code order (R40, R41, R50, Table 2.11). -/
def Check.basinCodes (c : Check) (b : Nat) : List Nat :=
  let r := recordAt (c.raw 1) 32 b
  match c.basin b with
  | none => codeIf (!allZero r) 0x000A
  | some d =>
    let pins := c.pins.filter fun p => p.2.served && p.2.basin == b
    let part := c.parts[d.coursePart]?
    codeIf (bitsOf (fieldAt r 0 1) 7 4 ≠ 0 || fieldAt r 5 1 ≠ 0 || bitsOf (fieldAt r 6 2) 15 11 ≠ 0 || fieldAt r 24 8 ≠ 0) 0x000A ++
    codeIf pins.isEmpty 0x0013 ++
    codeIf ((part.map (·.kind)) != some 1) 0x0023 ++
    codeIf (d.courseOffset % 64 ≠ 0 || (part.map fun p => decide (p.size < d.courseOffset + 64 * (d.courseLen + 1))).getD false) 0x0024 ++
    codeIf (decide (8192 < d.rate)) 0x0025 ++
    codeIf (decide (999 < d.leader) ||
      (if d.span then decide (d.spanDevices < 2) || decide (16 < d.spanDevices)
       else d.spanDevices ≠ 1 || d.leader ≠ c.deviceIndex || d.links ≠ 0)) 0x0060 ++
    codeIf (d.span && (d.links == 0 || (onesOf 8 d.links).any fun l => !c.linkTrained b d l)) 0x0061

/-- True where the pair of pins that holds p is a companion pair out of order (R43). -/
def Check.brokenPair (c : Check) (p : Nat) : Bool :=
  let a := c.pin (p / 2 * 2)
  let z := c.pin (p / 2 * 2 + 1)
  (decide (2 ≤ a.role) || decide (2 ≤ z.role)) && !(a.role == 2 && z.role == 3 && a.basin == z.basin)

/-- The reasons about one pin-map entry (R42 to R44). -/
def Check.pinCodes (c : Check) (p : Nat) : List Nat :=
  let v := fieldAt (c.raw 2) (4 * p) 4
  let d := c.pin p
  codeIf (bitsOf v 31 11 ≠ 0) 0x000A ++
  codeIf (d.role == 0 && d.basin ≠ 0) 0x0010 ++
  codeIf (d.role ≠ 0 && (c.basin d.basin).isNone) 0x0011 ++
  codeIf (c.brokenPair p) 0x0012 ++
  codeIf (d.delta && (d.role ≠ 1 || decide (1 < ((List.range 16).filter fun i => (c.pin (p / 16 * 16 + i)).delta).length))) 0x0018

/-- The reasons about one engine-map entry (R45, R46). -/
def Check.engineCodes (c : Check) (p : Nat) : List Nat :=
  let v := fieldAt (c.raw 3) (2 * p) 2
  let d := c.pin p
  let named := namedEngines c.pins
  codeIf (bitsOf v 15 11 ≠ 0) 0x000A ++
  (if !d.served then codeIf (d.named ≠ 0x7FF) 0x0014
   else if d.named ≠ 0x7FF then
    codeIf (engineTrib d.named ≠ some (p / 16)) 0x0014 ++
    codeIf (decide (1 < (named.filter (· == d.named)).length)) 0x0015 ++
    codeIf (c.faulty.contains d.named) 0x0016
   else codeIf (d.engine == 0x7FF) 0x0017)

/-- How many fields of the defined basins name a partition: COURSE_PART, STREAM_PART and CAPTURE_PART, one each (R50). -/
def Check.partNames (c : Check) (n : Nat) : Nat :=
  c.basins.foldl (fun k b => k + flag (b.2.coursePart == n) + flag (b.2.streamPart == n) + flag (b.2.capturePart == n)) 0

/-- The reasons about one share record (R48, R50, R51). -/
def Check.shareCodes (c : Check) (b : Nat) : List Nat :=
  let r := recordAt (c.raw 4) 16 b
  match c.basin b with
  | none => codeIf (!allZero r) 0x000A
  | some d =>
    let n := (c.pins.filter fun p => p.2.served && p.2.basin == b).length
    let stream := if d.streamPart == 0xFFFF then d.rate ≠ 0 else (c.parts[d.streamPart]?.map (·.kind)) != some 1
    let capture := d.capturePart ≠ 0xFFFF && ((c.parts[d.capturePart]?.map (·.kind)) != some 2 || decide (1 < c.partNames d.capturePart))
    codeIf (fieldAt r 10 6 ≠ 0) 0x000A ++ codeIf (stream || capture) 0x0023 ++ codeIf (decide (d.streamSh < d.demand n)) 0x0025

/-- True where two partitions share a byte. -/
def Part.overlaps (p q : Part) : Bool :=
  decide (0 < p.size) && decide (0 < q.size) && decide (p.base < q.base + q.size) && decide (q.base < p.base + p.size)

/-- The reasons about one partition record (R49, R50). -/
def Check.partCodes (c : Check) (n : Nat) : List Nat :=
  match c.parts[n]? with
  | none => []
  | some p =>
    let r := (c.raw 4).drop (4096 + 32 * n) |>.take 32
    codeIf (fieldAt r 17 15 ≠ 0) 0x000A ++
    codeIf ((List.range c.parts.length).any fun k => k ≠ n && (c.parts[k]?.map p.overlaps).getD false) 0x0020 ++
    codeIf (decide (p.base < 0x10000000) || decide (c.capacity < p.base + p.size) || p.size == 0 || (p.kind ≠ 1 && p.kind ≠ 2)) 0x0021 ++
    codeIf (p.base % 0x200000 ≠ 0 || p.size % 0x200000 ≠ 0) 0x0022 ++
    codeIf (p.kind == 2 && !(c.partNames n == 1 && c.basins.any fun b => b.2.capturePart == n)) 0x0023

/-- The reasons about one Weir record (R53). -/
def Check.weirCodes (c : Check) (b : Nat) : List Nat :=
  let r := recordAt (c.raw 5) 8 b
  match c.basin b with
  | none => codeIf (!allZero r) 0x000A
  | some d =>
    codeIf ((List.range 5).any (fun i => decide (8 ≤ fieldAt r i 1)) || fieldAt r 5 1 ≠ 0) 0x000A ++ codeIf (decide (d.minBurst < 4)) 0x0030

/-- The reasons about one Levee byte (R54, R385). -/
def Check.leveeCodes (c : Check) (s : Nat) : List Nat :=
  let v := fieldAt (c.raw 6) s 1
  codeIf (decide (8 ≤ v) || (!sourceListed s && v ≠ 0)) 0x000A ++ codeIf (decide (6 ≤ v % 8)) 0x0040 ++
  codeIf (decide (v % 8 < (sourceRule s).2)) 0x0041

/-- The reasons about one Spate record (R55, R421). -/
def Check.spateCodes (c : Check) (b : Nat) : List Nat :=
  let r := recordAt (c.raw 7) 8 b
  match c.basin b with
  | none => codeIf (!allZero r) 0x000A
  | some d =>
    codeIf (decide (2 ≤ fieldAt r 2 1) || fieldAt r 3 1 ≠ 0 || decide (2048 ≤ fieldAt r 4 2)) 0x000A ++
    codeIf (if d.prespin then d.prespinTicks == 0 || decide (64 < d.prespinTicks) || decide (c.stepLimit < ceilDiv d.stepCur d.prespinTicks)
            else decide (c.stepLimit < d.stepCur) || d.prespinTicks ≠ 0) 0x0033

/-- A crossbar source code and the basin it names (Table 2.10). -/
def xbarSource (c : Nat) : Option (Option Nat) :=
  if 0x0100 ≤ c ∧ c < 0x0500 then some (some ((c - 0x0100) / 4))
  else if 0x0500 ≤ c ∧ c < 0x0514 then some none
  else if 0x0600 ≤ c ∧ c < 0x0700 then some (some (c - 0x0600))
  else if 0x0700 ≤ c ∧ c < 0x0720 then some none
  else none

/-- A crossbar destination code and the basin it names (Table 2.10). -/
def xbarDest (c : Nat) : Option (Option Nat) :=
  if 0x1000 ≤ c ∧ c < 0x1010 then some none
  else if 0x1100 ≤ c ∧ c < 0x1900 then some (some ((c - 0x1100) / 8))
  else if 0x1900 ≤ c ∧ c < 0x1A00 then some (some (c - 0x1900))
  else if 0x1A00 ≤ c ∧ c < 0x1B00 then some (some (c - 0x1A00))
  else if 0x1B00 ≤ c ∧ c < 0x1B40 then some none
  else if 0x1C00 ≤ c ∧ c < 0x1C10 then some none
  else none

/-- True where a LOAD destination may take a source: LDAC inputs and trigger-sequencer outputs (R57). -/
def loadSource (c : Nat) : Bool :=
  (decide (0x0510 ≤ c) && decide (c < 0x0514)) || (decide (0x0600 ≤ c) && decide (c < 0x0710))

/-- The crossbar entries: destination and source (R56). -/
def routesOf (l : List Byte) : List (Nat × Nat) :=
  (List.range (l.length / 4)).map fun i => (fieldAt l (4 * i) 2, fieldAt l (4 * i + 2) 2)

/-- The reasons about one crossbar entry (R56, R57). DESIGN CHOICE (log 89): two entries that route the same source to the same destination
conflict like any two entries of one destination. -/
def Check.xbarCodes (c : Check) (routes : List (Nat × Nat)) (i : Nat) : List Nat :=
  match routes[i]? with
  | none => []
  | some (d, s) =>
    let undefinedIn := fun (o : Option (Option Nat)) => match o with
      | some (some b) => (c.basin b).isNone
      | _ => false
    codeIf (((xbarSource s).isNone && (xbarDest s).isNone) || ((xbarSource d).isNone && (xbarDest d).isNone)) 0x0050 ++
    codeIf ((xbarDest d).isSome && decide (1 < (routes.filter fun r => r.1 == d).length)) 0x0051 ++
    codeIf ((xbarDest s).isSome || (xbarSource d).isSome || undefinedIn (xbarSource s) || undefinedIn (xbarDest d) ||
      (decide (0x1A00 ≤ d) && decide (d < 0x1B00) && (xbarSource s).isSome && !loadSource s)) 0x0052

/-- The share demand in units of 1/16 share (R60). -/
def shareUnits (bs : List (Nat × BasinDef)) : Nat :=
  bs.foldl (fun n b => n + b.2.streamSh + b.2.captureSh + b.2.houseSh) (16 * (64 + 32))

/-- The dispatch rate (R60). -/
def dispatchRate (bs : List (Nat × BasinDef)) : Nat :=
  bs.foldl (fun n b => n + ceilDiv 65536 (max b.2.minBurst 4)) 0

/-- The tick program's words (R60). -/
def tickWords (bs : List (Nat × BasinDef)) : Nat := 96 + bs.length + (bs.filter fun b => b.2.span).length

/-- The budget reasons (R59, R60), in code order. -/
def Check.budget (c : Check) : List Reason :=
  (if 16 * c.shares < shareUnits c.basins then [⟨0x0026, 0, shareUnits c.basins⟩] else []) ++
  (if 64 * 65536 < dispatchRate c.basins then [⟨0x0031, 0, dispatchRate c.basins⟩] else []) ++
  (if 384 < tickWords c.basins then [⟨0x0032, 0, tickWords c.basins⟩] else [])

/-- The reasons of a section's entries, in entry and code order. -/
def entryReasons (type n : Nat) (index : Nat → Nat) (codes : Nat → List Nat) : List Reason :=
  (List.range n).flatMap fun i => (codes i).map fun k => ⟨k, type, index i⟩

/-- The reasons about the section-table entries of a type: FLAGS [15:1] (R59). -/
def Check.flagReasons (c : Check) (type : Nat) : List Reason :=
  (List.range c.sections.length).flatMap fun i =>
    match c.sections[i]? with
    | some s => if s.type == type ∧ 2 ≤ s.flags then [⟨0x000A, type, tableIndex i⟩] else []
    | none => []

/-- Stage 2 (R58, R59): every semantic and budget check, reasons in section-type order with the budget last. -/
def Check.stage2 (c : Check) : List Reason :=
  let routes := routesOf (c.raw 8)
  let rest := (sortBy (fun a b => decide (a ≤ b)) ((c.sections.filter fun s => decide (8 < s.type)).map (·.type))).eraseDups
  c.flagReasons 0 ++
  c.flagReasons 1 ++ entryReasons 1 256 id c.basinCodes ++
  c.flagReasons 2 ++ entryReasons 2 1024 id c.pinCodes ++
  c.flagReasons 3 ++ entryReasons 3 1024 id c.engineCodes ++
  c.flagReasons 4 ++ entryReasons 4 256 id c.shareCodes ++ entryReasons 4 c.parts.length (256 + ·) c.partCodes ++
  c.flagReasons 5 ++ entryReasons 5 256 id c.weirCodes ++
  c.flagReasons 6 ++ entryReasons 6 512 id c.leveeCodes ++
  c.flagReasons 7 ++ entryReasons 7 256 id c.spateCodes ++
  c.flagReasons 8 ++ entryReasons 8 routes.length id (c.xbarCodes routes) ++
  rest.flatMap c.flagReasons ++ c.budget

/-- The capacity of an operating point in shares per tick (Table 1.7). -/
def opCapacity (op : Nat) : Nat := if op == 0 then 3276 else if op == 1 then 2621 else 1638

/-- Gathers what stage 2 checks. -/
def Dev.checkOf (m : Dev) (l : List Byte) : Check :=
  let ss := sectionsOf l (fieldAt l 16 2)
  let raw := fun k => ((ss.find? fun s => s.type == k).map fun s => s.bytes l).getD []
  let basins := ((List.range 256).filter fun b => bitOf (fieldAt (raw 1) (32 * b) 1) 0).map fun b =>
    (b, parseBasin (recordAt (raw 1) 32 b) (recordAt (raw 4) 16 b) (recordAt (raw 5) 8 b) (recordAt (raw 7) 8 b))
  let pins0 := (List.range 1024).map fun p => (p, parsePin (fieldAt (raw 2) (4 * p) 4) (fieldAt (raw 3) (2 * p) 2))
  let parts := (List.range (((raw 4).length - 4096) / 32)).map fun n =>
    let r := (raw 4).drop (4096 + 32 * n)
    (⟨fieldAt r 0 8, fieldAt r 8 8, fieldAt r 16 1⟩ : Part)
  { sections := ss, raw := raw, header := l.take 64, deviceIndex := fieldAt l 18 2, basins := basins,
    pins := resolveAuto m.faulty (namedEngines pins0) [] pins0, parts := parts, faulty := m.faulty,
    stepLimit := m.get F.SPT_STEP_LIMIT_LIMIT, capacity := m.capacity, shares := m.get F.SLC_CAP_CAP_UNITS / 16,
    linkUp := fun l => m.get (F.VTL_STAT_STATE l) == 4, linkPath := fun l => m.get (F.VTL_LAT_D l) + (m.link l).far,
    beyond := fun l => (m.link l).beyond, self := m.get F.VTL_ID_ID }

/-- The image that a checked staging region holds. -/
def Check.image (c : Check) (l : List Byte) : Image :=
  { verMinor := fieldAt l 4 1, length := fieldAt l 8 4, nsect := fieldAt l 16 2, deviceIndex := c.deviceIndex,
    systemTag := fieldAt l 20 4, imageId := fieldAt l 24 4, crc := fieldAt l 12 4,
    places := c.sections.map fun s => (s.type, s.flags, s.offset, s.length),
    others := (c.sections.filter fun s => s.type == 0 || decide (8 < s.type)).map fun s => (s.type, s.bytes l),
    basins := c.basins, pins := c.pins.filter fun p => p.2.role ≠ 0, parts := c.parts,
    sevs := (c.raw 6).map (·.toNat), routes := routesOf (c.raw 8) }

/-- The staging region of Table 2.6. -/
def stagingBase : Nat := 0x0C000000

/-- The admission check of the staged image (R58): its reasons, and the image where there are none. -/
def Dev.admission (m : Dev) : List Reason × Option Image :=
  let l := m.bytes stagingBase 65536
  match stage1 l with
  | [] =>
    let c := m.checkOf l
    match c.stage2 with
    | [] => ([], some (c.image l))
    | r => (r, none)
  | r => (r, none)

/-- The list as written: at most 1,023 reasons, then MORE with the number not listed (R59, Table 2.11). -/
def listedReasons (l : List Reason) : List Reason :=
  if l.length ≤ 1023 then l else l.take 1023 ++ [⟨0x00FF, 0, l.length - 1023⟩]

/-- A reason as its 8 bytes (R59). -/
def Reason.word (r : Reason) : Nat := r.code + 2 ^ 16 * r.type + 2 ^ 32 * (r.index % 2 ^ 32)

end Sys2Proof.Machine
end

