-- ==== Sys2Proof/Machine/Hold.lean ====
section
/-! DEFINITION. The hold word (R117, R119, R174): its check on entry into hold, its play, and the pre-spin word (R421). -/

namespace Sys2Proof.Machine

/-- A loop-store word of every lane of a basin at one address. -/
def Dev.laneWords (m : Dev) (b a : Nat) : List (Nat × VecWord) := (m.lanes b).map fun p => (p, m.word (m.engineOf p) a)

/-- The fields of a hold word that must agree across engines (R117): KIND, SPAN and TSET. -/
def holdFields (w : VecWord) : Nat × Nat × Nat := (wKind w, wSpan w, wTset w)

/-- True where hold words differ in those fields between the engines of a basin, on this device or, for the hold word of a span, on another (R117). -/
def Dev.holdDiffer (m : Dev) (b a : Nat) (ws : List (Nat × VecWord)) : Bool :=
  match ws.head? with
  | none => false
  | some (_, w) => ws.any (fun q => holdFields q.2 != holdFields w) ||
      (a == (m.bdef b).hold && (m.bdef b).span && (m.bsn b).farHold.any fun h => h.2 != holdFields w)

/-- True where hold or pre-spin words break R117 or R174, but for a timing set that fails validation: they differ between engines, are
no RUN word, do not hold one vector, or name a set whose PERIOD does not divide a tick. -/
def Dev.holdInvalid (m : Dev) (b a : Nat) (ws : List (Nat × VecWord)) : Bool :=
  match ws.head? with
  | none => false
  | some (_, w) =>
    let spv := m.spv b (wTset w)
    m.holdDiffer b a ws || wKind w != 0 ||
    (spv != 0 && wSpan w + 1 != spv) || (m.period b (wTset w) != 0 && tickUnits % m.period b (wTset w) != 0)

/-- True where a set fails validation on some lane of a basin, with the values in force. -/
def Dev.setBad (m : Dev) (b s : Nat) : Bool := (m.lanes b).any fun p => !(m.forceCodes b p s).isEmpty

/-- The loop-store errors in the words of a basin's engines at an address are reported (R81); the second component tells whether the words may play: no
word with a double-bit error does. -/
def Dev.storeErrors (m : Dev) (ps : List Nat) (a : Nat) (t : Instant) : Dev × Bool :=
  let fixed := ps.filter fun p => m.flip (m.engineOf p) a == 1
  let dead := ps.filter fun p => m.flip (m.engineOf p) a == 2
  let m := m.each fixed fun m p => m.report Src.storeCorrected p 0 t
  (m.each dead fun m p => m.report Src.storeUncorrectable p 0 t, dead.isEmpty)

/-- The check of hold or pre-spin words at an instant (R79, R102, R117): loop-store errors; the timing-set source for a set that fails validation, HOLD_INVALID
on every engine for any other breach, SYMW_RESERVED, or WORD_RATE for a vector below 1.000 ns; the second component tells whether the words may play. -/
def Dev.checkHold (m : Dev) (b a : Nat) (t : Instant) : Dev × Bool :=
  let r := m.storeErrors (m.lanes b) a t
  let m := r.1
  let ws := m.laneWords b a
  let s := (ws.head?.map fun q => wTset q.2).getD 0
  if !r.2 then (m, false)
  else if !m.holdDiffer b a ws && m.setBad b s then (m.timingFault b s t, false)
  else if m.holdInvalid b a ws then (m.each ws fun m q => m.wordFault q.1 0x0C a false t, false)
  else if ws.any fun q => decide (2 ≤ wSymw q.2) then
    (m.each (ws.filter fun q => decide (2 ≤ wSymw q.2)) fun m q => m.wordFault q.1 0x02 a false t, false)
  else if m.period b s < eclk then (m.each ws fun m q => m.wordFault q.1 0x0A a false t, false)
  else if (m.bdef b).span && a == (m.bdef b).hold then
    (m.sendFlow (m.flowLinks b) { basin := b, hold := ws.head?.map fun q => holdFields q.2 }, true)
  else (m, true)

/-- A hold word as it plays: MARK, CAPT, CMPEN, LOAD and SYNCPT taken as 0 (R117). -/
def asHold (w : VecWord) : VecWord := BitVec.ofNat 256 (setBits w.toNat 199 192 0)

/-- The set that a basin's hold word names, on its flow master. -/
def Dev.holdSet (m : Dev) (b : Nat) : Nat := ((m.laneWords b (m.bdef b).hold).head?.map fun q => wTset q.2).getD 0

/-- The set of the playing word is shown (Tables 5.8 and 5.9); a switch of set is counted (R173). -/
def Dev.showSet (m : Dev) (b s : Nat) : Dev :=
  let m := if (m.bsn b).tset == s then m else m.count (F.BSN_TS_STAT_SWITCHES b) 1
  let m := m.put (F.BSN_TS_STAT_TSET_NOW b) s
  let m := m.each (m.lanes b) fun m p => m.put (F.PIN_TG_STAT_TSET_NOW p) s
  m.modBsn b fun x => { x with tset := s }

/-- The engines' registers show the word that plays (Table 3.9). -/
def Dev.showPc (m : Dev) (b addr : Nat) (streamed : Bool) (state : Nat) : Dev :=
  m.each (m.lanes b) fun m p =>
    ((m.put (F.PIN_ENG_PC_ADDR p) addr).put (F.PIN_ENG_PC_STREAMED p) (flag streamed)).put (F.PIN_ENG_STAT_STATE p) state

/-- What the time base of a burst gains by a COHERENT extension (R173, R185). -/
def Dev.extend (m : Dev) (b ext : Nat) : Dev :=
  m.setPair (Reg.BSN_TS_EXT_LO b) (Reg.BSN_TS_EXT_HI b) (m.pair (Reg.BSN_TS_EXT_LO b) (Reg.BSN_TS_EXT_HI b) + ext)

/-- The hold word of basin b plays from the first point of its set's grid at or after instant t, one vector at a time (R119, R173, R174). The
extension up to there is
counted, but for a stall's (R176). -/
def Dev.startHold (m : Dev) (b : Nat) (t : Instant) (state : Nat) : Dev :=
  let s := m.holdSet b
  let switch := (m.bsn b).tset != s
  let g := gridUp (m.bsn b).grid t (m.period b s)
  let m := m.each (m.laneWords b (m.bdef b).hold) fun m q => m.extendStream b q.1 q.2 t g
  let m := if state == 4 then m else m.extend b (g - t)
  let m := ((m.showSet b s).showPc b (m.bdef b).hold false state)
  let m := m.each (m.lanes b) fun m p => m.modPin p fun x => { x with holdAt := g, holdFresh := true, holdSwitch := switch }
  m.modBsn b fun x => { x with hold := some g, pos := g }

/-- Basin b enters hold at instant t (R119): the hold word is checked, and plays where it may. -/
def Dev.enterHold (m : Dev) (b : Nat) (t : Instant) (state : Nat) : Dev :=
  let r := m.checkHold b (m.bdef b).hold t
  if r.2 then r.1.startHold b t state else r.1

/-- The hold or pre-spin vectors of a pin that are played one by one of n that are due (R89): the effect of a vector on the drive state repeats with
period two once one
has played, so the first and the last ones give what all give. -/
def holdPlays (fresh : Bool) (n : Nat) : List Nat :=
  if n = 0 then []
  else if fresh then 0 :: (if n % 2 = 0 then [n - 1] else if n = 1 then [] else [n - 2, n - 1])
  else if n % 2 = 0 then [n - 2, n - 1] else [n - 1]

/-- A hold or pre-spin word plays once on a pin, its k-th vector from where the pin stands (R89, R177); the first one after entry reports its reserved
symbols. -/
def Dev.holdVector (m : Dev) (b p : Nat) (w : VecWord) (k : Nat) : Dev :=
  let x := m.pin p
  let a := m.playPin b p (asHold w) (x.holdAt + k * m.period b (wTset w)) (m.guardOf p (x.holdSwitch && k == 0)) [] (wSpan w + 1)
  let m := m.keepPlay p a
  let m := (m.modPin p fun x => { x with minPlay := m.period b (wTset w), nonPlay := 0, holdSwitch := false }).edgeClamp p a.clamps x.holdAt
  if x.holdFresh && k == 0 then m.each a.reports fun m e => m.report e.1 p e.2.1 e.2.2 else m

/-- The steps that a walk takes between two instants at which slots of a given length begin (R180): one in every ECLK in which one begins. -/
def walkSteps (slot : Nat) (a b : Instant) : Nat :=
  if b ≤ a then 0 else if slot ≤ eclk then (b - 1) / eclk - a / eclk + 1 else (b - a) / slot

/-- A walk takes n steps of at most 32 units (R180). -/
def Path.walk (w : Path) (n : Nat) : Path :=
  { w with now := if w.now < w.target then min w.target (w.now + 32 * n) else max w.target (w.now - 32 * n) }

/-- The hold of one pin plays up to an instant (R89, R119): its vectors that end by then, with the steps that its walks take at their slots (R180). -/
def Dev.playHoldPin (m : Dev) (b : Nat) (t : Instant) (p : Nat) : Dev :=
  let x := m.pin p
  let w := m.word (m.engineOf p) (if x.ramped.isSome then (m.bdef b).prespinAddr else (m.bdef b).hold)
  let period := max 1 (m.period b (wTset w))
  let n := (t - x.holdAt) / period
  if n = 0 then m
  else
    let drv := m.drvPath p
    let cmp := m.cmpPath (m.judgePin p)
    let m := m.each (holdPlays x.holdFresh n) fun m k => m.holdVector b p w k
    let steps := walkSteps (m.slotLen b (wTset w)) x.holdAt (x.holdAt + n * period)
    let m := (m.setDrvPath p (drv.walk steps)).setCmpPath (m.judgePin p) (cmp.walk steps)
    m.modPin p fun x => { x with holdAt := x.holdAt + n * period, holdFresh := false }

/-- The hold of basin b plays up to an instant. -/
def Dev.playHold (m : Dev) (b : Nat) (t : Instant) : Dev :=
  if (m.bsn b).hold.isNone then m else m.each (m.lanes b) (·.playHoldPin b t)

/-- The hold of basin b ends at instant t (R89). -/
def Dev.leaveHold (m : Dev) (b : Nat) (t : Instant) : Dev :=
  match (m.bsn b).hold with
  | none => m
  | some _ =>
    let m := (m.playHold b t).each (m.lanes b) fun m p => m.modPin p fun x => { x with ramped := none }
    m.modBsn b fun x => { x with hold := none }

end Sys2Proof.Machine
end

