-- ==== Sys2Proof/Machine/Course.lean ====
section
/-! DEFINITION. Courses (R125 to R146): entry checks, the default path, the course window, refill pointers, and the begin of a pass. -/

namespace Sys2Proof.Machine

/-! ## Entry checks -/

/-- Units of one lane of n vector words (R128). -/
def wordUnits (n : Nat) : Nat := ceilDiv n 2

/-- The stream partition of basin b. -/
def Dev.streamPart (m : Dev) (b : Nat) : Part := m.part (m.bdef b).streamPart

/-- True where lanes of a given number of units at an offset lie inside STREAM_PART (R128, R131, R156). -/
def Dev.segFits (m : Dev) (b addr lanes units : Nat) : Bool :=
  addr % 64 == 0 && decide (addr + lanes * units * 64 ≤ (m.streamPart b).size)

/-- The first code of Table 4.6 that an entry fails at its boundary, in the order of R160; 0 for none. `landing` marks the target of a
taken jump. -/
def Dev.entryCode (m : Dev) (b : Nat) (e : Entry) (landing : Bool) : Nat :=
  let d := m.bdef b
  let h := m.get (F.BSN_CRS_HZN_H b)
  let p := (m.lanes b).length
  let streams := e.segKind == 1 || e.words != 0
  let range := decide (d.courseLen < e.next) ||
    (List.range 8).any fun k => bitOf e.jmask k && decide (d.courseLen < e.jumps.getD k 0)
  let seg :=
    (e.segKind == 1 && !m.segFits b e.segAddr p (wordUnits e.words)) ||
    (e.segKind == 0 && e.words != 0 && !m.segFits b e.strmAddr p (wordUnits e.words)) ||
    (e.sampMode != 0 && !m.segFits b e.sampAddr (m.deltasOf b).length (16 * e.sampGran))
  let short :=
    (e.segKind == 1 && (decide (e.gran < max 4 (ceilDiv h 64)) || e.words == 0)) ||
    (e.sampMode != 0 && decide (e.sampGran < 4))
  if 2 ≤ e.segKind then 0x01
  else if e.sampMode == 3 then 0x02
  else if e.reserved then 0x0D
  else if range then 0x03
  else if (streams || e.sampMode != 0) && d.rate == 0 then 0x0E
  else if e.sampMode != 0 && (m.deltasOf b).isEmpty then 0x0B
  else if seg then 0x04
  else if short then 0x05
  else if landing && (e.segKind != 0 || e.sampMode != 0 || e.words != 0) then 0x09
  else 0

/-! ## The default path and the window (R144) -/

/-- The entries of the default path from entry i on: at most `fuel`, stopping at an END entry. -/
def Dev.pathFrom (m : Dev) (b : Nat) : Nat → Nat → List Nat
  | 0, _ => []
  | fuel + 1, i =>
    let e := m.entry b i
    i :: (if e.last then [] else m.pathFrom b fuel e.next)

/-- The targets of an entry's valid jump slots. -/
def Entry.targets (e : Entry) : List Nat := (onesOf 8 e.jmask).map fun k => e.jumps.getD k 0

/-- The entries that a course window at entry i may hold, in the order in which they are requested (R144): 32 of the default path, each followed by its
jump targets. -/
def Dev.windowSpan (m : Dev) (b i : Nat) : List Nat :=
  (m.pathFrom b 32 i).flatMap fun k => k :: (m.entry b k).targets

/-- True where the course window of basin b holds entry i. -/
def Dev.windowHas (m : Dev) (b i : Nat) : Bool := (m.bsn b).window.any fun h => h.entry == i

/-- True where the course window of basin b held entry i at an instant (R150). -/
def Dev.heldBy (m : Dev) (b i : Nat) (t : Instant) : Bool := (m.bsn b).window.any fun h => h.entry == i && decide (h.at_ ≤ t)

/-- The entries of the default path that the window holds without a gap (BSN_CRS_WIN.HELD). -/
def Dev.windowHeld (m : Dev) (b i : Nat) : Nat := ((m.pathFrom b 32 i).takeWhile fun k => m.windowHas b k).length

/-- The entries that a course at entry i wants and does not hold, up to the first gap of its default path and that entry's own fetch: what lies behind it is not
known until it has landed. -/
def Dev.wanted (m : Dev) (b i : Nat) : List Nat :=
  let held := m.windowHeld b i
  let path := (m.pathFrom b 32 i).take (held + 1)
  ((path.zipIdx.flatMap fun e => if e.2 < held then e.1 :: (m.entry b e.1).targets else [e.1]).filter fun k => !m.windowHas b k).eraseDups

/-- The fetches that the course controller has requested are brought up to what its window wants (R144, R145): a new request takes the current tick and its
place behind the others. -/
def Dev.request (m : Dev) (b i : Nat) : Dev :=
  let w := m.wanted b i
  m.modBsn b fun x =>
    let kept := x.asked.filter fun e => w.contains e.1
    { x with asked := kept ++ ((w.filter fun k => !kept.any fun e => e.1 == k).map fun k => (k, m.tick)) }

/-- The window moves on to entry i: entries out of its reach are dropped, and those that come into it are requested. -/
def Dev.windowTo (m : Dev) (b i : Nat) : Dev :=
  let span := m.windowSpan b i
  let m := m.modBsn b fun x => { x with window := x.window.filter fun h => span.contains h.entry }
  (m.put (F.BSN_CRS_WIN_HELD b) (m.windowHeld b i)).request b i

/-! ## Refill pointers (R146, R157) -/

/-- The units of one lane that a pass of an entry streams: vector words, or samples. -/
def Entry.units (e : Entry) (sample : Bool) : Nat :=
  if sample then (if e.sampMode == 0 then 0 else 16 * e.sampGran)
  else wordUnits e.words

/-- The first streaming entry on the default path from entry i, at its first unit; the last entry looked at where 64 entries stream
nothing, and the first one that is not held, behind which the path is not known (R146). -/
def Dev.seek (m : Dev) (b : Nat) (sample : Bool) : Nat → Nat → Option Ptr
  | 0, i => some ⟨i, 1, 0⟩
  | fuel + 1, i =>
    if (m.heldEntry b i).isNone then some ⟨i, 1, 0⟩
    else
      let e := m.entry b i
      if e.units sample ≠ 0 then some ⟨i, 1, 0⟩
      else if e.last then none
      else m.seek b sample fuel e.next

/-- The pass after a pointer's on the default path (R146). -/
def Dev.nextPass (m : Dev) (b : Nat) (sample : Bool) (p : Ptr) : Option Ptr :=
  let e := m.entry b p.entry
  if p.pass ≤ e.again && !(sample && e.sampMode == 2) then some { p with pass := p.pass + 1, unit := 0 }
  else if e.last then none
  else m.seek b sample 64 e.next

/-- The unit after a pointer on the default path (R146); a LOOP segment goes round until the course leaves its entry (R157). -/
def Dev.nextUnit (m : Dev) (b : Nat) (sample : Bool) (p : Ptr) : Option Ptr :=
  let e := m.entry b p.entry
  if p.unit + 1 < e.units sample then some { p with unit := p.unit + 1 }
  else if sample && e.sampMode == 2 then some { p with unit := 0 }
  else m.nextPass b sample p

/-- A pointer that stands on a held entry without units moves on. -/
def Dev.settle (m : Dev) (b : Nat) (sample : Bool) (p : Ptr) : Option Ptr :=
  if (m.entry b p.entry).units sample = 0 then m.seek b sample 64 p.entry else some p

/-- Where a sample lane's refill goes on when a pass of an entry has ended, or the course has left the entry (R157): what is left of that pass is
passed over. -/
def Dev.passSamples (m : Dev) (b i pass : Nat) (left : Bool) : Dev :=
  m.each (m.deltasOf b) fun m k =>
    match (m.delta k).ptr with
    | some p =>
      let loop := (m.entry b i).sampMode == 2
      if p.entry == i && (p.pass == pass || loop) && (left || !loop) then
        m.setDelta k { m.delta k with ptr := if left then (if (m.entry b i).last then none else m.seek b true 64 (m.entry b i).next)
                                             else m.nextPass b true p }
      else m
    | none => m

/-- The HBM address of a lane's unit (R128, R131, R156). -/
def Dev.unitAddr (m : Dev) (b : Nat) (sample : Bool) (p : Ptr) (lane : Nat) : Nat :=
  let e := m.entry b p.entry
  let n := if sample then (m.deltasOf b).length else (m.lanes b).length
  let a := if sample then e.sampAddr else if e.segKind == 1 then e.segAddr else e.strmAddr
  (m.streamPart b).base + a + (p.unit * n + lane) * 64

/-- The words of a unit: two, or one where WORDS is odd and the unit is the last (R128). -/
def Dev.unitWords (m : Dev) (b : Nat) (p : Ptr) (lane : Nat) : List VecWord :=
  let a := m.unitAddr b false p lane
  let w0 : VecWord := BitVec.ofNat 256 (m.mem a 32)
  let w1 : VecWord := BitVec.ofNat 256 (m.mem (a + 32) 32)
  if (m.entry b p.entry).words = 2 * p.unit + 1 then [w0] else [w0, w1]

/-- The 32 samples of a unit (R156). -/
def Dev.unitSamples (m : Dev) (b : Nat) (p : Ptr) (lane : Nat) : List Nat :=
  let a := m.unitAddr b true p lane
  (List.range 32).map fun i => m.mem (a + 2 * i) 2

/-! ## The begin of a pass -/

/-- A pass of an entry begins at a boundary (R137, R138): position, sample play, and each lane's program counter. -/
def Dev.beginPass (m : Dev) (b i pass : Nat) (t : Instant) : Dev :=
  let e := m.entry b i
  let m := m.modRun b fun r => { r with entry := i, pass := pass, passStart := t, passWords := 0, passSyms := 0, atBoundary := false,
                                        succ := none, pauses := [] }
  let m := (m.put (F.BSN_CRS_POS_ENTRY b) i).put (F.BSN_CRS_PASS_PASS b) pass
  let m := if e.sampMode == 1 then (m.stopSamples b t).startSamples b true e.sampGran t
    else if e.sampMode == 2 && pass == 1 then m.startSamples b false e.sampGran t else m
  m.each (m.lanes b) fun m p => m.modPin p fun x => { x with pc := if e.segKind == 1 then streamAddr else e.segAddr }

/-- The course enters an entry at a boundary (R127): its fields are checked, and a breach is a course-format fault under which
nothing of the entry plays. Its markers rise with its first symbol (R139). -/
def Dev.enterEntry (m : Dev) (b i : Nat) (landing : Bool) (t : Instant) : Dev :=
  let c := m.entryCode b (m.entry b i) landing
  if c ≠ 0 then m.courseFault b c i t
  else ((m.beginPass b i 1 t).put (F.BSN_CRS_POS_STATE b) (if landing then Crs.landing else Crs.play)).windowTo b i

/-- True within the landing period of the running burst at a boundary (R143). -/
def Run.landing (r : Run) (t : Instant) : Bool := r.landingEnd.any fun e => decide (t < e)

/-- The course state shown for a burst that plays. -/
def Run.courseState (r : Run) (t : Instant) : Nat := if r.landing t then Crs.landing else Crs.play

/-- The instant at which the course decided the boundary t (R137, R152): H before the boundary as it was to be before the stalls, latest first, that
began after the decision. -/
def decidedAt : List (Instant × Instant) → Instant → Instant
  | [], t => t
  | (s, e) :: l, t => if t ≤ e then decidedAt l (t - (e - s)) else t

/-- The jump slot that a boundary takes (R137, R141, R142): the lowest valid slot whose event is registered at the sample time,
outside a landing period. A device that does not lead its span takes the successor that the leader decided (R109). -/
def Dev.jumpSlot (m : Dev) (b : Nat) (e : Entry) (r : Run) (t : Instant) : Option Nat :=
  if m.follows b then
    match (m.bsn b).succs.lookup t with
    | some (k + 1) => some k
    | _ => none
  else if r.landing t then none
  else (onesOf 8 e.jmask).find? fun k => m.condAt b k (decidedAt r.pauses (t - m.horizon b))

/-- A jump is taken (R137, R142, R143, R146): its event is consumed, words beyond the boundary are discarded, and the landing
period begins. A target that was not held at the decision stalls the basin (R150). -/
def Dev.takeJump (m : Dev) (b slot target : Nat) (e : Entry) (r : Run) (t : Instant) : Dev :=
  let at_ := decidedAt r.pauses (t - m.horizon b)
  let m := m.consume b slot at_ t
  let m := ((m.put (F.BSN_CRS_JUMP_FROM b) r.entry).put (F.BSN_CRS_JUMP_EVENT b) slot).put (F.BSN_CRS_JUMP_VALID b) 1
  let m := if e.sampMode != 0 then m.stopSamples b t else m
  let held := m.heldBy b target at_
  let m := m.modBsn b fun x => { x with window := x.window.filter fun h => h.entry == target, asked := [] }
  let next := m.seek b false 64 target
  let samp := m.seek b true 64 target
  let deck := fun (s : Bool) => (m.bsn b).deck.bind fun d => if d.onDeck then m.seek b s 64 (m.desc d.ctx 8 2) else none
  let m := m.each (m.lanes b) fun m p => m.modPin p fun x => { x with fifo := [], deckFifo := [], rPtr := next, rDeck := deck false }
  let m := m.each (m.deltasOf b) fun m k =>
    m.setDelta k { m.delta k with fifo := [], ptr := samp, deckFifo := [], deckPtr := deck true }
  let m := m.modDeck b fun d => { d with primedAt := none }
  let m := m.modRun b fun r => { r with landingEnd := some (t + 4096 * eclk) }
  let m := m.put (F.BSN_CRS_WIN_HELD b) (m.windowHeld b target)
  if held then m.enterEntry b target true t
  else (m.modRun b fun r => { r with succ := some (target, true) }).request b target

/-- The course leaves an entry by NEXT (R137): it enters the successor where that was held at the decision, and else waits for it (R150, COURSE). -/
def Dev.takeNext (m : Dev) (b : Nat) (e : Entry) (r : Run) (t : Instant) : Dev :=
  let m := if e.sampMode != 0 then (m.stopSamples b t).passSamples b r.entry r.pass true else m
  if m.heldBy b e.next (decidedAt r.pauses (t - m.horizon b)) then m.enterEntry b e.next false t
  else m.modRun b fun r => { r with succ := some (e.next, false) }

end Sys2Proof.Machine
end

