-- ==== Sys2Proof/Machine/Start.lean ====
section
/-! DEFINITION. How a burst starts (R118, R163, R300) and what follows its end (R78, R119, R120). -/

namespace Sys2Proof.Machine

/-- Descriptor flags (Table 10.1, byte 6). -/
def Dev.descFlag (m : Dev) (c k : Nat) : Bool := bitOf (m.desc c 6 1) k

/-- A spare that waits takes over its pin at a burst boundary (R404): PIN_ENG_STAT shows it, and the faulty engine is recorded. Writes
to the faulty engine's store since the copy completed are in both stores. -/
def Dev.takeOver (m : Dev) (b : Nat) (t : Instant) : Dev :=
  let due := m.takeovers.filter fun e => m.basinOf e.1 == some b && decide (e.2 ≤ t)
  let m := { m with takeovers := m.takeovers.filter fun e => !due.contains e }
  m.each due fun m e =>
    let old := m.engineOf e.1
    let spare := 1024 + e.1 / 16
    let m := ((m.copyStore old spare).put (F.PIN_ENG_STAT_ENGINE e.1) spare).put (F.PIN_ENG_STAT_SPARE e.1) 1
    { m with faulty := if m.faulty.contains old then m.faulty else m.faulty ++ [old] }

/-- True while a tributary with a pin of basin b gathers for calibration or is in outage (R369): no start is decided and no successor
chains. -/
def Dev.calHeld (m : Dev) (b : Nat) : Bool := (m.allPins b).any fun p => m.get (F.TRB_CAL_STAT_STATE (p / 16)) == 2 || m.get (F.TRB_CAL_STAT_STATE (p / 16)) == 3

/-- The values that a burst start takes for one pin (R91, R118, R124, R170, R179, R219). -/
def Dev.startPin (m : Dev) (p : Nat) : Dev :=
  let pal := fun k => m.get (F.PIN_PAL_ENTRIES p k)
  let m := m.setPair (Reg.PIN_PAL_LIVE_LO p) (Reg.PIN_PAL_LIVE_HI p) (pal 0 + 2 ^ 16 * pal 1 + 2 ^ 32 * pal 2 + 2 ^ 48 * pal 3)
  let m := (m.setPair (Reg.PIN_VCNT_LO p) (Reg.PIN_VCNT_HI p) 0).setReg (Reg.PIN_ENG_SIG p) 0xFFFFFFFF
  let m := (m.setReg (Reg.PIN_GAU_FAIL p) 0).setPair (Reg.PIN_GAU_FFV_LO p) (Reg.PIN_GAU_FFV_HI p) (2 ^ 64 - 1)
  let m := m.put (F.PIN_TG_STAT_CLAMP_CNT p) 0
  let m := (m.takeForce (Reg.PIN_GAU_CTL p)).takeForce (Reg.PIN_FE_CTL p)
  let m := (m.put (F.PIN_ENG_STAT_DEPTH p) 0).put (F.PIN_ENG_STAT_STATE p) 2
  m.modPin p fun x => { x with stack := [], fifo := x.deckFifo, cur := none, rPtr := x.rDeck, deckFifo := [], rDeck := none }

/-- The per-burst registers of a basin clear at a burst start (R118, R161, R185, R220, Table 3.10). -/
def Dev.clearBurst (m : Dev) (b : Nat) : Dev :=
  let m := m.each (List.range 4) fun m k => m.put (F.BSN_LCTR_VALUE b k) 0
  let m := m.each [F.BSN_FLOW_STAT_MATCH_PASS b, F.BSN_FLOW_STAT_MATCH_FAIL b, F.BSN_FLOW_STAT_SYNCPT_COUNT b,
    F.BSN_FLOW_STAT_WAITING b, F.BSN_TS_STAT_SWITCHES b] fun m f => m.put f 0
  let m := m.each [Reg.BSN_CRS_JUMP b, Reg.BSN_STALL_CNT b, Reg.BSN_STALL_TIME_LO b, Reg.BSN_STALL_TIME_HI b, Reg.BSN_TS_EXT_LO b,
    Reg.BSN_TS_EXT_HI b, Reg.BSN_GAU_FAILS b, Reg.BSN_GAU_FAILVEC b, Reg.BSN_GAU_FIRST b] fun m r => m.setReg r 0
  let m := m.setPair (Reg.BSN_GAU_FFV_LO b) (Reg.BSN_GAU_FFV_HI b) (2 ^ 64 - 1)
  m.modBsn b fun x => { x with results := [], waiting := [], sync := none }

/-- The basin epoch is set where the basin has none (R163). -/
def Dev.setEpoch (m : Dev) (b : Nat) (t : Instant) : Dev :=
  if (m.bsn b).epoch.isSome then m
  else
    let m := (m.putStamp (F.BSN_TS_EPOCH_LO_NS b) (F.BSN_TS_EPOCH_HI_FRAC b) t).put (F.BSN_TS_EPOCH_HI_VALID b) 1
    m.modBsn b fun x => { x with epoch := some t, grid := t }

/-- The deskew values that a burst start takes: those written when its dispatch was delivered (R179). -/
def Dev.startDeskew (m : Dev) (b : Nat) : Dev :=
  m.each (m.allPins b) fun m p =>
    let m := if m.deckReg (Reg.PIN_DSK_DRV p) / 2 ^ 16 == m.inForce (Reg.PIN_DSK_DRV p) / 2 ^ 16 then m
      else (m.forceDeck (Reg.PIN_DSK_DRV p)).retarget p false
    if m.deckReg (Reg.PIN_DSK_CMP p) / 2 ^ 16 == m.inForce (Reg.PIN_DSK_CMP p) / 2 ^ 16 then m
    else (m.forceDeck (Reg.PIN_DSK_CMP p)).retarget p true

/-- The on-deck burst of basin b starts at instant t, chained or from hold (R118, R300). DESIGN CHOICE (log 102): IMMEDIATE fires at its start whether
its own ARM armed
capture, was held, or was refused because capture was armed already (R232, R233). -/
def Dev.startBurst (m : Dev) (b : Nat) (chained : Bool) (t : Instant) : Dev :=
  match (m.bsn b).deck with
  | none => m
  | some d =>
    let m := (m.takeOver b (if chained then t - m.horizon b else t)).setEpoch b t
    let m := m.leaveHold b t
    let m := ((m.forceTiming b).takeForce (Reg.BSN_FLOW_CTL b)).startDeskew b
    let m := (m.settleStrobes b t).each d.stages fun m e => m.setReg e.1 e.2
    let m := (m.clearBurst b).each (m.lanes b) Dev.startPin
    let i := m.desc d.ctx 8 2
    let r : Run := { ctx := d.ctx, startTick := t / tickUnits, start := t, chained := chained, deferTicks := d.deferTicks,
                     armCode := d.armCode, entry := i, aborting := d.aborting.map fun t => (0x03, t) }
    let m := m.modBsn b fun x => { x with
      run := some r, deck := none, pos := t, lastStart := some t, window := d.first.toList, farHorizon := [], ramp := 0, rampStart := none, primedBy := [] }
    let m := (m.setCtx d.ctx Ctx.running).setState b St.running
    let m := (m.putStamp (F.BSN_WEI_START_LO_NS b) (F.BSN_WEI_START_HI_FRAC b) t).put (F.BSN_WEI_START_HI_CHAINED b) (flag chained)
    let m := (m.put (F.BSN_WEI_STAT_PADDING b) 0).put (F.BSN_WEI_STAT_PACED b) 0
    let m := ((m.startDeltas b).startCapture b d.ctx t).startSeq b t
    let m := m.each (m.deltasOf b) fun m k =>
      let x := m.delta k
      m.setDelta k { x with fifo := x.deckFifo, ptr := x.deckPtr, deckFifo := [], deckPtr := none }
    let m := if m.descFlag d.ctx 1 then m.trigger b 2 t else m
    m.enterEntry b i false t

/-- A burst that does not start leaves the on-deck slot and completes with a status (R301, R293, R135). -/
def Dev.dropDeck (m : Dev) (b status detail : Nat) : Dev :=
  match (m.bsn b).deck with
  | none => m
  | some d =>
    let m := m.modBsn b fun x => { x with
      deck := none, done := x.done ++ [{ ctx := d.ctx, tick := m.tick, status := status, detail := detail, deferTicks := d.deferTicks }],
      ramp := 0, rampStart := none, primedBy := [] }
    let m := m.each (m.lanes b) fun m p => m.modPin p fun x => { x with deckFifo := [], rDeck := none, ramped := none }
    let m := m.each (m.deltasOf b) fun m k => m.setDelta k { m.delta k with deckFifo := [], deckPtr := none }
    m.setCtx d.ctx Ctx.ended

/-- What this device tells of basin b's next start (R72, R301). -/
def Dev.spanId (m : Dev) (b : Nat) (d : Deck) : SpanId :=
  ⟨d.primedAt.getD 0, (m.image.map (·.systemTag)).getD 0, b, m.get F.GLB_CATCH_GEN_GEN, m.desc d.ctx 0 4⟩

/-- True where every device of the span that has told of the next start agrees with this one (R72, R301). -/
def Dev.spanAgrees (m : Dev) (b : Nat) : Bool :=
  !(m.bdef b).span || (m.bsn b).deck.all fun d =>
    (m.bsn b).primedBy.all fun i => { i with at_ := 0 } == { m.spanId b d with at_ := 0 }

/-- The PPMUs of a basin shut down at once with its disable (Table 6.9). -/
def Dev.shutPpmus (m : Dev) (b : Nat) : Dev :=
  m.each ((m.allPins b).filter fun p => m.on (F.PIN_PMU_CTL_ENABLE p) || m.on (F.PIN_PMU_STAT_CONNECTED p)) Dev.ppmuShut

/-- True where every ready list of basin b is empty, on chip and in its overflow chains. -/
def BasinX.listsEmpty (x : BasinX) : Bool := x.lists.all List.isEmpty && x.chains.all List.isEmpty

/-- A RUNNING basin with no burst running, on deck or ready returns to IDLE (R78). -/
def Dev.idleCheck (m : Dev) (b : Nat) : Dev :=
  let x := m.bsn b
  if m.bstate b == St.running && x.run.isNone && x.deck.isNone && x.listsEmpty then m.setState b St.idle else m

/-- True where the on-deck burst of basin b chains at the end boundary t of the running burst that started at `start` (R300). -/
def Dev.chains (m : Dev) (b : Nat) (start t : Instant) : Bool :=
  let x := m.bsn b
  match x.deck with
  | none => false
  | some d =>
    (d.primedAt.any fun p => decide (p + m.horizon b ≤ t)) && !m.descFlag d.ctx 4 &&
    decide (start + (m.bdef b).minBurst * tickUnits ≤ t) && !x.closing && x.recourseState == 0 &&
    m.on F.WEI_STAT_DISPATCHING && !m.calHeld b &&
    (!(m.bdef b).span || decide ((m.bdef b).spanDevices ≤ (x.primedBy.filter fun i => decide (i.at_ + m.horizon b ≤ t)).length + 1))

/-- What follows the end of a burst of basin b at boundary t (R68, R78, R119, R120): a chained start, shutdown, hold, or IDLE. The
basin of a withdrawal or a re-course leaves hold by those operations' own steps. -/
def Dev.afterEnd (m : Dev) (b : Nat) (closing : Bool) (t : Instant) : Dev :=
  let m := (m.marksOff b t).leaveHold b t
  if closing then
    let m := m.returnDeck b 4
    ((m.setState b St.shutting).enterHold b t 1).shutPpmus b
  else
    let m := m.enterHold b t 1
    if m.bstate b == St.running && (m.bsn b).deck.isNone && (m.bsn b).listsEmpty then m.setState b St.idle else m

/-- The running burst ends by END or HALT at boundary t (R99, R120, R137), and its successor chains where it may; where the devices of a span
disagree it completes SPAN_MISMATCH instead (R301). -/
def Dev.endNormally (m : Dev) (b status : Nat) (t : Instant) : Dev :=
  match (m.bsn b).run with
  | none => m
  | some r =>
    let closing := (m.bsn b).closing
    let chain := m.chains b r.start t
    let m := (m.endBurst b status 0 t).takeCalOf b (chain && m.spanAgrees b)
    if chain && m.spanAgrees b then m.startBurst b true t
    else (if chain then m.dropDeck b 0x0D 0 else m).afterEnd b closing t

end Sys2Proof.Machine
end

