-- ==== Sys2Proof/Machine/Riffle.lean ====
section
/-! DEFINITION. The word commands (R92 to R103, R112 to R116): one meaning for each kind of vector word, over one shared check and
one shared play of the word at hand. -/

namespace Sys2Proof.Machine

/-- The words at hand of the given lanes; none where a streamed word has not landed (R93). -/
def Dev.fetchAll (m : Dev) : List Nat → Option (List (Nat × VecWord))
  | [] => some []
  | p :: t => match m.fetch p, m.fetchAll t with
    | some w, some l => some ((p, w) :: l)
    | _, _ => none

/-- The instant at which the horizon that decides on a streamed word at the boundary t was formed (R148): FLOW_LAT before the word's decode, which lies
2 ECLK before the ECLK edge at or before t. -/
def Dev.horizonAt (m : Dev) (b : Nat) (t : Instant) : Instant := t / eclk * eclk - 2 * eclk - m.flowLat b

/-- True where n streamed words lie complete in every lane of basin b by an instant (R148, R151). -/
def Dev.landedBy (m : Dev) (b n : Nat) (t : Instant) : Bool :=
  (m.lanes b).all fun p => decide (n ≤ (((m.pin p).fifo.takeWhile fun e => decide (e.1 ≤ t)).length))

/-- True where the stream horizon lies beyond the next streamed word of basin b (R148): complete in every lane here, and on the other devices of a
span as far as they have
told. A word that resumes from a stall has met its own condition (R151). -/
def Dev.beyond (m : Dev) (b : Nat) (r : Run) : Bool :=
  r.resumed || (m.landedBy b 1 (m.horizonAt b (m.bsn b).pos) && !((m.bdef b).span && (m.bsn b).farHorizon.any fun h => decide (h.2 ≤ r.taken)))

/-- The word at hand of a basin: its running burst, entry, every lane's word with the flow master's, and where it stands. -/
structure AtHand where
  run : Run
  entry : Entry
  words : List (Nat × VecWord)
  word : VecWord
  addr : Nat
  streamed : Bool
  tail : Bool

/-- The word at hand of basin b where its running burst may go on to a word: engines not halted, no stall, no pass boundary due (R92, R121, R148). A
streamed word
that has begun stays at hand. -/
def Dev.atHand (m : Dev) (b : Nat) : Option AtHand :=
  match (m.bsn b).run, m.lanes b with
  | some r, p :: _ =>
    if r.halted || r.stall.isSome || r.atBoundary then none
    else
      let a := (m.pin p).pc
      if a == streamAddr && (m.pin p).cur.isNone && !m.beyond b r then none
      else match m.fetchAll (m.lanes b) with
      | some ((q, w) :: ws) =>
        let e := m.entry b r.entry
        some { run := r, entry := e, words := (q, w) :: ws, word := w, addr := if a == streamAddr then 0 else a,
               streamed := a == streamAddr, tail := a != streamAddr && e.segKind == 0 && a == e.tail }
      | _ => none
  | _, _ => none

/-- True where a word's address lies in the range that a resident-block load has locked (R135). -/
def Dev.lockedAt (m : Dev) (b a : Nat) : Bool :=
  (m.bsn b).deck.any fun d => decide (d.lockFirst ≤ a) && decide (a < d.lockFirst + d.lockCount)

/-- The word at hand is checked as it is fetched and decoded (R81, R103, R135, R160, R170); the second component tells whether it may
play. Where course-format codes meet, the lowest is raised. -/
def Dev.checkWord (m : Dev) (b : Nat) (h : AtHand) : Dev × Bool :=
  let t := (m.bsn b).pos
  let store := if h.streamed then (m, true) else m.storeErrors (h.words.map (·.1)) h.addr t
  let m := store.1
  let breach := if h.streamed then h.words.filter fun q => m.contract b q.2 != 0 else []
  let plays := wPlays h.word
  let bad := if plays then (h.words.find? fun q => m.setBad b (wTset q.2)).map fun q => wTset q.2 else none
  let wrong := h.words.filter fun q => !(m.wordCodes b q.1 q.2 h.tail bad.isNone).isEmpty
  let course := if wKind h.word == Kind.halt then [] else m.courseCodes b h.entry h.run h.word h.streamed h.tail 1
  if !store.2 then (m, false)
  else if !h.streamed && m.lockedAt b h.addr then (m.courseFault b ((course ++ [0x0C]).headD 0x0C) h.run.entry t, false)
  else if !breach.isEmpty then (m.each breach fun n q => n.report Src.streamContract q.1 (m.contract b q.2) t, false)
  else if !wrong.isEmpty then
    (m.each wrong fun n q => n.wordFault q.1 ((m.wordCodes b q.1 q.2 h.tail bad.isNone).headD 0) h.addr h.streamed t, false)
  else match bad with
    | some s => (m.timingFault b s t, false)
    | none => if course.isEmpty then (m, true) else (m.courseFault b (course.headD 0) h.run.entry t, false)

/-- A streamed word leaves the refill FIFO of every lane as it is decoded (R82). -/
def Dev.decode (m : Dev) (h : AtHand) : Dev :=
  if !h.streamed then m
  else m.each h.words fun m q => m.modPin q.1 fun x => if x.cur.isSome then x else { x with cur := some q.2, fifo := x.fifo.drop 1 }

/-- A sync point is counted, its instant recorded, and the flow signatures compared (R113). -/
def Dev.syncPoint (m : Dev) (b : Nat) (t : Instant) : Dev :=
  let sigs := (m.lanes b).map fun p => m.reg (Reg.PIN_ENG_SIG p)
  let m := m.bump (F.BSN_FLOW_STAT_SYNCPT_COUNT b)
  let m := m.setPair (Reg.BSN_SYNCPT_T_LO b) (Reg.BSN_SYNCPT_T_HI b) (m.stampNs t + 2 ^ 32 * m.stampFrac t)
  m.modBsn b fun x => { x with sync := some (t, sigs.all fun s => some s == sigs.head?) }

/-- FLOWSIG of every lane takes the bytes of its decoded word (R112). -/
def Dev.signWords (m : Dev) (l : List (Nat × VecWord)) : Dev :=
  m.each l fun m q => m.setReg (Reg.PIN_ENG_SIG q.1) (sigWord (m.reg (Reg.PIN_ENG_SIG q.1)) q.2)

/-- FLOWSIG of every lane takes a successor byte (R112). -/
def Dev.signSucc (m : Dev) (l : List (Nat × VecWord)) (v : Nat) : Dev :=
  m.each l fun m q => m.setReg (Reg.PIN_ENG_SIG q.1) (sigByte (m.reg (Reg.PIN_ENG_SIG q.1)) v)

/-- The marker lines of a basin follow the word that begins at `start`, its predecessor having ended at t (R114, R139): they are the OR of its MARK and the
entry's EMARK; a bit set in both words stays without a gap. The flow master alone drives them (R111). -/
def Dev.followMarks (m : Dev) (b mark : Nat) (t start : Instant) : Dev :=
  if (m.flowMaster b).isNone then m
  else
    let v := mark ||| ((m.curEntry b).map (·.emark)).getD 0
    (m.setMarks b ((m.bsn b).marks &&& v) t).setMarks b v start

/-- A playing word begins (R112 to R116, R173, R176): the set switch with its COHERENT extension, which counts as stall time after a stall, the
engines' registers, markers,
the LOAD strobe and the sync point. The second component is the word's first vector boundary. -/
def Dev.beginWord (m : Dev) (b : Nat) (h : AtHand) (state : Nat) : Dev × Instant :=
  let x := m.bsn b
  let s := wTset h.word
  let switch := x.tset != s
  let start := if switch && m.coherent b s then gridUp x.grid x.pos (m.period b s) else x.pos
  let m := m.decode h
  let m := m.each h.words fun m q => m.extendStream b q.1 q.2 x.pos start
  let m := if h.run.resumed then
      (m.setPair (Reg.BSN_STALL_TIME_LO b) (Reg.BSN_STALL_TIME_HI b)
        (m.pair (Reg.BSN_STALL_TIME_LO b) (Reg.BSN_STALL_TIME_HI b) + (start - x.pos))).modRun b fun r => { r with
          resumed := false, pauses := match r.pauses with
            | (s, _) :: l => (s, start) :: l
            | [] => [] }
    else m.extend b (start - x.pos)
  let m := (m.showSet b s).showPc b h.addr h.streamed state
  let m := m.put (F.BSN_CRS_POS_STATE b) (h.run.courseState start)
  let m := m.signWords h.words
  let m := m.followMarks b (wMark h.word) x.pos start
  let m := if wLoad h.word then m.loadStrobe b start else m
  let m := if wSyncpt h.word then m.syncPoint b start else m
  (m, start)

/-- Plays n symbols of each lane's word, one lane after the other, drawing the free values they need. -/
def Dev.playLanes (m : Dev) (b : Nat) (switch : Bool) (t : Instant) (l : List (Nat × Instant × Int)) (n : Nat) :
    List (Nat × VecWord) → Dev × List (Nat × PlayAcc)
  | [] => (m, [])
  | (p, w) :: ws =>
    let a := m.playPin b p w t (m.guardOf p switch) l n
    let r := Dev.playLanes { m with drawn := m.drawn + a.drawn } b switch t l n ws
    (r.1, (p, { a with drawn := 0 }) :: r.2)

/-- The symbols of n that begin before the instant at which the engines are halted (R121); all where they are not. -/
def symbolsBefore (halt : Option Instant) (start : Instant) (period slot spv n : Nat) : Nat :=
  match halt with
  | none => n
  | some h => ((List.range n).takeWhile fun i => decide (start + i / spv * period + i % spv * slot < h)).length

/-- The first k vectors of the word at hand play from an instant (R88 to R91, R106, R215 to R220, R229): drive state, transitions,
verdicts, vector results and captured slots; the reports of its symbols come last. A reaction that halts the engines ends the play at the symbol
reached (R121). -/
def Dev.playWord (m : Dev) (b : Nat) (h : AtHand) (switch : Bool) (t : Instant) (seen : Seen) (k : Nat) : Dev :=
  let s := wTset h.word
  let spv := m.spv b s
  let per := m.period b s
  let slot := m.slotLen b s
  let stop := t + k * per
  let n := symbolsBefore seen.halt t per slot spv (k * spv)
  let halted := decide (n < k * spv)
  let k := if halted then n / max 1 spv else k
  let r := m.playLanes b switch t seen.wave n h.words
  let accs := r.2
  let vcnt := fun (p : Nat) => m.pair (Reg.PIN_VCNT_LO p) (Reg.PIN_VCNT_HI p)
  let first := ((h.words.head?).map fun q => vcnt q.1).getD 0
  let m := r.1
  let m := m.each accs fun m a => m.endPin a.1 a.2 (vcnt a.1) k (wMinPlay h.word slot spv)
  let m := m.each (List.range k) fun m v => m.closeVector b (first + v) (accs.map fun a => (a.1, a.2.vecs.reverse.getD v {}))
  let m := if h.words.any fun q => wCapt q.2 then
      m.capTake b (capturedSlots accs t per slot spv first h.run.entry (h.run.pass % 2 ^ 32)) else m
  let at_ := if halted then seen.halt.getD stop else stop
  let m := m.modBsn b fun x => { x with pos := at_ }
  let m := if halted then (m.modRun b fun r => { r with halted := true }).engState b 0 else m
  let m := m.each (m.deltasOf b) fun m u => m.playSamples u (at_ - 1)
  let m := m.each accs fun m a => m.edgeClamp a.1 a.2.clamps t
  m.each accs fun m a => m.each a.2.reports fun m e => m.report e.1 a.1 e.2.1 e.2.2

/-- The word at hand completes (R82, R93, R112, R129 to R131): a streamed word is counted; the pass ends with its last streamed word or its tail word,
which must find the
count of the entry filled, and else each lane goes to its successor, which must not be a streamed word beyond the entry's WORDS. `byte` is the successor
byte of R112, `succ` each lane's address. A word whose engines were halted does not complete (R121). -/
def Dev.endWord (m : Dev) (b : Nat) (h : AtHand) (byte : Nat) (succ : Nat → VecWord → Nat) : Dev :=
  if (m.bsn b).run.any (·.halted) then m
  else
    let t := (m.bsn b).pos
    let words := h.run.passWords + flag h.streamed
    let syms := h.run.passSyms + (if h.streamed then wSymbols h.word (((m.bsn b).run.map (·.waits)).getD 0) else 0)
    let ended := h.tail || (h.entry.segKind == 1 && h.streamed && words == h.entry.words)
    let m := m.signSucc h.words (if ended then 3 else byte)
    let m := m.each h.words fun m q => m.modPin q.1 fun x => { x with cur := none, pc := if ended then x.pc else succ q.1 q.2 }
    let m := m.modRun b fun r => { r with
      passWords := words, passSyms := syms, taken := r.taken + flag h.streamed, atBoundary := ended, waits := 0, timeoutDue := false }
    let next := (h.words.head?.map fun q => succ q.1 q.2).getD 0
    let short := h.entry.segKind == 1 && ended && decide (syms < 512 * h.entry.gran)
    let under := h.tail && decide (words < h.entry.words)
    let tooMany := !ended && h.entry.segKind == 0 && next == streamAddr && decide (h.entry.words ≤ words)
    if short || under || tooMany then m.courseFault b 0x06 h.run.entry t else m

/-- The successor NEXT of every lane's word. -/
def toNext : Nat → VecWord → Nat := fun _ w => wNext w

/-- The successor in COUNT [11:0]: ALT or EXIT. -/
def toAddr2 : Nat → VecWord → Nat := fun _ w => wAddr2 w

/-- A whole playing word of kind k: checked, played, and answered with the word at hand as it stood (R92). -/
def Dev.runWord (m : Dev) (b k : Nat) (seen : Seen) (after : Dev → AtHand → Dev) : Dev :=
  match m.atHand b with
  | none => m
  | some h =>
    if wKind h.word != k then m
    else
      let c := m.checkWord b h
      if !c.2 then c.1
      else
        let switch := (m.bsn b).tset != wTset h.word
        let r := c.1.beginWord b h 2
        let n := (wSpan h.word + 1) * passesOf h.word / max 1 (m.spv b (wTset h.word))
        let q := r.1.playWord b h switch r.2 seen n
        if (q.bsn b).run.any (·.halted) then q else after q h

/-- The decision of a boundary is taken, and consumed where it is true (R105, R107). -/
def Dev.takeDecision (m : Dev) (b cond : Nat) : Dev × Bool :=
  let t := (m.bsn b).pos
  let d := cond != 14 && m.decision b cond t
  let m := if cond == 14 then m else m.tellSpan { basin := b, decisions := [(t, d)] }
  (if d then m.consume b cond (t - m.flowLat b) t else m, d)

/-- WORD_RUN (R96). A word of a reserved kind is decoded here and raises its word-format fault (R103). -/
def Dev.wordRun (m : Dev) (b : Nat) (seen : Seen) : Dev :=
  match m.atHand b with
  | none => m
  | some h =>
    if 10 ≤ wKind h.word then (m.checkWord b h).1
    else m.runWord b Kind.run seen fun m h =>
      if h.tail then m.endWord b h 3 toNext
      else
        let r := m.takeDecision b (wCond h.word)
        if r.2 then r.1.endWord b h 2 toAddr2 else r.1.endWord b h 1 toNext

/-- WORD_REPEAT (R94). -/
def Dev.wordRepeat (m : Dev) (b : Nat) (seen : Seen) : Dev :=
  m.runWord b Kind.repeat seen fun m h => m.endWord b h 1 toNext

/-- WORD_LOOP_BEGIN (R97). -/
def Dev.wordLoopBegin (m : Dev) (b : Nat) (seen : Seen) : Dev :=
  m.runWord b Kind.loopBegin seen fun m h =>
    (m.put (F.BSN_LCTR_VALUE b (wLctr h.word)) (wCount h.word)).endWord b h 1 toNext

/-- WORD_LOOP_END (R97). -/
def Dev.wordLoopEnd (m : Dev) (b : Nat) (seen : Seen) : Dev :=
  m.runWord b Kind.loopEnd seen fun m h =>
    let r := m.takeDecision b (wCond h.word)
    let f := F.BSN_LCTR_VALUE b (wLctr h.word)
    if r.2 then r.1.endWord b h 2 toAddr2
    else if r.1.get f ≠ 0 then (r.1.put f (r.1.get f - 1)).endWord b h 1 toNext
    else r.1.endWord b h 2 toAddr2

/-- The call stack of a pin changes (R98), and DEPTH with it. -/
def Dev.setStack (m : Dev) (p : Nat) (l : List Nat) : Dev :=
  (m.modPin p fun x => { x with stack := l }).put (F.PIN_ENG_STAT_DEPTH p) l.length

/-- WORD_CALL (R98). -/
def Dev.wordCall (m : Dev) (b : Nat) (seen : Seen) : Dev :=
  m.runWord b Kind.call seen fun m h =>
    (m.each h.words fun m q => m.setStack q.1 (wAddr2 q.2 :: (m.pin q.1).stack)).endWord b h 1 toNext

/-- WORD_RETURN (R98). -/
def Dev.wordReturn (m : Dev) (b : Nat) (seen : Seen) : Dev :=
  m.runWord b Kind.ret seen fun m h =>
    let n := m.each h.words fun m q => m.setStack q.1 ((m.pin q.1).stack.drop 1)
    n.endWord b h 2 fun p _ => (m.pin p).stack.headD 0

/-- What follows a repetition of the WAIT at hand at the boundary that ends it (R95): the wait ends on its condition, waits for its timeout after the COUNT-th
repetition, or goes on. `from_` is where the wait began. -/
def Dev.waitBoundary (m : Dev) (b : Nat) (h : AtHand) (from_ : Instant) : Dev :=
  if (m.bsn b).run.any (·.halted) then m
  else
    let t := (m.bsn b).pos
    let d := m.takeDecision b (wCond h.word)
    if d.2 && (wCond h.word != 13 || decide (from_ + m.flowLat b ≤ t)) then
      (d.1.endWord b h 1 toNext).put (F.BSN_FLOW_STAT_WAITING b) 0
    else if wCount h.word ≠ 0 ∧ wCount h.word ≤ h.run.waits + 1 then m.modRun b fun x => { x with timeoutDue := true }
    else m

/-- WORD_WAIT: one repetition (R95). The first begins the word. A streamed WAIT that would carry its pass past the granules plays no further (R129). -/
def Dev.wordWait (m : Dev) (b : Nat) (seen : Seen) : Dev :=
  match m.atHand b with
  | none => m
  | some h =>
    if wKind h.word != Kind.wait || h.run.timeoutDue then m
    else
      let begins := h.run.waits == 0
      let c := if begins then m.checkWord b h else (m, true)
      let tooMany := !begins && (m.courseCodes b h.entry h.run h.word h.streamed h.tail (h.run.waits + 1)).contains 0x06
      if !c.2 then c.1
      else if tooMany then m.courseFault b 0x06 h.run.entry (m.bsn b).pos
      else
        let switch := (m.bsn b).tset != wTset h.word
        let r := if begins then c.1.beginWord b h 3 else (m, (m.bsn b).pos)
        let m := (r.1.put (F.BSN_FLOW_STAT_WAITING b) 1).modRun b fun x =>
          { x with waits := x.waits + 1, waitStart := if begins then r.2 else x.waitStart }
        (m.playWord b h switch r.2 seen 1).waitBoundary b h (if begins then r.2 else h.run.waitStart)

/-- WAIT_TIMEOUT (R95): the wait ends after its COUNT-th repetition, and TO_EVENT is registered at the boundary's sample time. -/
def Dev.waitTimeout (m : Dev) (b : Nat) : Dev :=
  match m.atHand b with
  | none => m
  | some h =>
    if !h.run.timeoutDue then m
    else
      let m := (m.put (F.BSN_FLOW_STAT_TIMEOUT b) 1).put (F.BSN_FLOW_STAT_WAITING b) 0
      let m := if m.getForce (F.BSN_FLOW_CTL_TO_EVENT_EN b) == 1 then
          m.registerEvent b (m.getForce (F.BSN_FLOW_CTL_TO_EVENT b)) ((m.bsn b).pos - m.flowLat b) else m
      m.endWord b h 1 toNext

/-- A non-playing word of kind k: checked, then its effect on each lane, then its successor NEXT (R92, R102). DESIGN CHOICE (log 95): the SYNCPT bit
of a word that plays
no vector, and so has no first vector boundary, is not acted on. -/
def Dev.runSilent (m : Dev) (b k : Nat) (act : Dev → Nat × VecWord → Dev) : Dev :=
  match m.atHand b with
  | none => m
  | some h =>
    if wKind h.word != k then m
    else
      let c := m.checkWord b h
      if !c.2 then c.1
      else
        let m := (c.1.decode h).signWords h.words
        let m := m.each h.words act
        let m := m.each h.words fun m q => m.modPin q.1 fun x => { x with nonPlay := x.nonPlay + 1 }
        m.endWord b h 1 toNext

/-- WORD_PALETTE_LOAD (R100). -/
def Dev.wordPalette (m : Dev) (b : Nat) : Dev :=
  m.runSilent b Kind.palette fun m q =>
    let v := (onesOf 4 (wCount q.2)).foldl
      (fun v k => setBits v (16 * k + 15) (16 * k) (wbits q.2 (16 * k + 15) (16 * k))) (m.palettes q.1)
    m.setPair (Reg.PIN_PAL_LIVE_LO q.1) (Reg.PIN_PAL_LIVE_HI q.1) v

/-- WORD_LEVEL_STAGE (R101). -/
def Dev.wordLevelStage (m : Dev) (b : Nat) : Dev :=
  m.runSilent b Kind.levelStage fun m q => (m.settlePin q.1 (m.bsn b).pos).stageLevels q.1 (wCount q.2) q.2.toNat

/-- WORD_HALT (R99, R102, R120): it counts as a non-playing word, and the burst ends at the boundary that ends the preceding playing word. -/
def Dev.wordHalt (m : Dev) (b : Nat) : Dev :=
  match m.atHand b with
  | none => m
  | some h =>
    if wKind h.word != Kind.halt then m
    else
      let c := m.checkWord b h
      if !c.2 then c.1
      else
        let n := (c.1.decode h).signWords h.words
        (n.each h.words fun m q => m.modPin q.1 fun x => { x with nonPlay := x.nonPlay + 1 }).endNormally b 0x02 (m.bsn b).pos

/-- SYNCPT_VERDICT (R113): a mismatch of flow signatures on this device, or on another device of a span, sets DIVERGED and raises
flow-divergence. -/
def Dev.syncVerdict (m : Dev) (b : Nat) (othersAgree : Bool) : Dev :=
  match (m.bsn b).sync with
  | none => m
  | some (t, agree) =>
    let m := m.modBsn b fun x => { x with sync := none }
    if agree && (othersAgree || !(m.bdef b).span) then m
    else (m.put (F.BSN_FLOW_STAT_DIVERGED b) 1).report Src.flowDivergence b 0 t

/-- FLOW_LINK_MISS (R110): a device of a spanning basin that does not lead it raises flow-link. -/
def Dev.flowMiss (m : Dev) (b : Nat) (t : Instant) : Dev :=
  if (m.bdef b).span && (m.bdef b).leader != m.deviceIndex && (m.bsn b).run.isSome then m.report Src.flowLink b 0 t else m

/-- The vectors of the word at hand that an aborted burst still plays (R306, R308): the word begins where it has not begun, and a WAIT that has goes on. -/
def Dev.playRest (m : Dev) (b k : Nat) (seen : Seen) : Dev :=
  match m.atHand b with
  | none => m
  | some h =>
    if k == 0 || !wPlays h.word then m
    else if h.run.waits ≠ 0 then m.playWord b h false (m.bsn b).pos seen k
    else
      let c := m.checkWord b h
      if !c.2 then c.1
      else
        let switch := (m.bsn b).tset != wTset h.word
        let q := c.1.beginWord b h 2
        q.1.playWord b h switch q.2 seen k

/-- CANCEL_RUNNING_END (R306, R308): the aborted burst ends at the first vector boundary at or after its exchange point: after `k` vectors of the word
at hand, or after
`k` hold vectors of its stall; the engines pass to the hold word. A `k` that leads to another boundary has no effect. -/
def Dev.cancelEnd (m : Dev) (b k : Nat) (seen : Seen) : Dev :=
  match (m.bsn b).run with
  | none => m
  | some r =>
    match r.aborting with
    | none => m
    | some (status, point) =>
      let a := m.playRest b k seen
      if (a.bsn b).run.any (·.halted) then a
      else
        let a := if r.stall.isSome then
            a.modBsn b fun x => { x with pos := (x.hold.getD x.pos) + k * a.period b (a.holdSet b) }
          else a
        let vector := a.period b (if r.stall.isSome then a.holdSet b else (a.bsn b).tset)
        let closing := (a.bsn b).closing
        let t := (a.bsn b).pos
        if t < point || (decide (0 < k) && decide (point + vector ≤ t)) then m
        else (a.endBurst b status 0 t).afterEnd b closing t

end Sys2Proof.Machine
end

