-- ==== Sys2Proof/Machine/Sluice.lean ====
section
/-! DEFINITION. Sluice's words (R313 to R315, R330, R331): where an address lies, and what a corrected, retried or uncorrectable word
leaves behind. -/

namespace Sys2Proof.Machine

/-- The pseudo-channel of a byte address (R314). -/
def pseudoChannel (a : Nat) : Nat := bitsOf a 14 8 ^^^ bitsOf a 21 15

/-- The byte offset of an address within its pseudo-channel (R314). -/
def localOf (a : Nat) : Nat := a / 2 ^ 15 * 256 + a % 256

/-- The row of an address as one number over pseudo-channel, bank and row (R314). -/
def rowKey (a : Nat) : Nat :=
  pseudoChannel a * 2 ^ 24 + bitsOf (localOf a) 15 10 * 2 ^ 16 + localOf a / 2 ^ 16

/-- True for an address in the device-reserved region (Table 2.6: the first 256 MiB). -/
def deviceRegion (a : Nat) : Bool := decide (a < 0x10000000)

/-- Traffic classes, numbered as SLC_USEc. -/
def Cls.stream : Nat := 0
def Cls.capture : Nat := 1
def Cls.house : Nat := 2
def Cls.host : Nat := 3

/-- SLC_ERR takes an error (Table 11.11). -/
def Dev.slcErr (m : Dev) (cls kind a : Nat) : Dev :=
  let m := { m with slc := { m.slc with errors := (a, kind, cls) :: m.slc.errors.take 4095 } }
  let m := (m.setReg Reg.SLC_ERR_LO a).put F.SLC_ERR_HI_ADDR (a / 2 ^ 32)
  ((m.put F.SLC_ERR_HI_KIND kind).put F.SLC_ERR_HI_CLASS cls).put F.SLC_ERR_HI_PC (pseudoChannel a)

/-- A retry in a pseudo-channel (R330): more than 16 in one tick are a retry storm. -/
def Dev.retry (m : Dev) (a : Nat) : Dev :=
  let g := pseudoChannel a
  let n := Tbl.find 0 m.slc.retries g + 1
  let m := { m with slc := { m.slc with retries := Tbl.set 0 m.slc.retries g n } }
  if n = 17 then (m.put F.SLC_STAT_STORM 1).report Src.hbmStorm g 0 m.now else m

/-- A request to the stack of an address (R329): its last request is now. -/
def Dev.touch (m : Dev) (a : Nat) : Dev :=
  { m with slc := { m.slc with lastRequest := m.slc.lastRequest.set (pseudoChannel a / 64) m.tick } }

/-- What the controller found in the word at an address, read by a class (R330, R331): counted and recorded; a poisoned word marks its
row for repair (R332). -/
def Dev.eccFound (m : Dev) (cls a : Nat) (e : Ecc) : Dev :=
  match e with
  | .good => m
  | .corrected => (m.count F.SLC_ECC_CE_COUNT 1).slcErr cls 0 a
  | .retried => ((m.count F.SLC_ECC_RETRY_COUNT 1).slcErr cls 1 a).retry a
  | .poisoned =>
    let m := (m.count F.SLC_ECC_UE_COUNT 1).slcErr cls 2 a
    { m with slc := { m.slc with marked := if m.slc.marked.contains (rowKey a) then m.slc.marked else m.slc.marked ++ [rowKey a] } }

/-- The report of a poisoned word, once for each word and tick (Table 11.8, Table 11.10): by the device source in the device-reserved
region, else for a basin. -/
def Dev.poisonReport (m : Dev) (b a : Nat) : Dev :=
  if m.slc.reported.contains a then m
  else
    let m := { m with slc := { m.slc with reported := a :: m.slc.reported } }
    if deviceRegion a then m.report Src.hbmDevice (pseudoChannel a) 0 m.now else m.report Src.hbmBasin b 0 m.now

/-! ## Units of HOST requests (R315) -/

/-- The 64-byte units that len bytes at an address touch. -/
def unitsTouched (a len : Nat) : Nat := if len = 0 then 0 else (a + len - 1) / 64 - a / 64 + 1

/-- What a host write of len bytes at an address costs (R315): one unit where it covers whole aligned 8-byte words of the unit, else two. -/
def writeUnits (a len : Nat) : Nat :=
  let front := a % 8 ≠ 0
  let back := (a + len) % 8 ≠ 0
  let one := a / 64 = (a + len - 1) / 64
  unitsTouched a len + (if len = 0 then 0 else if one then flag (front || back) else flag front + flag back)

/-- Units of HOST requests that wait for service (R316). -/
def Dev.askHost (m : Dev) (n : Nat) : Dev := { m with slc := { m.slc with hostUnits := m.slc.hostUnits + n } }

/-! ## Capacity (R316 to R321) -/

/-- Amounts wanted in order are served from what is left: each takes what it can. -/
def giveEach : Nat → List (Nat × Nat) → List (Nat × Nat)
  | _, [] => []
  | n, (b, k) :: l => (b, min n k) :: giveEach (n - min n k) l

/-- The sum of the amounts served. -/
def amounts (l : List (Nat × Nat)) : Nat := l.foldl (fun n e => n + e.2) 0

/-- The defined basins in the order in which capacity goes to them while demand exceeds it (R321). DESIGN CHOICE (log 107): the starting basin is the
tick's number
modulo 256. -/
def Dev.basinOrder (m : Dev) : List Nat :=
  (m.definedBasins.filter fun b => decide (m.tick % 256 ≤ b)) ++ m.definedBasins.filter fun b => decide (b < m.tick % 256)

/-- The capacity of a tick beside the HOST floor and the fixed HOUSE share (R318, R319, R321). -/
def Dev.basinCapacity (m : Dev) : Nat := m.get F.SLC_CAP_CAP_UNITS - 16 * (64 + 32)

/-- The STREAM allotment of each basin in a tick (R147, R316); where demand exceeds capacity, what it comes to (R321). -/
def Dev.streamAllots (m : Dev) : List (Nat × Nat) :=
  let l := m.basinOrder.map fun b => (b, (m.bdef b).streamSh)
  if m.on F.SLC_STAT_OVER then giveEach m.basinCapacity l else l

/-- The CAPTURE allotment of each basin in a tick (R316); where demand exceeds capacity, what it comes to after the STREAM allotments (R321). -/
def Dev.captureAllots (m : Dev) : List (Nat × Nat) :=
  let l := m.basinOrder.map fun b => (b, (m.bdef b).captureSh)
  if m.on F.SLC_STAT_OVER then giveEach (m.basinCapacity - amounts m.streamAllots) l else l

/-- True in the lead phase of an operating-point change (Table 11.5, step 2). -/
def Dev.leadPhase (m : Dev) : Bool := m.slc.step == 2 && !m.slc.force

/-- The units of STREAM and of the basins' HOUSE requests served in this tick. -/
def Dev.streamServed (m : Dev) : Nat := m.definedBasins.foldl (fun n b => n + (m.bsn b).stream) 0
def Dev.houseServed (m : Dev) : Nat := m.definedBasins.foldl (fun n b => n + (m.bsn b).house) 0

/-- True where basin b may take a STREAM unit now (R320): within its allotment, or in the lead phase from capacity that nothing has used. -/
def Dev.streamRoom (m : Dev) (b : Nat) : Bool :=
  decide ((m.bsn b).stream < (m.streamAllots.lookup b).getD 0) ||
  (m.leadPhase && decide (m.streamServed + m.houseServed < m.get F.SLC_CAP_CAP_UNITS))

/-- A unit is read for basin b by a class (R330, R331); the second component tells whether it came good. -/
def Dev.readUnit (m : Dev) (b cls a : Nat) (e : Ecc) : Dev × Bool :=
  let m := (m.touch a).eccFound cls a e
  if e = .poisoned then (m.poisonReport b a, false) else (m, true)

end Sys2Proof.Machine
end

