-- ==== Sys2Proof/Machine/CourseCmd.lean ====
section
/-! DEFINITION. The commands of courses and streaming (R123, R135, R137 to R159): pass boundaries, fetches, refill, stalls, sample
shortages, resident blocks, basin events and the loop-store window. -/

namespace Sys2Proof.Machine

/-! ## Boundaries -/

/-- PASS_BOUNDARY (R132, R137, R143): the course takes a jump, the next pass, the END, or NEXT. -/
def Dev.passBoundary (m : Dev) (b : Nat) : Dev :=
  match (m.bsn b).run, m.curEntry b with
  | some r, some e =>
    let t := (m.bsn b).pos
    if r.halted || !r.atBoundary || r.stall.isSome || r.succ.isSome then m
    else if t < r.passStart + max (256 * eclk) (m.horizon b) then m.courseFault b 0x08 r.entry t
    else
      let slot := m.jumpSlot b e r t
      let m := if e.jmask = 0 then m else m.tellSpan { basin := b, succs := [(t, slot.elim 0 (· + 1))] }
      match slot with
      | some k => m.takeJump b k (e.jumps.getD k 0) e r t
      | none =>
        if r.pass ≤ e.again then
          ((m.passSamples b r.entry r.pass false).beginPass b r.entry (r.pass + 1) t).put (F.BSN_CRS_POS_STATE b) (r.courseState t)
        else if e.last then m.endNormally b 0x01 t
        else if r.landing t then m.courseFault b 0x0A r.entry t
        else m.takeNext b e r t
  | _, _ => m

/-- LANDING_PERIOD_END (R143): the course shows PLAY again; the boundaries themselves compare with the period's end. -/
def Dev.landingEnd (m : Dev) (b : Nat) : Dev :=
  if m.get (F.BSN_CRS_POS_STATE b) == Crs.landing then m.put (F.BSN_CRS_POS_STATE b) Crs.play else m

/-! ## Fetch and refill -/

/-- COURSE_FETCH_DONE (R144, R145, R298, R331): within the HOUSE allowance and in order of request, the entry that was requested first lands in the
course window of the
running burst, or the entry that the on-deck burst begins with lands for it; a poisoned one is not held. -/
def Dev.courseFetch (m : Dev) (b i : Nat) (t : Instant) (ecc : Ecc) : Dev :=
  let deck := (m.bsn b).deck.filter fun d => d.onDeck && d.first.isNone
  let first := deck.any fun d => m.desc d.ctx 8 2 == i && !m.fetchWaits b d.asked && !m.recordWaits b d.asked
  let due := (m.bsn b).asked.head?.any fun e => e.1 == i && !deck.any (fun d => decide (d.asked < e.2)) && !m.recordWaits b e.2
  if !m.defined b || decide ((m.bdef b).courseLen < i) || !(first || due) || m.houseLeft b == 0 then m
  else
    let h : Held := ⟨i, t, m.bytes (m.entryAddr b i) 64⟩
    let r := (m.modBsn b fun x => { x with house := x.house + 1 }).readUnit b Cls.house (m.entryAddr b i) ecc
    if !r.2 then r.1
    else
      let m := if due then r.1.modBsn b fun x => { x with window := x.window ++ [h], asked := x.asked.drop 1 } else r.1
      let m := if first then m.modDeck b fun d => { d with first := some h } else m
      match (m.bsn b).run with
      | none => m
      | some r =>
        let at_ := (r.succ.map (·.1)).getD r.entry
        (m.put (F.BSN_CRS_WIN_HELD b) (m.windowHeld b at_)).request b at_

/-- Where a lane's next unit comes from (R146): the running burst's default path, or the on-deck burst's once it is on deck. -/
inductive Refill where
  | running (p : Ptr)
  | onDeck (p : Ptr)
  deriving DecidableEq, Repr

/-- The unit that a lane's refill is due, given its two pointers: of a held entry of the running burst's path, else of the on-deck burst's. -/
def Dev.refillOf (m : Dev) (b : Nat) (sample : Bool) (run deck : Option Ptr) : Option Refill :=
  let x := m.bsn b
  let held := fun (p : Ptr) => (m.heldEntry b p.entry).isSome
  match (if x.run.isSome then run.bind (m.settle b sample) else none) with
  | some p => if held p && m.windowHas b p.entry then some (.running p) else none
  | none => match deck.bind (m.settle b sample) with
    | some p => if held p && x.deck.any fun d => d.onDeck && d.entryHeld then some (.onDeck p) else none
    | none => none

/-- The lanes of basin b that refill serves, in order: its vector lanes by pin, then its sample lanes by tributary (R147, R158). -/
def Dev.refillLanes (m : Dev) (b : Nat) : List (Nat × Bool) := (m.lanes b).map (·, false) ++ (m.deltasOf b).map (·, true)

/-- The units that a lane is offered before any lane is offered more (R147, R158). -/
def Dev.allotment (m : Dev) (b : Nat) (l : Nat × Bool) : Nat :=
  if l.2 then laneDemand (m.delta l.1).div else ceilDiv (m.wordsPerTick b) 2

/-- The units that have landed for a lane in this tick. -/
def Dev.laneUsed (m : Dev) (l : Nat × Bool) : Nat := if l.2 then (m.delta l.1).units else (m.pin l.1).units

/-- True where a lane has a unit due and room for it in its FIFO: of 512 words, or of 4,096 samples (R146, R158). -/
def Dev.laneOpen (m : Dev) (b : Nat) (l : Nat × Bool) : Bool :=
  if l.2 then
    decide ((m.delta l.1).fifo.length + (m.delta l.1).deckFifo.length + 32 ≤ 4096) &&
      (m.refillOf b true (m.delta l.1).ptr (m.delta l.1).deckPtr).isSome
  else
    match m.refillOf b false (m.pin l.1).rPtr (m.pin l.1).rDeck with
    | some (.running q) | some (.onDeck q) =>
      decide ((m.pin l.1).fifo.length + (m.pin l.1).deckFifo.length + (m.unitWords b q 0).length ≤ 512)
    | none => false

/-- A list turned so that the element after position k comes first. -/
def turned {α : Type} (l : List α) (k : Nat) : List α := l.drop (k % max 1 l.length) ++ l.take (k % max 1 l.length)

/-- The lane that a unit beyond the allotments is offered to (R147): of those with room, the one offered fewest such units in this tick, the lanes
being taken in
turn from one that advances each tick. -/
def Dev.spareLane (m : Dev) (b : Nat) : Option (Nat × Bool) :=
  let open_ := (turned (m.refillLanes b) m.tick).filter fun l => m.laneOpen b l
  let used := fun (l : Nat × Bool) => m.laneUsed l - m.allotment b l
  open_.find? fun l => open_.all fun k => decide (used l ≤ used k)

/-- True where a unit may go to a lane now (R147): within its allotment; else once no lane with room has any of its own left, no resident block loads
(R135), and the lane's turn has come. The units of a basin in a tick stay within its STREAM_SH, but for what idle capacity gives in a lead phase (R320). -/
def Dev.mayRefill (m : Dev) (b : Nat) (l : Nat × Bool) : Bool :=
  let within := fun (k : Nat × Bool) => decide (m.laneUsed k < m.allotment b k)
  m.streamRoom b && m.laneOpen b l &&
  (within l || (((m.refillLanes b).all fun k => !(m.laneOpen b k && within k)) && m.get (F.BSN_RES_LOAD_STATE b) != 1 && m.spareLane b == some l))

/-- A unit of a lane is counted in its tick (R147). -/
def Dev.countUnit (m : Dev) (b : Nat) (l : Nat × Bool) : Dev :=
  let m := m.modBsn b fun x => { x with stream := x.stream + 1 }
  if l.2 then m.setDelta l.1 { m.delta l.1 with units := (m.delta l.1).units + 1 } else m.modPin l.1 fun x => { x with units := x.units + 1 }

/-- A vector unit lands in a lane's refill FIFO at an instant (R146, R147). -/
def Dev.refillWords (m : Dev) (b p : Nat) (t : Instant) (ecc : Ecc) : Dev :=
  let x := m.pin p
  let lane := (m.lanes b).idxOf p
  match m.refillOf b false x.rPtr x.rDeck with
  | none => m
  | some (.running q) =>
    let r := m.readUnit b Cls.stream (m.unitAddr b false q lane) ecc
    if !r.2 then r.1
    else r.1.modPin p fun x => { x with fifo := x.fifo ++ (m.unitWords b q lane).map (t, ·), rPtr := m.nextUnit b false q }
  | some (.onDeck q) =>
    let r := m.readUnit b Cls.stream (m.unitAddr b false q lane) ecc
    if !r.2 then r.1
    else r.1.modPin p fun x => { x with deckFifo := x.deckFifo ++ (m.unitWords b q lane).map (t, ·), rDeck := m.nextUnit b false q }

/-- A sample unit lands in a Delta unit's FIFO (R158). -/
def Dev.refillSamples (m : Dev) (b u : Nat) (ecc : Ecc) : Dev :=
  let x := m.delta u
  let lane := (m.deltasOf b).idxOf u
  match m.refillOf b true x.ptr x.deckPtr with
  | none => m
  | some (.running q) =>
    let r := m.readUnit b Cls.stream (m.unitAddr b true q lane) ecc
    if !r.2 then r.1
    else r.1.setDelta u { r.1.delta u with fifo := x.fifo ++ m.unitSamples b q lane, ptr := m.nextUnit b true q }
  | some (.onDeck q) =>
    let r := m.readUnit b Cls.stream (m.unitAddr b true q lane) ecc
    if !r.2 then r.1
    else r.1.setDelta u { r.1.delta u with deckFifo := x.deckFifo ++ m.unitSamples b q lane, deckPtr := m.nextUnit b true q }

/-- The stream horizon as link l is to hear it (R148): the first word of the running burst that is not complete in every lane here, or on a device
beyond another link. -/
def Dev.horizonFor (m : Dev) (b l : Nat) : Nat :=
  let own := (m.lanes b).foldl (fun n p => min n (m.pin p).fifo.length) 0xFFFFFFFF + ((m.bsn b).run.map (·.taken)).getD 0
  ((m.bsn b).farHorizon.filter (·.1 != l)).foldl (fun n e => min n e.2) own

/-- The stream horizon of a spanning basin goes out on its links (R148). -/
def Dev.tellHorizon (m : Dev) (b : Nat) : Dev :=
  if !(m.bdef b).span || (m.bsn b).run.isNone then m
  else m.each (m.flowLinks b) fun m l => m.sendFlow [l] { basin := b, horizon := some (m.horizonFor b l) }

/-- REFILL_UNIT_LAND (R146, R147, R158, R320): the next unit of the vector lane of pin p, or of the sample lane of its tributary, lands at an instant,
where the lane is
offered it. -/
def Dev.refillLand (m : Dev) (p : Nat) (sample : Bool) (t : Instant) (ecc : Ecc) : Dev :=
  if sample then
    match m.deltaOwner (p / 16) with
    | some b => if m.mayRefill b (p / 16, true) then (m.countUnit b (p / 16, true)).refillSamples b (p / 16) ecc else m
    | none => m
  else match m.basinOf p with
    | some b => if (m.lanes b).contains p && m.mayRefill b (p, false) then ((m.countUnit b (p, false)).refillWords b p t ecc).tellHorizon b else m
    | none => m

/-! ## Stalls -/

/-- Causes of a stall record (Table 4.4). -/
def Cause.refill : Nat := 1
def Cause.course : Nat := 2
def Cause.sample : Nat := 3

/-- BSN_STALL_LAST holds the start and cause of the latest stall record (R153). -/
def Dev.stallLast (m : Dev) (b cause : Nat) (t : Instant) : Dev :=
  (m.putStamp (F.BSN_STALL_LAST_LO_NS b) (F.BSN_STALL_LAST_HI_FRAC b) t).put (F.BSN_STALL_LAST_HI_CAUSE b) cause

/-- A stall record joins the running burst's, up to the eight that its completion carries (R153). -/
def Dev.addStall (m : Dev) (b cause word : Nat) (t : Instant) (unit : Nat) : Dev :=
  let r0 := (m.bsn b).run
  let s : StallRec := ⟨m.stampNs t, m.stampFrac t, cause, (r0.map (·.entry)).getD 0, 0, word, unit⟩
  m.modRun b fun r => { r with underrun := true, stalls := if r.stalls.length < 8 then r.stalls ++ [s] else r.stalls }

/-- ABORT policy (R154): the pins enter the safe state, the burst completes UNDERRUN_ABORT with one stall record of COUNT 0, the
on-deck burst returns, the basin enters HELD, and stream-underrun reports. -/
def Dev.underrunAbort (m : Dev) (b : Nat) (t : Instant) : Dev :=
  let m := (m.capUnder b t).endBurst b 0x0A 0 t
  let m := (m.returnDeck b 2).stopTones b t
  ((m.safeBasin b false t).setState b St.held).report Src.streamUnderrun b 0 t

/-- STREAM_UNDERRUN (R148, R150): a streamed word due lies not within the stream horizon, or the successor entry of a boundary was not held at its decision; the
basin stalls on its hold word, or aborts. -/
def Dev.streamUnderrun (m : Dev) (b : Nat) : Dev :=
  match (m.bsn b).run with
  | none => m
  | some r =>
    let t := (m.bsn b).pos
    let missing := !r.atBoundary && (m.master b).any fun p => m.streamed p && (m.pin p).cur.isNone && !m.beyond b r
    if r.halted || r.stall.isSome || !(r.succ.isSome || missing) then m
    else
      let cause := if r.succ.isSome then Cause.course else Cause.refill
      let word := if r.succ.isSome then 0 else r.passWords
      let m := (m.count (F.BSN_STALL_CNT_STALLS b) 1).stallLast b cause t
      if (m.bdef b).abort then (m.addStall b cause word t 0).underrunAbort b t
      else
        let m := m.modRun b fun r => { r with stall := some ⟨cause, t, word⟩, underrun := true }
        let m := ((m.capStall b t).followMarks b 0 t t).put (F.BSN_CRS_POS_STATE b) Crs.stall
        (m.enterHold b t 4).report Src.streamUnderrun b 0 t

/-- The words that every lane must hold for a stall to end (R151). -/
def Dev.wordsNeeded (m : Dev) (b : Nat) (r : Run) : Nat :=
  match r.succ with
  | some (i, _) => min (m.wordsPerTick b) (m.entry b i).words
  | none => min (m.wordsPerTick b) ((m.entry b r.entry).words - r.passWords)

/-- True where a stall of basin b may end at a hold-vector boundary (R151): FLOW_LAT before it, every lane held the words needed, and the successor
entry was held. -/
def Dev.stallMayEnd (m : Dev) (b : Nat) (r : Run) (t : Instant) : Bool :=
  let s := t - m.flowLat b
  m.landedBy b (m.wordsNeeded b r) s && (match r.succ with
    | some (i, _) => m.heldBy b i s
    | none => true)

/-- STALL_END (R151, R152, R176): the stall ends at the first hold-vector boundary, after `holds` hold vectors, at which it may; the stalled word, or
the successor's first
word, begins. -/
def Dev.stallEnd (m : Dev) (b holds : Nat) : Dev :=
  match (m.bsn b).run, (m.bsn b).hold with
  | some r, some g =>
    let per := m.period b (m.holdSet b)
    let t := g + holds * per
    if r.halted || r.stall.isNone || holds == 0 || !m.stallMayEnd b r t || (decide (2 ≤ holds) && m.stallMayEnd b r (t - per)) then m
    else
      let from_ := (r.stall.map (·.start)).getD t
      let m := ((m.closeStall b t).leaveHold b t).modBsn b fun x => { x with pos := t }
      let m := match r.succ with
        | some (i, landing) => m.enterEntry b i landing t
        | none => (m.put (F.BSN_CRS_POS_STATE b) (r.courseState t)).engState b 2
      m.modRun b fun r => { r with resumed := true, pauses := (from_, t) :: r.pauses }
  | _, _ => m

/-- SAMPLE_SHORTAGE (R159): a Delta unit whose FIFO is dry holds its last sample from an instant; under the ABORT policy its basin
aborts. -/
def Dev.sampleShort (m : Dev) (t : Nat) (at_ : Instant) : Dev :=
  match m.deltaOwner t with
  | none => m
  | some b =>
    let m := m.playSamples t (at_ - 1)
    let x := m.delta t
    if (m.bsn b).run.isNone || x.dryAt.isSome || !x.fifo.isEmpty || x.due at_ == 0 then m
    else
      let m := (m.count (F.BSN_STALL_CNT_SAMPLE b) 1).stallLast b Cause.sample at_
      let m := (m.addStall b Cause.sample 0 at_ t).capUnder b at_
      if (m.bdef b).abort then m.underrunAbort b at_
      else ((m.setDelta t { x with dryAt := some at_ }).put (F.DLT_STAT_DRY t) 1).report Src.streamUnderrun b 0 at_

/-- SAMPLE_RESUME (R159): the unit resumes with the sample due at an instant; those it held back are passed over. -/
def Dev.sampleResume (m : Dev) (t : Nat) (at_ : Instant) : Dev :=
  let x := m.delta t
  match m.deltaOwner t with
  | none => m
  | some b =>
    if x.dryAt.isNone || decide (x.fifo.length < x.due at_) then m
    else
      let m := m.closeDry b t at_
      m.playSamplesN t (x.due at_)

/-! ## Resident blocks -/

/-- The HBM address of the resident block that a descriptor names (R134). -/
def Dev.resBlock (m : Dev) (b c : Nat) : Nat := (m.streamPart b).base + m.desc c 24 8

/-- True where a resident block passes its header checks and LCRC, lies inside STREAM_PART, and leaves the hold and pre-spin words alone
(R135, Table 4.2). -/
def Dev.resOk (m : Dev) (b c : Nat) : Bool :=
  let a := m.resBlock b c
  let h := m.bytes a 64
  let first := fieldAt h 0 2
  let count := fieldAt h 2 2
  let size := (m.lanes b).length * wordUnits count * 64
  let inside := fun (x : Nat) => decide (first ≤ x) && decide (x < first + count)
  decide (first < 2048) && decide (1 ≤ count) && decide (first + count ≤ 2048) && fieldAt h 4 2 == (m.lanes b).length &&
  fieldAt h 6 2 == 0 && fieldAt h 12 52 == 0 && decide (m.desc c 24 8 + 64 + size ≤ (m.streamPart b).size) &&
  crc32c (m.bytes (a + 64) size) == fieldAt h 8 4 && !inside (m.bdef b).hold &&
  !((m.bdef b).prespin && inside (m.bdef b).prespinAddr)

/-- The words of a resident block's lane k go to the loop store of an engine. -/
def Dev.loadLane (m : Dev) (a first count lanes k e : Nat) : Dev :=
  m.each (List.range count) fun m j =>
    m.setWord e (first + j) (BitVec.ofNat 256 (m.mem (a + 64 + (j / 2 * lanes + k) * 64 + j % 2 * 32) 32))

/-- RESIDENT_BLOCK_LOAD_DONE (R135, R331): the block is in the loop stores, or is refused and its burst does not start. -/
def Dev.resLoadDone (m : Dev) (b : Nat) (ecc : Ecc) : Dev :=
  match (m.bsn b).deck with
  | none => m
  | some d =>
    if m.get (F.BSN_RES_LOAD_STATE b) != 1 then m
    else
      let a := m.resBlock b d.ctx
      let r := m.readUnit b (if ecc = .poisoned then Cls.house else Cls.stream) a ecc
      if !r.2 then r.1.put (F.BSN_RES_LOAD_STATE b) 3
      else if !m.resOk b d.ctx then ((r.1.put (F.BSN_RES_LOAD_STATE b) 3).dropDeck b 0x0E 0).idleCheck b
      else
        let m := r.1
        let l := m.lanes b
        let m := m.each (List.range l.length) fun m k =>
          m.loadLane a (m.mem a 2) (m.mem (a + 2) 2) l.length k (m.engineOf (l.getD k 0))
        (m.put (F.BSN_RES_LOAD_STATE b) 2).modDeck b fun d => { d with loaded := true }

/-! ## Basin events and the loop-store window -/

/-- EVENT_REGISTER (R105, R221): an edge reaches line 0 to 7, a basin event, or 8, the TRIG condition input. -/
def Dev.eventRegister (m : Dev) (b line : Nat) (rise : Bool) (t : Instant) : Dev := m.lineEdge b line rise t

/-- BSN_EVENT_SET (R105): events are registered at the exchange point that delivers the write. -/
def Dev.eventSet (m : Dev) (b mask : Nat) : Dev :=
  if m.defined b then m.each (onesOf 8 mask) fun m e => m.registerEvent b e m.exchangeNow else m

/-- BSN_EVENT_CLEAR (R105): registered events are cleared at the exchange point; one registered in the same ECLK stays. -/
def Dev.eventClear (m : Dev) (b mask : Nat) : Dev :=
  let t := m.exchangeNow
  m.modBsn b fun x => { x with events := x.events.filter fun e => !(bitOf mask e.1 && decide (e.2 < t)) }

/-- True where the loop-store window refuses an access on pin p (R123). -/
def Dev.windowRefused (m : Dev) (p : Nat) (write : Bool) : Bool :=
  let b := (m.pinDef p).basin
  let st := if (m.basinOf p).isSome then m.bstate b else St.undefined
  m.engineOf p == 0x7FF || st == St.running || st == St.shutting || st == St.recoursing ||
  (write && st == St.idle && m.get (F.PIN_LS_ADDR_ADDR p) == (m.bdef b).hold) || m.on (F.PIN_LS_CTL_BUSY p)

/-- PIN_LS_DATA0 to PIN_LS_DATA7 of pin p as one word. -/
def Dev.windowData (m : Dev) (p : Nat) : VecWord :=
  BitVec.ofNat 256 ((List.range 8).foldr (fun k n => m.reg (Reg.PIN_LS_DATA p k) + 2 ^ 32 * n) 0)

/-- LS_WRITE and LS_READ (R123): the access starts, or is refused. -/
def Dev.windowStart (m : Dev) (p : Nat) (write : Bool) : Dev :=
  if m.windowRefused p write then m.put (F.PIN_LS_CTL_REFUSED p) 1
  else
    let m := m.put (F.PIN_LS_CTL_BUSY p) 1
    m.modPin p fun x => { x with window := some (write, m.get (F.PIN_LS_ADDR_ADDR p), m.windowData p) }

/-- A word is read through the window (R81, R123): a single-bit error is corrected and reported, and what a word with a double-bit error returns is
not known. -/
def Dev.storeRead (m : Dev) (p e a : Nat) : Dev :=
  let bad := m.flip e a == 2
  let m := if m.flip e a == 1 then m.report Src.storeCorrected p 0 m.now else m
  let m := m.each (List.range 8) fun m k =>
    m.setReg (Reg.PIN_LS_DATA p k) (if bad then (Config.freeValue 32 (m.drawn + k)).toNat else bitsOf (m.word e a).toNat (32 * k + 31) (32 * k))
  if bad then { m with drawn := m.drawn + 8 } else m

/-- LOOP_STORE_ACCESS_DONE (R123): the access completes; with AUTOINC the address goes on, wrapping at 2,047. -/
def Dev.windowDone (m : Dev) (p : Nat) : Dev :=
  match (m.pin p).window with
  | none => m
  | some (write, a, w) =>
    let e := m.engineOf p
    let m := (m.put (F.PIN_LS_CTL_BUSY p) 0).modPin p fun x => { x with window := none }
    let m := if write then m.setWord e a w else m.storeRead p e a
    if m.on (F.PIN_LS_ADDR_AUTOINC p) then m.put (F.PIN_LS_ADDR_ADDR p) (m.get (F.PIN_LS_ADDR_ADDR p) + 1) else m

/-- The pin that a report about engine e names: the pin it serves, else the lowest pin of its tributary or its own number. -/
def Dev.enginePin (m : Dev) (e : Nat) : Nat :=
  ((List.range 1024).find? fun p => m.engineOf p == e).getD (if e < 1024 then e else (e - 1024) * 16)

/-- LOOP_STORE_SCRUB (R81): every word of an engine's loop store is read through the second port; a single-bit error is corrected and reported. -/
def Dev.storeScrub (m : Dev) (e : Nat) : Dev :=
  let l := (m.flips.filter fun f => decide (2048 * e ≤ f.1) && decide (f.1 < 2048 * (e + 1)) && f.2 == 1).map (·.1)
  m.each l fun m k => (m.setFlip e (k - 2048 * e) 0).report Src.storeCorrected (m.enginePin e) 0 m.now

end Sys2Proof.Machine
end

