-- ==== Sys2Proof/Machine/Weir.lean ====
section
/-! DEFINITION. Weir (chapter 10) and Spate's start pacing (R416 to R421): ready lists, cancels, dispatch, delivery, starts from hold,
completions, and the tick program's share of them. -/

namespace Sys2Proof.Machine

/-! ## Ready lists (R293 to R296) -/

/-- Changes Weir's own state. -/
def Dev.modWeir (m : Dev) (f : WeirX → WeirX) : Dev := { m with weir := f m.weir }

/-- The queue of a context (R290). -/
def ctxQueue (c : Nat) : Nat := c / 1024

/-- The first READY check that a landed descriptor fails (Table 10.4); 0 for none. -/
def Dev.readyCode (m : Dev) (l : Landed) : Nat :=
  let c := l.ctx
  let prio := m.desc c 5 1
  if !l.clear || decide (16 ≤ prio) || decide (64 ≤ m.desc c 6 1) || m.desc c 7 1 ≠ 0 || m.desc c 40 8 ≠ 0 then 0x01
  else if m.desc c 4 1 ≠ ctxBasin c then 0x02
  else if 9 ≤ prio then 0x03
  else if m.descFlag c 1 && !m.descFlag c 0 then 0x04
  else 0

/-- The ready list of a descriptor (R294). -/
def Dev.listOf (m : Dev) (c : Nat) : Nat :=
  let prio := m.desc c 5 1
  if prio < 8 then prio else (m.bdef (ctxBasin c)).sqPrio.getD (ctxQueue c % 4) 0

/-- The on-chip entries in use, and those of them that are shared: each list's first entry is its reserved one (R295). -/
def Dev.onChip (m : Dev) : Nat :=
  m.basins.foldl (fun n e => e.2.lists.foldl (fun n l => n + l.length) n) 0
def Dev.sharedUsed (m : Dev) : Nat :=
  m.basins.foldl (fun n e => e.2.lists.foldl (fun n l => n + (l.length - 1)) n) 0

/-- True where an on-chip entry is free for list l of basin b (R295). -/
def Dev.entryFree (m : Dev) (b l : Nat) : Bool :=
  ((m.bsn b).lists.getD l []).isEmpty || decide (m.sharedUsed + 8 * m.definedBasins.length < 16384)

/-- A burst that passed its checks joins its list, or spills (R294, R295). -/
def Dev.joinList (m : Dev) (b l c : Nat) : Dev :=
  let spilled := !((m.bsn b).chains.getD l []).isEmpty || !m.entryFree b l
  if spilled then
    let m := m.modBsn b fun x => { x with chains := x.chains.modify l (· ++ [c]) }
    (m.setCtx c Ctx.spilled).trace Trace.spill l b c
  else (m.modBsn b fun x => { x with lists := x.lists.modify l (· ++ [c]) }).setCtx c Ctx.ready

/-- A burst ends before it starts: its completion waits for Weir (R303, R304). -/
def Dev.finish (m : Dev) (b c status detail : Nat) : Dev :=
  (m.setCtx c Ctx.ended).modBsn b fun x => { x with done := x.done ++ [{ ctx := c, tick := m.tick, status := status, detail := detail }] }

/-- WEI_CANCEL_STAT shows a result, and whether a cancel is held. -/
def Dev.cancelShow (m : Dev) : Dev :=
  (m.put F.WEI_CANCEL_STAT_HELD (flag (!m.weir.heldCancels.isEmpty))).put F.WEI_CANCEL_STAT_QUEUED (min m.weir.cancels.length 63)
def Dev.cancelResult (m : Dev) (r : Nat) : Dev := (m.put F.WEI_CANCEL_STAT_RESULT r).cancelShow

/-- A landed descriptor passes the READY checks, or completes DESC_INVALID; a cancel held for it annuls it (R293, R294, R306). -/
def Dev.makeReady (m : Dev) (l : Landed) : Dev :=
  let c := l.ctx
  let b := ctxBasin c
  let held := (m.weir.heldCancels.lookup c).isSome
  let m := m.modWeir fun w => { w with heldCancels := w.heldCancels.filter fun h => h.1 != c }
  let code := m.readyCode l
  if code ≠ 0 then
    let m := m.finish b c 0x0F code
    if held then m.cancelResult 2 else m
  else
    let n := m.listOf c
    let m := ((m.setMem (ctxAddr c + 49) 1 n).setMem (ctxAddr c + 52) 4 m.tick).trace Trace.ready n b c
    if held then (((m.trace Trace.annul 0 b c).finish b c 0x05 0).cancelResult 1)
    else m.joinList b n c

/-- Every descriptor that landed before this tick is made ready (R467). -/
def Dev.readyAll (m : Dev) : Dev :=
  let l := m.weir.landed
  (m.modWeir fun w => { w with landed := [] }).each l Dev.makeReady

/-- The overflow chains that hold a burst, as 8 b + l for list l of basin b; the first are those whose list has nothing on chip (R296). -/
def Dev.chainsHeld (m : Dev) : List Nat :=
  m.definedBasins.flatMap fun b => ((List.range 8).filter fun l => !((m.bsn b).chains.getD l []).isEmpty).map (8 * b + ·)
def Dev.chainsBare (m : Dev) : List Nat := m.chainsHeld.filter fun k => ((m.bsn (k / 8)).lists.getD (k % 8) []).isEmpty

/-- The chain whose turn it is: the first after the one served last (R296). -/
def Dev.chainTurn (m : Dev) : Option Nat :=
  let l := sortBy (fun a c => decide (a ≤ c)) m.chainsHeld
  (l.find? fun k => decide (m.weir.lastChain < k)).or l.head?

/-- UNSPILL_LAND (R296): the head of an overflow chain joins the tail of its list's on-chip part: at most 64 in a tick, a list with nothing on chip
ahead of every other, and the others in turn. -/
def Dev.unspill (m : Dev) (b l : Nat) : Dev :=
  let bare := m.chainsBare
  let first := bare.contains (8 * b + l)
  match (m.bsn b).chains.getD l [] with
  | [] => m
  | c :: rest =>
    if !m.entryFree b l || decide (64 ≤ m.weir.returns) || !(first || (bare.isEmpty && m.chainTurn == some (8 * b + l))) then m
    else
      let m := m.modWeir fun w => { w with returns := w.returns + 1, lastChain := if first then w.lastChain else 8 * b + l }
      let m := m.modBsn b fun x => { x with chains := x.chains.set l rest, lists := x.lists.modify l (· ++ [c]) }
      (m.setCtx c Ctx.ready).trace Trace.unspill l b c

/-! ## Cancels (R305 to R308, R422) -/

/-- A context leaves the lists and chains of its basin. -/
def BasinX.unlist (x : BasinX) (c : Nat) : BasinX :=
  { x with lists := x.lists.map (·.filter (· != c)), chains := x.chains.map (·.filter (· != c)) }

/-- True where a start of the on-deck burst is decided (R306, R422). -/
def BasinX.decided (x : BasinX) : Bool := x.rampStart.isSome || x.deck.any fun d => d.startTick.isSome

/-- The on-deck burst of basin b leaves the slot; its prefetch is discarded and pre-spin pins return to the hold word. -/
def Dev.clearDeck (m : Dev) (b : Nat) : Dev :=
  let m := m.modBsn b fun x => { x with deck := none, ramp := 0, rampStart := none, primedBy := [] }
  let m := m.each (m.lanes b) fun m p =>
    let m := if (m.pin p).ramped.isSome then m.put (F.PIN_ENG_STAT_STATE p) 1 else m
    m.modPin p fun x => { x with deckFifo := [], rDeck := none, ramped := none }
  m.each (m.deltasOf b) fun m k => m.setDelta k { m.delta k with deckFifo := [], deckPtr := none }

/-- True where slot c of its queue is doorbelled and not yet ready (R306). -/
def Dev.doorbelled (m : Dev) (c : Nat) : Bool :=
  let q := ctxQueue c
  let head := m.get (F.QP_STAT_SQ_HEAD q)
  let tail := Tbl.find 0 m.weir.sqTail q
  (m.weir.landed.any fun l => l.ctx == c) ||
  (m.on (F.QP_STAT_RUNNING q) && decide ((c % 1024 + 1024 - head) % 1024 < (tail + 1024 - head) % 1024))

/-- The exchange point of the next tick, from which a cancel that this tick program takes ends a running burst (R306). -/
def Dev.nextExchange (m : Dev) : Instant := m.exchangeNow + tickUnits

/-- A cancel is taken by the tick program (R306). `fixed` tells whether the basin's running burst has passed its chain sample. -/
def Dev.takeCancel (m : Dev) (fixed : Nat → Bool) (e : Nat × Bool × Nat) : Dev :=
  let c := e.1
  let abort := e.2.1
  let b := ctxBasin c
  let st := m.ctxState c
  let x := m.bsn b
  if st == Ctx.ready || st == Ctx.spilled then
    let same := m.mem (ctxAddr c + 52) 4 == e.2.2 % 2 ^ 32
    let m := m.modBsn b fun x => x.unlist c
    let m := if same then (m.trace Trace.annul 0 b c).finish b c 0x05 0 else (m.trace Trace.cancel 0 b c).finish b c 0x04 0
    (m.idleCheck b).cancelResult 1
  else if st == Ctx.onDeck then
    let fixed := fixed b && x.deck.any (·.primedAt.isSome)
    if !x.decided && !fixed then
      (((m.trace Trace.cancel 1 b c).clearDeck b).finish b c 0x04 0 |>.idleCheck b).cancelResult 1
    else if !abort then m.cancelResult 3
    else if x.rampStart.isSome then
      (((m.trace Trace.cancel 2 b c).clearDeck b).finish b c 0x04 0 |>.idleCheck b).cancelResult 1
    else ((m.trace Trace.cancel 2 b c).modDeck b fun d => { d with aborting := some m.nextExchange }).cancelResult 1
  else if st == Ctx.running then
    if !abort then m.cancelResult 3
    else ((m.trace Trace.cancel 2 b c).modRun b fun r => { r with aborting := r.aborting.or (some (0x03, m.nextExchange)) }).cancelResult 1
  else if st == Ctx.free && m.doorbelled c then
    (m.modWeir fun w => { w with heldCancels := w.heldCancels.filter (fun h => h.1 != c) ++ [(c, abort)] }).cancelShow
  else m.cancelResult 2

/-- Bursts that end before they start complete in bulk (R305): one entry for each queue, which names the last of them that became READY, and no
records; their contexts are free. -/
def Dev.bulk (m : Dev) (b status : Nat) (cs : List Nat) : Dev :=
  let cs := sortBy (fun a c => decide (m.mem (ctxAddr a + 52) 4 ≤ m.mem (ctxAddr c + 52) 4)) cs
  let m := m.each cs fun m c => m.setCtx c Ctx.free
  m.each (List.range 4) fun m i =>
    match (cs.filter fun c => ctxQueue c == 4 * b + i).reverse with
    | [] => m
    | c :: rest => m.modBsn b fun x => { x with
        done := x.done ++ [{ ctx := c, tick := m.tick, status := status, bulk := some (rest.length + 1), record := false }] }

/-- The contexts of basin b that are READY, SPILLED or ON_DECK, the one on deck first. -/
def BasinX.queued (x : BasinX) : List Nat := (x.deck.map (·.ctx)).toList ++ x.lists.flatten ++ x.chains.flatten

/-- A basin cancel is taken (R307): the bursts named that still wait end in bulk, and with ABORT the running burst ends. -/
def Dev.takeBasinCancel (m : Dev) (e : Nat × Bool × List Nat) : Dev :=
  let b := e.1
  let x := m.bsn b
  let deck := x.deck.any fun d => e.2.2.contains d.ctx && !x.decided
  let cs := (x.lists.flatten ++ x.chains.flatten).filter fun c => e.2.2.contains c
  let cs := (x.deck.filter fun _ => deck).elim cs fun d => d.ctx :: cs
  let m := m.each cs fun m c => m.modBsn b fun x => x.unlist c
  let m := if deck then m.clearDeck b else m
  let m := (m.bulk b 0x04 cs).idleCheck b
  if !e.2.1 then m
  else
    let m := m.modRun b fun r => { r with aborting := r.aborting.or (some (0x03, m.nextExchange)) }
    if (m.bsn b).rampStart.isSome then
      match (m.bsn b).deck with
      | some d => ((m.clearDeck b).finish b d.ctx 0x04 0).idleCheck b
      | none => m
    else m.modDeck b fun d => if d.startTick.isSome then { d with aborting := some m.nextExchange } else d

/-- The tick program takes the cancels that wait. -/
def Dev.takeCancels (m : Dev) (fixed : Nat → Bool) : Dev :=
  let cs := m.weir.cancels
  let bs := m.weir.basinCancels
  let m := m.modWeir fun w => { w with cancels := [], basinCancels := [] }
  ((m.each cs fun m e => m.takeCancel fixed e).each bs Dev.takeBasinCancel).cancelShow

/-- WEI_CANCEL (R306): the cancel waits for the tick program, or is dropped. -/
def Dev.weiCancel (m : Dev) (c : Nat) (abort : Bool) : Dev :=
  if 64 ≤ m.weir.cancels.length then m.put F.WEI_STAT_CANCEL_LOST 1
  else (m.modWeir fun w => { w with cancels := w.cancels ++ [(c, abort, m.tick)] }).cancelShow

/-- WEI_CANCEL_BASIN (R307). -/
def Dev.weiCancelBasin (m : Dev) (b : Nat) (abort : Bool) : Dev :=
  m.modWeir fun w => { w with basinCancels := w.basinCancels ++ [(b, abort, (m.bsn b).queued)] }

/-- BURST_TIMEOUT (R308): MAX_TICKS have passed since the start: the burst ends as a cancel taken in the preceding tick would end it. -/
def Dev.burstTimeout (m : Dev) (b : Nat) : Dev :=
  match (m.bsn b).run with
  | none => m
  | some r =>
    let n := m.desc r.ctx 12 4
    if n ≠ 0 ∧ r.start + n * tickUnits ≤ m.now then m.modRun b fun r => { r with aborting := r.aborting.or (some (0x06, m.exchangeNow)) } else m

/-! ## Dispatch, delivery and priming (R292, R293, R297 to R299) -/

/-- The first dispatch check that a descriptor fails (Table 10.4); 0 for none. -/
def Dev.dispatchCode (m : Dev) (b c : Nat) : Nat :=
  let d := m.bdef b
  let size := (m.part d.coursePart).size
  if d.courseLen < m.desc c 8 2 then 0x05
  else if 512 < m.desc c 10 2 ∨ m.desc c 16 8 % 64 ≠ 0 ∨ size < m.desc c 16 8 + 8 * m.desc c 10 2 then 0x06
  else if m.descFlag c 5 ∧ (m.desc c 32 8 % 64 ≠ 0 ∨ size < m.desc c 32 8 + 192) then 0x08
  else if m.descFlag c 3 ∧ (d.streamPart = 0xFFFF ∨ m.desc c 24 8 % 64 ≠ 0 ∨ (m.streamPart b).size < m.desc c 24 8 + 64) then 0x09
  else 0

/-- The list that a dispatch need of basin b would be served from, where its head is on chip. -/
def BasinX.headList (x : BasinX) : Option Nat :=
  ((List.range 8).find? fun l => !(x.lists.getD l []).isEmpty || !(x.chains.getD l []).isEmpty).filter fun l =>
    !(x.lists.getD l []).isEmpty

/-- True where basin b has a dispatch need. -/
def Dev.needs (m : Dev) (b : Nat) : Bool :=
  (m.bsn b).deck.isNone && (m.bstate b == St.idle || m.bstate b == St.running) && !(m.bsn b).listsEmpty

/-- Dispatches the head of list l of basin b (R297); one that fails a dispatch check completes DESC_INVALID. -/
def Dev.dispatchOne (m : Dev) (b l : Nat) : Dev :=
  match (m.bsn b).lists.getD l [] with
  | [] => m
  | c :: rest =>
    let m := (m.modBsn b fun x => { x with lists := x.lists.set l rest, need := none }).trace Trace.dispatch l b c
    let code := m.dispatchCode b c
    if code ≠ 0 then (m.finish b c 0x0F code).idleCheck b
    else (m.modBsn b fun x => { x with deck := some { ctx := c, list := l, tick := m.tick } }).setCtx c Ctx.onDeck

/-- The order of dispatch needs: need tick, BPRIO, basin (R297). -/
def needBefore (a c : Nat × Nat × Nat) : Bool :=
  decide (a.1 < c.1) || (a.1 == c.1 && (decide (a.2.1 < c.2.1) || (a.2.1 == c.2.1 && decide (a.2.2 ≤ c.2.2))))

/-- Weir's dispatch in one tick program (R297): at most 64 bursts. -/
def Dev.dispatch (m : Dev) : Dev :=
  if !m.on F.WEI_STAT_DISPATCHING then m.put F.WEI_STAT_DISP_LAST 0
  else
    let m := m.each m.definedBasins fun m b =>
      if m.needs b then m.modBsn b fun x => { x with need := x.need.or (some m.tick) } else m.modBsn b fun x => { x with need := none }
    let all := (m.definedBasins.filter m.needs).filterMap fun b => (m.bsn b).headList.map fun l =>
      (((m.bsn b).need.getD 0, (m.bdef b).bprio, b), l)
    let served := (sortBy (fun a c => needBefore a.1 c.1) all).take 64
    let m := m.each served fun m e => m.dispatchOne e.1.2.2 e.2
    let n := served.length
    (m.put F.WEI_STAT_DISP_LAST n).put F.WEI_STAT_DISP_PEAK (max n (m.get F.WEI_STAT_DISP_PEAK))

/-- The names of Table 10.3 that lie in a PIN_ block, and in a BSN_ block. -/
def setupPin : List String :=
  ["PIN_PAL", "PIN_DSK_DRV", "PIN_DSK_CMP", "PIN_FE_CTL", "PIN_LVL_STG", "PIN_GAU_CTL", "PIN_TS_DRV", "PIN_TS_RET", "PIN_TS_SOPEN",
   "PIN_TS_SCLOSE"]
def setupBsn : List String :=
  ["BSN_FLOW_CTL", "BSN_TS_PER_LO", "BSN_TS_PER_HI", "BSN_CAP_CTL", "BSN_CAP_PRE", "BSN_CAP_POST", "BSN_CAP_SEG", "BSN_CAP_RECS"]

/-- The pin whose PIN_ block holds a BAR0 offset (R122). -/
def pinAt (off : Nat) : Option Nat :=
  if 0x0100000 ≤ off ∧ off < 0x0500000 ∧ off % 0x10000 < 0x8000 then
    some ((off - 0x0100000) / 0x10000 * 16 + off % 0x10000 / 0x800)
  else none

/-- The basin whose BSN_ block holds a BAR0 offset (R77). -/
def basinAt (off : Nat) : Option Nat :=
  if 0x0500000 ≤ off ∧ off < 0x0600000 then some ((off - 0x0500000) / 0x1000) else none

/-- True where a setup list of basin b may write an offset (R292). -/
def Dev.setupOk (m : Dev) (b off : Nat) : Bool :=
  match rowOf off with
  | none => false
  | some r => match pinAt off, basinAt off with
    | some p, _ => setupPin.contains r.name && m.basinOf p == some b
    | none, some k => setupBsn.contains r.name && k == b
    | none, none => false

/-- A write of a capture parameter (R232): ignored while capture is armed, pending or shutting. -/
def Dev.capParam (m : Dev) (b off v : Nat) : Dev :=
  if m.capBusy b then m.put (F.BSN_CAP_STAT_CFG_IGNORED b) 1 else m.writeFields off v

/-- One setup-list entry is applied (R292). -/
def Dev.setupWrite (m : Dev) (b : Nat) (e : Nat × Nat) : Dev :=
  let off := e.1
  let v := e.2
  match rowOf off, pinAt off with
  | some r, some p =>
    if r.name == "PIN_LVL_STG" then m.modDeck b fun d => { d with stages := d.stages ++ [(off, v % 65536)] }
    else if r.name == "PIN_DSK_DRV" then m.userDeliver p false v
    else if r.name == "PIN_DSK_CMP" then m.userDeliver p true v
    else m.writeFields off v
  | some r, none =>
    if r.name == "BSN_CAP_CTL" then m.capFields b v
    else if r.name == "BSN_TS_PER_LO" || r.name == "BSN_TS_PER_HI" then (m.writeFields off v).stagePair b (off % 0x80 / 8)
    else if ["BSN_CAP_PRE", "BSN_CAP_POST", "BSN_CAP_SEG", "BSN_CAP_RECS"].contains r.name then m.capParam b off v
    else m.writeFields off v
  | none, _ => m

/-- BURST_DELIVERY (R170, R179, R232, R292, R299): the setup list is checked whole and applied, the timing and deskew values are taken,
and ARM is tried. -/
def Dev.deliver (m : Dev) (b : Nat) (ecc : Ecc) : Dev :=
  match (m.bsn b).deck with
  | none => m
  | some d =>
    if d.delivered || decide (m.tick < d.tick + 3) then m
    else
      let a := (m.part (m.bdef b).coursePart).base + m.desc d.ctx 16 8
      let n := m.desc d.ctx 10 2
      let l := (List.range n).map fun i => (m.mem (a + 8 * i) 4, m.mem (a + 8 * i + 4) 4)
      let r := if n = 0 then (m, true) else m.readUnit b Cls.house a ecc
      if !r.2 then r.1
      else if l.any fun e => !m.setupOk b e.1 then (r.1.dropDeck b 0x0F 0x07).idleCheck b
      else
        let m := (r.1.each l fun m e => m.setupWrite b e).takeTiming b
        let m := m.each (m.allPins b) fun m p => (m.takeDeck (Reg.PIN_DSK_DRV p)).takeDeck (Reg.PIN_DSK_CMP p)
        let q := if m.descFlag d.ctx 0 then m.burstArm b d.ctx else (m, 0)
        q.1.modDeck b fun d => { d with delivered := true, setupDone := true, armCode := q.2 }

/-- BURST_ON_DECK (R135, R146, R299): the burst enters the slot; refill and the resident-block load begin, and its range is locked. -/
def Dev.enterDeck (m : Dev) (b : Nat) : Dev :=
  match (m.bsn b).deck with
  | none => m
  | some d =>
    if !d.delivered || d.onDeck || decide (m.tick < d.tick + 4) then m
    else
      let i := m.desc d.ctx 8 2
      let res := m.descFlag d.ctx 3
      let a := m.resBlock b d.ctx
      let m := m.each (m.lanes b) fun m p => m.modPin p fun x => { x with rDeck := m.seek b false 64 i }
      let m := m.each (m.deltasOf b) fun m k => m.setDelta k { m.delta k with deckPtr := m.seek b true 64 i }
      let m := m.put (F.BSN_RES_LOAD_STATE b) (flag res)
      m.modDeck b fun d => { d with onDeck := true, asked := m.tick, lockFirst := if res then m.mem a 2 % 2048 else 0,
                                    lockCount := if res then m.mem (a + 2) 2 else 0 }

/-- True where the on-deck burst of basin b holds all that R298 asks. -/
def Dev.primed (m : Dev) (b : Nat) (d : Deck) : Bool :=
  let e := m.entry b (m.desc d.ctx 8 2)
  let n := min (2 * m.wordsPerTick b) e.words
  d.onDeck && d.setupDone && d.entryHeld && (!m.descFlag d.ctx 3 || d.loaded) &&
  (m.lanes b).all fun p => decide (n ≤ (m.pin p).deckFifo.length)

/-- BURST_PRIMED (R298): the on-deck burst holds its setup, first entry, resident block and first words from an instant on. -/
def Dev.prime (m : Dev) (b : Nat) (t : Instant) : Dev :=
  match (m.bsn b).deck with
  | none => m
  | some d => if d.primedAt.isNone && m.primed b d then m.modDeck b fun d => { d with primedAt := some t } else m

/-- The tick program sees bursts that have become primed (trace PREFETCH, Table 10.9). -/
def Dev.seePrimed (m : Dev) : Dev :=
  m.each m.definedBasins fun m b =>
    match (m.bsn b).deck with
    | some d => if d.primedAt.isSome && !d.seen then (m.modDeck b fun d => { d with seen := true }).trace Trace.prefetch 0 b d.ctx else m
    | none => m

/-- The burst of a spanning basin that is primed is reported over the basin's links, with its span identity, unless a tributary of the basin
gathers (R301, R355, Table 13.2). -/
def Dev.tellPrimed (m : Dev) : Dev :=
  m.each (m.definedBasins.filter fun b => (m.bdef b).span) fun m b =>
    match (m.bsn b).deck with
    | some d =>
      if d.primedAt.isNone || d.told || m.calHeld b then m
      else
        let i := m.spanId b d
        let m := m.modDeck b fun d => { d with told := true }
        { m with out := m.out ++ (onesOf 8 (m.bdef b).links).map fun l => .service l 3 [i.basin, i.at_, i.systemTag, i.gen, i.tag] }
    | none => m

/-! ## Starts from hold (R300, R301, R416 to R421) -/

/-- What a basin's start adds to its boundary's sum: its STEP, or its ramp increment (R416, R420). -/
def BasinDef.increment (d : BasinDef) : Nat := if d.prespin then ceilDiv d.stepCur (max 1 d.prespinTicks) else d.stepCur

/-- The current that basin b has reserved at boundary s (R416): an accepted start, or an accepted ramp. -/
def Dev.reservedAt (m : Dev) (s b : Nat) : Nat :=
  let d := m.bdef b
  match (m.bsn b).rampStart with
  | some s0 => if s0 ≤ s ∧ s < s0 + d.prespinTicks then d.increment else 0
  | none => if (m.bsn b).deck.any fun k => k.startTick == some s then d.stepCur else 0

/-- The sum reserved at boundary s, and the part of it announced by the leaders of spanning basins (R416, R418). -/
def Dev.reservedSum (m : Dev) (s : Nat) : Nat := m.definedBasins.foldl (fun n b => n + m.reservedAt s b) 0
def Dev.announcedSum (m : Dev) (s : Nat) : Nat :=
  (m.definedBasins.filter fun b => (m.bdef b).span && (m.bdef b).leader ≠ m.deviceIndex).foldl (fun n b => n + m.reservedAt s b) 0

/-- The boundary for which the tick program of this tick decides a start of basin b (R300, R301). -/
def Dev.startBoundary (m : Dev) (b : Nat) : Nat := m.tick + (if (m.bdef b).span then 3 else 2)

/-- True where basin b has a primed burst and no burst playing, and no start is decided. -/
def Dev.waitsToStart (m : Dev) (b : Nat) : Bool :=
  let x := m.bsn b
  x.run.isNone && (m.bstate b == St.idle || m.bstate b == St.running) && x.recourseState == 0 && !x.decided &&
  x.deck.any fun d => d.onDeck && d.primedAt.isSome

/-- True where MIN_BURST ticks have passed at a boundary since the previous start (R53). -/
def Dev.minBurstOver (m : Dev) (b s : Nat) : Bool :=
  match (m.bsn b).lastStart with
  | some t => decide (t + (m.bdef b).minBurst * tickUnits ≤ s * tickUnits)
  | none => true

/-- The DEFER reason that holds a start back before it is offered; 0 where none does (Table 10.10). -/
def Dev.holdReason (m : Dev) (b : Nat) : Nat :=
  if !m.minBurstOver b (m.startBoundary b) then 6
  else if m.calHeld b then 8
  else if (m.bdef b).span && decide ((m.bsn b).primedBy.length + 1 < (m.bdef b).spanDevices) then 7
  else 0

/-- The start of basin b's on-deck burst is accepted for boundary s, and announced to its span (R300, R301, R420). -/
def Dev.acceptStart (m : Dev) (b s : Nat) : Dev :=
  let d := m.bdef b
  let m := m.tellSpan { basin := b, start := some s }
  if d.prespin then
    (m.modBsn b fun x => { x with rampStart := some s, ramp := 0 }).modDeck b fun k => { k with startTick := some (s + d.prespinTicks) }
  else m.modDeck b fun k => { k with startTick := some s }

/-- A start is deferred for one tick by Spate (R417). -/
def Dev.deferStart (m : Dev) (b : Nat) : Dev :=
  match (m.bsn b).deck with
  | some d => ((m.modDeck b fun k => { k with deferTicks := min (k.deferTicks + 1) 0xFFFF }).put (F.BSN_WEI_STAT_PACED b) 1).trace
      Trace.defer 5 b d.ctx
  | none => m

/-- Offers candidates in order (R416): each accepted while its boundary's sum stays at or below the limit; from the first misfit on, all
are deferred. The result counts those deferred. -/
def Dev.offer (m : Dev) : List Nat → Dev × Nat
  | [] => (m, 0)
  | b :: rest =>
    let s := m.startBoundary b
    if m.reservedSum s + (m.bdef b).increment ≤ m.get F.SPT_STEP_LIMIT_LIMIT then (m.acceptStart b s).offer rest
    else ((b :: rest).foldl Dev.deferStart m, (b :: rest).length)

/-- The DEFER records and flags of a start that is held back (R53, R301, Table 10.10). -/
def Dev.holdStart (m : Dev) (b : Nat) : Dev :=
  let r := m.holdReason b
  let m := m.put (F.BSN_WEI_STAT_PADDING b) (flag (r == 6))
  match (m.bsn b).deck with
  | some d => if r == 0 then m else m.trace Trace.defer r b d.ctx
  | none => m

/-- The start decisions of one tick program (R300, R301, R416 to R418). -/
def Dev.decideStarts (m : Dev) : Dev :=
  let m := m.each m.definedBasins fun m b => m.put (F.BSN_WEI_STAT_PACED b) 0
  if !m.on F.WEI_STAT_DISPATCHING then m
  else
    let waiting := m.definedBasins.filter m.waitsToStart
    let own := waiting.filter fun b => !(m.bdef b).span || (m.bdef b).leader == m.deviceIndex
    let ready := own.filter fun b => m.holdReason b == 0
    let m := m.each own Dev.holdStart
    -- a device of a span that is not yet primed
    let late := m.definedBasins.filter fun b => (m.bdef b).span && (m.bsn b).run.isNone &&
      (m.bsn b).deck.any fun d => d.onDeck && d.primedAt.isNone
    let m := m.each late fun m b => match (m.bsn b).deck with
      | some d => m.trace Trace.defer 7 b d.ctx
      | none => m
    let order := sortBy (fun a c => needBefore (0, (m.bdef a).bprio, a) (0, (m.bdef c).bprio, c)) ready
    let s := m.tick + 2
    let limit := m.get F.SPT_STEP_LIMIT_LIMIT
    let above := decide (limit < m.announcedSum s)
    let r := if above then
        (order.foldl Dev.deferStart ((m.put F.SPT_STAT_OVERLIMIT 1).report Src.stepLimit 0 0 m.now), order.length)
      else m.offer order
    let sum := r.1.reservedSum s
    if order.isEmpty && sum = 0 then r.1
    else (r.1.put F.SPT_PACE_LAST (min sum 0xFFFF)).put F.SPT_PACE_DEFERRED (min r.2 0xFF)

/-- BURST_START_FROM_HOLD (R72, R300, R301): a burst whose start was decided starts at its tick boundary; where the devices of a span
disagree it completes SPAN_MISMATCH. DESIGN CHOICE (log 90): a start that was decided when CATCH_WITHDRAW began is carried out. -/
def Dev.startFromHold (m : Dev) (b : Nat) : Dev :=
  match (m.bsn b).deck with
  | none => m
  | some d =>
    if (m.bsn b).run.isSome || !(d.startTick.any fun s => decide (s ≤ m.tick)) then m
    else if !m.spanAgrees b then (m.dropDeck b 0x0D 0).idleCheck b
    else m.startBurst b false m.now

/-- PRESPIN_RAMP_STEP (R420, R421): at ramp boundary S + k the pins of share k pass to the pre-spin word, which is checked when the
ramp begins. -/
def Dev.rampStep (m : Dev) (b : Nat) : Dev :=
  let x := m.bsn b
  match x.rampStart with
  | none => m
  | some s =>
    let d := m.bdef b
    let k := x.ramp
    if decide (m.tick < s + k) || decide (d.prespinTicks ≤ k) then m
    else
      let r := if k = 0 then m.checkHold b d.prespinAddr m.now else (m, true)
      if !r.2 then r.1
      else
        let m := r.1
        let l := m.lanes b
        let due := (List.range l.length).filter fun i => i * d.prespinTicks / max 1 l.length == k
        let m := m.each due fun m i =>
          let p := l.getD i 0
          let m := if (m.bsn b).hold.isSome then m.playHoldPin b m.now p else m
          ((m.modPin p fun x => { x with ramped := some m.now, holdAt := m.now, holdFresh := true }).put (F.PIN_ENG_STAT_STATE p) 5).put (F.PIN_ENG_PC_ADDR p) d.prespinAddr
        m.modBsn b fun x => { x with ramp := k + 1 }

/-- MIN_BURST_EXPIRE (R53): a start held for MIN_BURST is held no longer. -/
def Dev.minBurstExpire (m : Dev) (b : Nat) : Dev :=
  if m.minBurstOver b m.tick then m.put (F.BSN_WEI_STAT_PADDING b) 0 else m

/-! ## Completion (R304, R305, R468) -/

/-- FLAGS of a completion (Table 10.7, byte 9). -/
def Done.flags (d : Done) : Nat :=
  flag d.chained + 2 * flag d.padded + 4 * flag d.underrun + 8 * flag (decide (d.deferTicks ≠ 0)) + 16 * flag (decide (d.armCode ≠ 0))

/-- The completion record (Table 10.7). -/
def Dev.record (m : Dev) (b : Nat) (d : Done) : List Byte :=
  let time := ceilDiv d.stallUnits 4000
  leBytes 4 (m.desc d.ctx 0 4) ++ leBytes 4 (d.ctx + 2 ^ 20 * b) ++ leBytes 1 d.status ++ leBytes 1 d.flags ++
  leBytes 1 (if d.status == 0x0F then d.detail else d.armCode) ++ leBytes 1 d.stalls.length ++
  leBytes 4 d.startNs ++ leBytes 1 d.startFrac ++ leBytes 1 d.endFrac ++ leBytes 2 d.deferTicks ++ leBytes 4 d.endNs ++
  leBytes 2 d.entry ++ leBytes 2 (if d.status == 0x0B then d.source else 0) ++ leBytes 4 d.pass ++ leBytes 8 d.vcnt ++
  leBytes 4 d.fails ++ leBytes 4 d.failVec ++ leBytes 2 (d.first % 2048) ++ leBytes 2 (min d.stallCount 0xFFFF) ++
  leBytes 4 (min time 0xFFFFFFFF) ++ leBytes 8 (if d.ran then d.ffv else 0xFFFFFFFFFFFFFFFF)

/-- A stall record (Table 4.4). -/
def StallRec.bytes (s : StallRec) : List Byte :=
  leBytes 4 s.ns ++ leBytes 1 s.frac ++ leBytes 1 s.cause ++ leBytes 2 s.entry ++ leBytes 4 s.count ++ leBytes 4 s.word

/-- The record and stall records go to RESULT_ADDR, where RESULT is set and names a place (R304). -/
def Dev.writeResult (m : Dev) (b : Nat) (d : Done) : Dev :=
  match m.recordFor b d with
  | none => m
  | some base => (m.setBytes base (m.record b d)).setBytes (base + 64) (d.stalls.flatMap StallRec.bytes)

/-- The completion queue entry of an ended burst (Table 10.8). -/
def Dev.entryFor (m : Dev) (d : Done) : CqEntry :=
  match d.bulk with
  | some n => ⟨0, d.ctx, d.status, 32, min n 0xFFFFFF, true⟩
  | none => ⟨m.desc d.ctx 0 4, d.ctx, d.status, d.flags, min d.failVec 0xFFFFFF, m.descFlag d.ctx 2⟩

/-- True where completion queue q has no free entry (R468). -/
def Dev.cqFull (m : Dev) (q : Nat) : Bool :=
  (m.get (F.QP_CQ_TAIL_TAIL q) + 1) % 1024 == Tbl.find 0 m.weir.cqHead q

/-- Posts an entry at the tail of completion queue q (R304, R468): the host write, the tail and its phase, the vector, and the context
freed. -/
def Dev.postEntry (m : Dev) (q : Nat) (e : CqEntry) : Dev :=
  let tail := m.get (F.QP_CQ_TAIL_TAIL q)
  let phase := m.get (F.QP_CQ_TAIL_PHASE q)
  let b := q / 4
  let v := e.tag + 2 ^ 32 * (e.ctx + 2 ^ 20 * b) + 2 ^ 64 * e.status + 2 ^ 72 * e.flags + 2 ^ 96 * e.aux + 2 ^ 120 * phase
  let m := { m with out := m.out ++ [Out.hostWrite (m.pair (Reg.QP_CQ_LO q) (Reg.QP_CQ_HI q) + 16 * tail) 16 v] }
  let m := m.put (F.QP_CQ_TAIL_TAIL q) ((tail + 1) % 1024)
  let m := if tail = 1023 then m.put (F.QP_CQ_TAIL_PHASE q) (1 - phase) else m
  let m := (m.bump (F.BSN_WEI_COUNT_DONE b)).put (F.QP_STAT_CQ_FULL q) (flag (m.cqFull q))
  let m := if bitOf e.flags 5 then m else m.setCtx e.ctx Ctx.free
  if e.irq then m.msix q else m

/-- Posts an entry, or lets it wait for room (R468). -/
def Dev.postOrWait (m : Dev) (q : Nat) (e : CqEntry) : Dev :=
  let l := Tbl.find [] m.weir.waiting q
  if l.isEmpty && !m.cqFull q then m.postEntry q e
  else (m.modWeir fun w => { w with waiting := Tbl.set [] w.waiting q (l ++ [e]) }).put (F.QP_STAT_CQ_FULL q) 1

/-- The completion of the oldest burst that has ended (R238, R304): the capture records that the burst closed reach HBM, then its record, its entry
and its vector; the
trace shows COMPLETE. In the sealed state nothing is written (Table 10.11). -/
def Dev.completeNow (m : Dev) (b : Nat) : Dev :=
  match (m.bsn b).done with
  | [] => m
  | d :: rest =>
    if m.on F.LEV_STAT_SEALED then m
    else
      let m := m.modBsn b fun x => { x with done := rest, paid := 0 }
      let m := m.each ((m.bsn b).cap.closed.filter fun r => r.ctx == d.ctx) fun m _ => m.recordComplete b
      let m := (m.writeResult b d).trace Trace.complete d.status b d.ctx
      m.postOrWait (ctxQueue d.ctx) (m.entryFor d)

/-- BURST_COMPLETION (R145, R304): the oldest burst that has ended completes once the HOUSE allowance has given its record's units, after the course fetches
that were requested by then. -/
def Dev.complete (m : Dev) (b : Nat) : Dev :=
  match (m.bsn b).done with
  | [] => m
  | d :: _ =>
    let cost := m.houseCost b d - (m.bsn b).paid
    if decide (m.houseLeft b < cost) || (cost != 0 && m.fetchWaits b (d.tick + 1)) then m
    else (m.modBsn b fun x => { x with house := x.house + cost }).completeNow b

/-- COMPLETION_POST (R468): the oldest entry that waits is posted once the queue has room. -/
def Dev.completionPost (m : Dev) (q : Nat) : Dev :=
  match Tbl.find [] m.weir.waiting q with
  | [] => m
  | e :: rest =>
    if m.cqFull q then m
    else (m.modWeir fun w => { w with waiting := Tbl.set [] w.waiting q rest }).postEntry q e

/-! ## The tick program (R25, R309) -/

/-- The first record of a tick whose count has bits [23:0] equal to 0 (R309). -/
def Dev.timemark (m : Dev) : Dev :=
  if m.tick % 2 ^ 24 == 0 then m.traceWord (Trace.timemark * 2 ^ 60 + m.tick % 2 ^ 60) else m

/-- Weir's and Spate's part of the tick program: TIMEMARK, cancels, READY, primed bursts, dispatch, and starts. -/
def Dev.weirProgram (m : Dev) (fixed : Nat → Bool) : Dev :=
  if m.on F.LEV_STAT_SEALED then m
  else ((((((m.timemark).takeCancels fixed).readyAll).seePrimed).tellPrimed).dispatch).decideStarts

end Sys2Proof.Machine
end

