-- ==== Sys2Proof/Machine/Catchment.lean ====
section
/-! DEFINITION. The catchment operations (R62 to R72) and the basin's own enable and shutdown (R73 to R79). -/

namespace Sys2Proof.Machine

/-! ## Results of the operations (R58, R59) -/

/-- The reasons are written to a slot's result buffer, and their number to PARTIAL (R59). -/
def Dev.writeReasons (m : Dev) (s : Nat) (l : List Reason) : Dev :=
  let m := m.each (List.range l.length) fun m i => m.setMem (resultBase s + 8 * i) 8 ((l[i]?.map Reason.word).getD 0)
  m.partialCount s l.length

/-- A catchment operation ends refused (R58, R59): the reasons are written, and the first code is the error. -/
def Dev.refuse (m : Dev) (s : Nat) (l : List Reason) : Dev :=
  let l := listedReasons l
  (m.writeReasons s l).opEnd s ((l.head?.map (·.code)).getD 0)

/-- A context reason (R59: TYPE 0, no index). -/
def contextReason (code : Nat) : Reason := ⟨code, 0, noIndex⟩

/-- A catchment operation starts (R62, R63); one that finds another running ends BUSY with its reason listed. -/
def Dev.catchStart (m : Dev) (s op : Nat) (irq : Bool) : Dev × Bool :=
  let r := m.opStart s op irq 0x70
  if r.2 || m.on F.LEV_STAT_SEALED || m.slotState s == Slot.running || m.slotState s == Slot.aborting then r
  else if bitsOf (r.1.status s) 31 16 == 0x70 then (r.1.writeReasons s [contextReason 0x70], false)
  else r

/-- Changes the part of GLB_CATCH_STATE that shows the operation. -/
def Dev.catchState (m : Dev) (v : Nat) : Dev := m.put F.GLB_CATCH_STATE_STATE v

/-- CATCH_LOAD (R58, R62 to R64): the check; an image that passes waits for its commit. -/
def Dev.catchLoad (m : Dev) (s : Nat) (irq : Bool) : Dev :=
  let r := m.catchStart s Op.catchLoad irq
  if !r.2 then r.1
  else if m.image.isSome then r.1.refuse s [contextReason 0x71]
  else match r.1.admission with
    | (_, some i) => { r.1 with staged := some i }.catchState 1
    | (l, none) => r.1.refuse s l

/-- CATCH_CHECK (R62): the admission check, which changes nothing but its result buffer. -/
def Dev.catchCheck (m : Dev) (s : Nat) (irq : Bool) : Dev :=
  let r := m.catchStart s Op.catchCheck irq
  if !r.2 then r.1
  else match r.1.admission with
    | (_, some _) => r.1.opEnd s 0
    | (l, none) => r.1.refuse s l

/-! ## What an image puts into the registers (R65, R76, R77) -/

/-- The largest path latency over the links that a spanning basin names (R109, R358), a multiple of 8 ECLK; 0 for a basin on one device. -/
def Dev.linkLat (m : Dev) (d : BasinDef) : Nat :=
  if d.span then
    (onesOf 8 d.links).foldl (fun n l => max n (min 480 (ceilDiv (m.get (F.VTL_LAT_D l) + (m.link l).far) 8 * 8))) 0
  else 0

/-- The links show the FLOW slots that the admitted image assigns (R358, Table 12.11). -/
def Dev.showLinks (m : Dev) : Dev :=
  m.each (List.range 8) fun m l =>
    let n := (m.definedBasins.filter fun b => (m.bdef b).span && bitOf (m.bdef b).links l).length
    (m.put (F.VTL_STAT_USED l) (flag (decide (0 < n)))).put (F.VTL_STAT_SLOTS l) (min n 4 - 1)

/-- FLOW_LAT, L and the jump horizon of a basin (R108, R109, R136). -/
def Dev.setLat (m : Dev) (b l : Nat) : Dev :=
  ((m.put (F.BSN_FLOW_LAT_FLOW_LAT b) (32 + l)).put (F.BSN_FLOW_LAT_LINK b) l).put (F.BSN_CRS_HZN_H b) (64 + l)

/-- The registers of a basin show its admitted records; its epoch is cleared (R65, R77, R163). -/
def Dev.showBasin (m : Dev) (b : Nat) : Dev :=
  let d := m.bdef b
  let here := !d.span || d.leader == m.deviceIndex
  let m := (m.put (F.BSN_STATE_SPAN b) (flag d.span)).put (F.BSN_STATE_PIN_COUNT b) (m.lanes b).length
  let m := (m.put (F.BSN_SHARES_STREAM_SH b) d.streamSh).put (F.BSN_SHARES_CAPTURE_SH b) d.captureSh
  let m := (m.put (F.BSN_HOUSE_HOUSE_SH b) d.houseSh).put (F.BSN_HOUSE_MIN_BURST b) d.minBurst
  let m := m.setLat b (m.linkLat d)
  let m := (m.put (F.BSN_FLOW_MASTER_PIN b) ((m.flowMaster b).getD 0)).put (F.BSN_FLOW_MASTER_VALID b) (flag (here && m.defined b))
  let m := (m.put (F.BSN_TS_EPOCH_HI_VALID b) 0).modBsn b fun x => { x with epoch := none, grid := 0 }
  m

/-- The registers of a pin show its admitted role and engine (R122, R211). -/
def Dev.showPin (m : Dev) (p : Nat) : Dev :=
  let d := m.pinDef p
  let e := if d.served then d.engine else 0x7FF
  let m := (m.put (F.PIN_ENG_STAT_ENGINE p) e).put (F.PIN_ENG_STAT_SPARE p) (flag (decide (1024 ≤ e) && e != 0x7FF))
  (m.put (F.PIN_FE_STAT_ROLE p) d.role).put (F.PIN_ENG_STAT_STATE p) 0

/-- A Delta unit shows its owner; where the owning basin or the Delta pin changes, its registers take their reset values (R261). -/
def Dev.showDelta (m : Dev) (t : Nat) : Dev :=
  let was := (m.get (F.DLT_STAT_ASSIGNED t), m.get (F.DLT_OWNER_BASIN t), m.get (F.DLT_OWNER_PIN t))
  let now := match m.deltaPin t with
    | some p => (1, (m.pinDef p).basin, p)
    | none => (0, 0, 0)
  if was == now then m
  else
    let m := m.each [Reg.DLT_CTL t, Reg.DLT_GAIN t, Reg.DLT_RATE t, Reg.DLT_STAT t, Reg.DLT_SHORT t] fun m r => m.setReg r (resetOf r)
    let m := (m.put (F.DLT_STAT_ASSIGNED t) now.1).put (F.DLT_OWNER_BASIN t) now.2.1
    (m.put (F.DLT_OWNER_PIN t) now.2.2).setDelta t {}

/-- True where a served pin is mapped to, taken over by, or about to be taken over by, the audit engine of tributary t. -/
def Dev.auditServes (m : Dev) (t : Nat) : Bool :=
  ((List.range 16).any fun i => m.engineOf (16 * t + i) == 1024 + t) || m.takeovers.any fun e => e.1 / 16 == t

/-- A tributary's auditing is suspended while its audit engine serves a pin or is faulty; a load that frees it resumes it (R405). -/
def Dev.showAudit (m : Dev) (load : Bool) (t : Nat) : Dev :=
  let used := m.auditServes t
  let m := m.put (F.TRB_AUD_STAT_SPARE_USED t) (flag used)
  if used || m.on (F.TRB_AUD_STAT_AUDIT_FAULTY t) then m.put (F.TRB_AUD_STAT_SUSPENDED t) 1
  else if load then m.put (F.TRB_AUD_STAT_SUSPENDED t) 0 else m

/-- The admitted demand, and whether it exceeds the capacity in force (R60, R321). -/
def Dev.showDemand (m : Dev) : Dev :=
  let n := (m.image.map fun i => shareUnits i.basins).getD 0
  (m.put F.SLC_CAP_DEMAND n).put F.SLC_STAT_OVER (flag (decide (m.get F.SLC_CAP_CAP_UNITS < n)))

/-- The level of a crossbar source (Table 2.10). -/
def Dev.sourceLevel (m : Dev) (c : Nat) : Bool :=
  if 0x0100 ≤ c ∧ c < 0x0500 then bitOf (m.bsn ((c - 0x0100) / 4)).marks ((c - 0x0100) % 4)
  else if 0x0500 ≤ c ∧ c < 0x0510 ∧ ((m.image.map (·.routes)).getD []).any (fun r => r.1 == 0x1000 + (c - 0x0500)) then
    m.ballAt (c - 0x0500) m.now == 1
  else if 0x0600 ≤ c ∧ c < 0x0700 then m.on (F.TSQ_STAT_OUT (c - 0x0600))
  else if 0x0700 ≤ c ∧ c < 0x0710 then m.on (F.TSQ_STAT_OUT (256 + (c - 0x0700)))
  else m.wire c == 1

/-- The crossbar follows a change of image: destinations without a route fall, the others take their source's level. -/
def Dev.reroute (m : Dev) (old : List (Nat × Nat)) : Dev :=
  let new := (m.image.map (·.routes)).getD []
  let m := m.each (old.filter fun r => !new.any fun q => q.1 == r.1) fun m r => m.setLevel false (r.1, m.now)
  m.each new fun m r => m.setLevel (m.sourceLevel r.2) (r.1, m.now)

/-- GLB_CATCH_ID and GLB_CATCH_CRC show the admitted image (R76). -/
def Dev.showImage (m : Dev) : Dev :=
  (m.put F.GLB_CATCH_ID_IMAGE_ID ((m.image.map (·.imageId)).getD 0)).put F.GLB_CATCH_CRC_CRC ((m.image.map (·.crc)).getD 0)

/-- CATCH_LOAD_COMMIT (R64, R65, R76): the checked image is admitted whole. -/
def Dev.catchLoadCommit (m : Dev) : Dev :=
  match m.staged, m.opSlot Op.catchLoad with
  | some i, some s =>
    let m := ({ m with image := some i, staged := none }.catchState 2).bump F.GLB_CATCH_GEN_GEN
    let m := m.showImage
    let m := m.each (i.basins.map (·.1)) fun m b => (m.showBasin b).setState b St.disabled
    let m := m.each (i.pins.map (·.1)) Dev.showPin
    let m := { m with takeovers := m.takeovers.filter fun e => (m.pinDef e.1).served }
    let m := (m.each (List.range 64) Dev.showDelta).each (List.range 64) (Dev.showAudit · true)
    let m := m.each (List.range 512) fun m k => m.put (F.LEV_SEV_SEV k) (i.sevs.getD k 0 % 8)
    let m := (m.showDemand.showLinks.put F.WEI_STAT_DISPATCHING 1).reroute []
    m.opEnd s 0
  | _, _ => m

/-! ## Withdrawal (R66) -/

/-- CATCH_WITHDRAW (R66, steps 1 and 2). -/
def Dev.catchWithdraw (m : Dev) (s : Nat) (irq : Bool) : Dev :=
  let r := m.catchStart s Op.catchWithdraw irq
  if !r.2 then r.1
  else if m.image.isNone then r.1.refuse s [contextReason 0x72]
  else
    let m := (r.1.catchState 3).put F.WEI_STAT_DISPATCHING 0
    if bitOf (m.param s 0) 0 then
      m.each (m.definedBasins.filter fun b => (m.bsn b).run.isSome) fun m b =>
        let t := max (m.bsn b).pos m.now
        (m.endBurst b 0x09 0 t).afterEnd b false t
    else m

/-- A queue pair is disabled at once (R66). -/
def Dev.dropQueue (m : Dev) (q : Nat) : Dev :=
  let m := (m.put (F.QP_CTL_ENABLE q) 0).put (F.QP_STAT_RUNNING q) 0
  let m := m.modWeir fun w => { w with queues := w.queues.filter (· != q), fetching := w.fetching.filter fun e => e.1 != q }
  (m.put (F.QP_STAT_PENDING q) 0).put (F.QP_STAT_SHUTTING q) 0

/-- Capture of a basin disarms whole: its closed records complete and its segments are freed (R66, R68, R232). -/
def Dev.dropCapture (m : Dev) (b : Nat) : Dev :=
  let m := (m.put (F.BSN_CAP_STAT_PENDING b) 0).capShut b
  m.captureShutDone b

/-- Scans that follow the LOAD strobe of an undefined basin shut down, and their RUN clears (Table 9.13). -/
def Dev.dropScans (m : Dev) : Dev :=
  m.each (List.range 32) fun m k =>
    if m.get (F.ADC_CTL_SRC k) != 2 || m.defined (m.get (F.ADC_CTL_BASIN k)) then m else m.scanShut k m.now

/-- A basin that an image no longer defines (R66): its waiting bursts complete WITHDRAWN in bulk, capture and units stop, its pins are
safe, and its queue pairs are disabled. -/
def Dev.dropBasin (m : Dev) (b : Nat) : Dev :=
  let cs := (m.bsn b).queued
  let m := (m.clearDeck b).modBsn b fun x => { x with
    lists := [[], [], [], [], [], [], [], []], chains := [[], [], [], [], [], [], [], []] }
  let m := m.bulk b 0x09 cs
  let m := (m.disableUnits b m.now).dropCapture b
  let m := m.each (m.bsn b).done fun m _ => m.completeNow b
  let m := m.safeBasin b false m.now
  let m := m.each (List.range 4) fun m i => m.dropQueue (4 * b + i)
  let m := m.modWeir fun w => { w with landed := w.landed.filter fun l => ctxBasin l.ctx != b }
  (m.put (F.BSN_CTL_ENABLE b) 0).put (F.BSN_STATE_PENDING b) 0

/-- WITHDRAW_COMPLETE (R66, steps 3 and 4): once no burst runs, what waits completes, pins go safe, and RWL fields unlock. -/
def Dev.withdrawComplete (m : Dev) : Dev :=
  match m.opSlot Op.catchWithdraw with
  | none => m
  | some s =>
    if m.get F.GLB_CATCH_STATE_STATE != 3 || m.definedBasins.any fun b => (m.bsn b).run.isSome then m
    else
      let old := (m.image.map (·.routes)).getD []
      let bs := m.definedBasins
      let ps := (m.image.map fun i => i.pins.map (·.1)).getD []
      let m := m.each bs Dev.dropBasin
      let m := { m with image := none }
      let m := m.each bs fun m b => ((m.put (F.BSN_TS_EPOCH_HI_VALID b) 0).setState b St.undefined).setBsn b { perLow := (m.bsn b).perLow }
      let m := (m.each ps Dev.showPin).each (List.range 64) Dev.showDelta
      let m := (m.each (List.range 64) (Dev.showAudit · false)).reroute old
      let m := m.dropScans.showImage.showDemand.showLinks
      (m.catchState 0).opEnd s 0

/-! ## Enable and shutdown (R73, R78, R79) -/

/-- The pins of a basin leave the safe state, and its hold word, which has been checked, plays from the current boundary (R201): a companion-return
pin closes its
termination (R190). -/
def Dev.leaveSafe (m : Dev) (b : Nat) : Dev :=
  let m := m.each (m.allPins b) fun m p =>
    let m := m.put (F.PIN_FE_STAT_SAFE p) 0
    if (m.pinDef p).role == 3 then m.modPin p fun x => { x with ball := 2 } else m
  let m := (m.modBsn b fun x => { x with closing := false }).startHold b m.now 1
  (m.loadTones b).each (m.allPins b) Dev.resumeWalks

/-- What R79 does on entry to IDLE from DISABLED or HELD: the timing values staged when the enable was delivered come into force and the hold
word is checked; where it may play, the pins leave the safe state with their drive state reset (R89), and else the basin returns to HELD. DESIGN
CHOICE (log 93): for an enable that
waited out a shutdown or a re-course, and for one that came without an exchange point, the values are those staged at this entry. -/
def Dev.enterIdle (m : Dev) (b : Nat) : Dev :=
  let m := (m.put (F.BSN_CTL_ENABLE b) 1).put (F.BSN_STATE_PENDING b) 0
  let m := if (m.bsn b).enableTaken then m else m.takeTiming b
  let m := (m.modBsn b fun x => { x with enableTaken := false }).forceTiming b
  let m := (m.each (m.lanes b) fun m p => m.setReg (Reg.PIN_ENG_ERR p) 0).setReg (Reg.BSN_CRS_ERR b) 0
  let m := (m.leaveHold b m.now).each (m.allPins b) fun m p => m.modPin p fun x => { x with prev := 7, last := false }
  let m := m.setState b St.idle
  let r := m.checkHold b (m.bdef b).hold m.now
  if !r.2 then
    if r.1.bstate b == St.held then r.1 else r.1.react b 0x0B 0 m.now
  else r.1.leaveSafe b

/-- An enable that was held is not taken while CLR_N is low (R200): it goes, and the basin stands in state v. -/
def Dev.forgetEnable (m : Dev) (b v : Nat) : Dev := ((m.put (F.BSN_CTL_ENABLE b) 0).put (F.BSN_STATE_PENDING b) 0).setState b v

/-- A held enable of a basin that stands in DISABLED or HELD is taken now that what it waited for has ended (R73, R391, Table 15.6), unless
CLR_N is low (R200). -/
def Dev.takeHeldEnable (m : Dev) (b : Nat) : Dev :=
  if !m.on (F.BSN_STATE_PENDING b) || !(m.bstate b == St.disabled || m.bstate b == St.held) then m
  else if m.clrHeld then m.forgetEnable b (m.bstate b)
  else m.enterIdle b

/-- True where an enable written now waits: SHUTTING or RECOURSING, the dump after a DEVICE reaction, or a stay in slack (R78, R391,
Table 15.6). -/
def Dev.enableWaits (m : Dev) (b : Nat) : Bool :=
  m.bstate b == St.shutting || m.bstate b == St.recoursing || m.asleep || m.get F.SPT_SLACK_STATE == 3 ||
  m.lev.writing.any fun d => d.cause == 1

/-- BASIN_ENABLE (R78, R79, R73, R391): ENABLE = 1 takes effect at a tick boundary; it is not taken while CLR_N holds the pins, nor in the
sealed state (R200, R398), and waits for the end of a SYNC event (Table 12.8). DESIGN CHOICE (log 91): on a RUNNING basin whose shutdown waits for
the burst boundary it calls the shutdown off. -/
def Dev.basinEnable (m : Dev) (b : Nat) (shutAbort : Bool) : Dev :=
  if !m.defined b || m.clrHeld || m.on F.LEV_STAT_SEALED then m
  else if m.clk.event != 0 then
    { m with clk := { m.clk with enables := m.clk.enables.filter (fun (e : Nat × Bool) => e.1 != b) ++ [(b, shutAbort)] } }
  else
    let m := m.put (F.BSN_CTL_SHUT_ABORT b) (flag shutAbort)
    let st := m.bstate b
    if m.enableWaits b then
      let m := (m.put (F.BSN_CTL_ENABLE b) 1).put (F.BSN_STATE_PENDING b) 1
      if st == St.shutting || st == St.recoursing then m.modBsn b fun x => { x with enableTaken := false } else m
    else if st == St.disabled || st == St.held then m.enterIdle b
    else (m.put (F.BSN_CTL_ENABLE b) 1).modBsn b fun x => { x with closing := false }

/-- BASIN_DISABLE (R78, R73): ENABLE = 0 starts shutdown at the boundary, at the next burst boundary, or at once with SHUT_ABORT. DESIGN CHOICE
(log 92): a RUNNING basin that plays its hold word between bursts shuts down at once, as an IDLE one does. -/
def Dev.basinDisable (m : Dev) (b : Nat) (shutAbort : Bool) : Dev :=
  if !m.defined b || m.on F.LEV_STAT_SEALED then m
  else
    let m := { m with clk := { m.clk with enables := m.clk.enables.filter fun (e : Nat × Bool) => e.1 != b } }
    let m := m.put (F.BSN_CTL_SHUT_ABORT b) (flag shutAbort)
    let m := (m.put (F.BSN_CTL_ENABLE b) 0).put (F.BSN_STATE_PENDING b) 0
    let st := m.bstate b
    if st != St.idle && st != St.running then m
    else if (m.bsn b).run.isNone then ((m.returnDeck b 4).setState b St.shutting).shutPpmus b
    else if shutAbort then
      let t := max (m.bsn b).pos m.now
      (m.endBurst b 0x07 0 t).afterEnd b true t
    else m.modBsn b fun x => { x with closing := true }

/-- BASIN_SHUTDOWN_DONE (R77, R73): a SHUTTING basin becomes DISABLED with its pins safe, or passes to IDLE where an enable is held. -/
def Dev.basinShutDone (m : Dev) (b : Nat) : Dev :=
  if m.bstate b != St.shutting then m
  else if m.on (F.BSN_STATE_PENDING b) && !m.clrHeld then m.enterIdle b
  else ((m.stopTones b m.now).safeBasin b false m.now).forgetEnable b St.disabled

/-! ## Re-coursing one basin (R67 to R71) -/

/-- The basins of an image that name a partition. -/
def Image.partUsers (i : Image) (n : Nat) : List Nat :=
  (i.basins.filter fun e => e.2.coursePart == n || e.2.streamPart == n || e.2.capturePart == n).map (·.1)

/-- The partitions whose record differs between two images. -/
def changedParts (o n : Image) : List Nat := (List.range (max o.parts.length n.parts.length)).filter fun k => o.parts[k]? != n.parts[k]?

/-- True where a pin-map or engine-map entry may differ: the pin is in basin b in either image, and in b or unused in each (R67). -/
def pinScope (b : Nat) (o n : PinDef) : Bool :=
  let mine := fun (d : PinDef) => d.role != 0 && d.basin == b
  (mine o || mine n) && (mine o || o.role == 0) && (mine n || n.role == 0)

/-- What a pin's map entries say (R42 to R45), without the engine they resolve to. -/
def PinDef.entry (d : PinDef) : Nat × Nat × Bool × Nat := (d.basin, d.role, d.delta, d.named)

/-- True where a crossbar destination belongs to basin b (R67). -/
def destOf (b : Nat) (r : Nat × Nat) : Bool := xbarDest r.1 == some (some b)

/-- True where a staged image differs from the admitted one only where R67 allows, for the re-course of basin b; a change of a partition
that others share is left to R69. -/
def recourseScope (b : Nat) (o n : Image) : Bool :=
  let others := fun (i : Image) => i.basins.filter fun e => e.1 != b
  o.verMinor == n.verMinor && o.length == n.length && o.nsect == n.nsect && o.deviceIndex == n.deviceIndex &&
  o.systemTag == n.systemTag && o.places == n.places && o.others == n.others && others o == others n && o.sevs == n.sevs &&
  ((List.range 1024).all fun p =>
    let x := (o.pins.lookup p).getD {}
    let y := (n.pins.lookup p).getD {}
    x.entry == y.entry || pinScope b x y) &&
  (changedParts o n).all (fun k => (o.partUsers k ++ n.partUsers k).contains b) &&
  (List.range (max o.routes.length n.routes.length)).all fun k =>
    o.routes[k]? == n.routes[k]? || (o.routes[k]?.all (destOf b) && n.routes[k]?.all (destOf b))

/-- True where the re-course changes a partition shared with another basin (R69). -/
def recourseShared (b : Nat) (o n : Image) : Bool :=
  (changedParts o n).any fun k => (o.partUsers k ++ n.partUsers k).any (· != b)

/-- BASIN_RECOURSE (R67 to R69): the staged image is checked while the basin runs on; one that passes waits for its steps. -/
def Dev.basinRecourse (m : Dev) (s : Nat) (irq : Bool) : Dev :=
  let r := m.catchStart s Op.recourse irq
  if !r.2 then r.1
  else
    let m := r.1
    let b := m.param s 0 % 256
    match m.image with
    | none => m.refuse s [contextReason 0x72]
    | some o => match m.admission with
      | (l, none) => m.refuse s l
      | (_, some n) =>
        if !recourseScope b o n then m.refuse s [contextReason 0x73]
        else if recourseShared b o n && !bitOf (m.param s 0) 9 then m.refuse s [contextReason 0x74]
        else
          let m := { m with staged := some n }
          let m := (m.put F.GLB_CATCH_STATE_RECOURSE 1).put F.GLB_CATCH_STATE_RC_BASIN b
          m.modBsn b fun x => { x with recourseState := 1, heldAfter := false }

/-- RECOURSE_ENTER (R68, steps 1 and 2): at a burst boundary, or at once with ABORT_RUNNING, the basin enters RECOURSING and its on-deck burst
returns to its list. -/
def Dev.recourseEnter (m : Dev) (b : Nat) : Dev :=
  match m.opSlot Op.recourse with
  | none => m
  | some s =>
    let abort := bitOf (m.param s 0) 8
    let run := (m.bsn b).run.isSome
    if (m.bsn b).recourseState != 1 || (run && !abort) then m
    else
      let m := if run then m.endBurst b 0x08 0 (max (m.bsn b).pos m.now) else m
      let m := m.modBsn b fun x => { x with recourse := m.bstate b, recourseState := 2 }
      ((m.returnDeck b 1).stopTones b m.now).setState b St.recoursing

/-- RECOURSE_DRAIN_END (R68, step 3): capture has drained and is disarmed, and the pins enter the safe state. -/
def Dev.recourseDrain (m : Dev) (b : Nat) : Dev :=
  if (m.bsn b).recourseState != 2 then m
  else ((m.dropCapture b).safeBasin b false m.now).modBsn b fun x => { x with recourseState := 3 }

/-- The admitted image after a re-course of basin b: the staged one, with the engines of every other pin as they were resolved. -/
def mergeImage (b : Nat) (o n : Image) : Image :=
  { n with pins := n.pins.map fun e => if e.2.basin == b then e else (e.1, { e.2 with engine := ((o.pins.lookup e.1).getD e.2).engine }) }

/-- RECOURSE_COMMIT (R68, steps 4 and 5; R71): the new records take effect, and the basin returns to DISABLED, IDLE or HELD. -/
def Dev.recourseCommit (m : Dev) (b : Nat) : Dev :=
  match m.image, m.staged, m.opSlot Op.recourse with
  | some o, some n, some s =>
    let x := m.bsn b
    if x.recourseState != 3 then m
    else
      let ps := m.allPins b
      let i := mergeImage b o n
      let gone := (i.basins.lookup b).isNone
      let m := if gone && m.defined b then m.dropBasin b else m
      let m := { m with image := some i, staged := none }.bump F.GLB_CATCH_GEN_GEN
      let m := m.each (List.range 512) fun m k => m.put (F.LEV_SEV_SEV k) (i.sevs.getD k 0 % 8)
      let m := m.showImage.showBasin b
      let m := m.each ((ps ++ m.allPins b).eraseDups) Dev.showPin
      let m := { m with takeovers := m.takeovers.filter fun e => (m.pinDef e.1).served }
      let m := (m.each (List.range 64) Dev.showDelta).each (List.range 64) (Dev.showAudit · false)
      let m := (m.showDemand.showLinks.reroute o.routes).dropScans
      let m := (m.put F.GLB_CATCH_STATE_RECOURSE 0).put F.GLB_CATCH_STATE_RC_BASIN 0
      let m := m.modBsn b fun x => { x with recourse := 0, recourseState := 0, heldAfter := false, closing := false }
      let on := m.on (F.BSN_CTL_ENABLE b) || m.on (F.BSN_STATE_PENDING b)
      let m := if gone then m.setState b St.undefined
        else if x.heldAfter then m.setState b St.held
        else if on && !m.clrHeld then m.enterIdle b
        else m.forgetEnable b (if x.recourse == St.held || (on && (x.recourse == St.idle || x.recourse == St.running)) then St.held else St.disabled)
      m.opEnd s 0
  | _, _, _ => m

/-- The basin of a re-course that is abandoned returns to IDLE, or to RUNNING where bursts wait for it (R70, R78): its pins leave the safe state
under the values in force, and a disable written meanwhile shuts it down. -/
def Dev.resumeCourse (m : Dev) (b : Nat) (was : Nat) : Dev :=
  let x := m.bsn b
  let waits := x.deck.isSome || !x.listsEmpty
  let m := m.setState b (if was == St.running && waits then St.running else St.idle)
  let m := m.put (F.BSN_STATE_PENDING b) 0
  let r := m.checkHold b (m.bdef b).hold m.now
  let m := if x.hold.isSome then m.loadTones b else if r.2 then r.1.leaveSafe b else r.1
  if m.on (F.BSN_CTL_ENABLE b) then m else (m.setState b St.shutting).shutPpmus b

/-- A re-course is abandoned before its commit (R70): the basin returns to its state before step 1 under its old course; while CLR_N is low it
does so in HELD (R200), and an enable that waited for the end of the re-course is taken (R73). -/
def Dev.recourseAbandon (m : Dev) (b : Nat) : Dev :=
  let x := m.bsn b
  let m := { m with staged := none }
  let m := (m.put F.GLB_CATCH_STATE_RECOURSE 0).put F.GLB_CATCH_STATE_RC_BASIN 0
  let m := m.modBsn b fun x => { x with recourse := 0, recourseState := 0, heldAfter := false }
  if x.recourseState < 2 then m
  else if x.heldAfter then m.setState b St.held
  else if x.recourse == St.idle || x.recourse == St.running then
    (if m.clrHeld then m.forgetEnable b St.held else m.resumeCourse b x.recourse)
  else (m.setState b x.recourse).takeHeldEnable b

end Sys2Proof.Machine
end

