-- ==== Sys2Proof/Machine/Clocks.lean ====
section
/-! DEFINITION. Headwater's clocks, the SYNC event, the time base, the Ethernet ports and the Vutil links (chapter 12). -/

namespace Sys2Proof.Machine

/-- Changes what the clocks hold. -/
def Dev.modClk (m : Dev) (f : ClkX → ClkX) : Dev := { m with clk := f m.clk }

/-- True while any basin is IDLE, RUNNING, SHUTTING or RECOURSING (R338, R343, R346). -/
def Dev.anyActive (m : Dev) : Bool :=
  m.definedBasins.any fun b => decide (St.idle ≤ m.bstate b) && decide (m.bstate b ≤ St.recoursing)

/-! ## TT is placed anew (R343, R344, R347) -/

/-- A pin's instants after TT has been moved back by d units. -/
def PinX.rebase (x : PinX) (d : Nat) : PinX :=
  { x with
    lastMove := x.lastMove - d, holdAt := x.holdAt - d, drvStep := x.drvStep - d / eclk, cmpStep := x.cmpStep - d / eclk, forceFrom := x.forceFrom - d / eclk, shutAt := x.shutAt.map (· - d),
    fifo := x.fifo.map (fun e => (e.1 - d, e.2)), deckFifo := x.deckFifo.map (fun e => (e.1 - d, e.2)), levelAt := x.levelAt.map (· - d), ramped := x.ramped.map (· - d) }

/-- A capture unit's instants after TT has been moved back by d units. -/
def CapX.rebase (x : CapX) (d : Nat) : CapX :=
  { x with history := [], since := x.since - d, stallAt := x.stallAt.map (· - d), underAt := x.underAt.map (· - d), rearm := x.rearm.map (· - d),
           missedAt := x.missedAt.map (· - d / eclk), emptied := x.emptied.map (· - d), lastEnd := x.lastEnd.map (· - d), closed := x.closed.map fun r => { r with trigger := r.trigger - d } }

/-- A basin's instants after TT has been moved back by d units, n ticks. -/
def BasinX.rebase (x : BasinX) (d n : Nat) : BasinX :=
  let back := fun (l : List (Instant × Nat)) => l.map fun e => (e.1 - d, e.2)
  { x with
    epoch := x.epoch.map (· - d), grid := x.grid - d, pos := x.pos - d, lastStart := x.lastStart.map (· - d),
    events := x.events.map fun e => (e.1, e.2 - d), results := back x.results, waiting := back x.waiting, trig := back x.trig,
    seqHist := back x.seqHist, crossings := x.crossings.map (fun e => (e.1, e.2 - d)),
    consumed := x.consumed.map (fun e => (e.1, e.2.1 - d, e.2.2 - d)), window := x.window.map (fun h => { h with at_ := h.at_ - d }),
    asked := x.asked.map (fun e => (e.1, e.2 - n)), done := x.done.map (fun d => { d with tick := d.tick - n }), remote := back x.remote,
    strobes := x.strobes.map fun s => { s with at_ := s.at_ - d, edge := s.edge - d }, strobeAt := x.strobeAt.map (· - d),
    rampStart := x.rampStart.map (· - n), sync := x.sync.map fun e => (e.1 - d, e.2), hold := x.hold.map (· - d),
    cap := x.cap.rebase d, triggers := x.triggers.map (· - d) }

/-- TT is placed anew, d units after its former zero: instants and ticks held by the units are counted from the new zero, and those before
it read as the zero itself. -/
def Dev.rebase (m : Dev) (d : Nat) : Dev :=
  let n := d / tickUnits
  { m with
    tick := 0, latches := [],
    basins := Tbl.change {} (·.rebase d n) m.basins,
    pins := Tbl.change {} (·.rebase d) m.pins,
    seqs := Tbl.change {} (fun x => { entered := x.entered - d, lastOcc := x.lastOcc.map (· - d) }) m.seqs,
    tones := Tbl.change {} (fun x => { x with phase := x.phaseAt (d / eclk), ref := 0, lastCross := (x.crossedBy (d / eclk)).map (· - d / eclk),
                                              commitTick := x.commitTick - n, loadAt := x.loadAt.map (· - d / eclk) }) m.tones,
    deltas := Tbl.change {} (fun x => { x with seenTo := x.seenTo - d / 500, sampling := x.sampling.map (· - d), dryAt := x.dryAt.map (· - d) }) m.deltas,
    adcs := Tbl.change {} (fun x => { x with dwellAt := x.dwellAt - d, lastStart := x.lastStart - n, checkAt := x.checkAt.map (· - d) }) m.adcs,
    padcs := Tbl.change {} (fun x => { x with since := x.since - n }) m.padcs,
    cal := { m.cal with gatherAt := m.cal.gatherAt.map fun e => (e.1, e.2 - n), notBefore := m.cal.notBefore.map (fun e => (e.1, e.2 - n)), stepAt := [] },
    lev := { m.lev with armAt := m.lev.armAt - d },
    slc := { m.slc with since := m.slc.since - n, lastRequest := m.slc.lastRequest.map (· - n),
                        repaired := m.slc.repaired.map fun e => (e.1, e.2 - n) },
    weir := { m.weir with cancels := m.weir.cancels.map fun e => (e.1, e.2.1, e.2.2 - n) },
    takeovers := m.takeovers.map fun e => (e.1, e.2 - d),
    clk := { m.clk with sent := [], links := Tbl.change {} (fun x => { x with exchanged := none }) m.clk.links, balls := m.clk.balls.map fun e => (e.1 - d, e.2) } }

/-! ## Clock outputs (R341, R342) -/

/-- The divider of a CLKOUT: code 0 stands for 4,096. -/
def Dev.ckoDiv (m : Dev) (n : Nat) : Nat := if m.get (F.HDW_CKO_CTL_DIV n) == 0 then 4096 else m.get (F.HDW_CKO_CTL_DIV n)

/-- The lowest divider whose output keeps to its format's highest frequency (Table 12.2: 8.0 GHz over 1.6 GHz, 4.0 GHz, 400 MHz, 250 MHz). -/
def ckoLeast (fmt : Nat) : Nat := [5, 2, 20, 32].getD fmt 2

/-- The grid of a CLKOUT (R341): a rising edge every DIV pin-clock periods from TT = 0, shifted by the phase reached; the first at or after an instant. -/
def Dev.ckoNext (m : Dev) (n : Nat) (t : Instant) : Instant :=
  let ph := Tbl.find 0 m.clk.phases n
  ph + m.ckoDiv n * 500 * ceilDiv (t - ph) (m.ckoDiv n * 500)

/-- The swing of a CLKOUT in mV, by the AMP in force (Table 12.2); HCSL and LVCMOS ignore AMP. -/
def Dev.ckoSwing (m : Dev) (n : Nat) : Option Nat :=
  if 2 ≤ m.get (F.HDW_CKO_CTL_FMT n) then none else some (300 + 100 * Tbl.find 0 m.clk.swings n)

/-- AMP is taken at the tick boundary (R342). -/
def Dev.takeAmps (m : Dev) : Dev :=
  m.modClk fun c => { c with swings := (List.range 8).map fun n => (n, m.get (F.HDW_CKO_CTL_AMP n)) }

/-- A CLKOUT that is enabled starts, once Headwater has locked, at its first grid point from the tick boundary on (R342). -/
def Dev.ckoRun (m : Dev) (n : Nat) : Dev :=
  if m.on F.HDW_STAT_LOCKED && m.on (F.HDW_CKO_CTL_ENABLE n) then
    let m := (m.put (F.HDW_CKO_STAT_RUNNING n) 1).modClk fun c => { c with phases := Tbl.set 0 c.phases n (m.get (F.HDW_CKO_PH_PH n)) }
    m.modClk fun c => { c with ckoFrom := Tbl.set 0 c.ckoFrom n (m.ckoNext n m.now) }
  else m

/-- An enable of a CLKOUT is taken, or refused for its DIV or its frequency (R342). -/
def Dev.ckoStart (m : Dev) (n : Nat) : Dev :=
  if m.ckoDiv n < 2 || m.ckoDiv n < ckoLeast (m.get (F.HDW_CKO_CTL_FMT n)) then
    (m.put (F.HDW_CKO_CTL_ENABLE n) 0).put (F.HDW_CKO_STAT_REFUSED n) 1
  else (m.put (F.HDW_CKO_CTL_ENABLE n) 1).ckoRun n

/-- FMT, AMP and DIV of a HDW_CKO_CTL write: FMT and DIV are ignored while ENABLE, PENDING or SHUTTING is set (R342). -/
def Dev.ckoFields (m : Dev) (n ctl : Nat) : Dev :=
  let busy := m.on (F.HDW_CKO_CTL_ENABLE n) || m.on (F.HDW_CKO_STAT_PENDING n) || m.on (F.HDW_CKO_STAT_SHUTTING n)
  let same := bitsOf ctl 2 1 == m.get (F.HDW_CKO_CTL_FMT n) && bitsOf ctl 19 8 == m.get (F.HDW_CKO_CTL_DIV n)
  let m := m.put (F.HDW_CKO_CTL_AMP n) (bitsOf ctl 5 3)
  if same then m
  else if busy then m.put (F.HDW_CKO_STAT_CFG_IGNORED n) 1
  else (m.put (F.HDW_CKO_CTL_FMT n) (bitsOf ctl 2 1)).put (F.HDW_CKO_CTL_DIV n) (bitsOf ctl 19 8)

/-- CLKOUT_ENABLE: HDW_CKO_CTL is taken with ENABLE = 1 (R342, R73). -/
def Dev.ckoEnable (m : Dev) (n ctl : Nat) : Dev :=
  let m := m.ckoFields n ctl
  if m.on (F.HDW_CKO_STAT_SHUTTING n) then (m.put (F.HDW_CKO_CTL_ENABLE n) 1).put (F.HDW_CKO_STAT_PENDING n) 1
  else if m.on (F.HDW_CKO_CTL_ENABLE n) then m
  else m.ckoStart n

/-- CLKOUT_DISABLE: HDW_CKO_CTL is taken with ENABLE = 0 (R342, R73): the current period completes, up to its next grid point. -/
def Dev.ckoDisable (m : Dev) (n ctl : Nat) : Dev :=
  let m := ((m.ckoFields n ctl).put (F.HDW_CKO_CTL_ENABLE n) 0).put (F.HDW_CKO_STAT_PENDING n) 0
  if m.on (F.HDW_CKO_STAT_RUNNING n) then
    (m.put (F.HDW_CKO_STAT_SHUTTING n) 1).modClk fun c => { c with ckoUntil := Tbl.set 0 c.ckoUntil n (m.ckoNext n (m.now + 1)) }
  else m

/-- CLKOUT_SHUTDOWN_DONE: the output stops low (R342), and an enable that waits is taken (R73). -/
def Dev.ckoShutDone (m : Dev) (n : Nat) : Dev :=
  if !m.on (F.HDW_CKO_STAT_SHUTTING n) then m
  else
    let m := ((m.put (F.HDW_CKO_STAT_SHUTTING n) 0).put (F.HDW_CKO_STAT_RUNNING n) 0).put (F.HDW_CKO_STAT_WALK n) 0
    if m.on (F.HDW_CKO_STAT_PENDING n) then (m.put (F.HDW_CKO_STAT_PENDING n) 0).ckoStart n else m

/-- A write of HDW_CKO_PH (R341, R342): ignored at DIV × 500 or more; a running output walks to it. -/
def Dev.ckoPhase (m : Dev) (n v : Nat) : Dev :=
  let ph := v % 2 ^ 21
  if m.ckoDiv n * 500 ≤ ph then m.put (F.HDW_CKO_STAT_CFG_IGNORED n) 1
  else
    let m := m.put (F.HDW_CKO_PH_PH n) ph
    m.put (F.HDW_CKO_STAT_WALK n) (flag (m.on (F.HDW_CKO_STAT_RUNNING n) && Tbl.find 0 m.clk.phases n != ph))

/-- One tick of a CLKOUT's walk: at most 32 units in each of 1,024 ECLK (R180). -/
def Dev.ckoWalk (m : Dev) (n : Nat) : Dev :=
  if !m.on (F.HDW_CKO_STAT_WALK n) then m
  else
    let p := m.get (F.HDW_CKO_PH_PH n)
    let x := Tbl.find 0 m.clk.phases n
    let y := if x < p then min p (x + 32 * 1024) else max p (x - 32 * 1024)
    (m.modClk fun c => { c with phases := Tbl.set 0 c.phases n y }).put (F.HDW_CKO_STAT_WALK n) (flag (y != p))

/-- Every CLKOUT stops at once (R342). -/
def Dev.ckoStop (m : Dev) : Dev :=
  m.each (List.range 8) fun m n =>
    let m := (m.put (F.HDW_CKO_STAT_RUNNING n) 0).put (F.HDW_CKO_STAT_WALK n) 0
    (m.put (F.HDW_CKO_STAT_SHUTTING n) 0).put (F.HDW_CKO_STAT_PENDING n) 0

/-! ## Reference and PLL (R337 to R340) -/

/-- The nominal increment of the time base for the REFCLK found (R348). -/
def Dev.nominalInc (m : Dev) : Nat := if m.on F.HDW_STAT_REF_10M then 0x64000000 else 0x0A000000

/-- Headwater is locked: LOCKED and REF_OK read 1 and HOLDOVER 0, and enabled outputs start. -/
def Dev.setLocked (m : Dev) : Dev :=
  let m := ((m.put F.HDW_STAT_LOCKED 1).put F.HDW_STAT_REF_OK 1).put F.HDW_STAT_HOLDOVER 0
  m.each ((List.range 8).filter fun n => !m.on (F.HDW_CKO_STAT_RUNNING n)) Dev.ckoRun

/-- HEADWATER_LOCK (R337, R338, R343, R348): the first lock, on REFCLK of 10 MHz or 100 MHz; TT counts from 0 and INC takes the nominal
value. A device that is locked keeps everything, and one in slack relocks as part of its wake (R347). -/
def Dev.headwaterLock (m : Dev) (ref10 : Bool) : Dev :=
  if m.on F.HDW_STAT_LOCKED || decide (2 ≤ m.get F.SPT_SLACK_STATE) then m
  else
    let m := m.put F.HDW_STAT_REF_10M (flag ref10)
    if m.clk.locked then m.setLocked
    else
      let m := ((m.rebase m.now).modClk fun c => { c with locked := true, inc := m.nominalInc }).setReg Reg.TMB_INC m.nominalInc
      m.setLocked

/-- REFCLK_LOSS (R339): holdover, every derived clock running; in the slack state the REFCLK count becomes invalid (R347, Table 12.8). -/
def Dev.refLoss (m : Dev) : Dev :=
  let m := (m.put F.HDW_STAT_REF_OK 0).put F.TMB_STAT_REF_LOST 1
  let m := m.put F.HDW_STAT_ALIGNED 0
  if 2 ≤ m.get F.SPT_SLACK_STATE then m.modClk fun c => { c with slackLost := true }
  else (if m.on F.HDW_STAT_LOCKED then m.put F.HDW_STAT_HOLDOVER 1 else m).report Src.refclkLoss 0 0 m.now

/-- REFCLK_RESTORE (R339): REFCLK is valid again, and Headwater relocks without a restart of its dividers. -/
def Dev.refRestore (m : Dev) : Dev :=
  if m.on F.HDW_STAT_HOLDOVER then m.setLocked else m.put F.HDW_STAT_REF_OK 1

/-- HEADWATER_UNLOCK (R340): lock is lost while REFCLK is valid, and Headwater relocks as under R339. -/
def Dev.headwaterUnlock (m : Dev) : Dev :=
  if m.on F.HDW_STAT_LOCKED && m.on F.HDW_STAT_REF_OK then
    ((m.put F.HDW_STAT_ALIGNED 0).put F.HDW_STAT_HOLDOVER 1).report Src.headwaterUnlock 0 0 m.now
  else m

/-- A write of HDW_CTL (R338): BW is taken only while no basin is active. -/
def Dev.hdwCtl (m : Dev) (v : Nat) : Dev :=
  if v % 4 == m.get F.HDW_CTL_BW then m
  else if m.anyActive then m.put F.HDW_STAT_CFG_IGNORED 1 else m.put F.HDW_CTL_BW v

/-! ## SYNC (R343 to R347) -/

/-- 25.6 µs, the period of the alignment points (R347), and 1 ns, the grid tolerance (R346), in units of 0.25 ps. -/
def alignPeriod : Nat := 102400000
def gridWidth : Nat := 4000

/-- SYNC_ARM (R343): MONITOR is taken, and ARM = 1, refused while any basin is active. -/
def Dev.syncArm (m : Dev) (ctl : Nat) : Dev :=
  let m := m.put F.HDW_SYNC_CTL_MONITOR (bitsOf ctl 1 1)
  if m.anyActive then m.put F.HDW_STAT_ARM_REFUSED 1 else m.put F.HDW_SYNC_CTL_ARM 1

/-- A pulse that is no event is measured where MONITOR is set and an event has placed the grid (R346): within 1 ns of the grid its deviation
is held, and reported beyond 5 ps; a pulse further off is reported. -/
def Dev.syncMeasure (m : Dev) (a : Instant) : Dev :=
  match m.clk.skew with
  | none => m
  | some k0 =>
    let off := ((a : Int) - k0 + gridWidth) % alignPeriod
    if (2 * gridWidth : Nat) < off then m.report Src.syncGrid 0 0 m.now
    else
      let dev := off - gridWidth + k0 - m.get F.HDW_SYNC_SKEW_SKEW
      let m := (m.put F.HDW_SYNC_DEV_DEV (ofSigned 16 dev)).bump F.HDW_SYNC_DEV_COUNT
      if 20 < dev.natAbs then m.report Src.syncDrift 0 0 m.now else m

/-- SYNC_PULSE (R343, R344 steps 1 to 3, R346): the arrival A, in units from TT = 0. Armed, it starts the event: S = A − SKEW, the tree walks
by the residual, and HDW_PHASE records the tree's phase against REFCLK, which is a free value (assumption log 3). -/
def Dev.syncPulse (m : Dev) (a : Instant) : Dev :=
  if m.on F.HDW_SYNC_CTL_ARM then
    if m.clk.event != 0 then m
    else
      let k := m.get F.HDW_SYNC_SKEW_SKEW
      let m := (m.put F.HDW_PHASE_PHASE (m.free 16)).draw
      (m.put F.HDW_STAT_WALK 1).modClk fun c => { c with event := 1, eventS := a - k, skew := some k }
  else if m.on F.HDW_SYNC_CTL_MONITOR then m.syncMeasure a else m

/-- The time base at an instant of the current tick, at the nominal rate (R350). -/
def Dev.timeAt (m : Dev) (t : Instant) : Nat := (m.timeBase + (t - m.now) * 2 ^ 24 / 4000) % 2 ^ 56

/-- SYNC_TT_ZERO (R344 steps 4 and 5): TT = 0 at S + 25.6 µs. The dividers restart, CLKOUTs that shut down stop at once (Table 12.8), and the
time base is latched, and loaded where SYNC_LOAD is set. -/
def Dev.syncZero (m : Dev) : Dev :=
  if m.clk.event != 1 then m
  else
    let z := m.clk.eventS + alignPeriod
    let v := m.timeAt z
    let m := (m.setReg Reg.TMB_SYNC_TS_LO (v / 2 ^ 24)).put F.TMB_SYNC_TS_HI_FRAC v
    let m := m.rebase z
    let m := m.each (List.range 8) Dev.ckoShutDone
    let m := m.modClk fun c => { c with ckoFrom := c.ckoFrom.map fun e => (e.1, Tbl.find 0 c.phases e.1) }
    let load := m.reg Reg.TMB_SYNC_LOAD_LO * 2 ^ 24 + m.get F.TMB_SYNC_LOAD_HI_FRAC
    let v := if m.on F.TMB_CTL_SYNC_LOAD then load else v
    let m := { m with timeBase := v, timeRest := 0, latches := [(0, v)] }
    (m.put F.HDW_STAT_WALK 0).modClk fun c => { c with event := 2 }

/-- A tick boundary ends a SYNC event (R344 step 6): TIMEMARK is written, ALIGNED sets and ARM clears; enables held during the event are
taken at the boundary after it (Table 12.8). -/
def Dev.syncTick (m : Dev) : Dev :=
  if m.clk.event == 2 then
    let m := m.traceWord (Trace.timemark * 2 ^ 60 + m.tick % 2 ^ 60)
    ((m.put F.HDW_STAT_ALIGNED 1).put F.HDW_SYNC_CTL_ARM 0).modClk fun c => { c with event := 0 }
  else if m.clk.event == 0 then
    let l := m.clk.enables
    (m.modClk fun c => { c with enables := [] }).each l fun m e => m.basinEnable e.1 e.2
  else m

/-- SYNC_REALIGN (R346): the tree walks by the last deviation; refused while any basin is active. -/
def Dev.syncRealign (m : Dev) : Dev :=
  if m.anyActive then m.put F.HDW_STAT_ARM_REFUSED 1
  else
    let d := toSigned 16 (m.get F.HDW_SYNC_DEV_DEV)
    let p := ofSigned 16 ((m.get F.HDW_PHASE_PHASE : Int) + d)
    (m.put F.HDW_PHASE_PHASE p).put F.HDW_STAT_WALK (flag (d != 0))

/-- A write of HDW_SYNC_CTL (Table 12.9): ARM, MONITOR and REALIGN. -/
def Dev.syncCtl (m : Dev) (v : Nat) : Dev :=
  let m := if bitOf v 0 then m.syncArm v
    else (m.put F.HDW_SYNC_CTL_MONITOR (bitsOf v 1 1)).put F.HDW_SYNC_CTL_ARM (if m.clk.event == 0 then 0 else 1)
  if bitOf v 2 then m.syncRealign else m

/-! ## Time base (R348 to R350) -/

/-- TMB_APPLY_ARM (R349): the staged values apply at the boundary of tick TMB_APPLY, or, where that is not later than the boundary after this
exchange point, at that boundary, with LATE. -/
def Dev.tmbArm (m : Dev) : Dev :=
  let n := m.pair Reg.TMB_APPLY_LO Reg.TMB_APPLY_HI
  let late := decide (n ≤ m.tick + 1)
  let m := if late then m.put F.TMB_STAT_LATE 1 else m
  (m.put F.TMB_STAT_ARMED 1).modClk fun c => { c with applyAt := some (if late then m.tick + 1 else n) }

/-- TMB_APPLY (R349): at a REFCLK edge, and so not while REFCLK is lost (R31), the time base adds STEP, which returns to 0, and INC takes its staged
value where that lies within 0.1 % of nominal. -/
def Dev.tmbApply (m : Dev) : Dev :=
  match m.clk.applyAt with
  | none => m
  | some n =>
    if m.tick < n || !m.on F.HDW_STAT_REF_OK then m
    else
      let step := m.reg Reg.TMB_STEP_LO + 2 ^ 32 * m.get F.TMB_STEP_HI_STEP
      let m := { m with timeBase := (m.timeBase + step) % 2 ^ 56 }
      let m := (m.setReg Reg.TMB_STEP_LO 0).setReg Reg.TMB_STEP_HI 0
      let nom := m.nominalInc
      let bad := decide (nom < 1000 * ((m.clk.inc : Int) - nom).natAbs)
      let m := if bad then m.put F.TMB_STAT_INC_BAD 1 else m.setReg Reg.TMB_INC m.clk.inc
      (m.put F.TMB_STAT_ARMED 0).modClk fun c => { c with applyAt := none }

/-- TIME_BASE_HALF (R348): the ns field crosses 0x8000_0000, or 0, which WRAP counts. -/
def Dev.tmbHalf (m : Dev) (zero : Bool) : Dev :=
  let m := m.put F.TMB_STAT_HALF 1
  if zero then m.bump F.TMB_NOW_HI_WRAP else m

/-- The time base advances by one tick (R348, R350): 2,560 or 256 twenty-fifths of REFCLK edges of INC each; it holds while REFCLK is
lost. -/
def Dev.timeTick (m : Dev) : Dev :=
  let m := if !m.on F.HDW_STAT_REF_OK then m
    else
      let n := m.reg Reg.TMB_INC * (if m.on F.HDW_STAT_REF_10M then 256 else 2560) + m.timeRest
      { m with timeBase := (m.timeBase + n / 25) % 2 ^ 56, timeRest := n % 25 }
  { m with latches := (m.tick, m.timeBase) :: m.latches.take 63 }

/-! ## Ethernet ports (R353, R354, R363) -/

/-- The firmware servo ends with an error where it runs on port e (R451). -/
def Dev.servoEnd (m : Dev) (e err : Nat) : Dev :=
  match m.opSlot Op.servo with
  | some s => if m.param s 0 % 2 == e then m.opEnd s err else m
  | none => m

/-- ETH_ENABLE: ETH_CTL is taken with ENABLE = 1; RSFEC is taken only while disabled. -/
def Dev.ethEnable (m : Dev) (e ctl : Nat) : Dev :=
  if m.on (F.ETH_CTL_ENABLE e) then m
  else (m.put (F.ETH_CTL_RSFEC e) (bitsOf ctl 1 1)).put (F.ETH_CTL_ENABLE e) 1

/-- ETH_DISABLE: ETH_CTL is taken with ENABLE = 0; the link is gone, and a servo on the port ends PORT (R451). -/
def Dev.ethDisable (m : Dev) (e ctl : Nat) : Dev :=
  if m.on (F.ETH_CTL_ENABLE e) then ((m.put (F.ETH_CTL_ENABLE e) 0).put (F.ETH_STAT_LINK e) 0).servoEnd e 0x01
  else m.put (F.ETH_CTL_RSFEC e) (bitsOf ctl 1 1)

/-- ETH_LINK_UP: an enabled port gains block lock, and FEC lock with RSFEC. -/
def Dev.ethUp (m : Dev) (e : Nat) : Dev := if m.on (F.ETH_CTL_ENABLE e) then m.put (F.ETH_STAT_LINK e) 1 else m

/-- ETH_LINK_DOWN: block or FEC lock is lost; a servo on the port ends PORT. -/
def Dev.ethDown (m : Dev) (e : Nat) : Dev :=
  if m.on (F.ETH_STAT_LINK e) then (m.put (F.ETH_STAT_LINK e) 0).servoEnd e 0x01 else m

/-- The transmit stamps held for a port, oldest first (Table 12.5). -/
def Dev.stampsOf (m : Dev) (e : Nat) : List Nat := Tbl.find [] m.clk.stamps e
def Dev.setStamps (m : Dev) (e : Nat) (l : List Nat) : Dev :=
  (m.modClk fun c => { c with stamps := Tbl.set [] c.stamps e l }).put (F.ETH_TSQ_STAT_LEVEL e) l.length

/-- A transmit stamp joins the queue of its port, or is dropped and counted where the queue holds 16 (R354). -/
def Dev.pushStamp (m : Dev) (e entry : Nat) : Dev :=
  let l := m.stampsOf e
  if l.length < 16 then m.setStamps e (l ++ [entry])
  else (m.count (F.ETH_TSQ_STAT_DROPPED e) 1).report Src.stampLost e 0 m.now

/-! ## Vutil links (R355 to R359) -/

/-- States of a link (VTL_STAT.STATE). -/
def Lnk.down : Nat := 0
def Lnk.locking : Nat := 1
def Lnk.waitAlign : Nat := 2
def Lnk.measuring : Nat := 3
def Lnk.up : Nat := 4

def Dev.lnkState (m : Dev) (l : Nat) : Nat := m.get (F.VTL_STAT_STATE l)
def Dev.setLnk (m : Dev) (l v : Nat) : Dev := m.put (F.VTL_STAT_STATE l) v

/-- VUTIL_ENABLE: VTL_CTL is taken with ENABLE = 1; a link that was down begins training (R357). -/
def Dev.vtlEnable (m : Dev) (l ctl : Nat) : Dev :=
  let m := m.put (F.VTL_CTL_TRIG_TX l) (bitsOf ctl 31 16)
  if m.on (F.VTL_CTL_ENABLE l) then m else ((m.put (F.VTL_CTL_ENABLE l) 1).setLnk l Lnk.locking).setLink l {}

/-- VUTIL_DISABLE: VTL_CTL is taken with ENABLE = 0, and the link goes down (R357). -/
def Dev.vtlDisable (m : Dev) (l ctl : Nat) : Dev :=
  ((m.put (F.VTL_CTL_TRIG_TX l) (bitsOf ctl 31 16)).put (F.VTL_CTL_ENABLE l) 0).setLnk l Lnk.down

/-- VUTIL_LOCK (Table 12.7, step 1). -/
def Dev.vtlLock (m : Dev) (l : Nat) : Dev := if m.lnkState l == Lnk.locking then m.setLnk l Lnk.waitAlign else m

/-- VUTIL_CYCLES_START (Table 12.7, step 2): ALIGNED is 1 at this end; the command says so of the other. -/
def Dev.vtlCycles (m : Dev) (l : Nat) : Dev :=
  if m.lnkState l == Lnk.waitAlign && m.on F.HDW_STAT_ALIGNED then m.setLnk l Lnk.measuring else m

/-- VUTIL_UP (R356, Table 12.7, steps 3 and 4): D_L = ⌈(one-way delay + 8 ns) ÷ 8 ns⌉ × 8 ECLK, of a delay in 0.25 ps units. -/
def Dev.vtlUp (m : Dev) (l delay : Nat) : Dev :=
  if m.lnkState l == Lnk.measuring then (m.put (F.VTL_LAT_D l) (ceilDiv (delay + 32000) 32000 * 8)).setLnk l Lnk.up else m

/-- VUTIL_LINK_DOWN (R357): loss of block lock (0), three consecutive discarded cycles (1), or drift of the delay (2) takes the link down; it
retrains. -/
def Dev.vtlDown (m : Dev) (l cause : Nat) : Dev :=
  if m.lnkState l ≤ Lnk.locking || (cause == 1 && decide ((m.link l).misses < 3)) then m
  else ((m.setLnk l Lnk.locking).setLink l {}).report Src.linkDown l 0 m.now

/-- A start of a spanning basin that its leader announces is carried out here too (R301, R418, R420). -/
def Dev.startAnnounced (m : Dev) (b s : Nat) : Dev :=
  let d := m.bdef b
  if (m.bsn b).deck.isNone || (m.bsn b).run.isSome then m
  else if d.prespin then
    (m.modBsn b fun x => { x with rampStart := some s, ramp := 0 }).modDeck b fun k => { k with startTick := some (s + d.prespinTicks) }
  else m.modDeck b fun k => { k with startTick := some s }

/-- A condition forwarded by another device of the span is registered at the leader L later (R109). -/
def Dev.forwarded (m : Dev) (b : Nat) (e : Nat × Nat) : Dev :=
  let t := e.2 + m.get (F.BSN_FLOW_LAT_LINK b) * eclk
  if e.1 < 8 then m.registerEvent b e.1 t
  else if e.1 == 8 || e.1 == 9 then m.modBsn b fun x => { x with trig := timed x.trig (t, flag (e.1 == 8)) }
  else if e.1 == 10 then m.modBsn b fun x => { x with crossings := x.crossings ++ [(m.getForce (F.BSN_FLOW_CTL_TONE b), t)] }
  else m.modBsn b fun x => { x with results := timed x.results (t, if e.1 == 11 then 1 else 3) }

/-- A FLOW block is released (R109, R148, R301, R356): decisions, course successors and announced starts on a device that does not lead the span,
conditions on the one that does, and the stream horizon and the hold word's fields on both, as link l brought them;
what comes from the leader goes on to the other links, and conditions go on toward the leader (R358). -/
def Dev.flowBlock (m : Dev) (l : Nat) (f : FlowBlock) : Dev :=
  if !(m.bdef f.basin).span then m
  else
    let m := f.horizon.elim m fun h => m.modBsn f.basin fun x => { x with farHorizon := x.farHorizon.filter (·.1 != l) ++ [(l, h)] }
    let m := f.hold.elim m fun h => m.modBsn f.basin fun x => { x with farHold := x.farHold.filter (·.1 != l) ++ [(l, h)] }
    let m := if f.horizon.isSome then m.tellHorizon f.basin else m
    let m := if f.hold.isSome then m.sendFlow ((m.flowLinks f.basin).filter (· != l)) { basin := f.basin, hold := f.hold } else m
    if !m.follows f.basin then m.each f.conds fun m e => m.forwarded f.basin e
    else
      let m := if f.conds.isEmpty then m else m.sendFlow (m.leaderLink f.basin).toList { basin := f.basin, conds := f.conds }
      let m := if m.leaderLink f.basin == some l then
          m.sendFlow ((m.flowLinks f.basin).filter (· != l)) { basin := f.basin, decisions := f.decisions, succs := f.succs, start := f.start }
        else m
      let m := m.modBsn f.basin fun x => { x with
        remote := (x.remote.filter fun e => decide (x.pos ≤ e.1)) ++ f.decisions.map fun e => (e.1, flag e.2)
        succs := (x.succs.filter fun e => decide (x.pos ≤ e.1)) ++ f.succs }
      f.start.elim m fun s => m.startAnnounced f.basin s

/-- The link from which received trigger line k is taken (VTL_TRIG_SRC); 8 to 15 name none. -/
def Dev.trigLink (m : Dev) (k : Nat) : Nat :=
  bitsOf (m.reg (if k < 8 then Reg.VTL_TRIG_SRC_LO else Reg.VTL_TRIG_SRC_HI)) (4 * (k % 8) + 3) (4 * (k % 8))

/-- A change of trigger line k at the sender's ECLK e is decoded D_L later (R356). -/
def Dev.trigLine (m : Dev) (l : Nat) (e : Nat × Nat) : Dev :=
  if m.trigLink e.1 != l then m
  else
    let v := m.wire (0x0710 + e.1) == 0
    (m.setWire (0x0710 + e.1) (flag v)).drive (0x0710 + e.1) ((e.2 + m.get (F.VTL_LAT_D l)) * eclk) v

/-- VUTIL_CYCLE_RECEIVE (R355, R356, R357): a cycle whose check fails is discarded whole and counted; else its blocks are released. -/
def Dev.vtlCycle (m : Dev) (l : Nat) (c : LinkCycle) : Dev :=
  if m.lnkState l < Lnk.measuring then m
  else if !c.ok then
    let x := m.link l
    ((m.setLink l { x with misses := x.misses + 1 }).count (F.VTL_ERR_CYCLES l) 1).report Src.linkError l 0 m.now
  else
    let m := m.setLink l { m.link l with misses := 0 }
    if m.lnkState l != Lnk.up then m
    else (m.each c.flow fun m f => m.flowBlock l f).each c.trig fun m e => m.trigLine l e

/-- The stamp of an instant in 2^-24 ns. -/
def Dev.stampFull (m : Dev) (t : Instant) : Nat := m.stampUnits t % 2 ^ 40 * 2 ^ 16

/-- The egress and ingress latencies of link l, port l + 2, in 2^-24 ns (R352). -/
def Dev.egress (m : Dev) (l : Nat) : Nat := m.get (F.TMB_PORT_EGRESS (l + 2)) * 2 ^ 16
def Dev.ingress (m : Dev) (l : Nat) : Nat := m.get (F.TMB_PORT_INGRESS (l + 2)) * 2 ^ 16

/-- A difference of two times modulo 2^32 ns, as a signed number of 2^-24 ns (R359). -/
def timeDiff (a b : Nat) : Int := toSigned 56 (a + 2 ^ 56 - b % 2 ^ 56)

/-- VUTIL_TIME_EXCHANGE (R359): 2^N ticks after the last exchange this end sends SYNC with its origin time and egress latency, and a DREQ whose
departure it stamps. -/
def Dev.vtlExchange (m : Dev) (l : Nat) (t : Instant) : Dev :=
  if m.lnkState l != Lnk.up || (m.link l).exchanged.any (fun n => decide (m.tick < n + 2 ^ m.get F.VTL_SYNC_N)) then m
  else
    let s := m.stampFull t
    let m := m.setLink l { m.link l with request := some ((s + m.egress l) % 2 ^ 56), exchanged := some m.tick }
    { m with out := m.out ++ [.service l 0 [s, m.egress l], .service l 1 []] }

/-- VUTIL_SYNC_MESSAGE (R359): origin time and correction arrive, and the arrival is stamped. -/
def Dev.vtlSync (m : Dev) (l origin corr : Nat) (t : Instant) : Dev :=
  if m.lnkState l < Lnk.measuring then m
  else m.setLink l { m.link l with origin := some ((origin + corr) % 2 ^ 56), receipt := (m.stampFull t + 2 ^ 56 - m.ingress l) % 2 ^ 56 }

/-- VUTIL_DREQ (R359): a delay request is answered with the stamp of its receipt. -/
def Dev.vtlDreq (m : Dev) (l : Nat) (t : Instant) : Dev :=
  if m.lnkState l < Lnk.measuring then m
  else { m with out := m.out ++ [.service l 2 [(m.stampFull t + 2 ^ 56 - m.ingress l) % 2 ^ 56]] }

/-- VUTIL_DRESP (R359): the exchange completes; path delay and offset follow from its four stamps, in 3.90625 ps units. -/
def Dev.vtlDresp (m : Dev) (l receipt : Nat) : Dev :=
  let x := m.link l
  match x.origin, x.request with
  | some o, some r =>
    let there := timeDiff x.receipt o
    let back := timeDiff receipt r
    let dly := (there + back) / 2 ^ 17
    let offs := (there - back) / 2 ^ 17
    let m := m.setLink l { x with origin := none, request := none }
    let m := (m.put (F.VTL_DLY_DLY l) (ofSigned 24 dly)).setReg (Reg.VTL_OFFS l) (ofSigned 32 offs)
    if m.get F.VTL_SYNC_LIMIT < offs.natAbs then m.report Src.linkOffset l 0 m.now else m
  | _, _ => m

/-- VUTIL_CTRL (R355, R358, R301): link identity and topology, PRIMED reports, and the latencies that leaders give. -/
def Dev.vtlCtrl (m : Dev) (l : Nat) (c : CtrlMsg) : Dev :=
  if m.lnkState l < Lnk.measuring then m
  else
    let m := (m.put (F.VTL_STAT_PEER l) c.peer).setLink l { m.link l with beyond := c.beyond, far := c.far }
    let m := m.each c.primed fun m e =>
      if (m.bdef e.1).span && (m.bsn e.1).deck.isSome then m.modBsn e.1 fun x => { x with primedBy := x.primedBy ++ [e.2] } else m
    m.each c.lats fun m e =>
      if (m.bdef e.1).span && (m.bdef e.1).leader != m.deviceIndex && (m.bsn e.1).run.isNone then
        m.setLat e.1 (min 480 (ceilDiv e.2 8 * 8)) else m

end Sys2Proof.Machine
end

