-- ==== Sys2Proof/Machine/SluiceCmd.lean ====
section
/-! DEFINITION. The commands of Sluice (R321 to R335): scrub, repair, refresh, training, operating points, and self-refresh. -/

namespace Sys2Proof.Machine

/-- Changes what Sluice holds. -/
def Dev.modSlc (m : Dev) (f : SlcX → SlcX) : Dev := { m with slc := f m.slc }

/-- Stack s is in self-refresh. -/
def Dev.inRefresh (m : Dev) (s : Nat) : Bool := bitOf (m.get F.SLC_STAT_SR) s

/-- Stack s enters or leaves self-refresh. -/
def Dev.setRefresh (m : Dev) (s : Nat) (v : Bool) : Dev := m.put F.SLC_STAT_SR (setBits (m.get F.SLC_STAT_SR) s s (flag v))

/-! ## Temperature and refresh (R323) -/

/-- The operating points whose results were taken within 20 °C of each stack's temperature (R328). -/
def Dev.inBand (m : Dev) : Nat :=
  let near := fun (f : Fld) (t : Nat) => decide ((toSigned 12 (m.get f) - toSigned 12 t).natAbs ≤ 160)
  m.slc.trained.foldl (fun n e => n + 2 ^ e.1 * flag (near F.SLC_TEMP_T0 e.2.1 && near F.SLC_TEMP_T1 e.2.2)) 0

/-- SLC_TRAIN shows the operating points with results in force, and those in their training band (R328). -/
def Dev.showTraining (m : Dev) : Dev :=
  (m.put F.SLC_TRAIN_VALID (m.slc.trained.foldl (fun n e => n + 2 ^ e.1) 0)).put F.SLC_TRAIN_INBAND m.inBand

/-- The stack temperatures of a tick: SLC_TEMP, the training bands, and over-temperature above 95 °C. -/
def Dev.sampleTemps (m : Dev) (t0 t1 : Nat) : Dev :=
  let m := ((m.put F.SLC_TEMP_T0 t0).put F.SLC_TEMP_T1 t1).showTraining
  let m := if 760 < toSigned 12 t0 then m.report Src.hbmOverTemp 0 0 m.now else m
  if 760 < toSigned 12 t1 then m.report Src.hbmOverTemp 1 0 m.now else m

/-- HBM_REFRESH (R323): a refresh falls due on stack s, at twice the base rate above 85 °C; contents are kept. -/
def Dev.refresh (m : Dev) (s : Nat) : Dev :=
  let t := toSigned 12 (if s = 0 then m.get F.SLC_TEMP_T0 else m.get F.SLC_TEMP_T1)
  m.modSlc fun x => { x with fast := x.fast.set s (decide (680 < t)) }

/-! ## Scrub and repair (R331 to R333) -/

/-- The basin that owns an address: the lowest that names the partition that holds it. -/
def Dev.ownerOf (m : Dev) (a : Nat) : Option Nat :=
  match m.image with
  | none => none
  | some i =>
    let ns := (List.range i.parts.length).filter fun n => match i.parts[n]? with
      | some p => decide (p.base ≤ a) && decide (a < p.base + p.size)
      | none => false
    (i.basins.find? fun e => ns.contains e.2.coursePart || ns.contains e.2.streamPart || ns.contains e.2.capturePart).map (·.1)

/-- The scrub finds something in the word at an address (R331 to R333). -/
def Dev.scrubFound (m : Dev) (f : Nat × Ecc) : Dev :=
  let a := f.1
  let row := rowKey a
  let m := m.eccFound Cls.house a f.2
  match f.2 with
  | .good => m
  | .poisoned =>
    if deviceRegion a then m.poisonReport 0 a
    else match m.ownerOf a with
      | some b => m.poisonReport b a
      | none => m
  | _ => m.modSlc fun x => { x with
      foundNow := if x.foundNow.contains row then x.foundNow else x.foundNow ++ [row],
      marked := if x.foundBefore.contains row && !x.marked.contains row then x.marked ++ [row] else x.marked }

/-- The scrub's share of a tick (R333): `units` of at most RATE are read in ascending order, and what it found is acted on; it pauses while a
stack is in self-refresh. -/
def Dev.scrub (m : Dev) (units : Nat) (found : List (Nat × Ecc)) : Dev :=
  let n := min units (m.get F.SLC_SCRUB_RATE)
  if !m.on F.SLC_CTL_SCRUB_EN || n = 0 || m.get F.SLC_STAT_SR != 0 || !m.on F.SLC_STAT_AVAIL then m
  else
    let pos := m.get F.SLC_SCRUB_POS_LO_ADDR + 2 ^ 32 * m.get F.SLC_SCRUB_POS_HI_ADDR
    let stop := pos + 64 * n
    let m := m.each (found.filter fun f => decide (pos ≤ f.1) && decide (f.1 < stop)) Dev.scrubFound
    let wrap := decide (m.capacity ≤ stop)
    let next := if wrap then stop - m.capacity else stop
    let m := (m.put F.SLC_SCRUB_POS_LO_ADDR next).put F.SLC_SCRUB_POS_HI_ADDR (next / 2 ^ 32)
    if wrap then
      (m.bump F.SLC_SCRUB_PASSES).modSlc fun x => { x with
        foundBefore := (x.foundBefore ++ x.foundNow).eraseDups, foundNow := [] }
    else m

/-- A DQ lane of a pseudo-channel is marked faulty (R332): its repair waits for the next restore or training. -/
def Dev.laneFaulty (m : Dev) (g : Nat) : Dev := (m.put F.SLC_STAT_LANE_PEND 1).modSlc fun x => { x with lanes := x.lanes ++ [g] }

/-- The lane repairs that wait are made, at a training restore or a training (R332). -/
def Dev.repairLanes (m : Dev) : Dev :=
  let l := m.slc.lanes
  let m := (m.put F.SLC_STAT_LANE_PEND 0).modSlc fun x => { x with lanes := [] }
  m.each l fun m g =>
    let m := { m with rsv := { m.rsv with laneRepairs := m.rsv.laneRepairs + 1 } }
    (m.put F.SLC_REPAIR_LANES (min m.rsv.laneRepairs 0xFF)).report Src.hbmLaneRepair g 0 m.now

/-- ROW_REPAIR (R332): a marked row is repaired onto a spare row, at most once in 16 ticks for each pseudo-channel; with no spare row left
in its bank it stays under SECDED. -/
def Dev.rowRepair (m : Dev) (row : Nat) : Dev :=
  let g := row / 2 ^ 24
  let bank := row / 2 ^ 16
  let recent := (m.slc.repaired.lookup g).any fun t => decide (m.tick < t + 16)
  if !m.slc.marked.contains row || recent then m
  else
    let spent := Tbl.find 0 m.slc.spent bank
    let m := m.modSlc fun x => { x with marked := x.marked.filter (· != row) }
    if Config.spareRows bank ≤ spent then m.report Src.hbmExhausted g 0 m.now
    else
      let left := Config.spareRows bank - spent - 1
      let m := m.modSlc fun x => { x with
        spent := Tbl.set 0 x.spent bank (spent + 1), repaired := x.repaired.filter (fun e => e.1 != g) ++ [(g, m.tick)],
        foundNow := x.foundNow.filter (· != row), foundBefore := x.foundBefore.filter (· != row) }
      let m := (m.count F.SLC_REPAIR_ROWS 1).count F.SLC_REPAIR_HARD_PEND 1
      (m.put F.SLC_REPAIR_MIN_SPARE (min (m.get F.SLC_REPAIR_MIN_SPARE) left)).report Src.hbmRowRepair g 0 m.now

/-- READ_TIMING_TRACK (R328): a controller corrects its read-timing drift; drift beyond the tracking range asks for training. -/
def Dev.timingTrack (m : Dev) (s : Nat) (within : Bool) : Dev :=
  if within then m else (m.put F.SLC_STAT_RETRAIN 1).report Src.hbmTraining s 0 m.now

/-! ## Training and operating points (R324 to R328) -/

/-- True where a catchment operation or a slack entry excludes a Sluice operation (Table 11.6, BUSY). -/
def Dev.sluiceBusy (m : Dev) (s : Nat) : Bool := (m.groupSlot 1 s).isSome || (m.groupSlot 6 s).isSome

/-- SLC_TRAIN (R327): its checks; training of the named operating points then runs. -/
def Dev.train (m : Dev) (s : Nat) (irq : Bool) : Dev :=
  let r := m.opStart s Op.slcTrain irq 0x05
  if !r.2 then r.1
  else
    let m := r.1
    let mask := bitsOf (m.param s 0) 3 0
    if m.sluiceBusy s then m.opEnd s 0x05
    else if mask = 0 ∨ 8 ≤ mask then m.opEnd s 0x01
    else if m.image.isSome then m.opEnd s 0x06
    else (m.put F.SLC_STAT_OP_BUSY 1).modSlc fun x => { x with training := some (s, mask) }

/-- Training writes its patterns to the training region, which the spec does not give (R327). -/
def Dev.trainPatterns (m : Dev) : Dev :=
  { m with drawn := m.drawn + 0x200000, slc := { m.slc with patterns := m.drawn + 1 },
           hbm := m.hbm.filter fun e => decide (e.1 < 0x0C200000) || decide (0x0C400000 ≤ e.1) }

/-- Results for the operating points of a mask, taken at the stacks' temperatures, come into force, and Reservoir stores them if it can; the lane
repairs that wait
are made (R327, R328, R332). -/
def Dev.trainResults (m : Dev) (mask : Nat) (stored : Bool) : Dev :=
  let m := m.repairLanes.put F.SLC_STAT_RETRAIN 0
  let new := ((List.range 3).filter fun p => bitOf mask p).map fun p => (p, m.get F.SLC_TEMP_T0, m.get F.SLC_TEMP_T1)
  let join := fun (l : List (Nat × Nat × Nat)) => l.filter (fun e => !bitOf mask e.1) ++ new
  let m := (m.modSlc fun x => { x with trained := join x.trained }).showTraining
  if !stored then (m.put F.RSV_STAT_WRITE_ERR 1).report Src.reservoirWrite 0 0 m.now
  else
    let m := m.setPair Reg.RSV_WRITES_LO Reg.RSV_WRITES_HI (m.pair Reg.RSV_WRITES_LO Reg.RSV_WRITES_HI + 1)
    { m with rsv := { m.rsv with trained := join m.rsv.trained } }

/-- The restore of a current operating point: its results are used where they lie in their band; otherwise it is trained (R328, R329). -/
def Dev.restoreTraining (m : Dev) (p : Nat) (stored : Bool) : Dev :=
  if bitOf m.inBand p then m.repairLanes else m.trainPatterns.trainResults (2 ^ p) stored

/-- SLC_TRAIN_DONE (R327): training ends; `good` tells whether every lane trained, `stored` whether Reservoir took the results. The training
region is left with the patterns of the training, which the spec does not give. -/
def Dev.trainDone (m : Dev) (good stored : Bool) : Dev :=
  match m.slc.training with
  | none => m
  | some (s, mask) =>
    let m := ((m.put F.SLC_STAT_OP_BUSY 0).modSlc fun x => { x with training := none }).trainPatterns
    if !good then m.opEnd s 0x07 else (m.trainResults mask stored).opEnd s (if stored then 0 else 0x08)

/-- SLC_OPCHANGE (R325, Table 11.5, step 1): its checks; the lead phase then runs, or is skipped under FORCE. -/
def Dev.opChange (m : Dev) (s : Nat) (irq : Bool) : Dev :=
  let r := m.opStart s Op.opChange irq 0x05
  if !r.2 then r.1
  else
    let m := r.1
    let target := bitsOf (m.param s 0) 3 0
    let force := bitOf (m.param s 0) 8
    if m.sluiceBusy s then m.opEnd s 0x05
    else if 2 < target then m.opEnd s 0x01
    else if target = m.get F.SLC_STAT_OP then m.opEnd s 0
    else if !force && decide (16 * opCapacity target < m.get F.SLC_CAP_DEMAND) then m.opEnd s 0x02
    else if !bitOf (m.get F.SLC_TRAIN_VALID) target || !bitOf (m.get F.SLC_TRAIN_INBAND) target then m.opEnd s 0x03
    else (m.put F.SLC_STAT_OP_BUSY 1).modSlc fun x => { x with
      step := 2, slot := s, target := target, since := m.tick, force := force }

/-- A change ends (R325): its step is 0 again. -/
def Dev.opChangeEnd (m : Dev) (err : Nat) : Dev :=
  ((m.put F.SLC_STAT_OP_BUSY 0).modSlc fun x => { x with step := 0 }).opEnd m.slc.slot err

/-- The least ECLK that the entries of a path play: each pass lasts 256 ECLK at least (R132). -/
def Dev.leastPlay (m : Dev) (b : Nat) (path : List Nat) : Nat := path.foldl (fun n k => n + ((m.entry b k).again + 1) * 256) 0

/-- The lead condition of one basin (R326): every lane holds 4.1 ticks of words, or every word up to END, and the course window holds five
ticks of the default path or the rest of it. -/
def Dev.leadBasin (m : Dev) (b : Nat) : Bool :=
  match (m.bsn b).run with
  | none => true
  | some r =>
    let path := (m.pathFrom b 32 r.entry).take (m.windowHeld b r.entry)
    let streams := path.any fun k => (m.entry b k).words != 0
    let need := ceilDiv (41 * m.wordsPerTick b) 10
    let whole := path.getLast?.any fun k => (m.entry b k).last
    !streams ||
    ((whole || decide (5 * 1024 ≤ m.leastPlay b path)) &&
     (m.lanes b).all fun p => (m.pin p).rPtr.isNone || decide (need ≤ (m.pin p).fifo.length))

/-- The lead condition (R326): RUNNING basins, and every tributary's drain space. -/
def Dev.leadHolds (m : Dev) : Bool :=
  ((m.definedBasins.filter fun b => m.bstate b == St.running).all m.leadBasin) &&
  (List.range 64).all fun t =>
    let pins := ((List.range 16).filter fun i => (m.pinDef (16 * t + i)).served).length
    decide (m.get (F.TRB_GAU_DRAIN_LEVEL t) ≤ 8 * pins)

/-- OPCHANGE_LEAD_TIMEOUT (Table 11.5, step 2): 64 ticks without the lead condition. -/
def Dev.leadTimeout (m : Dev) : Dev :=
  if m.slc.step = 2 ∧ !m.slc.force ∧ m.slc.since + 64 ≤ m.tick then m.opChangeEnd 0x04 else m

/-- OPCHANGE_COMMIT (Table 11.5, step 3): at a tick boundary after the issue requests are held and both stacks enter self-refresh. -/
def Dev.opChangeCommit (m : Dev) : Dev :=
  if m.slc.step = 2 ∧ m.slc.since < m.tick ∧ (m.slc.force || m.leadHolds) then
    let m := m.setSlot m.slc.slot { m.slot m.slc.slot with committed := true }
    (m.put F.SLC_STAT_SR 3).modSlc fun x => { x with step := 3 }
  else m

/-- OPCHANGE_GAP_END (Table 11.5, steps 4 and 5): self-refresh ends at the target's clock, and lane repairs that waited are made. -/
def Dev.opChangeGap (m : Dev) : Dev :=
  if m.slc.step = 3 then
    let m := (m.put F.SLC_STAT_SR 0).put F.SLC_STAT_OP m.slc.target
    (m.modSlc fun x => { x with step := 4, since := m.tick, lastRequest := [m.tick, m.tick] }).repairLanes
  else m

/-- OPCHANGE_COMPLETE (Table 11.5, step 6): from the first tick boundary after the gap allotments run at the target's capacity. -/
def Dev.opChangeDone (m : Dev) : Dev :=
  if m.slc.step = 4 ∧ m.slc.since < m.tick then
    let cap := 16 * opCapacity m.slc.target
    let m := m.put F.SLC_CAP_CAP_UNITS cap
    (m.put F.SLC_STAT_OVER (flag (decide (cap < m.get F.SLC_CAP_DEMAND)))).opChangeEnd 0
  else m

/-! ## Idle self-refresh (R329, Table 11.7) -/

/-- IDLE_SELF_REFRESH_ENTRY. -/
def Dev.idleEntry (m : Dev) (s : Nat) : Dev :=
  let quiet := m.definedBasins.all fun b => m.bstate b == St.disabled || m.bstate b == St.held
  let due := decide (m.slc.lastRequest.getD s 0 + m.get F.SLC_ASR_IDLE ≤ m.tick)
  if m.on F.SLC_CTL_ASR_EN && quiet && due && m.slc.step != 3 && !m.inRefresh s then m.setRefresh s true else m

/-- IDLE_SELF_REFRESH_EXIT: a request makes the stack exit. -/
def Dev.idleExit (m : Dev) (s : Nat) : Dev :=
  if m.inRefresh s && m.slc.step != 3 then
    (m.setRefresh s false).modSlc fun x => { x with lastRequest := x.lastRequest.set s m.tick }
  else m

/-- A byte of HBM as a host or DMA read returns it: training leaves its region with patterns that the spec does not give (R327). -/
def Dev.hostByte (m : Dev) (a : Nat) : Byte :=
  if m.slc.patterns ≠ 0 ∧ 0x0C200000 ≤ a ∧ a < 0x0C400000 then Config.freeValue 8 (m.slc.patterns - 1 + (a - 0x0C200000)) else m.byte a

end Sys2Proof.Machine
end

