-- ==== Sys2Proof/Machine/Spate.lean ====
section
/-! DEFINITION. Power governance and the slack state (chapter 15). -/

namespace Sys2Proof.Machine

/-- Changes what Spate holds. -/
def Dev.modSpt (m : Dev) (f : SptX → SptX) : Dev := { m with spt := f m.spt }

/-! ## Droop (R412 to R414) -/

/-- THROTTLED: CCLK is at the floor, in an episode or by FORCE_FLOOR (R413). -/
def Dev.showFloor (m : Dev) : Dev := m.put F.SPT_STAT_THROTTLED (flag (m.spt.episode || m.on F.SPT_CTL_FORCE_FLOOR))

/-- DROOP_TRIP (R412 to R414): sensor k trips; a new throttling episode reports once. -/
def Dev.droopTrip (m : Dev) (k : Nat) : Dev :=
  let new := !m.spt.episode
  let m := (m.modSpt fun x => { x with tripped := true, clean := 0, episode := true }).showFloor
  if new then ((m.bump F.SPT_STAT_EPISODES).put F.SPT_STAT_SENSOR k).report Src.droop k 0 m.now else m

/-- CCLK_RETURN (R413): the second consecutive clean tick has ended. -/
def Dev.cclkReturn (m : Dev) : Dev :=
  if m.spt.episode && decide (2 ≤ m.spt.clean) then (m.modSpt fun x => { x with episode := false }).showFloor else m

/-- A tick ends: it was clean where no sensor tripped; ticks at the floor are counted (R413, Table 15.7). -/
def Dev.droopTick (m : Dev) : Dev :=
  let m := if m.on F.SPT_STAT_THROTTLED then m.count F.SPT_THR_TICKS_COUNT 1 else m
  m.modSpt fun x => { x with tripped := false, clean := if x.tripped then 0 else min (x.clean + 1) 2 }

/-- A write of SPT_CTL (R413). -/
def Dev.sptCtl (m : Dev) (v : Nat) : Dev := (m.put F.SPT_CTL_FORCE_FLOOR v).showFloor

/-- A write of SPT_DROOP (R414): THR outside 4 to 40 is ignored. -/
def Dev.droopWrite (m : Dev) (v : Nat) : Dev :=
  let t := v % 64
  if 4 ≤ t ∧ t ≤ 40 then m.put F.SPT_DROOP_THR t else m.put F.SPT_STAT_CFG_IGNORED 1

/-! ## Start pacing (R61, R419) -/

/-- STEP_LIMIT_WRITE (R61, R419): 0 is ignored; a limit below what an admitted basin needs is refused and reported. -/
def Dev.stepLimitWrite (m : Dev) (v : Nat) : Dev :=
  let n := v % 65536
  let need := fun (d : BasinDef) => if d.prespin then ceilDiv d.stepCur (max 1 d.prespinTicks) else d.stepCur
  if n = 0 then m.put F.SPT_STAT_CFG_IGNORED 1
  else if m.definedBasins.any fun b => decide (n < need (m.bdef b)) then
    (m.put F.SPT_STAT_LIMIT_REFUSED 1).report Src.stepLimit 0 0 m.now
  else m.put F.SPT_STEP_LIMIT_LIMIT n

/-! ## The slack state (R423 to R428) -/

/-- States of SPT_SLACK.STATE. -/
def Slack.run : Nat := 0
def Slack.entering : Nat := 1
def Slack.slack : Nat := 2
def Slack.waking : Nat := 3

/-- The ready entries of a basin's list l spill ahead of those that spilled before (R296, Table 15.2). -/
def Dev.spillList (m : Dev) (b l : Nat) : Dev :=
  let cs := (m.bsn b).lists.getD l []
  let m := m.each cs fun m c => (m.setCtx c Ctx.spilled).trace Trace.spill l b c
  m.modBsn b fun x => { x with lists := x.lists.modify l fun _ => [], chains := x.chains.modify l (cs ++ ·) }

/-- A general ADC loses its power with its scan; ENABLE and RUN are kept (R285). -/
def Dev.adcSleep (m : Dev) (k : Nat) : Dev :=
  let m := ((m.put (F.ADC_STAT_SCAN_RUN k) 0).put (F.ADC_STAT_SCAN_SHUTTING k) 0).put (F.ADC_STAT_SCANNING k) 0
  let m := ((m.put (F.ADC_STAT_POWERED k) 0).put (F.ADC_STAT_READY k) 0).put (F.ADC_STAT_SHUTTING k) 0
  m.setAdc k { m.adc k with scan := [], waiting := false }

/-- A P ADC stops; ENABLE is kept (R285). -/
def Dev.padcSleep (m : Dev) (p : Nat) : Dev :=
  let m := ((m.put (F.P_STAT_RUNNING p) 0).put (F.P_STAT_SHUTTING p) 0).put (F.P_STAT_SETTLED p) 0
  m.dropSession p

/-- Channels whose ENABLE is set power up again, and scans whose RUN is set restart by their SRC (R285). -/
def Dev.adcWake (m : Dev) (k : Nat) : Dev :=
  let m := if m.on (F.ADC_CTL_ENABLE k) then m.put (F.ADC_STAT_POWERED k) 1 else m
  if m.on (F.ADC_CTL_RUN k) then m.scanEnable k else m
def Dev.padcWake (m : Dev) (p : Nat) : Dev := if m.on (F.P_CTL_ENABLE p) then m.padcStart p else m

/-- Ethernet and Vutil links go down (Table 15.2, step 2). -/
def Dev.linksDown (m : Dev) : Dev :=
  (m.each (List.range 2) Dev.ethDown).each (List.range 8) fun m l => m.setLnk l Lnk.down

/-- Enabled Vutil links retrain (Table 15.4, step 6). -/
def Dev.linksUp (m : Dev) : Dev :=
  m.each ((List.range 8).filter fun l => m.on (F.VTL_CTL_ENABLE l)) fun m l => (m.setLnk l Lnk.locking).setLink l {}

/-- SLACK_ENTER (R423, Table 15.2, steps 1 and 2): the checks, then everything that must be quiet shuts down. -/
def Dev.slackEnter (m : Dev) (s : Nat) (irq : Bool) : Dev :=
  let r := m.opStart s Op.slack irq 0x02
  if !r.2 then r.1
  else if r.1.anyActive then r.1.opEnd s 0x01
  else if [1, 2, 4, 5].any (fun g => (r.1.groupSlot g s).isSome) || r.1.lev.writing.isSome then r.1.opEnd s 0x02
  else
    let m := (r.1.put F.SPT_SLACK_STATE Slack.entering).modSpt fun x => { x with woken := false }
    let m := m.each m.definedBasins fun m b => m.each (List.range 8) fun m l => m.spillList b l
    let m := (m.each (List.range 32) Dev.adcSleep).each (List.range 4) Dev.padcSleep
    m.abandonCal.linksDown.storeCounters

/-- An entry ends before its commit with an error; what had shut down resumes (Table 15.3, R423). -/
def Dev.slackAbandon (m : Dev) (err : Nat) : Dev :=
  let m := (m.put F.SPT_SLACK_STATE Slack.run).modSpt fun x => { x with woken := false }
  let m := ((m.each (List.range 32) Dev.adcWake).each (List.range 4) Dev.padcWake).linksUp
  match m.opSlot Op.slack with
  | some s => m.opEnd s err
  | none => m

/-- SLACK_COMMIT (Table 15.2, steps 3 to 5): self-refresh, the tributaries and CLKOUTs off, Headwater and Millrace stopped. -/
def Dev.slackCommit (m : Dev) : Dev :=
  if m.get F.SPT_SLACK_STATE != Slack.entering then m
  else if m.anyActive then m.slackAbandon 0x01
  else if m.spt.woken then m.slackAbandon 0x03
  else
    let m := ((m.put F.SLC_STAT_SR 3).put F.SLC_STAT_AVAIL 0).put F.SLC_CAP_CAP_UNITS 0
    let m := ((m.put F.GLB_WIN_STAT_OPEN 0).put F.MRC_STAT_RUNNING 0).ckoStop
    let m := ((m.put F.HDW_STAT_LOCKED 0).put F.HDW_STAT_HOLDOVER 0).modClk fun c => { c with slackLost := false }
    m.put F.SPT_SLACK_STATE Slack.slack

/-- A wake event: before the commit it ends the entry WOKEN, in slack the wake begins (R425, Table 15.3, Table 15.4, Table 15.6). -/
def Dev.wake (m : Dev) : Dev :=
  let st := m.get F.SPT_SLACK_STATE
  if st == Slack.entering then m.modSpt fun x => { x with woken := true }
  else if st == Slack.slack then m.put F.SPT_SLACK_STATE Slack.waking
  else m

/-- True where wake comparator k may fire (R425). -/
def Dev.wakeArmed (m : Dev) (k : Nat) : Bool :=
  if k < 4 then bitOf (m.get F.SPT_WAKE_CTL_EN) k else if k < 7 then true else m.on F.SPT_WAKE_CTL_EN_TEMP

/-- WAKE_EVENT (R425): comparator k fires, outside the run state; during entry only those of the supplies are active (Table 15.1). -/
def Dev.wakeEvent (m : Dev) (k : Nat) : Dev :=
  let st := m.get F.SPT_SLACK_STATE
  if st == Slack.run || !m.wakeArmed k || (st == Slack.entering && !(decide (4 ≤ k) && decide (k < 7))) then m
  else (m.put F.SPT_WAKE_CAUSE_CMP (setBits (m.get F.SPT_WAKE_CAUSE_CMP) k k 1)).wake

/-- HOST_WAKE (R425): SPT_SLACK.WAKE = 1. -/
def Dev.hostWake (m : Dev) : Dev :=
  if m.get F.SPT_SLACK_STATE == Slack.run then m else (m.put F.SPT_WAKE_CAUSE_HOST 1).wake

/-- SUPPLY_MONITOR_TRIP (R415, R428): monitor k trips at an instant; in slack monitors 0 to 2 wake the device, and their reports wait for the end
of the wake. -/
def Dev.supplyTrip (m : Dev) (k : Nat) (t : Instant) : Dev :=
  let st := m.get F.SPT_SLACK_STATE
  if decide (Slack.slack ≤ st) && decide (3 ≤ k) then m
  else
    let m := m.put F.SPT_MON_OK (setBits (m.get F.SPT_MON_OK) k k 0)
    if Slack.slack ≤ st then (m.modSpt fun x => { x with supply := x.supply ++ [(k, t)] }).wakeEvent (k + 4)
    else m.report Src.supplyFault k 0 t

/-- A pin returns from slack in the safe state, its active codes equal to its clear codes and its staged codes kept (R202). -/
def Dev.wakePin (m : Dev) (p : Nat) : Dev :=
  let m := m.each (List.range 6) fun m c => m.put (F.PIN_LVL_ACT_CODE p c) (m.get (F.PIN_LVL_CLR_CODE p c))
  let m := m.modPin p fun x => { x with applied := false, ampNow := 0, levelAt := some m.now, forceNext := none }
  (m.limitOwed p).safePin false p

/-- Sluice comes out of self-refresh at a wake (R329, R426): its operating point's training is restored, or the point is trained, at the stacks'
temperatures. -/
def Dev.wakeMemory (m : Dev) (t0 t1 : Nat) (stored : Bool) : Dev :=
  let op := m.get F.SLC_STAT_OP
  let m := (m.sampleTemps t0 t1).restoreTraining op stored
  let m := (m.put F.SLC_CAP_CAP_UNITS (16 * opCapacity op)).put F.SLC_STAT_SR 0
  (m.put F.SLC_STAT_AVAIL 1).put F.GLB_WIN_STAT_OPEN 1

/-- WAKE_COMPLETE (R347, R426): REFCLK is valid, the dividers have restarted at the first alignment point (a multiple of 25 ticks) at or after tick
`tick`, and the time base has counted
`edges` edges since it was last latched; where REFCLK was lost in slack, TT restarts. -/
def Dev.wakeComplete (m : Dev) (tick edges t0 t1 : Nat) (stored : Bool) : Dev :=
  if m.get F.SPT_SLACK_STATE != Slack.waking || !m.on F.HDW_STAT_REF_OK then m
  else
    let v := (m.timeBase + m.reg Reg.TMB_INC * edges) % 2 ^ 56
    let m := if m.clk.slackLost then m.rebase m.now else { m with tick := 25 * ceilDiv (max m.tick tick) 25 }
    let m := { m with timeBase := v, timeRest := 0, latches := [(m.tick, v)] }
    let m := (m.put F.SPT_SLACK_STATE Slack.run).setLocked
    let m := (m.modClk fun c => { c with slackLost := false }).put F.MRC_STAT_RUNNING 1
    let m := m.each (List.range 1024) Dev.wakePin
    let m := (m.each (List.range 32) Dev.adcWake).each (List.range 4) Dev.padcWake
    let m := (m.wakeMemory t0 t1 stored).linksUp
    let l := m.spt.supply
    let m := (m.modSpt fun x => { x with supply := [], woken := false }).each l fun m e => m.report Src.supplyFault e.1 0 e.2
    let m := m.each (m.definedBasins.filter fun b => !m.enableWaits b) Dev.takeHeldEnable
    match m.opSlot Op.slack with
    | some s => m.opEnd s 0
    | none => m

end Sys2Proof.Machine
end

