-- ==== Sys2Proof/Machine/LeveeCmd.lean ====
section
/-! DEFINITION. The commands of Levee (chapter 14): reports and forcing, the log, severities, state dumps, persistent counters, and the audit
of the engines. -/

namespace Sys2Proof.Machine

/-! ## Reports and forcing (R384 to R393) -/

/-- FAULT_REPORT (R384, R385, R387): a source of Table 14.1 reports; a reserved source never does. A PPMU clamp, which
the DUT's load causes, also sets its pin's CLAMP_HIT, and CLAMP while the PPMU is connected (R203, Table 6.10). -/
def Dev.faultReport (m : Dev) (s inst detail : Nat) (t : Instant) : Dev :=
  if !sourceListed s then m
  else if s == Src.ppmuClamp then
    let m := m.put (F.PIN_PMU_STAT_CLAMP_HIT inst) 1
    (if m.pmuClosed inst t then m.put (F.PIN_PMU_STAT_CLAMP inst) 1 else m).report s inst detail t
  else m.report s inst detail t

/-- The arm is consumed, lapses, or is broken. -/
def Dev.disarm (m : Dev) : Dev := m.modLev fun l => { l with armSource := none, armKeys := 0, armAt := 0 }

/-- A LEV_FORCE write makes its forced report, or is refused (R392, R393); it consumes a valid arm. -/
def Dev.forceSource (m : Dev) (v : Nat) : Dev :=
  let s := bitsOf v 8 0
  let inst := bitsOf v 31 16
  let armed := decide (m.lev.armKeys = 2) && decide (m.now < m.lev.armAt + 4000000000)
  let ok := sourceListed s && (if armed then m.lev.armSource == some s else m.severity s != 5)
  let m := if armed then m.disarm else m
  if ok then m.reportAs s inst 0xFFFF true m.now else m.put F.LEV_STAT_FORCE_REFUSED 1

/-- A LEV_ARM write (R393): the first key names a source, the second completes the arm; any other write lets it lapse. -/
def Dev.levArm (m : Dev) (v : Nat) : Dev :=
  let s := bitsOf v 8 0
  let key := bitsOf v 27 16
  if key = 0x0A5 then m.modLev fun l => { l with armSource := some s, armKeys := 1, armAt := 0 }
  else if key = 0x15A ∧ m.lev.armKeys = 1 ∧ m.lev.armSource = some s then m.modLev fun l => { l with armKeys := 2, armAt := m.now }
  else m.disarm

/-- LEV_ARM_LAPSE (R393): 1 ms after the second key. -/
def Dev.armLapse (m : Dev) : Dev :=
  if m.lev.armKeys = 2 ∧ m.lev.armAt + 4000000000 < m.now + tickUnits then m.disarm else m

/-! ## The log and the severities (R386, R391, R394) -/

/-- A read of LEV_LOG_0 removes the oldest entry (R394). -/
def Dev.logPop (m : Dev) : Dev := m.modLev fun l => { l with log := l.log.tail }

/-- A write of LEV_SEV (R386). -/
def Dev.sevWrite (m : Dev) (s v : Nat) : Dev :=
  let n := bitsOf v 2 0
  if !sourceListed s then (if n = 0 then m else m.put F.LEV_STAT_CFG_IGNORED 1)
  else if 6 ≤ n ∨ n < m.get (F.LEV_SEV_FLOOR s) then m.put F.LEV_STAT_CFG_IGNORED 1
  else m.put (F.LEV_SEV_SEV s) n

/-- A write of 1 to LEV_STAT.DEVICE releases ALERT_N (R391); the sealed state holds it asserted (R397). -/
def Dev.deviceClear (m : Dev) : Dev :=
  (m.put F.LEV_STAT_DEVICE 0).modLev fun l => { l with alertN := !m.on F.LEV_STAT_SEALED }

/-- LEV_DUMP_ACK (R401): the dump held is acknowledged. -/
def Dev.dumpAck (m : Dev) : Dev := m.modLev fun l => { l with held := l.held.map fun d => { d with acked := true } }

/-! ## State dumps (R400, R401) -/

/-- DUMP issued by the host (R400, Table 14.8). -/
def Dev.dump (m : Dev) (s : Nat) (irq : Bool) : Dev :=
  let r := m.opStart s Op.dump irq 0x01
  if !r.2 then r.1
  else
    let m := r.1
    if m.lev.writing.isSome then m.opEnd s 0x01
    else if !m.on F.SLC_STAT_AVAIL then m.opEnd s 0x02
    else if m.lev.held.any fun d => !d.acked && d.cause != 3 then m.opEnd s 0x03
    else (m.beginDump 3 0 0 m.now).modLev fun l => { l with writing := l.writing.map fun d => { d with slot := some s } }

/-- The image of n bytes of registers at a BAR0 offset, as a host read would return them. -/
def regImage (regs : List (Nat × Word)) (off n : Nat) : List Byte :=
  (List.range (n / 4)).flatMap fun i =>
    leBytes 4 (readMask (off + 4 * i) (Tbl.find (BitVec.ofNat 32 (resetOf (off + 4 * i))) regs (off + 4 * i)).toNat)

/-- n bytes whose content the spec leaves open (assumption log 3). -/
def Dev.freeBytes (m : Dev) (n : Nat) : List Byte := (List.range n).map fun i => Config.freeValue 8 (m.drawn + i)

/-- A log entry as 16 bytes (Table 14.4). -/
def LogEntry.bytes (e : LogEntry) : List Byte :=
  leBytes 4 e.ns ++ leBytes 4 (e.frac + 2 ^ 8 * e.source + 2 ^ 17 * e.sev + 2 ^ 20 * flag e.forced + 2 ^ 21 * flag e.reserved + 2 ^ 24 * e.again) ++
  leBytes 4 (e.inst + 2 ^ 16 * e.detail) ++ leBytes 4 e.tick

/-- A list of bytes, zero-filled to a length. -/
def padTo (n : Nat) (l : List Byte) : List Byte := (l ++ List.replicate (n - l.length) 0).take n

/-- A context index as the dump writes it: bit 31 for an empty entry (Table 14.7). -/
def dumpIndex (c : Option Nat) : List Byte := leBytes 4 (c.elim (2 ^ 31) (· % 2 ^ 20))

/-- The Weir section: the on-chip ready queue in list order, then each basin's running and on-deck context. -/
def Dev.weirImage (m : Dev) : List Byte :=
  let q := m.basins.flatMap fun e => e.2.lists.flatten
  (List.range 16384).flatMap (fun i => dumpIndex q[i]?) ++
  (List.range 256).flatMap fun b => dumpIndex ((m.bsn b).run.map (·.ctx)) ++ dumpIndex ((m.bsn b).deck.map (·.ctx))

/-- The sections of a dump (Table 14.7), each a type and its content: registers as they stood at the event. What the spec does not lay out (the
audit engines, Millrace, the Sluice errors, the firmware log and its length) is free. -/
def Dev.dumpSections (m : Dev) (d : DumpX) : List (Nat × List Byte) :=
  let img := regImage d.regs
  let word := fun off => (Tbl.find (BitVec.ofNat 32 (resetOf off)) d.regs off).toNat
  [(0x0001, padTo 4096 (m.lev.log.flatMap LogEntry.bytes)),
   (0x0002, (List.range 512).flatMap fun s => leBytes 2 (word (Reg.LEV_LOST s))),
   (0x0003, (List.range 512).flatMap fun s => leBytes 4 (word (Reg.LEV_PCNT s))),
   (0x0004, [0x0000000, 0x0020000, 0x0030000, 0x0040000, 0x0050000, 0x0060000, 0x0070000, 0x0080000].flatMap fun o => img o 4096),
   (0x0005, (List.range 256).flatMap fun b => img (0x0500000 + b * 0x1000) 0x1000),
   (0x0006, (List.range 1024).flatMap (fun p => img (Reg.PIN_ENG_STAT p) 0x80) ++ m.freeBytes 8192),
   (0x0007, m.weirImage),
   (0x0008, m.freeBytes 65536),
   (0x0009, m.freeBytes 65536),
   (0x000A, (List.range 64).flatMap fun t => img (0x0108000 + t * 0x10000) 0x4000),
   (0x000B, m.freeBytes (min (m.free 24) 8388608))]

/-- Where each section goes: type, offset and content, on 4 KiB boundaries in order (R401). -/
def placeSections : Nat → List (Nat × List Byte) → List (Nat × Nat × List Byte)
  | _, [] => []
  | o, s :: t => (s.1, o, s.2) :: placeSections (o + ceilDiv s.2.length 4096 * 4096) t

/-- A section-table entry (Table 2.2, FLAGS 0). -/
def sectionEntry (s : Nat × Nat × List Byte) : List Byte :=
  leBytes 2 s.1 ++ leBytes 2 0 ++ leBytes 4 s.2.1 ++ leBytes 4 s.2.2.length ++ leBytes 4 (crc32c s.2.2)

/-- The header of a dump with its CRC field given (Table 14.6). -/
def DumpX.header (d : DumpX) (n len gen crc : Nat) : List Byte :=
  [0x46, 0x51, 0x44, 0x4D] ++ leBytes 1 1 ++ leBytes 1 d.cause ++ leBytes 2 n ++ leBytes 4 len ++ leBytes 4 crc ++
  leBytes 2 (if d.cause == 3 then 0 else d.source) ++ leBytes 2 d.inst ++ leBytes 4 d.ns ++ leBytes 1 d.frac ++ leBytes 3 0 ++
  leBytes 4 gen ++ leBytes 8 d.tick ++ leBytes 4 d.imageId ++ leBytes 4 d.gen ++ leBytes 16 0

/-- The dump is written to its region (R400, steps 2 and 3). -/
def Dev.writeDump (m : Dev) (d : DumpX) : Dev :=
  let l := placeSections 4096 (m.dumpSections d)
  let table := l.flatMap sectionEntry
  let len := (l.getLast?.map fun s => s.2.1 + s.2.2.length).getD 0
  let gen := m.rsv.dumps + 1
  let crc := crc32c (d.header l.length len gen 0 ++ table)
  let m := m.each l fun m s => m.setBytes (dumpBase + s.2.1) s.2.2
  let m := { m with drawn := m.drawn + 0x1000000, rsv := { m.rsv with dumps := gen } }
  (m.setBytes (dumpBase + 64) table).setBytes dumpBase (d.header l.length len gen crc)

/-- The sealed summary is written to Reservoir (R402): a record of KIND 0x0021 with the sealing report's log entry and the count of sealing events.
DESIGN CHOICE (log 122):
the entry as Table 14.4 gives it, then the count in 4 bytes. -/
def Dev.storeSummary (m : Dev) : Dev :=
  let n := min (m.rsv.seals + 1) 0xFFFF
  ({ m with rsv := { m.rsv with sealEntry := m.lev.sealing, seals := n } }).recWrite Rec.summary 0 0
    ((m.lev.sealing.elim (List.replicate 16 0) LogEntry.bytes) ++ leBytes 4 n)

/-- DUMP_COMPLETE (R391, R400 to R402): the dump is written, unless Sluice is not available; after a SEALED event the counters and the sealed
summary go to Reservoir, and after a DEVICE event the enables that waited take effect. -/
def Dev.dumpComplete (m : Dev) : Dev :=
  match m.lev.writing with
  | none => m
  | some d =>
    let ok := m.on F.SLC_STAT_AVAIL
    let m := if ok then m.writeDump d else m
    let m := (m.put F.LEV_STAT_DUMPING 0).put F.LEV_STAT_DUMP_VALID (flag ok)
    let m := m.modLev fun l => { l with writing := none, held := if ok then some { d with regs := [] } else none }
    let m := if d.cause == 2 then m.storeCounters.storeSummary else m
    let m := if d.cause != 1 then m else
      m.each (m.definedBasins.filter fun b => !m.enableWaits b) Dev.takeHeldEnable
    match d.slot with
    | some s => m.opEnd s (if ok then 0 else 0x02)
    | none => m

/-! ## Persistent counters (R402) -/

/-- PCNT_RECORD_WRITE (R375, R402): once every 2^20 ticks the record is written, or fails its read-back. -/
def Dev.counterWrite (m : Dev) (stored : Bool) : Dev :=
  if m.tick % 2 ^ 20 != 0 then m
  else if stored then m.storeCounters
  else (m.put F.RSV_STAT_WRITE_ERR 1).report Src.reservoirWrite 0x20 0 m.now

/-! ## Audit and spare engines (R403 to R405) -/

/-- What the audit of a tributary holds. -/
def Dev.aud (m : Dev) (t : Nat) : AudX := Tbl.find {} m.auds t
def Dev.setAud (m : Dev) (t : Nat) (x : AudX) : Dev := { m with auds := Tbl.set {} m.auds t x }

/-- The mapped pin that an engine serves. -/
def Dev.servedBy (m : Dev) (e : Nat) : Option Nat :=
  (((m.image.map (·.pins)).getD []).map (·.1)).find? fun p => m.engineOf p == e

/-- A mismatch on a pin's engine is counted and reported (R403). -/
def Dev.auditMiss (m : Dev) (t p mask : Nat) : Dev :=
  (m.count (F.TRB_AUD_STAT_MISMATCH t) 1).report Src.auditMismatch p mask m.now

/-- The tick that has ended is judged for one tributary (R403): `mask` tells what differed, 0 for a match. The next engine to be shadowed is
that of the rotation, the same again, or the cross-check's. -/
def Dev.auditTick (m : Dev) (t mask : Nat) : Dev :=
  let x := m.aud t
  let e := m.get (F.TRB_AUD_STAT_NEXT t)
  let turn := m.tick % 16
  if m.on (F.TRB_AUD_STAT_SUSPENDED t) || m.on (F.TRB_AUD_STAT_COPYING t) || m.on (F.TRB_AUD_STAT_AUDIT_FAULTY t) then
    m.put (F.TRB_AUD_STAT_NEXT t) turn
  else
    match (m.servedBy (16 * t + e)).filter fun p => m.get (F.PIN_ENG_STAT_STATE p) != 0 with
    | none =>
      let next := if x.step = 0 then turn else if x.step = 1 then e else (e + 1) % 16
      m.put (F.TRB_AUD_STAT_NEXT t) next
    | some p =>
      let m := m.bump (F.TRB_AUD_COUNT_AUDITS t)
      if x.step = 0 then
        if mask = 0 then m.put (F.TRB_AUD_STAT_NEXT t) turn
        else (m.auditMiss t p mask).setAud t { step := 1, engine := e, mask := mask }
      else if x.step = 1 then
        if mask = 0 then (m.setAud t {}).put (F.TRB_AUD_STAT_NEXT t) turn
        else ((m.auditMiss t p mask).setAud t { step := 2, engine := e, mask := mask }).put (F.TRB_AUD_STAT_NEXT t) ((e + 1) % 16)
      else
        let m := (m.setAud t {}).put (F.TRB_AUD_STAT_NEXT t) turn
        if mask = 0 then
          let m := (m.put (F.TRB_AUD_STAT_FAULTY t) x.engine).put (F.TRB_AUD_STAT_FAULTY_VALID t) 1
          (m.put (F.TRB_AUD_STAT_COPYING t) 1).report Src.engineFaulty ((m.servedBy (16 * t + x.engine)).getD (16 * t + x.engine)) x.mask m.now
        else
          let m := ((m.auditMiss t p mask).put (F.TRB_AUD_STAT_AUDIT_FAULTY t) 1).put (F.TRB_AUD_STAT_SUSPENDED t) 1
          m.report Src.auditFaulty t mask m.now

/-- The audits of a tick: tributaries that found a difference, with their masks (bits 0 to 3, R403). -/
def Dev.auditAll (m : Dev) (found : List (Nat × Nat)) : Dev :=
  m.each (List.range 64) fun m t => m.auditTick t ((found.lookup t).getD 0 % 16)

/-- SPARE_COPY_DONE (R404, R405): the spare holds the faulty engine's store and waits to take over its pin; with no pin left to serve it is
not used. -/
def Dev.copyDone (m : Dev) (t : Nat) : Dev :=
  if !m.on (F.TRB_AUD_STAT_COPYING t) then m
  else
    let e := 16 * t + m.get (F.TRB_AUD_STAT_FAULTY t)
    let m := (m.copyStore e (1024 + t)).put (F.TRB_AUD_STAT_COPYING t) 0
    match (m.servedBy e).filter fun p => (m.pinDef p).served with
    | some p =>
      { (m.put (F.TRB_AUD_STAT_SUSPENDED t) 1).put (F.TRB_AUD_STAT_SPARE_USED t) 1 with takeovers := m.takeovers ++ [(p, m.now)] }
    | none => { m with faulty := if m.faulty.contains e then m.faulty else m.faulty ++ [e] }

/-! ## Millrace's lanes (R406) -/

/-- MILLRACE_LANE_OUTVOTED (R406, R432): the lane is rewritten from the majority, or no two lanes agree. -/
def Dev.laneOutvoted (m : Dev) (lane : Nat) (majority : Bool) : Dev :=
  if majority then ((m.rewriteLane lane ((lane + 1) % 3)).count (F.MRC_LANE_RESYNC lane) 1).report Src.millraceLane lane 0 m.now
  else m.report Src.millraceVote 0 0 m.now

end Sys2Proof.Machine
end

