-- ==== Sys2Proof/Machine/Boot.lean ====
section
/-! DEFINITION. Resets, start-up and power (R9, R399, R444 to R447, R488, R498, R499), and CLR_N (R200). -/

namespace Sys2Proof.Machine

/-! ## CLR_N (R200) -/

/-- Every pin is held cleared; basins that are IDLE or RUNNING enter HELD, and a running burst completes CLEARED (R200). -/
def Dev.clearHold (m : Dev) : Dev :=
  let m := m.each (m.definedBasins.filter fun b => m.bstate b == St.idle || m.bstate b == St.running) fun m b => m.react b 0x0C 0 m.now
  m.clearAll.abandonCal

/-- CLR_N_ASSERT (R200): a low level of at least 50 ns is taken, a pulse shorter than 20 ns ignored, and what lies between is a free value. -/
def Dev.clrAssert (m : Dev) (lowNs : Nat) : Dev :=
  let taken := if lowNs < 20 then false else if 50 ≤ lowNs then true else m.free 1 == 1
  let m := if 20 ≤ lowNs ∧ lowNs < 50 then m.draw else m
  if !taken || m.on F.GLB_CLR_STAT_LEVEL then m
  else
    let m := ((m.put F.GLB_CLR_STAT_LEVEL 1).put F.GLB_CLR_STAT_HIT 1).count F.GLB_CLR_STAT_COUNT 1
    m.clearHold

/-- CLR_N_RELEASE (R200): nothing changes but the hold. -/
def Dev.clrRelease (m : Dev) : Dev := m.put F.GLB_CLR_STAT_LEVEL 0

/-! ## What a reset keeps (Table 16.6) -/

/-- The bits of a register that a power-on reset keeps: the sealed latch while VDD_CORE stays good (R399), and the level of CLR_N. -/
def powerOnKeeps (off : Nat) : List (Nat × Nat) :=
  if off = Reg.LEV_STAT then [(1, 1)]
  else if off = Reg.GLB_CLR_STAT then [(0, 0)]
  else []

/-- The bits of a register that a warm reset keeps (R9, Table 16.6): RWS fields, Headwater's lock and alignment, the time base, the
persistent accumulators, and the assertions of CLR_N taken since power-on reset (R214). -/
def warmKeeps (off : Nat) : List (Nat × Nat) :=
  if [Reg.HDW_CTL, Reg.HDW_PHASE, Reg.TMB_INC, Reg.TMB_NOW_HI, Reg.TMB_SYNC_TS_LO, Reg.TMB_SYNC_TS_HI].contains off ||
    (decide (0x0040100 ≤ off) && decide (off < 0x0040128)) || (decide (Reg.LEV_PCNT 0 ≤ off) && decide (off < Reg.LEV_PCNT 512)) then [(31, 0)]
  else if off = Reg.HDW_STAT then [(4, 0)]
  else if off = Reg.TMB_STAT then [(4, 4)]
  else if off = Reg.GLB_CLR_STAT then [(31, 16), (0, 0)]
  else powerOnKeeps off ++
    (((rowOf off).map (·.fields)).getD []).filterMap fun f => if f.acc == .rws then some (f.hi, f.lo) else none

/-- The register table with only the kept bits of each register; every other bit takes its reset value. -/
def keepRegs (keeps : Nat → List (Nat × Nat)) (regs : List (Nat × Word)) : List (Nat × Word) :=
  regs.filterMap fun e =>
    let d := BitVec.ofNat 32 (resetOf e.1)
    let v := BitVec.ofNat 32 ((keeps e.1).foldl (fun n b => setBits n b.1 b.2 (bitsOf e.2.toNat b.1 b.2)) (resetOf e.1))
    if v = d then none else some (e.1, v)

/-- Every pin takes its programmed clear codes as active and staged codes (R197, R199, Table 6.5). -/
def Dev.clearCodes (m : Dev) : Dev :=
  m.each (List.range 1024) fun m p => (m.clearLevels p).limitOwed p

/-- Input balls of the crossbar keep their levels through a reset; what the device drives falls. -/
def Dev.inputWires (m : Dev) : List (Nat × Nat) := m.wires.filter fun e => decide (e.1 < 0x1000)

/-- With the sealed latch set, a reset leads to the service mode (R399). -/
def Dev.serviceMode (m : Dev) : Dev :=
  if m.on F.LEV_STAT_SEALED then
    ((m.put F.MRC_BOOT_STAGE 0x8).put F.LEV_STAT_DUMP_VALID (flag m.lev.held.isSome)).modLev fun l => { l with alertN := false }
  else m

/-- POWER_ON_RESET (R9, R447, Table 16.6): every field resets; Reservoir and the flash stay, and the sealed latch with its dump while VDD_CORE
stays good (R399). The device may be used where power is good on VDD_CORE and VDD_IO18 (R499). -/
def Dev.powerOnReset (m : Dev) : Dev :=
  let sealed := m.on F.LEV_STAT_SEALED
  let n : Dev := {
    regs := keepRegs powerOnKeeps m.regs
    hbm := if sealed then m.hbm.filter fun e => decide (dumpBase ≤ e.1) && decide (e.1 < 0x09000000) else []
    drawn := m.drawn
    slc := { spent := m.slc.spent }
    lev := if sealed then { held := m.lev.held, sealing := m.lev.sealing } else {}
    rsv := m.rsv
    faulty := m.faulty
    firm := { preferred := m.firm.preferred, invalid := m.firm.invalid }
    wires := m.inputWires
    power := { core := m.power.core, io := m.power.io, usable := m.power.core && m.power.io } }
  n.serviceMode

/-- WARM_RESET (R9, R447, Table 16.6): every field resets that is neither RWS nor kept; the image goes without completions; pins enter the safe state
with their programmed clear codes, and start-up runs from step 1. -/
def Dev.warmReset (m : Dev) : Dev :=
  let sealed := m.on F.LEV_STAT_SEALED
  let n : Dev := {
    regs := keepRegs warmKeeps m.regs
    hbm := m.hbm
    tick := m.tick
    timeBase := m.timeBase
    timeRest := m.timeRest
    latches := m.latches
    drawn := m.drawn
    jtag := m.jtag
    slc := { spent := m.slc.spent, lanes := m.slc.lanes, patterns := m.slc.patterns, trained := m.slc.trained }
    lev := if sealed then { held := m.lev.held, sealing := m.lev.sealing, counted := m.lev.counted, firstSealed := m.lev.firstSealed }
           else { counted := m.lev.counted, firstSealed := m.lev.firstSealed }
    clk := { locked := m.clk.locked, skew := m.clk.skew, inc := m.reg Reg.TMB_INC }
    rsv := m.rsv
    faulty := m.faulty
    firm := { preferred := m.firm.preferred, invalid := m.firm.invalid }
    wires := m.inputWires
    power := m.power }
  n.clearCodes.serviceMode

/-- WARM_RESET_COMMAND (R481): the key of GLB_RESET; any other value is ignored. -/
def Dev.warmResetKey (m : Dev) (v : Nat) : Dev := if bitsOf v 15 0 = 0x57A1 then m.warmReset else m

/-! ## Power (R399, R488, R499) -/

/-- POWER_GOOD_LOSS (R399, R488, R499): on VDD_CORE (`core`) or VDD_IO18 the pins go to high impedance and the device is unusable; a loss on VDD_CORE
clears the sealed latch and all that VDD_CORE powers. -/
def Dev.powerLoss (m : Dev) (core : Bool) : Dev :=
  let m := m.each (List.range 1024) fun m p => m.put (F.PIN_FE_STAT_SAFE p) 1
  let m := if core then m.put F.LEV_STAT_SEALED 0 else m
  { m with power := { core := m.power.core && !core, io := m.power.io && core, usable := false } }

/-- POWER_GOOD_RETURN (R31, R499): power is good again; the device waits for its power-on reset. -/
def Dev.powerReturn (m : Dev) (core : Bool) : Dev :=
  { m with power := { m.power with core := m.power.core || core, io := m.power.io || !core } }

/-! ## Start-up (R445, R446) -/

/-- What slot k of the boot flash holds (R444). -/
def flashSlot (i : BootIn) (k : Nat) : SlotIn := if k = 0 then i.slotA else i.slotB

/-- True where a start can use slot k (R444): it is not marked invalid, its Mybimer image verifies, and its base microcode is acceptable. -/
def Dev.slotGood (m : Dev) (i : BootIn) (k : Nat) : Bool := !m.firm.invalid.contains k && (flashSlot i k).firm && codeOk (flashSlot i k)

/-- The code of Table 16.5 with which steps 1 to 3 fail, 0 for none (R444, R446). -/
def Dev.bootErr (m : Dev) (i : BootIn) : Nat :=
  if i.err = 1 then 1
  else if m.slotGood i 0 || m.slotGood i 1 then 0
  else if i.slotA.firm || i.slotB.firm then 3 else 2

/-- Steps 1 to 3 (R441 to R444): the preferred slot is tried first, then the other; the control stores take the microcode with its patches. -/
def Dev.bootCode (m : Dev) (i : BootIn) : Dev :=
  let pref := m.firm.preferred % 2
  let fallback := !m.slotGood i pref
  let active := if fallback then 1 - pref else pref
  let s := flashSlot i active
  let m := (m.put F.MRC_BOOT_PREFERRED pref).put F.MRC_BOOT_FALLBACK (flag fallback)
  let m := m.put F.MRC_BOOT_ACTIVE active
  let m := (m.put F.MRC_VER_BASE_VER s.baseVer).put F.MRC_KEYS_USED s.key
  let loaded := s.bundle && patchOk s
  let m := (m.put F.MRC_STAT_PATCHED (flag loaded)).put F.MRC_STAT_PATCH_REJ (flag (s.bundle && !patchOk s))
  let m := (m.put F.MRC_VER_PATCH_VER (if loaded then s.patchVer else 0)).setReg Reg.MRC_PATCH (if loaded then 2 ^ s.patches.length - 1 else 0)
  m.loadMicrocode s

/-- What Reservoir tells the digitizers and Levee (R280, R282, R379, R399, R402). -/
def Dev.loadReservoir (m : Dev) (i : BootIn) : Dev :=
  let m := m.each m.rsv.retired fun m e => (m.put (F.ADC_CAL_RETIRED e.1) e.2).put (F.ADC_STAT_DEGRADED e.1) 1
  let m := m.each m.rsv.padc fun m e => ((m.setReg (Reg.P_GAIN e.1) e.2.1).setReg (Reg.P_OFFS e.1) e.2.2).put (F.P_STAT_UNCAL e.1) 0
  let m := m.rsv.refUv.elim m fun v => m.setReg Reg.ADC_REF_VAL v
  let m := if m.lev.counted then m
    else if i.lostCounters then
      { m with rsv := { m.rsv with counters := [] } }.report Src.reservoirWrite 0x20 0 m.now
    else m.each m.rsv.counters fun m e => m.setReg (Reg.LEV_PCNT e.1) (min (m.reg (Reg.LEV_PCNT e.1) + e.2) 0xFFFFFFFF)
  let m := m.modLev fun l => { l with counted := true }
  if i.lostSummary then
    { m with rsv := { m.rsv with sealEntry := none, seals := 0 } }.report Src.reservoirWrite 0x21 0 m.now
  else (m.put F.LEV_PREV_SRC ((m.rsv.sealEntry.map (·.source)).getD 0)).put F.LEV_PREV_COUNT m.rsv.seals

/-- Step 5 (R328, R332): pending repairs are made permanent, lane repairs are made, OP0 is restored, or trained where it has no valid results in
their band, and BAR2 opens. -/
def Dev.bootMemory (m : Dev) (i : BootIn) : Dev :=
  let good := if i.sameStacks then m.rsv.trained.filter fun e => !i.lostTraining.contains e.1 else []
  let m := (m.put F.SLC_REPAIR_HARD_PEND 0).put F.SLC_REPAIR_LANES (min m.rsv.laneRepairs 0xFF)
  let m := m.put F.SLC_REPAIR_MIN_SPARE (m.slc.spent.foldl (fun n e => min n (Config.spareRows e.1 - e.2)) 0xFF)
  let m := m.modSlc fun x => { x with trained := x.trained.filter (fun e => good.all fun g => g.1 != e.1) ++ good }
  let m := (m.sampleTemps i.stackTemps.1 i.stackTemps.2).restoreTraining 0 i.stored
  ((m.put F.SLC_CAP_CAP_UNITS (16 * opCapacity 0)).put F.SLC_STAT_SR 0).put F.SLC_STAT_AVAIL 1

/-- Every coefficient of tributary t comes into force as Reservoir gives it (R365, R376, R377). -/
def Dev.loadTrims (m : Dev) (t : Nat) : Dev :=
  let m := m.each (List.range 16) fun m i =>
    let p := 16 * t + i
    (m.each (List.range (if i = 0 then 37 else 36)) fun m c => m.putCoef false p c (m.coefWanted p c)).showSource p
  let m := m.each (List.range 3) fun m k => m.put (kindTemp k t) ((m.rsv.temps.lookup (3 * t + k)).getD 0)
  (m.modCal fun x => { x with lastInterp := x.lastInterp.filter (fun (e : Nat × Int) => e.1 != t) ++ [(t, m.meanTemp t)] }).showFactory t

/-- The kinds of tributary t that are due at start-up (R368): no valid table, or one taken too far from the mean. -/
def Dev.bootDue (m : Dev) (t : Nat) : Nat :=
  ((List.range 3).filter fun k => match m.rsv.temps.lookup (3 * t + k) with
    | none => true
    | some v => decide (m.get F.RSV_CAL_DELTA_CAL_TEMP_DELTA < (m.meanTemp t - toSigned 12 v).natAbs)).foldl (fun n k => n + 2 ^ k) 0

/-- A due tributary calibrates before READY (R370): its outage runs whole. -/
def Dev.bootRun (m : Dev) (i : BootIn) (t : Nat) : Dev :=
  let due := m.bootDue t
  if due = 0 then m
  else
    let r := (i.runs.lookup t).getD ([], 7)
    let m := ((m.makeDue t due).put (F.TRB_CAL_STAT_STATE t) 3).kindsDone t r.1 r.2
    (m.put F.RSV_STAT_OUTAGES (m.get F.RSV_STAT_OUTAGES + 1)).outageClose t

/-- Step 6 (R370, R376): tables without a valid copy are reported and give way to factory values; due tributaries calibrate. -/
def Dev.bootCalibrate (m : Dev) (i : BootIn) : Dev :=
  let m := m.each i.temps fun m e => m.put (F.TRB_CAL_T1_T_MEAN e.1) e.2
  let m := m.put F.RSV_STAT_FACTORY_OK (flag i.lostFactory.isEmpty)
  let m := m.each i.lostFactory fun m t => m.report Src.calFactory t 0 m.now
  let m := m.each i.lostTables Dev.dropTable
  let m := m.each (List.range 64) Dev.loadTrims
  m.each (List.range 64) fun m t => m.bootRun i t

/-- Step 7: every context is FREE, Millrace runs and agrees, and the mailbox accepts long operations. -/
def Dev.bootReady (m : Dev) : Dev :=
  let m := { m with hbm := m.hbm.filter fun e => decide (0x04000000 ≤ e.1) || e.1 % 64 != 48 }
  let m := ((m.put F.MRC_STAT_RUNNING 1).put F.MRC_STAT_LANE_OK 7).put F.MRC_STAT_ROUTINE 0xFF
  (m.put F.RSV_STAT_READY 1).put F.MRC_BOOT_STAGE 7

/-- A step of start-up fails (R446): the device halts with the code of Table 16.5. -/
def Dev.bootHalt (m : Dev) (err : Nat) : Dev := (m.put F.MRC_BOOT_STAGE 0xF).put F.MRC_BOOT_ERR err

/-- STARTUP_READY (R445, R446): start-up runs to READY, halts with an error, or waits in step 4 until Headwater has locked. In service mode, halted,
or READY already, it does nothing. -/
def Dev.startupReady (m : Dev) (i : BootIn) : Dev :=
  if 7 ≤ m.get F.MRC_BOOT_STAGE then m
  else if m.bootErr i ≠ 0 then (m.put F.MRC_BOOT_FALLBACK (flag (m.bootErr i != 1))).bootHalt (m.bootErr i)
  else
    let m := m.bootCode i
    if i.err = 4 then m.bootHalt 4
    else if !m.on F.HDW_STAT_LOCKED then m.put F.MRC_BOOT_STAGE 4
    else
      let m := m.loadReservoir i
      if i.err = 5 then m.bootHalt 5 else ((m.bootMemory i).bootCalibrate i).bootReady

end Sys2Proof.Machine
end

