-- ==== Sys2Proof/Machine/BootExec.lean ====
section
/-! DEFINITION. The meanings of the commands of resets, power and start-up: one definition for each command. -/

namespace Sys2Proof.Machine

/-- POWER_ON_RESET (R447): PORST_N held low for at least 1 ms resets every field, and its release starts the start-up stages. -/
def execPowerOnReset (s : State) : Host.Outcome State Fault Refusal :=
  s.always fun m => m.powerOnReset

/-- WARM_RESET (R447): PERST_N, a PCIe hot reset, link disable, FLR or Data Link Down causes a warm reset: non-kept fields reset, pins go safe and
start-up reruns. -/
def execWarmReset (s : State) : Host.Outcome State Fault Refusal :=
  s.act fun m => m.warmReset

/-- WARM_RESET_COMMAND (R481): A write of key 0x57A1 to GLB_RESET causes a warm reset. -/
def execWarmResetCommand (value : Word) (s : State) : Host.Outcome State Fault Refusal :=
  s.hostAct Reg.GLB_RESET fun m => m.warmResetKey value.toNat

/-- STARTUP_READY (R445): start-up reaches READY once its stages complete: the context table is FREE and the mailbox accepts long operations. -/
def execStartupReady (boot : BootIn) (s : State) : Host.Outcome State Fault Refusal :=
  s.act fun m => m.startupReady boot

/-- CLR_N_ASSERT (R200): CLR_N held low clears every pin, moves IDLE and RUNNING basins to HELD and ends running bursts CLEARED. -/
def execClrNAssert (lowNs : Nat) (s : State) : Host.Outcome State Fault Refusal :=
  s.act fun m => m.clrAssert lowNs

/-- CLR_N_RELEASE (R200): A release of CLR_N stops the hold of the pins and changes nothing else. -/
def execClrNRelease (s : State) : Host.Outcome State Fault Refusal :=
  s.act fun m => m.clrRelease

/-- POWER_GOOD_LOSS (R499): VDD_CORE or VDD_IO18 falls below its power-good threshold: the pins go to high impedance, and a VDD_CORE loss clears the
sealed latch. -/
def execPowerGoodLoss (core : Bool) (s : State) : Host.Outcome State Fault Refusal :=
  s.always fun m => m.powerLoss core

/-- POWER_GOOD_RETURN (R31): power good on VDD_CORE returns, and the Spate droop sensors and Levee collection leave reset. -/
def execPowerGoodReturn (core : Bool) (s : State) : Host.Outcome State Fault Refusal :=
  s.always fun m => m.powerReturn core

end Sys2Proof.Machine
end

