-- ==== Sys2Proof/Machine/CalibrationExec.lean ====
section
/-! DEFINITION. The meanings of the commands of calibration: one definition for each command. -/

namespace Sys2Proof.Machine

/-- CAL_TEMP_INTERVAL (R368): at the end of each 1,024-tick interval the mean temperature is tested; kinds may become due or OUT_OF_BAND sets. -/
def execCalTempInterval (s : State) : Host.Outcome State Fault Refusal :=
  s.act fun m => m.calInterval

/-- CAL_GATHER_BEGIN (R369): at the tick boundary after a kind becomes due, gathering of the affected basins begins. -/
def execCalGatherBegin (t : Trib) (s : State) : Host.Outcome State Fault Refusal :=
  s.act fun m => m.gatherBegin t

/-- CAL_GATHER_TIMEOUT (R370): an automatic gather not complete within GATHER ms is abandoned, and DEFERRED increments. -/
def execCalGatherTimeout (t : Trib) (s : State) : Host.Outcome State Fault Refusal :=
  s.act fun m => m.gatherTimeout t

/-- CAL_OUTAGE_BEGIN (R369): once every affected basin is gathered, the ball switches open and the outage begins. -/
def execCalOutageBegin (t : Trib) (s : State) : Host.Outcome State Fault Refusal :=
  s.act fun m => m.outageBegin t

/-- CAL_KINDS_DONE (R371): the due kinds finish; coefficients are checked and written to Reservoir. -/
def execCalKindsDone (t : Trib) (run : CalRun) (stored : Nat) (s : State) : Host.Outcome State Fault Refusal :=
  s.act fun m => m.kindsDone t run stored

/-- CAL_OUTAGE_END (R369): at the next tick boundary accepted values come into force, the switches close and the hold is released. -/
def execCalOutageEnd (t : Trib) (s : State) : Host.Outcome State Fault Refusal :=
  s.act fun m => m.outageEnd t

/-- CAL_RUN (R379): A long operation that makes the named kinds due on the named tributaries and runs them. -/
def execCalRun (slot : Slot) (irq : Bool) (s : State) : Host.Outcome State Fault Refusal :=
  s.hostAct (Reg.MBX_CMD slot) fun m => m.calRun slot irq

/-- CAL_REF (R379): A long operation that measures the 1.200 V reference with a P ADC and writes ADC_REF_VAL. -/
def execCalRef (slot : Slot) (irq : Bool) (results : List Int) (stored : Bool) (s : State) : Host.Outcome State Fault Refusal :=
  s.hostAct (Reg.MBX_CMD slot) fun m => m.calRef slot irq results stored

end Sys2Proof.Machine
end

