-- ==== Sys2Proof/Machine/CatchmentExec.lean ====
section
/-! DEFINITION. The meanings of the commands of the catchment image and basin states: one definition for each command. -/

namespace Sys2Proof.Machine

/-- CATCH_LOAD (R62): A long operation that checks the staged catchment image in two stages and, if it passes, commits it at a tick boundary. -/
def execCatchLoad (slot : Slot) (irq : Bool) (s : State) : Host.Outcome State Fault Refusal :=
  s.hostAct (Reg.MBX_CMD slot) fun m => m.catchLoad slot irq

/-- CATCH_LOAD_COMMIT (R64): at a tick boundary the checked image is admitted whole: basins go DISABLED and RWL fields lock. -/
def execCatchLoadCommit (s : State) : Host.Outcome State Fault Refusal :=
  s.act fun m => m.catchLoadCommit

/-- CATCH_CHECK (R62): A long operation that runs the admission check on the staged image and changes nothing. -/
def execCatchCheck (slot : Slot) (irq : Bool) (s : State) : Host.Outcome State Fault Refusal :=
  s.hostAct (Reg.MBX_CMD slot) fun m => m.catchCheck slot irq

/-- CATCH_WITHDRAW (R66): A long operation that stops dispatch and ends or aborts running bursts, on the way to withdrawing the image. -/
def execCatchWithdraw (slot : Slot) (irq : Bool) (s : State) : Host.Outcome State Fault Refusal :=
  s.hostAct (Reg.MBX_CMD slot) fun m => m.catchWithdraw slot irq

/-- WITHDRAW_COMPLETE (R66): once running bursts have ended, remaining bursts complete WITHDRAWN in bulk, pins go safe, queue pairs are disabled and
RWL fields unlock. -/
def execWithdrawComplete (s : State) : Host.Outcome State Fault Refusal :=
  s.act fun m => m.withdrawComplete

/-- BASIN_RECOURSE (R67): A long operation that checks a staged image differing only in the named basin's records while that basin runs on. -/
def execBasinRecourse (slot : Slot) (irq : Bool) (s : State) : Host.Outcome State Fault Refusal :=
  s.hostAct (Reg.MBX_CMD slot) fun m => m.basinRecourse slot irq

/-- RECOURSE_ENTER (R68): at the basin's next burst boundary, or at once, the basin enters RECOURSING and its on-deck burst returns to its list. -/
def execRecourseEnter (b : Basin) (s : State) : Host.Outcome State Fault Refusal :=
  s.act fun m => m.recourseEnter b

/-- RECOURSE_DRAIN_END (R68): the basin's capture has drained, its capture is disarmed and its pins enter the safe state. -/
def execRecourseDrainEnd (b : Basin) (s : State) : Host.Outcome State Fault Refusal :=
  s.act fun m => m.recourseDrain b

/-- RECOURSE_COMMIT (R68): at the next tick boundary the basin's new records take effect, GLB_CATCH_GEN increments and the basin returns to DISABLED,
IDLE or HELD. -/
def execRecourseCommit (b : Basin) (s : State) : Host.Outcome State Fault Refusal :=
  s.act fun m => m.recourseCommit b

/-- BASIN_ENABLE (R78): A write of BSN_CTL.ENABLE = 1 moves a DISABLED or HELD basin to IDLE at the boundary, or sets PENDING during shutdown. -/
def execBasinEnable (b : Basin) (shutAbort : Bool) (s : State) : Host.Outcome State Fault Refusal :=
  s.basinAct b (Reg.BSN_CTL b) fun m => m.basinEnable b shutAbort

/-- BASIN_DISABLE (R78): A write of BSN_CTL.ENABLE = 0 starts basin shutdown at the boundary, at the next burst boundary, or at once with SHUT_ABORT. -/
def execBasinDisable (b : Basin) (shutAbort : Bool) (s : State) : Host.Outcome State Fault Refusal :=
  s.basinAct b (Reg.BSN_CTL b) fun m => m.basinDisable b shutAbort

/-- BASIN_SHUTDOWN_DONE (R77): A SHUTTING basin finishes shutdown and becomes DISABLED with pins safe, or passes to IDLE if PENDING. -/
def execBasinShutdownDone (b : Basin) (s : State) : Host.Outcome State Fault Refusal :=
  s.act fun m => m.basinShutDone b

end Sys2Proof.Machine
end

