-- ==== Sys2Proof/Machine/Firmware.lean ====
section
/-! DEFINITION. The firmware's long operations beside those of the home chapters (R448 to R452, R472, R475): aborts, the watchdog, the servo, and
firmware staging. -/

namespace Sys2Proof.Machine

/-- Changes what the firmware holds. -/
def Dev.modFirm (m : Dev) (f : FirmX → FirmX) : Dev := { m with firm := f m.firm }

/-! ## Aborts and the watchdog (R407, R447, R449, R452) -/

/-- A withdrawal is given up before it completes: the image stays admitted, and dispatch goes on. -/
def Dev.withdrawDrop (m : Dev) : Dev := (m.catchState 2).put F.WEI_STAT_DISPATCHING (flag (!m.on F.LEV_STAT_SEALED))

/-- The operation that runs in a slot ends with an error, and nothing of it takes effect that it has not committed (R449, R452); one that has
committed runs on. `hard` tells that the firmware itself restarts, so that no operation can run on there. -/
def Dev.dropOp (m : Dev) (s err : Nat) (hard : Bool) : Dev :=
  let op := (m.slot s).op
  if op == Op.catchLoad then ({ m with staged := none }.catchState 0).opEnd s err
  else if op == Op.catchWithdraw then
    if bitOf (m.param s 0) 0 && !hard then m else m.withdrawDrop.opEnd s err
  else if op == Op.recourse then (m.recourseAbandon (m.get F.GLB_CATCH_STATE_RC_BASIN)).opEnd s err
  else if op == Op.slcTrain then ((m.put F.SLC_STAT_OP_BUSY 0).modSlc fun x => { x with training := none }).opEnd s err
  else if op == Op.opChange then
    if m.slc.step = 2 then m.opChangeEnd err else if hard then m.opEnd s err else m
  else if op == Op.calRun then (m.endGathers.modCal fun x => { x with wanted := [], rejected := false, failed := false }).opEnd s err
  else if op == Op.dump then
    ((m.put F.LEV_STAT_DUMPING 0).modLev fun l => { l with writing := none }).opEnd s err
  else if op == Op.slack then
    if m.get F.SPT_SLACK_STATE == Slack.entering then m.slackAbandon err else if hard then m.opEnd s err else m
  else if op == Op.fwStage then (m.modFirm fun f => { f with staging := none }).opEnd s err
  else m.opEnd s err

/-- MAILBOX_ABORT (R475, R449): a QUEUED operation ends at once, a RUNNING one moves to ABORTING and ends unless it has committed; elsewhere the
write is ignored. -/
def Dev.mailboxAbort (m : Dev) (s : Nat) : Dev :=
  let st := m.slotState s
  if st == Slot.queued then m.opEnd s Err.aborted
  else if st == Slot.running then (m.putStatus s 44 42 Slot.aborting).dropOp s Err.aborted false
  else m

/-- MANAGEMENT_WATCHDOG (R407, R452): the processor alone resets; operations that were running end FW_RESTART, and what they had committed stands. -/
def Dev.watchdog (m : Dev) : Dev :=
  let l := (List.range 8).filter fun s => m.slotState s == Slot.running || m.slotState s == Slot.aborting
  (m.each l fun m s => m.dropOp s Err.fwRestart true).report Src.managementWatchdog 0 0 m.now

/-- The operation ids of Table 16.7. -/
def knownOps : List Nat :=
  [0x0101, 0x0102, 0x0103, 0x0104, 0x0201, 0x0202, 0x0301, 0x0401, 0x0402, 0x0501, 0x0601, 0x0701, 0x0801, 0x0802]

/-- UNKNOWN_OP (Table 16.8): an issued id outside Table 16.7 ends UNKNOWN_OP. -/
def Dev.unknownOp (m : Dev) (s op : Nat) (irq : Bool) : Dev :=
  if knownOps.contains (op % 65536) then m
  else
    let r := m.opIssue s (op % 65536) irq
    if r.2 then (r.1.putStatus s 44 42 Slot.running).opEnd s Err.unknownOp else r.1

/-! ## The servo (R451) -/

/-- SERVO: it runs on a port with a link until it is aborted, or ends PORT. -/
def Dev.servo (m : Dev) (s : Nat) (irq : Bool) : Dev :=
  let r := m.opStart s Op.servo irq Err.busy
  if !r.2 then r.1
  else
    let e := r.1.param s 0 % 2
    if !r.1.on (F.ETH_CTL_ENABLE e) || !r.1.on (F.ETH_STAT_LINK e) then r.1.opEnd s 0x01
    else r.1.modFirm fun f => { f with adjustments := 0 }

/-- SERVO_NO_MASTER (R451): no Sync for 8 s; INC keeps its value. -/
def Dev.servoNoMaster (m : Dev) : Dev :=
  match m.opSlot Op.servo with
  | some s => m.opEnd s 0x02
  | none => m

/-- One adjustment of the servo on port e (R451): the staged INC and STEP apply 4 ticks ahead through R349, and the ring of 512 entries takes the
measured offset and the INC. -/
def Dev.servoAdjust (m : Dev) (e offset inc step : Nat) : Dev :=
  match m.opSlot Op.servo with
  | none => m
  | some s =>
    if m.param s 0 % 2 != e then m
    else
      let n := m.firm.adjustments
      let m := (m.setReg Reg.TMB_STEP_LO step).put F.TMB_STEP_HI_STEP (step / 2 ^ 32)
      let m := (m.modClk fun c => { c with inc := inc % 2 ^ 32 }).setPair Reg.TMB_APPLY_LO Reg.TMB_APPLY_HI (m.tick + 4)
      let m := m.tmbArm.setMem (resultBase s + 8 * (n % 512)) 8 (offset % 2 ^ 32 + 2 ^ 32 * (inc % 2 ^ 32))
      (m.modFirm fun f => { f with adjustments := n + 1 }).partialCount s (n + 1)

/-! ## Firmware images (R450, Table 16.9) -/

/-- FW_STAGE: `verdict` tells what the verification of the image in the staging region found (0 good, 1 layout, 2 signature, 3 patch bundle); a
good image is then written to the slot that is not in use. -/
def Dev.fwStage (m : Dev) (s : Nat) (irq : Bool) (verdict : Nat) : Dev :=
  let r := m.opStart s Op.fwStage irq Err.busy
  if !r.2 then r.1
  else
    let m := r.1
    if 31 * 0x100000 < m.param s 0 ∨ verdict = 1 then m.opEnd s 0x01
    else if verdict = 2 then m.opEnd s 0x02
    else if 3 ≤ verdict then m.opEnd s 0x03
    else m.modFirm fun f => { f with staging := some (s, bitOf (m.param s 1) 0) }

/-- A slot becomes the one that the boot header names. -/
def Dev.prefer (m : Dev) (k : Nat) : Dev := (m.modFirm fun f => { f with preferred := k }).put F.MRC_BOOT_PREFERRED k

/-- FW_STAGE_DONE: the slot has been written and read back, and with ACTIVATE it becomes the preferred one; or it failed and is marked invalid. -/
def Dev.fwStageDone (m : Dev) (good : Bool) : Dev :=
  match m.firm.staging with
  | none => m
  | some (s, activate) =>
    let k := 1 - m.get F.MRC_BOOT_ACTIVE
    let m := m.modFirm fun f => { f with
      staging := none, invalid := f.invalid.filter (· != k) ++ (if good then [] else [k]) }
    if !good then m.opEnd s 0x04
    else (if activate then m.prefer k else m).opEnd s 0

/-- FW_SELECT: the named slot is verified (`good`) and becomes the preferred one, or the operation ends SLOT. -/
def Dev.fwSelect (m : Dev) (s : Nat) (irq good : Bool) : Dev :=
  let r := m.opStart s Op.fwSelect irq Err.busy
  if !r.2 then r.1
  else
    let k := r.1.param s 0 % 2
    if !good || r.1.firm.invalid.contains k then r.1.opEnd s 0x05 else (r.1.prefer k).opEnd s 0

end Sys2Proof.Machine
end

