-- ==== Sys2Proof/Machine/Host.lean ====
section
/-! DEFINITION. BAR0 access (R8, R24, R28, R460 to R464, R472 to R477): reads with their snapshots and side effects, and writes routed to what
their register does, at once or at the exchange point and tick boundary that carry them out. -/

namespace Sys2Proof.Machine

/-- Changes the host interface. -/
def Dev.modHost (m : Dev) (f : HostX → HostX) : Dev := { m with host := f m.host }

/-! ## Groups of words read together (R463) -/

/-- Low words of pairs in the control plane, in a PIN_ block and in a BSN_ block (registers whose map says "read as the high word"). -/
def pairLows : List Nat :=
  [Reg.TMB_NOW_LO, Reg.TMB_SYNC_TS_LO, Reg.WEI_TICK_LO, Reg.SLC_SCRUB_POS_LO, Reg.SLC_ERR_LO, Reg.MRC_UID_LO, Reg.RSV_WRITES_LO,
   Reg.ADC_FLAGS_LO]
def pairLowsPin : List Nat := [0x20, 0x28, 0x188]
def pairLowsBsn : List Nat := [0x60, 0x9C, 0xA4, 0x180, 0x190, 0x208, 0x42C, 0x44C, 0x610, 0x518, 0x538, 0x558, 0x578]

/-- The number of words of the group whose low word lies at a BAR0 offset; 0 where none does. -/
def groupSize (off : Nat) : Nat :=
  if off == 0x0020010 then 4
  else if off == 0x00B0010 || off == 0x00B1010 then 3
  else if pairLows.contains off then 2
  else if (rowOf off).isNone then 0
  else if 0x0010000 ≤ off ∧ off < 0x0010800 then (if off % 0x100 == 0x40 then 2 else 0)
  else if 0x00C1000 ≤ off ∧ off < 0x00C5000 then (if off % 0x200 == 0x20 then 2 else 0)
  else if 0x00C8000 ≤ off ∧ off < 0x00C8400 then (if off % 0x100 == 0x08 then 2 else 0)
  else if 0x0100000 ≤ off ∧ off < 0x0500000 then
    (if off % 0x10000 < 0x8000 && pairLowsPin.contains (off % 0x800) then 2 else 0)
  else if 0x0500000 ≤ off ∧ off < 0x0600000 then
    let o := off % 0x1000
    if pairLowsBsn.contains o || (decide (0x100 ≤ o) && decide (o < 0x180) && o % 8 == 0) then 2 else 0
  else if 0x0700000 ≤ off ∧ off < 0x0708000 then (if off % 0x20 == 0x08 || off % 0x20 == 0x10 then 2 else 0)
  else if 0x0A00000 ≤ off ∧ off < 0x0A00800 then (if off % 0x40 == 0x08 then 2 else 0)
  else 0

/-- The low word of the group in which a BAR0 offset is a high word. -/
def groupLow (off : Nat) : Option Nat :=
  ([4, 8, 12].find? fun d => decide (d ≤ off) && decide (d < 4 * groupSize (off - d))).map fun d => off - d

/-- The word that a register shows now: the heads of ADC FIFOs and transmit-stamp queues, and else what the register map gives; registers of
an UNDEFINED basin read 0 (R77). -/
def Dev.live (m : Dev) (off : Nat) : Nat :=
  if 0x00C1000 ≤ off ∧ off < 0x00C5000 ∧ (off % 0x200 = 0x20 ∨ off % 0x200 = 0x24) then
    m.fifoWord ((off - 0x00C1000) / 0x200) / 2 ^ (8 * (off % 0x200 - 0x20)) % 2 ^ 32
  else if 0x00B0000 ≤ off ∧ off < 0x00B2000 ∧ 0x10 ≤ off % 0x1000 ∧ off % 0x1000 < 0x1C then
    (m.stampsOf ((off - 0x00B0000) / 0x1000)).headD 0 / 2 ^ (8 * (off % 0x1000 - 0x10)) % 2 ^ 32
  else if (basinAt off).any fun b => !m.defined b then 0
  else readMask off (m.show off)

/-- Requesters of reads, each with its own snapshots (R463). -/
def Req.host : Nat := 0
def Req.smbus : Nat := 1

/-- The words of a group that a requester's snapshot still holds. -/
def Dev.snapshot (m : Dev) (req low : Nat) : List (Nat × Nat) := Tbl.find [] m.host.snaps (req * 2 ^ 24 + low)
def Dev.setSnapshot (m : Dev) (req low : Nat) (l : List (Nat × Nat)) : Dev :=
  m.modHost fun h => { h with snaps := Tbl.set [] h.snaps (req * 2 ^ 24 + low) l }

/-- A torn read (R464). -/
def Dev.torn (m : Dev) (off : Nat) : Dev :=
  ((m.put F.GLB_ACC_STAT_TORN 1).count F.GLB_ACC_STAT_TORN_CNT 1).put F.GLB_ACC_ADDR_OFFS off

/-- A refused access (R460). -/
def Dev.badAccess (m : Dev) (off : Nat) : Dev := (m.put F.GLB_ACC_STAT_BAD_ACCESS 1).put F.GLB_ACC_ADDR_OFFS off

/-- Reads one word by a requester (R463): its value, and its snapshots after; the host's torn reads are recorded (R464), those of SMBus leave no
mark (R477). -/
def Dev.readWord (m : Dev) (req off : Nat) : Dev × Nat :=
  if !m.readable off then (m, 0xFFFFFFFF)
  else
    let mark := fun (m : Dev) => if req == Req.host then m.torn off else m
    match groupLow off with
    | some low =>
      let snap := m.snapshot req low
      match snap.lookup off with
      | some v => (m.setSnapshot req low (snap.filter fun e => e.1 != off), v)
      | none => let m := mark m; (m, m.live off)
    | none =>
      let n := groupSize off
      if n = 0 then (m, m.live off)
      else
        let m := if (m.snapshot req off).isEmpty then m else mark m
        (m.setSnapshot req off ((List.range (n - 1)).map fun k => (off + 4 * (k + 1), m.live (off + 4 * (k + 1)))), m.live off)

/-- What a host read does beside returning its value: RC fields clear, and a low word that removes an entry removes it (R8, R463). -/
def Dev.readEffect (m : Dev) (off : Nat) : Dev :=
  if !m.readable off then m
  else if off = 0x0020010 then m.logPop
  else if off = 0x00B0010 ∨ off = 0x00B1010 then
    let e := (off - 0x00B0010) / 0x1000
    m.setStamps e (m.stampsOf e).tail
  else if 0x00C1000 ≤ off ∧ off < 0x00C5000 ∧ off % 0x200 = 0x20 then m.fifoPop ((off - 0x00C1000) / 0x200)
  else if (basinAt off).any fun b => !m.defined b then m
  else m.readClear off

/-- Puts out the value of a read. -/
def Dev.answer (m : Dev) (v : Nat) : Dev := { m with out := m.out ++ [.data v] }

/-- The host reads a register (R460, R461, R463): nothing reaches the device while a JTAG test instruction holds the link down. -/
def Dev.hostRead (m : Dev) (off : Nat) : Dev :=
  if m.inTest then m
  else
    let r := m.readWord Req.host off
    (r.1.readEffect off).answer r.2

/-- A read of len bytes at a BAR0 offset (R460): 4 or 8 aligned bytes, the low word first; another completes with all ones, and one longer than 8
bytes with Unsupported Request, which Levee hears of (R455). -/
def Dev.barRead (m : Dev) (off len : Nat) : Dev :=
  if m.inTest then m
  else if len = 4 ∧ off % 4 = 0 then m.hostRead off
  else if len = 8 ∧ off % 8 = 0 then (m.hostRead off).hostRead (off + 4)
  else if 8 < len then
    ({ m.badAccess off with out := m.out ++ [Out.unsupported] } : Dev).report Src.pcieUncorrectable 0 0 m.now
  else (m.badAccess off).answer (2 ^ (8 * len) - 1)

/-! ## What a write does (R8, R24, R28, R461) -/

/-- True for a register whose write is carried out at the tick boundary after it is delivered (R24 and the register's home chapter): BSN_CTL,
BSN_LVL_LOAD, TSQ_CTL,
GAU_TSQ_RESTART, BSN_CAP_CTL, TON_CTL, clear codes, PIN_PMU_CTL, DLT_CTL, DLT_GAIN, ADC_CTL, P_CTL, HDW_CKO_CTL; QP_CTL and ETH_CTL in the
control plane. -/
def atBoundary (off : Nat) : Bool :=
  match rowOf off with
  | none => false
  | some r => ["BSN_CTL", "BSN_LVL_LOAD", "TSQ_CTL", "GAU_TSQ_RESTART", "BSN_CAP_CTL", "TON_CTL", "PIN_LVL_CLR", "PIN_PMU_CTL", "DLT_CTL",
      "DLT_GAIN", "ADC_CTL", "P_CTL", "HDW_CKO_CTL", "QP_CTL", "ETH_CTL"].contains r.name

/-- A write to a register of a trigger sequencer (R227): its state registers take writes only while it is fully disabled. -/
def Dev.seqWrite (m : Dev) (q o off v : Nat) : Dev :=
  if o = 0 then (if bitOf v 0 then m.tsqEnable q else m.tsqDisable q)
  else if o = 0x10 then (if bitOf v 0 && decide (256 ≤ q) then m.seqRestart (q - 256) else m)
  else if 0x40 ≤ o then
    if m.on (F.TSQ_CTL_ENABLE q) || m.on (F.TSQ_STAT_PENDING q) || m.on (F.TSQ_STAT_SHUTTING q) then m.put (F.TSQ_STAT_WRITE_IGNORED q) 1
    else m.writeFields off v
  else m.writeFields off v

/-- A write to a pin's block takes effect. -/
def Dev.pinWrite (m : Dev) (p off v : Nat) : Dev :=
  let o := off % 0x800
  if o = 0x044 then
    let m := m.writeFields off v
    if bitOf v 0 && bitOf v 1 then m.put (F.PIN_LS_CTL_REFUSED p) 1
    else if bitOf v 0 then m.windowStart p true
    else if bitOf v 1 then m.windowStart p false
    else m
  else if o = 0x080 ∨ o = 0x084 then m.userWrite p (o == 0x084) (v / 2 ^ 16)
  else if 0x110 ≤ o ∧ o < 0x128 then (m.settlePin p m.exchangeNow).writeFields off v
  else if o = 0x164 then (m.settlePin p m.exchangeNow).writeFields off v
  else if 0x140 ≤ o ∧ o < 0x158 then m.clearCode p ((o - 0x140) / 4) (v % 2 ^ 16)
  else if o = 0x160 then (if bitOf v 0 then m.ppmuWrite p v true else (m.ppmuFields p v).ppmuShut p)
  else m.writeFields off v

/-- A write to a tributary's own registers takes effect. -/
def Dev.tribWrite (m : Dev) (t off v : Nat) : Dev :=
  let o := off % 0x10000
  if 0xA000 ≤ o ∧ o < 0xA100 ∧ o ≠ 0xA00C ∧ m.deltaPin t = none then m
  else if o = 0xA000 then (if bitOf v 0 then m.deltaEnable t v else m.deltaDisable t v)
  else if o = 0xA004 then (m.writeFields off v).deltaClamp t
  else if o = 0xA008 then m.deltaRate t v
  else m.writeFields off v

/-- A write to a tone's registers takes effect (R249, R252). -/
def Dev.toneWrite (m : Dev) (b c o off v : Nat) : Dev :=
  if o = 0x00 then (if bitOf v 0 then m.toneEnable b c v else m.toneDisable b c v)
  else if o = 0x0C then m.ftwCommit b c v
  else if o = 0x14 then m.poffCommit b c v
  else m.writeFields off v

/-- A write to a BSN_TS_PER register takes effect (R185). -/
def Dev.pairWrite (m : Dev) (b off v : Nat) : Dev :=
  let m := m.writeFields off v
  if off % 8 = 4 then m.stagePair b (off % 0x80 / 8) else m

/-- A write to a basin's block takes effect; an UNDEFINED basin ignores it (R77). -/
def Dev.bsnWrite (m : Dev) (b off v : Nat) : Dev :=
  let o := off % 0x1000
  if !m.defined b then m
  else if o = 0x000 then (if bitOf v 0 then m.basinEnable b (bitOf v 1) else m.basinDisable b (bitOf v 1))
  else if 0x100 ≤ o ∧ o < 0x180 then m.pairWrite b off v
  else if o = 0x04C then (m.eventClear b (bitsOf v 7 0)).eventSet b (bitsOf v 15 8)
  else if o = 0x200 then (if bitOf v 0 then m.loadStrobe b m.now else m)
  else if 0x300 ≤ o ∧ o < 0x400 then m.seqWrite b (o - 0x300) off v
  else if o = 0x400 then
    let m := if bitOf v 0 then m.captureArm b v else m.captureDisarm b v
    if bitOf v 1 then m.forceTrig b else m
  else if 0x404 ≤ o ∧ o < 0x414 then m.capParam b off v
  else if o = 0x420 then m.capRd b v
  else if 0x500 ≤ o ∧ o < 0x580 then m.toneWrite b ((o - 0x500) / 0x20) ((o - 0x500) % 0x20) off v
  else m.writeFields off v

/-- A write to a digitizer's registers takes effect (R271 to R273, R281); clearing ADC_THR.EN clears the flag. -/
def Dev.adcWrite (m : Dev) (off v : Nat) : Dev :=
  if 0x00C1000 ≤ off ∧ off < 0x00C5000 then
    let k := (off - 0x00C1000) / 0x200
    let o := off % 0x200
    if o = 0x00 then
      let m := if bitOf v 0 then m.adcEnable k v else m.adcDisable k v
      let m := if bitOf v 1 then m.scanRun k v else m.scanStop k v
      if bitOf v 4 then m.scanStartHost k else m
    else if o = 0x0C then m.maskCommit k v
    else if o = 0x14 then m.periodWrite k v
    else if o = 0x18 then
      let m := m.writeFields off v
      if m.on (F.ADC_THR_EN k) then m else m.setFlag k false m.now
    else m.writeFields off v
  else if 0x00C8000 ≤ off ∧ off < 0x00C8400 ∧ off % 0x100 = 0 then
    let p := (off - 0x00C8000) / 0x100
    if bitOf v 0 then m.padcEnable p v else m.padcDisable p v
  else m.writeFields off v

/-! ## Writes in the control plane -/

/-- A write of GLB_WIN (R457): a BASE that is no multiple of the BAR2 size is ignored and sets WIN_BAD. -/
def Dev.winWrite (m : Dev) (v : Nat) : Dev :=
  let base := bitsOf v 6 0
  if base % 2 ^ m.host.barSize ≠ 0 then m.put F.GLB_WIN_STAT_WIN_BAD 1 else m.put F.GLB_WIN_BASE base

/-- A write of WEI_TRACE_BASE or WEI_TRACE_SIZE (R311): ignored, with TRACE_CFG_BAD, where the ring would not lie in its region at a multiple of
its size. -/
def Dev.traceWrite (m : Dev) (off v : Nat) : Dev :=
  let base := if off = Reg.WEI_TRACE_BASE then v else m.get F.WEI_TRACE_BASE_BASE
  let log := if off = Reg.WEI_TRACE_BASE then m.get F.WEI_TRACE_SIZE_LOG else bitsOf v 2 0
  let size := 0x400000 * 2 ^ log
  if m.image.isNone && (decide (4 < log) || decide (base < 0x04000000) || decide (0x08000000 < base + size) || base % size != 0) then
    m.put F.WEI_STAT_TRACE_CFG_BAD 1
  else m.writeFields off v

/-- A write of RSV_CAL_DELTA (Table 13.9): a CAL_TEMP_DELTA outside 4 to 80 is ignored and sets CFG_IGNORED. -/
def Dev.calDeltaWrite (m : Dev) (v : Nat) : Dev :=
  let d := bitsOf v 6 0
  let m := m.put F.RSV_CAL_DELTA_GATHER (bitsOf v 31 16)
  if d < 4 ∨ 80 < d then m.put F.RSV_STAT_CFG_IGNORED 1 else m.put F.RSV_CAL_DELTA_CAL_TEMP_DELTA d

/-- A write of MBX_CMD in slot s (R472, R475, Table 17.9): ISSUE with ABORT is dropped; ISSUE leaves a taken operation QUEUED. -/
def Dev.mbxCommand (m : Dev) (s v : Nat) : Dev :=
  if bitOf v 16 && bitOf v 17 then m.sumBit s 8 1
  else if bitOf v 16 then (m.opIssue s (bitsOf v 15 0) (bitOf v 18)).1
  else if bitOf v 17 then m.mailboxAbort s
  else m

/-- A write to a mailbox slot by its requester: slot 7 belongs to SMBus (R472). -/
def Dev.mbxWrite (m : Dev) (req off v : Nat) : Dev :=
  let s := (off - 0x0010000) / 0x100
  if (s = 7) = (req = Req.smbus) then (if off % 0x100 = 0 then m.mbxCommand s v else m.writeFields off v) else m

/-- A write to a register of the MSI-X table (R469): a vector that is unmasked while it is pending is sent. -/
def Dev.msixWrite (m : Dev) (off v : Nat) : Dev :=
  let m := m.writeFields off v
  if 0x0908000 ≤ off ∨ off % 16 ≠ 12 then m
  else
    let k := (off - 0x0900000) / 16
    let p := 0x0908000 + k / 32 * 4
    if m.reg off % 2 == 0 && bitOf (m.reg p) (k % 32) then (m.setReg p (setBits (m.reg p) (k % 32) (k % 32) 0)).msix k else m

/-! ## Queue pairs (R466 to R468) -/

/-- True where an enable of queue pair q is refused (R466, Table 17.9). -/
def Dev.queueRefused (m : Dev) (q : Nat) : Bool :=
  let sq := m.pair (Reg.QP_SQ_LO q) (Reg.QP_SQ_HI q)
  let cq := m.pair (Reg.QP_CQ_LO q) (Reg.QP_CQ_HI q)
  !m.on F.SLC_STAT_AVAIL || !m.on F.MRC_STAT_RUNNING || m.image.isNone || m.get F.GLB_CATCH_STATE_STATE == 3 || !m.defined (q / 4) || sq == 0 || cq == 0 || sq % 4096 != 0 || cq % 4096 != 0

/-- Queue pair q becomes enabled, or the enable is refused (R466): heads and tails 0, phase 1. -/
def Dev.queueStart (m : Dev) (q : Nat) : Dev :=
  if m.queueRefused q then (m.put (F.QP_CTL_ENABLE q) 0).put (F.QP_STAT_REFUSED q) 1
  else
    let m := m.modWeir fun w => { w with sqTail := Tbl.set 0 w.sqTail q 0, cqHead := Tbl.set 0 w.cqHead q 0 }
    let m := ((m.put (F.QP_CTL_ENABLE q) 1).put (F.QP_STAT_RUNNING q) 1).put (F.QP_STAT_SQ_HEAD q) 0
    ((m.put (F.QP_CQ_TAIL_TAIL q) 0).put (F.QP_CQ_TAIL_PHASE q) 1).put (F.QP_STAT_CQ_FULL q) 0

/-- QP_ENABLE (R73, R466). -/
def Dev.queueEnable (m : Dev) (q : Nat) : Dev :=
  if m.on (F.QP_STAT_SHUTTING q) then (m.put (F.QP_CTL_ENABLE q) 1).put (F.QP_STAT_PENDING q) 1
  else if m.on (F.QP_STAT_RUNNING q) then m
  else m.queueStart q

/-- QP_DISABLE (R73, R466): fetching stops. -/
def Dev.queueDisable (m : Dev) (q : Nat) : Dev :=
  let m := (m.put (F.QP_CTL_ENABLE q) 0).put (F.QP_STAT_PENDING q) 0
  if m.on (F.QP_STAT_RUNNING q) then (m.put (F.QP_STAT_RUNNING q) 0).put (F.QP_STAT_SHUTTING q) 1 else m

/-- QP_SHUTDOWN_DONE (R73, R466): the fetches in flight have landed; a held enable is taken. -/
def Dev.queueShutDone (m : Dev) (q : Nat) : Dev :=
  if !m.on (F.QP_STAT_SHUTTING q) || m.weir.fetching.any (fun e => e.1 == q) then m
  else
    let m := m.put (F.QP_STAT_SHUTTING q) 0
    if m.on (F.QP_STAT_PENDING q) then (m.put (F.QP_STAT_PENDING q) 0).queueStart q else m

/-- A write of a queue's base (R466): ignored while the queue is enabled, pending or shutting. -/
def Dev.queueBase (m : Dev) (q off v : Nat) : Dev :=
  if m.on (F.QP_CTL_ENABLE q) || m.on (F.QP_STAT_PENDING q) || m.on (F.QP_STAT_SHUTTING q) then m.put (F.QP_STAT_CFG_IGNORED q) 1
  else m.writeFields off v

/-- SQ_DOORBELL (R467): TAIL moves forward, not past entries still unfetched, on a queue that runs. -/
def Dev.sqDoorbell (m : Dev) (q tail : Nat) : Dev :=
  let old := Tbl.find 0 m.weir.sqTail q
  let unfetched := (old + 1024 - m.get (F.QP_STAT_SQ_HEAD q)) % 1024
  let t := tail % 1024
  if !m.on (F.QP_STAT_RUNNING q) || decide (1024 ≤ unfetched + (t + 1024 - old) % 1024) then m.put (F.QP_STAT_DB_BAD q) 1
  else m.modWeir fun w => { w with sqTail := Tbl.set 0 w.sqTail q t, queues := if w.queues.contains q then w.queues else w.queues ++ [q] }

/-- CQ_HEAD_DOORBELL (R468): consumed entries are free. -/
def Dev.cqDoorbell (m : Dev) (q head : Nat) : Dev :=
  let m := m.modWeir fun w => { w with cqHead := Tbl.set 0 w.cqHead q (head % 1024) }
  m.put (F.QP_STAT_CQ_FULL q) (flag (m.cqFull q))

/-- True where queue q has entries still unfetched (R467). -/
def Dev.unfetched (m : Dev) (q : Nat) : Bool :=
  m.on (F.QP_STAT_RUNNING q) && m.get (F.QP_STAT_SQ_HEAD q) != Tbl.find 0 m.weir.sqTail q

/-- True where Weir may fetch the next entry of queue q: the slot's context is FREE (R291, R467), and no entry is on its way there. -/
def Dev.fetchable (m : Dev) (q : Nat) : Bool :=
  let head := m.get (F.QP_STAT_SQ_HEAD q)
  let c := q * 1024 + head
  m.unfetched q && m.ctxState c == Ctx.free && !m.weir.landed.any (fun l => l.ctx == c) && !m.weir.fetching.contains (q, head)

/-- Weir reads the next entry of queue q from host memory (R467). -/
def Dev.fetchFrom (m : Dev) (q : Nat) : Dev :=
  let head := m.get (F.QP_STAT_SQ_HEAD q)
  let m := { m with out := m.out ++ [Out.hostRead (m.pair (Reg.QP_SQ_LO q) (Reg.QP_SQ_HI q) + 64 * head) 64] }
  (m.put (F.QP_STAT_SQ_HEAD q) ((head + 1) % 1024)).modWeir fun w => { w with fetching := w.fetching ++ [(q, head)] }

/-- Weir fetches at most n entries, one of each queue in its turn (R467; DESIGN CHOICE, log 116); the queues that are still to be served come back,
the next first. -/
def Dev.fetchTurns : Nat → List Nat → Dev → Dev × List Nat
  | 0, l, m => (m, l)
  | n + 1, l, m =>
    match l.filter m.fetchable with
    | [] => (m, [])
    | q :: rest => Dev.fetchTurns n (rest ++ [q]) (m.fetchFrom q)

/-- The entries that Weir fetches in a tick: up to 256 across the device (R467). -/
def Dev.fetchTick (m : Dev) : Dev :=
  if m.weir.queues.isEmpty then m
  else
    let r := m.fetchTurns 256 m.weir.queues
    r.1.modWeir fun w => { w with queues := r.2 ++ w.queues.filter fun q => !r.2.contains q && r.1.unfetched q }

/-- SQ_ENTRY_LAND (R290, R291, R467): the 64 bytes of the oldest entry on its way from queue q land in their slot's context; the entry awaits the tick
program. -/
def Dev.sqLand (m : Dev) (q : Nat) (data : Block64) : Dev :=
  match m.weir.fetching.find? fun e => e.1 == q with
  | none => m
  | some e =>
    let c := q * 1024 + e.2
    let n := data.toNat
    let m := m.setMem (ctxAddr c) 64 (n % 2 ^ 384)
    m.modWeir fun w => { w with fetching := w.fetching.erase e, landed := w.landed ++ [⟨c, n / 2 ^ 384 == 0⟩] }

/-! ## DMA rings (R470, R484) -/

/-- The tail of a ring. -/
def Dev.ringTail (m : Dev) (e r : Nat) : Nat := Tbl.find 0 m.host.tails (2 * e + r)
def Dev.setRingTail (m : Dev) (e r v : Nat) : Dev := m.modHost fun h => { h with tails := Tbl.set 0 h.tails (2 * e + r) v }

/-- True where ring r of engine e exists (R484). -/
def ringExists (e r : Nat) : Bool := r == 0 || decide (6 ≤ e)

/-- True where a ring that fetches its own descriptors has one in progress (R470); a receive ring takes one only with a frame. -/
def Dev.ringBusy (m : Dev) (e r : Nat) : Dev :=
  m.put (F.DMA_STAT_ACTIVE e r) (flag (r == 0 && m.on (F.DMA_CTL_RUN e r) && m.get (F.DMA_HEAD_HEAD e r) != m.ringTail e r))

/-- DMA_RUN (R484, Table 17.9): HEAD and TAIL become 0, and a TAIL written while RUN was 0 is then processed. -/
def Dev.dmaRun (m : Dev) (e r : Nat) : Dev :=
  let n := m.get (F.DMA_SIZE_ENTRIES e r)
  let base := m.pair (Reg.DMA_BASE_LO e r) (Reg.DMA_BASE_HI e r)
  if !ringExists e r || m.on (F.DMA_CTL_RUN e r) then m
  else if n < 16 ∨ 4096 < n ∨ base % 4096 ≠ 0 then m.put (F.DMA_STAT_CFG_IGNORED e r) 1
  else ((m.put (F.DMA_CTL_RUN e r) 1).put (F.DMA_HEAD_HEAD e r) 0).ringBusy e r

/-- DMA_STOP (R484): the ring stops after the descriptor in progress. -/
def Dev.dmaStop (m : Dev) (e r : Nat) : Dev :=
  if ringExists e r && m.on (F.DMA_CTL_RUN e r) then (m.put (F.DMA_CTL_RUN e r) 0).setRingTail e r 0 else m

/-- DMA_TAIL_DOORBELL (R470, Table 17.9): TAIL is taken, also while RUN = 0; a TAIL that is not below SIZE is not. -/
def Dev.dmaTail (m : Dev) (e r tail : Nat) : Dev :=
  let t := tail % 4096
  if !ringExists e r || decide (m.get (F.DMA_SIZE_ENTRIES e r) ≤ t) then m
  else
    let m := m.setRingTail e r t
    if m.on (F.DMA_CTL_RUN e r) then m.ringBusy e r else m

/-- A write to a DMA register (R484): the base is taken only while RUN = 0 and ACTIVE = 0. -/
def Dev.dmaWrite (m : Dev) (off v : Nat) : Dev :=
  let e := (off - 0x0A00000) / 0x100
  let r := off % 0x100 / 0x40
  let o := off % 0x40
  if o = 0x00 then (if bitOf v 0 then m.dmaRun e r else m.dmaStop e r)
  else if o = 0x08 ∨ o = 0x0C then
    (if m.on (F.DMA_CTL_RUN e r) || m.on (F.DMA_STAT_ACTIVE e r) then m else m.writeFields off v)
  else if o = 0x14 then m.dmaTail e r v
  else m.writeFields off v

/-- A write to a queue pair's registers takes effect. -/
def Dev.queueWrite (m : Dev) (off v : Nat) : Dev :=
  let q := (off - 0x0700000) / 0x20
  let o := off % 0x20
  if o = 0x00 then (if bitOf v 0 then m.queueEnable q else m.queueDisable q)
  else if 0x08 ≤ o ∧ o < 0x18 then m.queueBase q off v
  else m.writeFields off v

/-! ## Routing -/

/-- A write to one of the regions GLB_ to RSV_ and VTL_ and ETH_ takes effect. -/
def Dev.ctrlWrite (m : Dev) (req off v : Nat) : Dev :=
  if off = Reg.GLB_RESET then m.warmResetKey v
  else if off = Reg.GLB_WIN then m.winWrite v
  else if 0x0010000 ≤ off ∧ off < 0x0010800 then m.mbxWrite req off v
  else if off = Reg.LEV_STAT then
    let m := if bitOf v 0 then m.deviceClear else m
    m.writeFields off v
  else if off = Reg.LEV_FORCE then m.forceSource v
  else if off = Reg.LEV_ARM then m.levArm v
  else if off = Reg.LEV_DUMP then (if bitOf v 0 then m.dumpAck else m)
  else if 0x0020400 ≤ off ∧ off < 0x0020C00 then m.sevWrite ((off - 0x0020400) / 4) v
  else if off = Reg.SPT_CTL then m.sptCtl v
  else if off = Reg.SPT_DROOP then m.droopWrite v
  else if off = Reg.SPT_STEP_LIMIT then m.stepLimitWrite v
  else if off = Reg.SPT_SLACK then (if bitOf v 0 then m.hostWake else m)
  else if off = Reg.TMB_CTL then
    let m := m.writeFields off v
    if bitOf v 0 then m.tmbArm else m
  else if off = Reg.TMB_INC then m.modClk fun c => { c with inc := v }
  else if off = Reg.HDW_CTL then m.hdwCtl v
  else if off = Reg.HDW_SYNC_CTL then m.syncCtl v
  else if off = Reg.WEI_CANCEL then m.weiCancel (bitsOf v 19 0) (bitOf v 20)
  else if off = Reg.WEI_CANCEL_BASIN then m.weiCancelBasin (bitsOf v 7 0) (bitOf v 8)
  else if off = Reg.WEI_TRACE_BASE ∨ off = Reg.WEI_TRACE_SIZE then m.traceWrite off v
  else if off = Reg.RSV_CAL_CTL then m.factoryWrite v
  else if off = Reg.RSV_CAL_DELTA then m.calDeltaWrite v
  else if 0x00A0000 ≤ off ∧ off < 0x00A0800 ∧ off % 0x100 = 0 then
    let l := (off - 0x00A0000) / 0x100
    if bitOf v 0 then m.vtlEnable l v else m.vtlDisable l v
  else if off = Reg.ETH_CTL 0 ∨ off = Reg.ETH_CTL 1 then
    let e := (off - 0x00B0000) / 0x1000
    if bitOf v 0 then m.ethEnable e v else m.ethDisable e v
  else m.writeFields off v

/-- A write takes its effect: the register's own where it has one, else its fields by their access codes. -/
def Dev.carryOut (m : Dev) (req off v : Nat) : Dev :=
  if (rowOf off).isNone then m
  else if 0x0050100 ≤ off ∧ off < 0x0050180 then
    let n := (off - 0x0050100) / 0x10
    if off % 0x10 = 0 then (if bitOf v 0 then m.ckoEnable n v else m.ckoDisable n v)
    else if off % 0x10 = 4 then m.ckoPhase n v
    else m.writeFields off v
  else if 0x00C0000 ≤ off ∧ off < 0x00D0000 then m.adcWrite off v
  else if off < 0x0100000 then m.ctrlWrite req off v
  else if off < 0x0500000 then
    if off % 0x10000 < 0x8000 then m.pinWrite ((off - 0x0100000) / 0x10000 * 16 + off % 0x10000 / 0x800) off v
    else m.tribWrite ((off - 0x0100000) / 0x10000) off v
  else if off < 0x0600000 then m.bsnWrite ((off - 0x0500000) / 0x1000) off v
  else if 0x0601000 ≤ off ∧ off < 0x0602000 then m.seqWrite (256 + (off - 0x0601000) / 0x100) (off % 0x100) off v
  else if 0x0700000 ≤ off ∧ off < 0x0708000 then m.queueWrite off v
  else if 0x0800000 ≤ off ∧ off < 0x0802000 then
    (if off % 8 = 0 then m.sqDoorbell ((off - 0x0800000) / 8) v else m.cqDoorbell ((off - 0x0800000) / 8) v)
  else if 0x0900000 ≤ off ∧ off < 0x0908100 then m.msixWrite off v
  else if 0x0A00000 ≤ off ∧ off < 0x0A00800 then m.dmaWrite off v
  else m.writeFields off v

/-- A word written at a BAR0 offset by a requester (R24, R28, R461): dropped in a closed region; a write whose register's home chapter defers it waits for
its exchange point, one that is taken at a tick boundary for that, and any other acts at once. A disable of a queue pair stops fetching at once (R480). -/
def Dev.writeWord (m : Dev) (req off v : Nat) : Dev :=
  if !m.writable off || (rowOf off).isNone then m
  else if deferred off then { m with posted := m.posted ++ [(off, BitVec.ofNat 32 v)] }
  else if atBoundary off && bitOf v 0 then { m with delivered := m.delivered ++ [(off, BitVec.ofNat 32 v)] }
  else m.carryOut req off v

/-- A host write of len bytes at a BAR0 offset (R460), with every byte enabled or not: 4 or 8 aligned bytes, the low word first; another is dropped. -/
def Dev.barWrite (m : Dev) (off v len : Nat) (full : Bool) : Dev :=
  if m.inTest then m
  else if full && len == 4 && off % 4 == 0 then m.writeWord Req.host off v
  else if full && len == 8 && off % 8 == 0 then (m.writeWord Req.host off v).writeWord Req.host (off + 4) (v / 2 ^ 32)
  else m.badAccess off

/-- The exchange point that delivers an enable of a DISABLED or HELD basin takes the staged timing values (R79). -/
def Dev.deliverEnable (m : Dev) (e : Nat × Word) : Dev :=
  let b := (e.1 - 0x0500000) / 0x1000
  if 0x0500000 ≤ e.1 ∧ e.1 = Reg.BSN_CTL b ∧ e.2.toNat % 2 = 1 ∧ m.defined b ∧ (m.bstate b = St.disabled ∨ m.bstate b = St.held) then
    (m.takeTiming b).modBsn b fun x => { x with enableTaken := true }
  else m

/-- The exchange point delivers a write (R24): it acts, or waits for the tick boundary that carries it out. -/
def Dev.deliverWrite (m : Dev) (e : Nat × Word) : Dev :=
  if atBoundary e.1 then
    let m := m.deliverEnable e
    { m with delivered := m.delivered ++ [e] }
  else match (rowOf e.1).map RegRow.name, pinAt e.1 with
    | some "PIN_DSK_DRV", some p => m.userDeliver p false e.2.toNat
    | some "PIN_DSK_CMP", some p => m.userDeliver p true e.2.toNat
    | _, _ => m.carryOut Req.host e.1 e.2.toNat

/-- The tick boundary carries out what was delivered for it (R24). -/
def Dev.carryDelivered (m : Dev) : Dev :=
  let l := m.delivered
  ({ m with delivered := [] } : Dev).each l fun m e => m.carryOut Req.host e.1 e.2.toNat

end Sys2Proof.Machine
end

