-- ==== Sys2Proof/Machine/HostCmd.lean ====
section
/-! DEFINITION. BAR2, DMA descriptors, Ethernet frames, PCIe, SMBus and JTAG (R352 to R354, R454 to R459, R470, R471, R476 to R479). -/

namespace Sys2Proof.Machine

/-! ## BAR2 (R457 to R459) -/

/-- True where the host may write HBM at an address (R457): data from 0x1000_0000 up to capacity, and the two staging regions. -/
def Dev.hostMay (m : Dev) (a : Nat) : Bool :=
  (decide (0x10000000 ≤ a) && decide (a < m.capacity)) || (decide (0x0C000000 ≤ a) && decide (a < 0x0C010000)) ||
  (decide (0x0D000000 ≤ a) && decide (a < 0x0EF00000))

/-- True where the host reads HBM content at an address (R398, R457, R458): in the sealed state the dump region only. -/
def Dev.hostSees (m : Dev) (a : Nat) : Bool :=
  m.on F.SLC_STAT_AVAIL && decide (a < m.capacity) &&
  (!m.on F.LEV_STAT_SEALED || (decide (0x08000000 ≤ a) && decide (a < 0x09000000)))

/-- What a host read returns of the byte at an address: its content, or all ones where it is closed. -/
def Dev.windowByte (m : Dev) (a : Nat) : Byte := if m.hostSees a then m.hostByte a else 0xFF

/-- A HOST read meets a word as the controller found it (R331, R459): a poisoned one is reported and marks the answer. -/
def Dev.hostMeets (m : Dev) (a : Nat) (e : Ecc) : Dev :=
  if !m.hostSees a then m
  else
    let m := (m.touch a).eccFound Cls.host a e
    if e ≠ .poisoned ∨ m.slc.reported.contains a then m
    else
      let m := { m with slc := { m.slc with reported := a :: m.slc.reported } }
      m.report Src.hbmHost (pseudoChannel a) 0 m.now

/-- The HBM address of a BAR2 offset (R457). -/
def Dev.windowAddr (m : Dev) (o : Nat) : Nat := m.get F.GLB_WIN_BASE * 2 ^ 30 + o

/-- BAR2_READ (R457 to R459): len bytes at offset o; with the EP bit where a word of them is poisoned. -/
def Dev.windowRead (m : Dev) (o len : Nat) (ecc : Ecc) : Dev :=
  if m.inTest then m
  else
    let a := m.windowAddr o
    let l := (List.range len).map fun i => m.windowByte (a + i)
    let bad := if ecc = .poisoned ∧ m.hostSees a then [Out.poisoned] else []
    let m := (m.hostMeets a ecc).askHost (if m.hostSees a then unitsTouched a len else 0)
    { m with out := m.out ++ .bytes l :: bad }

/-- The first 8-byte word that a request of len bytes at an address covers in part (R315). -/
def partWord (a len : Nat) : Option Nat :=
  if a % 8 ≠ 0 then some (a / 8 * 8)
  else if len % 8 ≠ 0 then some ((a + len) / 8 * 8)
  else none

/-- The bytes of a host write that a read-modify-write of an uncorrectable word keeps out (Table 11.8): those in its word. -/
def keptOut (a len : Nat) (ecc : Ecc) (x : Nat) : Bool :=
  ecc = .poisoned && (partWord a len).any fun w => decide (w ≤ x) && decide (x < w + 8)

/-- The read-modify-write of a partial word meets it as the controller found it (R315, R331, Table 11.8). -/
def Dev.rmwMeets (m : Dev) (a : Nat) (e : Ecc) : Dev :=
  let m := m.eccFound Cls.host a e
  if e ≠ .poisoned then m
  else if deviceRegion a then m.poisonReport 0 a
  else match m.ownerOf a with
    | some b => m.poisonReport b a
    | none => m

/-- HBM takes those bytes of a host write that it may write (R457). -/
def Dev.putBytes (m : Dev) (skip : Nat → Bool) (a : Nat) : List Byte → Dev
  | [] => m
  | v :: t => (if m.hostMay a && !skip a then m.setByte a v else m).putBytes skip (a + 1) t

/-- BAR2_WRITE (R315, R457, R458): bytes at permitted addresses are written, and a request with others counts once in DROPPED; while HBM is
closed the whole request is dropped. -/
def Dev.windowWrite (m : Dev) (o : Nat) (l : List Byte) (ecc : Ecc) : Dev :=
  if m.inTest then m
  else
    let a := m.windowAddr o
    let open_ := m.on F.SLC_STAT_AVAIL && !m.on F.LEV_STAT_SEALED
    if !open_ then m.count F.GLB_WIN_STAT_DROPPED 1
    else
      let all := (List.range l.length).all fun i => m.hostMay (a + i)
      let m := match partWord a l.length with
        | some w => if m.hostMay w then m.rmwMeets w ecc else m
        | none => m
      let m := ((m.touch a).askHost (writeUnits a l.length)).putBytes (keptOut a l.length ecc) a l
      if all then m else m.count F.GLB_WIN_STAT_DROPPED 1

/-- WIN_BASE_WRITE (R456, R457): GLB_WIN is written while the Resizable BAR capability holds a BAR2 size of 2^size GiB. -/
def Dev.winBaseWrite (m : Dev) (v size : Nat) : Dev :=
  let m := m.modHost fun h => { h with barSize := size }
  m.hostWrite Reg.GLB_WIN fun m => m.winWrite v

/-! ## Ethernet frames (R352 to R354) -/

/-- One bit of the frame check sequence of IEEE 802.3 (Table 12.4), and the sequence of a frame. -/
def fcsBit (c : Nat) : Nat := if c % 2 == 1 then (c >>> 1) ^^^ 0xEDB88320 else c >>> 1
def fcsByte (c : Nat) (b : Byte) : Nat := fcsBit (fcsBit (fcsBit (fcsBit (fcsBit (fcsBit (fcsBit (fcsBit (c ^^^ b.toNat))))))))
def frameCheck (l : List Byte) : Nat := (l.foldl fcsByte 0xFFFFFFFF) ^^^ 0xFFFFFFFF

/-- Bytes i to i+n-1 of a frame as a big-endian number. -/
def beAt (l : List Byte) (i n : Nat) : Nat := ((l.drop i).take n).foldl (fun a b => 256 * a + b.toNat) 0

/-- The place of the Ethertype behind up to n VLAN tags (Table 12.4; PRESUMED tags 0x8100 and 0x88A8, log 32). -/
def etherAt (l : List Byte) : Nat → Nat → Nat
  | 0, i => i
  | n + 1, i => if beAt l i 2 == 0x8100 || beAt l i 2 == 0x88A8 then etherAt l n (i + 4) else i

/-- The place of the IEEE 1588 message in a frame (Table 12.4: Ethertype 0x88F7, or UDP port 319 over IPv4 or IPv6). -/
def ptpAt (l : List Byte) : Option Nat :=
  let i := etherAt l 2 12
  let t := beAt l i 2
  let p := i + 2
  if t == 0x88F7 then some p
  else if t == 0x0800 then
    let u := p + beAt l p 1 % 16 * 4
    if beAt l (p + 9) 1 == 17 && beAt l (u + 2) 2 == 319 then some (u + 8) else none
  else if t == 0x86DD then (if beAt l (p + 6) 1 == 17 && beAt l (p + 42) 2 == 319 then some (p + 48) else none)
  else none

/-- The place of an event message (messageType 0 to 3) in a frame. -/
def eventAt (l : List Byte) : Option Nat :=
  (ptpAt l).filter fun p => decide (p + 34 ≤ l.length) && decide (beAt l p 1 % 16 < 4) && beAt l (p + 1) 1 % 16 == 2

/-- The transmit-stamp entry of an event message (Table 12.5): the raw stamp plus EGRESS (R352). -/
def Dev.txEntry (m : Dev) (e : Nat) (l : List Byte) (p : Nat) (t : Instant) : Nat :=
  let s := (m.stampUnits t + m.get (F.TMB_PORT_EGRESS e) + (if m.on (F.ETH_CTL_RSFEC e) then Config.fecLatency true else 0)) % 2 ^ 40
  s / 256 + 2 ^ 32 * (s % 256) + 2 ^ 40 * (beAt l p 1 % 16) + 2 ^ 44 * e + 2 ^ 48 * beAt l (p + 30) 2 + 2 ^ 64 * beAt l (p + 4) 1 + 2 ^ 95

/-- The receive stamp of a frame, as STAMP holds it (R352, Table 17.4): ns in [31:0], fraction in [39:32]. -/
def Dev.rxStamp (m : Dev) (e : Nat) (t : Instant) : Nat :=
  let fec := if m.on (F.ETH_CTL_RSFEC e) then Config.fecLatency false % 2 ^ 16 else 0
  let s := (m.stampUnits t + 2 ^ 40 - m.get (F.TMB_PORT_INGRESS e) - fec) % 2 ^ 40
  s / 256 + 2 ^ 32 * (s % 256)

/-! ## DMA descriptors (R470, R471, Table 17.4) -/

/-- Fields of a descriptor. -/
def descHost (d : Nat) : Nat := bitsOf d 63 0
def descHbm (d : Nat) : Nat := bitsOf d 127 64
def descLen (d : Nat) : Nat := bitsOf d 159 128
def descDir (d : Nat) : Bool := bitOf d 160
def descIrq (d : Nat) : Bool := bitOf d 161
def descTs (d : Nat) : Bool := bitOf d 162

/-- True where a descriptor keeps to Table 17.4 in ring r of engine e. -/
def descOk (e r d : Nat) : Bool :=
  let n := descLen d
  bitsOf d 191 163 == 0 && descHost d % 4 == 0 &&
  if e < 6 then descHbm d % 4 == 0 && n % 4 == 0 && decide (4 ≤ n) && decide (n ≤ 16777212)
  else descHbm d == 0 && !descDir d && if r == 0 then decide (60 ≤ n) && decide (n ≤ 9212) else decide (9216 ≤ n)

/-- A descriptor completes (R470): its write-back with the flags ERROR, POISON and EVENT and the stamp, HEAD, then its vector. -/
def Dev.descDone (m : Dev) (e r d : Nat) (err poison event : Bool) (stamp : Nat) : Dev :=
  let head := m.get (F.DMA_HEAD_HEAD e r)
  let a := m.pair (Reg.DMA_BASE_LO e r) (Reg.DMA_BASE_HI e r) + 32 * head
  let v := 1 + 2 * flag err + 4 * flag poison + 8 * flag event + 2 ^ 24 * stamp
  let m := { m with out := m.out ++ [Out.hostWrite (a + 24) 8 v] }
  let m := if err then m.put (F.DMA_STAT_ERR e r) 1 else m
  let m := m.put (F.DMA_HEAD_HEAD e r) ((head + 1) % max 1 (m.get (F.DMA_SIZE_ENTRIES e r)))
  let m := m.ringBusy e r
  if descIrq d then m.msix (1024 + e) else m

/-- A copy descriptor of engine e completes (R459, R471): `data` is what host memory holds at HOST_ADDR for a copy into HBM, `ok` tells whether the
host access succeeded, `ecc` what HBM held at HBM_ADDR. -/
def Dev.copyDesc (m : Dev) (e d : Nat) (data : List Byte) (ok : Bool) (ecc : Ecc) : Dev :=
  let a := descHbm d
  let n := descLen d
  if !descOk e 0 d then m.descDone e 0 d true false false 0
  else if descDir d then
    let bad := decide (ecc = .poisoned) && m.hostSees a
    let v := leNat ((List.range n).map fun i => m.windowByte (a + i))
    let m := (m.hostMeets a ecc).askHost (unitsTouched a n)
    let m := if ok then { m with out := m.out ++ .hostWrite (descHost d) n v :: (if bad then [Out.poisoned] else []) } else m
    m.descDone e 0 d (!ok) bad false 0
  else
    let may := m.on F.SLC_STAT_AVAIL && !m.on F.LEV_STAT_SEALED && (List.range n).all fun i => m.hostMay (a + i)
    let m := { m with out := m.out ++ [Out.hostRead (descHost d) n] }
    if ok && may then (((m.touch a).askHost (writeUnits a n)).setBytes a (padTo n data)).descDone e 0 d false false false 0
    else m.descDone e 0 d true false false 0

/-- A transmit descriptor of port p completes (R354, R471): the frame with its FCS leaves at instant t, and a stamp that it asks for joins the
port's queue where the frame is an event message. -/
def Dev.sendDesc (m : Dev) (p d : Nat) (data : List Byte) (ok : Bool) (t : Instant) : Dev :=
  if !descOk (6 + p) 0 d || !ok then m.descDone (6 + p) 0 d true false false 0
  else
    let l := padTo (descLen d) data
    let up := m.on (F.ETH_STAT_LINK p)
    let m := if up then { m with out := m.out ++ [Out.frame p (l ++ leBytes 4 (frameCheck l))] } else m
    let m := match eventAt l with
      | some i => if descTs d && up then m.pushStamp p (m.txEntry p l i t) else m
      | none => m
    m.descDone (6 + p) 0 d false false false 0

/-- DMA_DESCRIPTOR_DONE (R470, R471): the descriptor in progress on ring 0 of engine e completes. -/
def Dev.descriptor (m : Dev) (e : Nat) (d : BitVec 256) (data : List Byte) (ok : Bool) (ecc : Ecc) (t : Instant) : Dev :=
  if !m.on (F.DMA_STAT_ACTIVE e 0) then m
  else if e < 6 then m.copyDesc e d.toNat data ok ecc
  else m.sendDesc (e - 6) d.toNat data ok t

/-- A frame that is not received is counted (R471). -/
def Dev.dropFrame (m : Dev) (e : Nat) : Dev := m.count (F.DMA_STAT_DROPPED (6 + e) 1) 1

/-- A frame that checked goes to the first good descriptor of the receive ring; broken ones before it complete with ERROR (R471). -/
def Dev.receive (m : Dev) (e : Nat) (l : List Byte) (t : Instant) : List (BitVec 256 × Bool) → Dev
  | [] => m.dropFrame e
  | (d, ok) :: rest =>
    let head := m.get (F.DMA_HEAD_HEAD (6 + e) 1)
    if !m.on (F.DMA_CTL_RUN (6 + e) 1) || head == m.ringTail (6 + e) 1 then m.dropFrame e
    else if !descOk (6 + e) 1 d.toNat then (m.descDone (6 + e) 1 d.toNat true false false 0).receive e l t rest
    else if descLen d.toNat < l.length then m.dropFrame e
    else if !ok then m.descDone (6 + e) 1 d.toNat true false false 0
    else
      let a := m.pair (Reg.DMA_BASE_LO (6 + e) 1) (Reg.DMA_BASE_HI (6 + e) 1) + 32 * head
      let m := { m with out := m.out ++ [Out.hostWrite (descHost d.toNat) l.length (leNat l), Out.hostWrite (a + 16) 4 l.length] }
      let event := (eventAt l).isSome
      m.descDone (6 + e) 1 d.toNat false false event (if event then m.rxStamp e t else 0)

/-- ETH_RX_FRAME (R353, R451, R471): a frame with its FCS arrives at an instant on a port whose link is up; `descs` are the descriptors at HEAD
and on with the outcome of writing their buffers, `servo` the adjustment (offset, INC, STEP) that a running servo draws from it. -/
def Dev.frameIn (m : Dev) (e : Nat) (frame : List Byte) (descs : List (BitVec 256 × Bool)) (t : Instant)
    (servo : Option (Nat × Nat × Nat)) : Dev :=
  if !m.on (F.ETH_STAT_LINK e) then m
  else
    let n := frame.length - 4
    let l := frame.take n
    if frame.length < 4 || fieldAt frame n 4 != frameCheck l then m.dropFrame e
    else
      let m := m.receive e l t descs
      match servo with
      | some s => m.servoAdjust e s.1 s.2.1 s.2.2
      | none => m

/-! ## PCIe (R454, R455) -/

/-- PCIE_TLP_ERROR (R455): a correctable error, or a poisoned (1), malformed (2) or unsupported (3) TLP. -/
def Dev.tlpError (m : Dev) (kind : Nat) : Dev :=
  if m.inTest then m
  else m.report (if kind = 0 then Src.pcieCorrectable else Src.pcieUncorrectable) 0 0 m.now

/-- DEVICE_REQUEST_TIMEOUT (R455): a request of the device's own times out after 50 ms. -/
def Dev.requestTimeout (m : Dev) : Dev := m.report Src.pcieUncorrectable 0 0 m.now

/-- PCIE_LINK_UP (R454, R481): GLB_PCI reports the speed and width. -/
def Dev.pcieUp (m : Dev) (speed width : Nat) : Dev :=
  if m.inTest then m else (m.put F.GLB_PCI_SPEED speed).put F.GLB_PCI_WIDTH width

/-! ## SMBus (R476, R477, Table 17.7) -/

/-- SMB_SET_ADDR: ADDR takes bytes 0 to 2; a block whose byte 3 is not 0 is no command of the table. -/
def Dev.smbAddr (m : Dev) (v : Nat) : Dev :=
  if v < 2 ^ 24 then m.modHost fun h => { h with smbAddr := v } else { m with out := m.out ++ [.nack] }

/-- ADDR increases by 4, within its 24 bits. -/
def Dev.smbNext (m : Dev) : Dev := m.modHost fun h => { h with smbAddr := (h.smbAddr + 4) % 2 ^ 24 }

/-- SMB_READ_REG: the register at ADDR, with no side effect but SMBus's own snapshot. -/
def Dev.smbRead (m : Dev) : Dev :=
  let r := m.readWord Req.smbus m.host.smbAddr
  (r.1.answer r.2).smbNext

/-- SMB_WRITE_MAILBOX: a write within mailbox slot 7, else dropped. -/
def Dev.smbWrite (m : Dev) (v : Nat) : Dev :=
  let a := m.host.smbAddr
  let m := if 0x0010700 ≤ a ∧ a < 0x0010800 then m.writeWord Req.smbus a v else m
  m.smbNext

/-- The larger of two temperatures in 12-bit two's complement. -/
def hotter (a b : Nat) : Nat := if toSigned 12 a < toSigned 12 b then b else a

/-- SMB_READ_TEMP: the hottest tributary sensor and the hotter HBM stack. -/
def Dev.smbTemp (m : Dev) : Dev :=
  let t := (List.range 63).foldl (fun x k => hotter x (m.get (F.TRB_FE_STAT_TEMP (k + 1)))) (m.get (F.TRB_FE_STAT_TEMP 0))
  m.answer (t + 2 ^ 16 * hotter (m.get F.SLC_TEMP_T0) (m.get F.SLC_TEMP_T1))

/-- SMB_READ_STATUS. -/
def Dev.smbStatus (m : Dev) : Dev :=
  m.answer (m.get F.MRC_BOOT_STAGE % 16 + 16 * m.get F.SLC_STAT_AVAIL + 32 * m.get F.LEV_STAT_DEVICE + 64 * m.get F.LEV_STAT_SEALED +
    128 * m.get F.SPT_SLACK_STATE)

/-- SMB_UNKNOWN_COMMAND: NACKed. -/
def Dev.smbUnknown (m : Dev) : Dev := { m with out := m.out ++ [.nack] }

/-! ## JTAG (R478, R479, Table 17.8) -/

/-- Changes the test access port. -/
def Dev.modJtag (m : Dev) (f : JtagX → JtagX) : Dev := { m with jtag := f m.jtag }

/-- An instruction is loaded that is no test instruction: after one, the device takes a warm reset (R479). -/
def Dev.jtagLoad (m : Dev) (code : Nat) : Dev :=
  let was := m.inTest
  let m := m.modJtag fun j => { j with instr := code, driven := false }
  if was then m.warmReset else m

/-- A test instruction is loaded (R479): the device behaves as with CLR_N low, and the PCIe link is down. `driven` tells whether the boundary cells
drive the outputs. -/
def Dev.jtagTest (m : Dev) (code : Nat) (driven : Bool) : Dev :=
  let m := (m.modJtag fun j => { j with instr := code, driven := driven }).clearHold
  m.setReg Reg.GLB_PCI 0

/-- JTAG_IDCODE: the identity is selected. -/
def Dev.jtagId (m : Dev) : Dev := (m.jtagLoad 1).answer 0x11024967

/-- JTAG_SAMPLE_PRELOAD: the boundary cells hold what was sampled or preloaded. -/
def Dev.jtagSample (m : Dev) (cells : List Bool) : Dev := (m.jtagLoad 2).modJtag fun j => { j with cells := cells }

/-- JTAG_BYPASS: the BYPASS instruction, or any code outside Table 17.8, which acts as BYPASS; the register holds the code loaded. -/
def Dev.jtagBypass (m : Dev) (code : Nat) : Dev := m.jtagLoad (if 1 ≤ code ∧ code ≤ 7 then 0xFF else code)

end Sys2Proof.Machine
end

