-- ==== Sys2Proof/Machine/ClocksExec.lean ====
section
/-! DEFINITION. The meanings of the commands of Headwater, the time base, Ethernet ports and Vutil links: one definition for each command. -/

namespace Sys2Proof.Machine

/-- HEADWATER_LOCK (R338): on valid REFCLK, Headwater locks and enables its derived clocks. -/
def execHeadwaterLock (ref10 : Bool) (s : State) : Host.Outcome State Fault Refusal :=
  s.act fun m => m.headwaterLock ref10

/-- REFCLK_LOSS (R339): REFCLK is lost: Headwater enters holdover and REFCLK-loss is raised. -/
def execRefclkLoss (s : State) : Host.Outcome State Fault Refusal :=
  s.act fun m => m.refLoss

/-- REFCLK_RESTORE (R339): REFCLK is valid again, and Headwater relocks without a divider restart. -/
def execRefclkRestore (s : State) : Host.Outcome State Fault Refusal :=
  s.act fun m => m.refRestore

/-- HEADWATER_UNLOCK (R340): lock is lost while REFCLK is valid: Headwater-unlock is raised and Headwater relocks. -/
def execHeadwaterUnlock (s : State) : Host.Outcome State Fault Refusal :=
  s.act fun m => m.headwaterUnlock

/-- CLKOUT_ENABLE (R342): A CLKOUT enable starts the output on its grid at the tick boundary, or is refused. -/
def execClkoutEnable (n : Cko) (ctl : Word) (s : State) : Host.Outcome State Fault Refusal :=
  s.hostAct (Reg.HDW_CKO_CTL n) fun m => m.ckoEnable n ctl.toNat

/-- CLKOUT_DISABLE (R342): A CLKOUT disable lets the current period complete. -/
def execClkoutDisable (n : Cko) (ctl : Word) (s : State) : Host.Outcome State Fault Refusal :=
  s.hostAct (Reg.HDW_CKO_CTL n) fun m => m.ckoDisable n ctl.toNat

/-- CLKOUT_SHUTDOWN_DONE (R342): the output stops low, and SHUTTING clears. -/
def execClkoutShutdownDone (n : Cko) (s : State) : Host.Outcome State Fault Refusal :=
  s.act fun m => m.ckoShutDone n

/-- SYNC_ARM (R343): A write of HDW_SYNC_CTL.ARM = 1 arms the SYNC event, or is refused while basins are active. -/
def execSyncArm (ctl : Word) (s : State) : Host.Outcome State Fault Refusal :=
  s.hostAct Reg.HDW_SYNC_CTL fun m => m.syncArm ctl.toNat

/-- SYNC_PULSE (R344): A SYNC pulse is measured, and starts a SYNC event when armed or is monitored against the grid. -/
def execSyncPulse (at_ : Nat) (s : State) : Host.Outcome State Fault Refusal :=
  s.act fun m => m.syncPulse at_

/-- SYNC_TT_ZERO (R344): at S + 25.6 us TT is set to 0, the dividers restart and the time base is latched or loaded. -/
def execSyncTtZero (s : State) : Host.Outcome State Fault Refusal :=
  s.act fun m => m.syncZero

/-- SYNC_REALIGN (R346): A write of REALIGN = 1 walks the clock tree by the last deviation, or is refused. -/
def execSyncRealign (s : State) : Host.Outcome State Fault Refusal :=
  s.hostAct Reg.HDW_SYNC_CTL fun m => m.syncRealign

/-- TMB_APPLY_ARM (R349): A write of APPLY_ARM = 1 schedules the staged INC and STEP for tick TMB_APPLY. -/
def execTmbApplyArm (s : State) : Host.Outcome State Fault Refusal :=
  s.hostAct Reg.TMB_CTL fun m => m.tmbArm

/-- TMB_APPLY (R349): at the apply tick the time base adds STEP and takes the staged INC. -/
def execTmbApply (s : State) : Host.Outcome State Fault Refusal :=
  s.act fun m => m.tmbApply

/-- ETH_ENABLE (R363): an Ethernet port enable is taken at the next tick boundary. -/
def execEthEnable (e : Eth) (ctl : Word) (s : State) : Host.Outcome State Fault Refusal :=
  s.hostAct (Reg.ETH_CTL e) fun m => m.ethEnable e ctl.toNat

/-- ETH_DISABLE (R363): an Ethernet port disable is taken at the next tick boundary. -/
def execEthDisable (e : Eth) (ctl : Word) (s : State) : Host.Outcome State Fault Refusal :=
  s.hostAct (Reg.ETH_CTL e) fun m => m.ethDisable e ctl.toNat

/-- ETH_TSQ_READ (R354): A read of ETH_TSQ_0 removes the oldest transmit stamp and snapshots its other words. -/
def execEthTsqRead (e : Eth) (s : State) : Host.Outcome State Fault Refusal :=
  s.act fun m => m.hostRead (Reg.ETH_TSQ_0 e)

/-- ETH_RX_FRAME (R471): A received frame is written to a receive descriptor, stamped if it is an event message, or dropped. -/
def execEthRxFrame (e : Eth) (frame : List Byte) (descs : Descs) (at_ : Nat) (servo : Servo) (s : State) : Host.Outcome State Fault Refusal :=
  s.act fun m => m.frameIn e frame descs at_ servo

/-- VUTIL_ENABLE (R357): A Vutil link enable starts training. -/
def execVutilEnable (l : Link) (ctl : Word) (s : State) : Host.Outcome State Fault Refusal :=
  s.hostAct (Reg.VTL_CTL l) fun m => m.vtlEnable l ctl.toNat

/-- VUTIL_DISABLE (R357): A Vutil link disable takes the link down. -/
def execVutilDisable (l : Link) (ctl : Word) (s : State) : Host.Outcome State Fault Refusal :=
  s.hostAct (Reg.VTL_CTL l) fun m => m.vtlDisable l ctl.toNat

/-- VUTIL_LOCK (R357): lane lock, block lock and lane deskew complete. -/
def execVutilLock (l : Link) (s : State) : Host.Outcome State Fault Refusal :=
  s.act fun m => m.vtlLock l

/-- VUTIL_CYCLES_START (R357): once both ends are ALIGNED, cycle windows start at TT multiples of 8. -/
def execVutilCyclesStart (l : Link) (s : State) : Host.Outcome State Fault Refusal :=
  s.act fun m => m.vtlCycles l

/-- VUTIL_UP (R357): the delay exchanges complete, D_L is set, and the link is UP. -/
def execVutilUp (l : Link) (delay : Nat) (s : State) : Host.Outcome State Fault Refusal :=
  s.act fun m => m.vtlUp l delay

/-- VUTIL_LINK_DOWN (R357): loss of block lock, three discarded cycles or delay drift takes the link DOWN, and it retrains. -/
def execVutilLinkDown (l : Link) (cause : Nat) (s : State) : Host.Outcome State Fault Refusal :=
  s.act fun m => m.vtlDown l cause

/-- VUTIL_CYCLE_RECEIVE (R355): A link cycle is received, checked by CRC and released D_L later with its FLOW and TRIG blocks, or discarded. -/
def execVutilCycleReceive (l : Link) (cycle : LinkCycle) (s : State) : Host.Outcome State Fault Refusal :=
  s.act fun m => m.vtlCycle l cycle

/-- VUTIL_SYNC_MESSAGE (R359): A SYNC service message carrying origin time is received. -/
def execVutilSyncMessage (l : Link) (origin : Nat) (corr : Nat) (at_ : Nat) (s : State) : Host.Outcome State Fault Refusal :=
  s.act fun m => m.vtlSync l origin corr at_

/-- VUTIL_DREQ (R359): A DREQ delay-request service message is received. -/
def execVutilDreq (l : Link) (at_ : Nat) (s : State) : Host.Outcome State Fault Refusal :=
  s.act fun m => m.vtlDreq l at_

/-- VUTIL_DRESP (R359): A DRESP service message completes an exchange, and delay and offset are computed. -/
def execVutilDresp (l : Link) (receipt : Nat) (s : State) : Host.Outcome State Fault Refusal :=
  s.act fun m => m.vtlDresp l receipt

/-- VUTIL_CTRL (R355): A CTRL service message carries link identity, PRIMED reports, span identity and topology. -/
def execVutilCtrl (l : Link) (msg : CtrlMsg) (s : State) : Host.Outcome State Fault Refusal :=
  s.act fun m => m.vtlCtrl l msg

/-- VUTIL_TIME_EXCHANGE (R359): every 2^N ticks a link time-transfer exchange is started. -/
def execVutilTimeExchange (l : Link) (at_ : Nat) (s : State) : Host.Outcome State Fault Refusal :=
  s.act fun m => m.vtlExchange l at_

/-- ETH_LINK_UP (R363): an enabled Ethernet port gains block lock, and FEC lock where RSFEC is set, and ETH_STAT.LINK sets. -/
def execEthLinkUp (e : Eth) (s : State) : Host.Outcome State Fault Refusal :=
  s.act fun m => m.ethUp e

/-- ETH_LINK_DOWN (R451): an Ethernet port loses block or FEC lock, LINK clears, and a running SERVO ends with PORT. -/
def execEthLinkDown (e : Eth) (s : State) : Host.Outcome State Fault Refusal :=
  s.act fun m => m.ethDown e

/-- TIME_BASE_HALF (R348): the time base's ns field crosses 0x8000_0000 or wraps through 0, setting TMB_STAT.HALF and advancing WRAP. -/
def execTimeBaseHalf (zero : Bool) (s : State) : Host.Outcome State Fault Refusal :=
  s.act fun m => m.tmbHalf zero

end Sys2Proof.Machine
end

