-- ==== Sys2Proof/Machine/CourseExec.lean ====
section
/-! DEFINITION. The meanings of the commands of courses and streaming: one definition for each command. -/

namespace Sys2Proof.Machine

/-- PASS_BOUNDARY (R137): at a pass boundary the course takes a jump, the next pass, the END, or NEXT, as decided at the jump sample time. -/
def execPassBoundary (b : Basin) (s : State) : Host.Outcome State Fault Refusal :=
  s.act fun m => m.passBoundary b

/-- LANDING_PERIOD_END (R143): 4,096 ECLK after a taken jump the landing period ends, and the landing entry's jump table applies again. -/
def execLandingPeriodEnd (b : Basin) (s : State) : Host.Outcome State Fault Refusal :=
  s.act fun m => m.landingEnd b

/-- COURSE_FETCH_DONE (R145): A course entry fetched through HOUSE lands in the course window. -/
def execCourseFetchDone (b : Basin) (entry : EntryNo) (at_ : Instant) (ecc : Ecc) (s : State) : Host.Outcome State Fault Refusal :=
  s.act fun m => m.courseFetch b entry at_ ecc

/-- REFILL_UNIT_LAND (R147): A STREAM unit lands in a lane's refill or sample FIFO. -/
def execRefillUnitLand (p : Pin) (sample : Bool) (at_ : Instant) (ecc : Ecc) (s : State) : Host.Outcome State Fault Refusal :=
  s.act fun m => m.refillLand p sample at_ ecc

/-- STREAM_UNDERRUN (R148): A streamed word or successor entry is missing at its boundary; the basin stalls on the hold word or aborts. -/
def execStreamUnderrun (b : Basin) (s : State) : Host.Outcome State Fault Refusal :=
  s.act fun m => m.streamUnderrun b

/-- STALL_END (R151): at a hold-vector boundary where every lane holds enough words, the stalled word resumes. -/
def execStallEnd (b : Basin) (holds : Nat) (s : State) : Host.Outcome State Fault Refusal :=
  s.act fun m => m.stallEnd b holds

/-- RESIDENT_BLOCK_LOAD_DONE (R135): A resident block completes loading into the loop stores, or is refused. -/
def execResidentBlockLoadDone (b : Basin) (ecc : Ecc) (s : State) : Host.Outcome State Fault Refusal :=
  s.act fun m => m.resLoadDone b ecc

/-- SAMPLE_SHORTAGE (R159): A Delta sample FIFO runs dry: the last sample is held and a SAMPLE stall record is written. -/
def execSampleShortage (t : Trib) (at_ : Nat) (s : State) : Host.Outcome State Fault Refusal :=
  s.act fun m => m.sampleShort t at_

/-- SAMPLE_RESUME (R159): samples arrive, and the Delta unit resumes with the sample now due. -/
def execSampleResume (t : Trib) (at_ : Nat) (s : State) : Host.Outcome State Fault Refusal :=
  s.act fun m => m.sampleResume t at_

end Sys2Proof.Machine
end

