-- ==== Sys2Proof/Machine/DigitizerExec.lean ====
section
/-! DEFINITION. The meanings of the commands of the digitizers: one definition for each command. -/

namespace Sys2Proof.Machine

/-- ADC_ENABLE (R271): A general ADC channel enable powers the channel at the tick boundary. -/
def execAdcEnable (k : Adc) (ctl : Word) (s : State) : Host.Outcome State Fault Refusal :=
  s.hostAct (Reg.ADC_CTL k) fun m => m.adcEnable k ctl.toNat

/-- ADC_READY (R271): within 20 us of the enable the ADC sets READY after its gain routine. -/
def execAdcReady (k : Adc) (r33 : Nat) (r35 : Nat) (s : State) : Host.Outcome State Fault Refusal :=
  s.act fun m => m.adcReady k r33 r35

/-- ADC_DISABLE (R271): A channel disable shuts down any scan, then powers the channel down. -/
def execAdcDisable (k : Adc) (ctl : Word) (s : State) : Host.Outcome State Fault Refusal :=
  s.hostAct (Reg.ADC_CTL k) fun m => m.adcDisable k ctl.toNat

/-- ADC_POWER_DOWN (R271): the channel powers down at the tick boundary, and SHUTTING clears. -/
def execAdcPowerDown (k : Adc) (s : State) : Host.Outcome State Fault Refusal :=
  s.act fun m => m.adcPowerDown k

/-- SCAN_RUN (R272): ADC_CTL.RUN = 1 checks the scan setup and enables scanning, or is refused. -/
def execScanRun (k : Adc) (ctl : Word) (s : State) : Host.Outcome State Fault Refusal :=
  s.hostAct (Reg.ADC_CTL k) fun m => m.scanRun k ctl.toNat

/-- SCAN_STOP (R274): RUN = 0 starts a scan shutdown that lets the current dwell complete. -/
def execScanStop (k : Adc) (ctl : Word) (s : State) : Host.Outcome State Fault Refusal :=
  s.hostAct (Reg.ADC_CTL k) fun m => m.scanStop k ctl.toNat

/-- SCAN_START_HOST (R272): A START write starts one scan at the tick boundary, or sets MISSED. -/
def execScanStartHost (k : Adc) (s : State) : Host.Outcome State Fault Refusal :=
  s.hostAct (Reg.ADC_CTL k) fun m => m.scanStartHost k

/-- SCAN_START_PERIODIC (R272): PERIOD ticks after the previous start, a periodic scan starts. -/
def execScanStartPeriodic (k : Adc) (s : State) : Host.Outcome State Fault Refusal :=
  s.act fun m => m.scanStartPeriodic k

/-- SCAN_START_LOAD (R272): DELAY ECLK after a basin LOAD strobe, a scan starts. -/
def execScanStartLoad (k : Adc) (strobe : Nat) (s : State) : Host.Outcome State Fault Refusal :=
  s.act fun m => m.scanStartLoad k strobe

/-- ADC_RESULT (R275): A dwell's corrected mean is written to the LAST register and the FIFO. -/
def execAdcResult (k : Adc) (q err : Int) (limit : Bool) (s : State) : Host.Outcome State Fault Refusal :=
  s.act fun m => m.adcResult k q err limit

/-- ADC_FIFO_READ (R275): A read of ADC_FIFO_LO removes the oldest result and snapshots ADC_FIFO_HI. -/
def execAdcFifoRead (k : Adc) (s : State) : Host.Outcome State Fault Refusal :=
  s.act fun m => m.hostRead (Reg.ADC_FIFO_LO k)

/-- ADC_STAGE_TAKEOVER (R279): every 300 us the spare stage relieves one pipeline stage, which is measured and trimmed. -/
def execAdcStageTakeover (k : Adc) (good : Bool) (s : State) : Host.Outcome State Fault Refusal :=
  s.act fun m => m.stageTakeover k good

/-- ADC_GAIN_ROUTINE (R276): every 10 ms the gain routine measures GAIN and OFFS against the reference and ground. -/
def execAdcGainRoutine (k : Adc) (r33 : Nat) (r35 : Nat) (s : State) : Host.Outcome State Fault Refusal :=
  s.act fun m => m.gainRoutine k r33 r35

/-- P_ADC_ENABLE (R281): A P ADC enable starts conversion at the tick boundary, or is refused. -/
def execPAdcEnable (p : PAdc) (ctl : Word) (s : State) : Host.Outcome State Fault Refusal :=
  s.hostAct (Reg.P_CTL p) fun m => m.padcEnable p ctl.toNat

/-- P_ADC_DISABLE (R281): A P ADC disable starts its shutdown. -/
def execPAdcDisable (p : PAdc) (ctl : Word) (s : State) : Host.Outcome State Fault Refusal :=
  s.hostAct (Reg.P_CTL p) fun m => m.padcDisable p ctl.toNat

/-- P_ADC_SHUTDOWN_DONE (R281): P ADC shutdown completes at the next tick boundary. -/
def execPAdcShutdownDone (p : PAdc) (s : State) : Host.Outcome State Fault Refusal :=
  s.act fun m => m.padcShutDone p

/-- P_ADC_RESULT (R282): A reference-grade ADC delivers a corrected, time-stamped result. -/
def execPAdcResult (p : PAdc) (q err : Int) (at_ : Nat) (s : State) : Host.Outcome State Fault Refusal :=
  s.act fun m => m.padcResult p q err at_

/-- PADC_SYSCAL_ZERO (R283): the ZERO step waits for SETTLED and averages 64 results at the applied zero. -/
def execPadcSyscalZero (slot : Slot) (irq : Bool) (results : List Int) (s : State) : Host.Outcome State Fault Refusal :=
  s.hostAct (Reg.MBX_CMD slot) fun m => m.syscalZero slot irq results

/-- PADC_SYSCAL_FULL (R283): the FULL step waits for SETTLED and averages 64 results at the applied full scale. -/
def execPadcSyscalFull (slot : Slot) (irq : Bool) (results : List Int) (s : State) : Host.Outcome State Fault Refusal :=
  s.hostAct (Reg.MBX_CMD slot) fun m => m.syscalFull slot irq results

/-- PADC_SYSCAL_COMMIT (R283): the COMMIT step computes, checks and stores new P_GAIN and P_OFFS. -/
def execPadcSyscalCommit (slot : Slot) (irq : Bool) (stored : Bool) (s : State) : Host.Outcome State Fault Refusal :=
  s.hostAct (Reg.MBX_CMD slot) fun m => m.syscalCommit slot irq stored

/-- PADC_SYSCAL_DISCARD (R284): the DISCARD step discards the calibration session. -/
def execPadcSyscalDiscard (slot : Slot) (irq : Bool) (s : State) : Host.Outcome State Fault Refusal :=
  s.hostAct (Reg.MBX_CMD slot) fun m => m.syscalDiscard slot irq

/-- PADC_SESSION_EXPIRE (R284): 600 s after its first step, a calibration session is discarded. -/
def execPadcSessionExpire (p : PAdc) (s : State) : Host.Outcome State Fault Refusal :=
  s.act fun m => m.sessionExpire p

end Sys2Proof.Machine
end

