-- ==== Sys2Proof/Machine/FirmwareExec.lean ====
section
/-! DEFINITION. The meanings of the commands of firmware operations and the mailbox: one definition for each command. -/

namespace Sys2Proof.Machine

/-- SERVO (R451): A long operation that runs the IEEE 1588 servo until it is aborted. -/
def execServo (slot : Slot) (irq : Bool) (s : State) : Host.Outcome State Fault Refusal :=
  s.hostAct (Reg.MBX_CMD slot) fun m => m.servo slot irq

/-- SERVO_NO_MASTER (R451): no Sync arrives for 8 s, and SERVO ends with NO_MASTER. -/
def execServoNoMaster (s : State) : Host.Outcome State Fault Refusal :=
  s.act fun m => m.servoNoMaster

/-- FW_STAGE (R450): A long operation that verifies a staged firmware image and writes it to the unused slot. -/
def execFwStage (slot : Slot) (irq : Bool) (verdict : Nat) (s : State) : Host.Outcome State Fault Refusal :=
  s.hostAct (Reg.MBX_CMD slot) fun m => m.fwStage slot irq verdict

/-- FW_SELECT (R450): A long operation that verifies a slot and names it preferred. -/
def execFwSelect (slot : Slot) (irq : Bool) (good : Bool) (s : State) : Host.Outcome State Fault Refusal :=
  s.hostAct (Reg.MBX_CMD slot) fun m => m.fwSelect slot irq good

/-- UNKNOWN_OP (R449): an issued operation id not in Table 16.7 ends FAILED with UNKNOWN_OP. -/
def execUnknownOp (slot : Slot) (op : Half) (irq : Bool) (s : State) : Host.Outcome State Fault Refusal :=
  s.hostAct (Reg.MBX_CMD slot) fun m => m.unknownOp slot op.toNat irq

/-- MAILBOX_ABORT (R475): A write of ABORT to MBX_CMD ends a queued operation or moves a running one to ABORTING. -/
def execMailboxAbort (slot : Slot) (s : State) : Host.Outcome State Fault Refusal :=
  s.hostAct (Reg.MBX_CMD slot) fun m => m.mailboxAbort slot

/-- FW_STAGE_DONE (R450): the flash erase, write and read-back of a staged slot finish, and the boot header is committed with ACTIVATE, or the
operation fails with FLASH. -/
def execFwStageDone (good : Bool) (s : State) : Host.Outcome State Fault Refusal :=
  s.act fun m => m.fwStageDone good

end Sys2Proof.Machine
end

