-- ==== Sys2Proof/Machine/GaugeExec.lean ====
section
/-! DEFINITION. The meanings of the commands of triggers, sequencers and capture: one definition for each command. -/

namespace Sys2Proof.Machine

/-- TRIG_INPUT_EDGE (R222): an edge on a TRIG input ball acts as a crossbar source. -/
def execTrigInputEdge (k : Trig) (rise : Bool) (at_ : Nat) (s : State) : Host.Outcome State Fault Refusal :=
  s.act fun m => m.trigEdge k rise at_

/-- LDAC_INPUT_EDGE (R222): A falling edge on an LDAC ball acts as a rising crossbar source. -/
def execLdacInputEdge (k : Ldac) (fall : Bool) (at_ : Nat) (s : State) : Host.Outcome State Fault Refusal :=
  s.act fun m => m.ldacEdge k fall at_

/-- SEQ_HIT (R224): the occurrence count of a sequencer state reaches COUNT, and the hit transition is taken with its actions. -/
def execSeqHit (q : Seq) (s : State) : Host.Outcome State Fault Refusal :=
  s.act fun m => m.seqHit q

/-- SEQ_TIMER_EXPIRE (R225): TIMER ECLK pass in a sequencer state, and the time transition is taken. -/
def execSeqTimerExpire (q : Seq) (s : State) : Host.Outcome State Fault Refusal :=
  s.act fun m => m.seqTime q

/-- TSQ_ENABLE (R227): TSQ_CTL.ENABLE = 1 checks the states and enables the sequencer at the tick boundary, or refuses it. -/
def execTsqEnable (q : Seq) (s : State) : Host.Outcome State Fault Refusal :=
  s.seqAct q (Reg.TSQ_CTL q) fun m => m.tsqEnable q

/-- TSQ_DISABLE (R227): A trigger-sequencer disable starts its shutdown. -/
def execTsqDisable (q : Seq) (s : State) : Host.Outcome State Fault Refusal :=
  s.seqAct q (Reg.TSQ_CTL q) fun m => m.tsqDisable q

/-- TSQ_SHUTDOWN_DONE (R227): the sequencer's shutdown completes at the next tick boundary, and its output goes to 0. -/
def execTsqShutdownDone (q : Seq) (s : State) : Host.Outcome State Fault Refusal :=
  s.act fun m => m.tsqShutDone q

/-- GAU_TSQ_RESTART (R226): A write of 1 restarts a global sequencer in state 0 at the tick boundary. -/
def execGauTsqRestart (g : GSeq) (s : State) : Host.Outcome State Fault Refusal :=
  s.hostAct (Reg.GAU_TSQ_RESTART (256 + g.val)) fun m => m.seqRestart g

/-- CAPTURE_ARM (R232): A host or burst ARM checks the capture parameters and arms capture, or is refused. -/
def execCaptureArm (b : Basin) (ctl : Word) (s : State) : Host.Outcome State Fault Refusal :=
  s.basinAct b (Reg.BSN_CAP_CTL b) fun m => m.captureArm b ctl.toNat

/-- CAPTURE_DISARM (R232): A host write of ARM = 0 closes any open record TRUNCATED and starts the disarm shutdown. -/
def execCaptureDisarm (b : Basin) (ctl : Word) (s : State) : Host.Outcome State Fault Refusal :=
  s.basinAct b (Reg.BSN_CAP_CTL b) fun m => m.captureDisarm b ctl.toNat

/-- CAPTURE_SHUTDOWN_DONE (R232): the disarm drain finishes and capture shutdown completes, or a held ARM takes effect. -/
def execCaptureShutdownDone (b : Basin) (s : State) : Host.Outcome State Fault Refusal :=
  s.act fun m => m.captureShutDone b

/-- FORCE_TRIG (R233): A host FORCE_TRIG fires a capture trigger at the tick boundary, or is ignored when no burst runs. -/
def execForceTrig (b : Basin) (s : State) : Host.Outcome State Fault Refusal :=
  s.basinAct b (Reg.BSN_CAP_CTL b) fun m => m.forceTrig b

/-- CAPTURE_TRIGGER (R233): A trigger reaches the capture unit and places a record, or is missed. -/
def execCaptureTrigger (b : Basin) (s : State) : Host.Outcome State Fault Refusal :=
  s.act fun m => m.captureTrigger b

/-- RECORD_CLOSE (R234): A record closes after its POST-th slot, captured or lost; what closes one early (R234, Table 7.8) closes it itself. -/
def execRecordClose (b : Basin) (s : State) : Host.Outcome State Fault Refusal :=
  s.act fun m => m.recordClose b

/-- REARM_COMPLETE (R235): 496 ECLK after a record's last slot, re-arm completes and history collection restarts. -/
def execRearmComplete (b : Basin) (at_ : Nat) (s : State) : Host.Outcome State Fault Refusal :=
  s.act fun m => m.rearmDone b at_

/-- RECORD_COMPLETE (R238): A record's header reaches HBM, WR advances, and capture disarms after RECORDS records. -/
def execRecordComplete (b : Basin) (s : State) : Host.Outcome State Fault Refusal :=
  s.act fun m => m.recordComplete b

/-- CAP_RD_WRITE (R231): A host write of BSN_CAP_RD releases ring segments, or is ignored and sets RD_BAD. -/
def execCapRdWrite (b : Basin) (value : Word) (s : State) : Host.Outcome State Fault Refusal :=
  s.basinAct b (Reg.BSN_CAP_RD b) fun m => m.capRd b value.toNat

end Sys2Proof.Machine
end

