-- ==== Sys2Proof/Machine/HostExec.lean ====
section
/-! DEFINITION. The meanings of the commands of the host interface, SMBus and JTAG: one definition for each command. -/

namespace Sys2Proof.Machine

/-- QP_ENABLE (R466): A queue-pair enable resets heads, tails and phase at the tick boundary, or is refused. -/
def execQpEnable (q : Queue) (s : State) : Host.Outcome State Fault Refusal :=
  s.hostAct (Reg.QP_CTL q) fun m => m.queueEnable q

/-- QP_DISABLE (R466): A queue-pair disable stops fetching. -/
def execQpDisable (q : Queue) (s : State) : Host.Outcome State Fault Refusal :=
  s.hostAct (Reg.QP_CTL q) fun m => m.queueDisable q

/-- QP_SHUTDOWN_DONE (R466): in-flight fetches have landed, and the queue-pair shutdown completes. -/
def execQpShutdownDone (q : Queue) (s : State) : Host.Outcome State Fault Refusal :=
  s.act fun m => m.queueShutDone q

/-- CQ_HEAD_DOORBELL (R468): A write to DB_CQ_HEAD frees consumed completion entries. -/
def execCqHeadDoorbell (q : Queue) (head : Word) (s : State) : Host.Outcome State Fault Refusal :=
  s.hostAct (Reg.DB_CQ_HEAD q) fun m => m.cqDoorbell q head.toNat

/-- DMA_RUN (R484): setting DMA_CTL.RUN = 1 resets HEAD and TAIL and starts the ring, or is ignored. -/
def execDmaRun (e : Dma) (r : Ring) (s : State) : Host.Outcome State Fault Refusal :=
  s.hostAct (Reg.DMA_CTL e r) fun m => m.dmaRun e r

/-- DMA_STOP (R484): writing RUN = 0 stops the ring after the descriptor in progress. -/
def execDmaStop (e : Dma) (r : Ring) (s : State) : Host.Outcome State Fault Refusal :=
  s.hostAct (Reg.DMA_CTL e r) fun m => m.dmaStop e r

/-- DMA_TAIL_DOORBELL (R470): A write to DMA_TAIL makes descriptors available to the engine. -/
def execDmaTailDoorbell (e : Dma) (r : Ring) (tail : Word) (s : State) : Host.Outcome State Fault Refusal :=
  s.hostAct (Reg.DMA_TAIL e r) fun m => m.dmaTail e r tail.toNat

/-- DMA_DESCRIPTOR_DONE (R470): A descriptor's copy or transmit completes; write-back, HEAD advance and vector follow. -/
def execDmaDescriptorDone (e : Dma) (desc : Block32) (data : List Byte) (ok : Bool) (ecc : Ecc) (at_ : Nat) (s : State) : Host.Outcome State Fault Refusal :=
  s.act fun m => m.descriptor e desc data ok ecc at_

/-- MULTI_WORD_LOW_READ (R463): A read of a group's low word returns it and snapshots the high words. -/
def execMultiWordLowRead (off : Bar0) (s : State) : Host.Outcome State Fault Refusal :=
  s.act fun m => m.hostRead off.toNat

/-- MULTI_WORD_HIGH_READ (R463): A read of a high word returns it from the snapshot, or tears and sets TORN. -/
def execMultiWordHighRead (off : Bar0) (s : State) : Host.Outcome State Fault Refusal :=
  s.act fun m => m.hostRead off.toNat

/-- READ_CLEAR (R8): A read of an RC field returns its value, then clears it. -/
def execReadClear (off : Bar0) (len : Nat) (s : State) : Host.Outcome State Fault Refusal :=
  s.act fun m => m.barRead off.toNat len

/-- REGISTER_WRITE (R8): A host write to a register with no row of its own acts by its access code and its field's stated effect point. -/
def execRegisterWrite (off : Bar0) (value : Long) (len : Nat) (full : Bool) (s : State) : Host.Outcome State Fault Refusal :=
  s.act fun m => m.barWrite off.toNat value.toNat len full

/-- PCIE_TLP_ERROR (R455): A PCIe correctable error, or a poisoned, malformed or unsupported TLP, is reported to Levee and AER. -/
def execPcieTlpError (kind : TlpKind) (s : State) : Host.Outcome State Fault Refusal :=
  s.act fun m => m.tlpError kind

/-- DEVICE_REQUEST_TIMEOUT (R455): A request made by the device itself times out after 50 ms. -/
def execDeviceRequestTimeout (s : State) : Host.Outcome State Fault Refusal :=
  s.act fun m => m.requestTimeout

/-- SMB_SET_ADDR (R476): SMBus command 0x01 sets the 24-bit BAR0 offset ADDR. -/
def execSmbSetAddr (value : Word) (s : State) : Host.Outcome State Fault Refusal :=
  s.act fun m => m.smbAddr value.toNat

/-- SMB_READ_REG (R477): SMBus command 0x02 reads the register at ADDR without side effects, then increases ADDR. -/
def execSmbReadReg (s : State) : Host.Outcome State Fault Refusal :=
  s.act fun m => m.smbRead

/-- SMB_WRITE_MAILBOX (R476): SMBus command 0x03 writes ADDR if it lies in mailbox slot 7, then increases ADDR. -/
def execSmbWriteMailbox (value : Word) (s : State) : Host.Outcome State Fault Refusal :=
  s.act fun m => m.smbWrite value.toNat

/-- SMB_READ_TEMP (R476): SMBus command 0x10 returns the hottest tributary and HBM stack temperatures. -/
def execSmbReadTemp (s : State) : Host.Outcome State Fault Refusal :=
  s.act fun m => m.smbTemp

/-- SMB_READ_STATUS (R476): SMBus command 0x11 returns start-up stage, availability, device, sealed and slack status. -/
def execSmbReadStatus (s : State) : Host.Outcome State Fault Refusal :=
  s.act fun m => m.smbStatus

/-- SMB_UNKNOWN_COMMAND (R476): an SMBus command outside Table 17.7 is NACKed. -/
def execSmbUnknownCommand (s : State) : Host.Outcome State Fault Refusal :=
  s.act fun m => m.smbUnknown

/-- JTAG_IDCODE (R478): the IDCODE instruction selects the IDCODE register, 0x1102_4967. -/
def execJtagIdcode (s : State) : Host.Outcome State Fault Refusal :=
  s.act fun m => m.jtagId

/-- JTAG_SAMPLE_PRELOAD (R478): the SAMPLE/PRELOAD instruction samples or preloads the boundary cells. -/
def execJtagSamplePreload (cells : List Bool) (s : State) : Host.Outcome State Fault Refusal :=
  s.act fun m => m.jtagSample cells

/-- JTAG_EXTEST (R479): the EXTEST instruction drives boundary cells, with the device held as under CLR_N and the PCIe link down. -/
def execJtagExtest (s : State) : Host.Outcome State Fault Refusal :=
  s.act fun m => m.jtagTest 3 true

/-- JTAG_EXTEST_PULSE (R479): the IEEE 1149.6 EXTEST_PULSE instruction tests the AC-coupled lanes. -/
def execJtagExtestPulse (s : State) : Host.Outcome State Fault Refusal :=
  s.act fun m => m.jtagTest 4 true

/-- JTAG_EXTEST_TRAIN (R479): the IEEE 1149.6 EXTEST_TRAIN instruction tests the AC-coupled lanes with pulse trains. -/
def execJtagExtestTrain (s : State) : Host.Outcome State Fault Refusal :=
  s.act fun m => m.jtagTest 5 true

/-- JTAG_CLAMP (R479): the CLAMP instruction holds the outputs from the boundary cells with BYPASS selected. -/
def execJtagClamp (s : State) : Host.Outcome State Fault Refusal :=
  s.act fun m => m.jtagTest 6 true

/-- JTAG_HIGHZ (R479): the HIGHZ instruction puts the boundary-scanned outputs at high impedance. -/
def execJtagHighz (s : State) : Host.Outcome State Fault Refusal :=
  s.act fun m => m.jtagTest 7 false

/-- JTAG_BYPASS (R478): the BYPASS instruction, or any unlisted code, selects bypass; after a test instruction it causes a warm reset. -/
def execJtagBypass (code : Byte) (s : State) : Host.Outcome State Fault Refusal :=
  s.act fun m => m.jtagBypass code.toNat

/-- JTAG_TEST_LOGIC_RESET (R478): TRST_N or the test-logic-reset state loads IDCODE into the instruction register. -/
def execJtagTestLogicReset (s : State) : Host.Outcome State Fault Refusal :=
  s.act fun m => m.jtagLoad 1

/-- PCIE_LINK_UP (R454): the PCIe link finishes training at a negotiated speed and width, which GLB_PCI reports. -/
def execPcieLinkUp (speed : Speed) (width : Width) (s : State) : Host.Outcome State Fault Refusal :=
  s.act fun m => m.pcieUp speed width

end Sys2Proof.Machine
end

