-- ==== Sys2Proof/Machine/LeveeExec.lean ====
section
/-! DEFINITION. The meanings of the commands of faults, Levee and dumps: one definition for each command. -/

namespace Sys2Proof.Machine

/-- FAULT_REPORT (R387): A fault report is registered at Levee, reacted to by its severity, logged and counted. -/
def execFaultReport (source : Source) (inst : Nat) (detail : Nat) (at_ : Nat) (s : State) : Host.Outcome State Fault Refusal :=
  s.act fun m => m.faultReport source inst detail at_

/-- LEV_FORCE (R392): A write to LEV_FORCE makes one forced report, or is refused. -/
def execLevForce (value : Word) (s : State) : Host.Outcome State Fault Refusal :=
  s.hostAct Reg.LEV_FORCE fun m => m.forceSource value.toNat

/-- LEV_ARM (R393): A write to LEV_ARM advances the two-key arm sequence for forcing a SEALED source. -/
def execLevArm (value : Word) (s : State) : Host.Outcome State Fault Refusal :=
  s.hostAct Reg.LEV_ARM fun m => m.levArm value.toNat

/-- LEV_ARM_LAPSE (R393): 1 ms after the second key write, an unused arm lapses. -/
def execLevArmLapse (s : State) : Host.Outcome State Fault Refusal :=
  s.act fun m => m.armLapse

/-- LEV_LOG_READ (R394): A read of LEV_LOG_0 removes the oldest log entry and snapshots LEV_LOG_1-3. -/
def execLevLogRead (s : State) : Host.Outcome State Fault Refusal :=
  s.act fun m => m.hostRead (Reg.LEV_LOG 0)

/-- LEV_SEV_WRITE (R386): A write of LEV_SEV sets a source's severity, or is ignored below the floor. -/
def execLevSevWrite (source : Source) (value : Word) (s : State) : Host.Outcome State Fault Refusal :=
  s.hostAct (Reg.LEV_SEV source) fun m => m.sevWrite source value.toNat

/-- LEV_DEVICE_CLEAR (R391): A write of 1 to LEV_STAT.DEVICE releases ALERT_N. -/
def execLevDeviceClear (s : State) : Host.Outcome State Fault Refusal :=
  s.hostAct Reg.LEV_STAT fun m => m.deviceClear

/-- LEV_DUMP_ACK (R401): A write of 1 to LEV_DUMP.ACK acknowledges the held dump. -/
def execLevDumpAck (s : State) : Host.Outcome State Fault Refusal :=
  s.hostAct Reg.LEV_DUMP fun m => m.dumpAck

/-- DUMP (R400): A long operation that writes a state dump, issued by the host or started by a DEVICE or SEALED reaction. -/
def execDump (slot : Slot) (irq : Bool) (s : State) : Host.Outcome State Fault Refusal :=
  s.hostAct (Reg.MBX_CMD slot) fun m => m.dump slot irq

/-- DUMP_COMPLETE (R400): the dump's section table and header are written, and the dump is complete. -/
def execDumpComplete (s : State) : Host.Outcome State Fault Refusal :=
  s.act fun m => m.dumpComplete

/-- PCNT_RECORD_WRITE (R402): every 2^20 ticks the persistent counters are written to Reservoir. -/
def execPcntRecordWrite (stored : Bool) (s : State) : Host.Outcome State Fault Refusal :=
  s.act fun m => m.counterWrite stored

/-- SPARE_COPY_DONE (R404): the copy of a faulty engine's loop store into the spare completes. -/
def execSpareCopyDone (t : Trib) (s : State) : Host.Outcome State Fault Refusal :=
  s.act fun m => m.copyDone t

/-- MILLRACE_LANE_OUTVOTED (R406): the voter finds a disagreeing lane and rewrites it, or finds no majority and raises Millrace-vote. -/
def execMillraceLaneOutvoted (lane : Lane) (majority : Bool) (s : State) : Host.Outcome State Fault Refusal :=
  s.act fun m => m.laneOutvoted lane majority

/-- MANAGEMENT_WATCHDOG (R407): the 100 ms watchdog expires and resets the management processor only. -/
def execManagementWatchdog (s : State) : Host.Outcome State Fault Refusal :=
  s.act fun m => m.watchdog

end Sys2Proof.Machine
end

