-- ==== Sys2Proof/Machine/PinExec.lean ====
section
/-! DEFINITION. The meanings of the commands of deskew, levels and the PPMU: one definition for each command. -/

namespace Sys2Proof.Machine

/-- DSK_USER_WRITE (R179): A write to the deskew USER field sets a new target, which DLY walks to in 8 ps steps. -/
def execDskUserWrite (p : Pin) (cmp : Bool) (user : Half) (s : State) : Host.Outcome State Fault Refusal :=
  s.hostAct (Reg.PIN_DSK_DRV p) fun m => m.userWrite p cmp user.toNat

/-- BSN_LVL_LOAD (R194): A write to BSN_LVL_LOAD fires the basin LOAD strobe at the first tick boundary after delivery. -/
def execBsnLvlLoad (b : Basin) (s : State) : Host.Outcome State Fault Refusal :=
  s.basinAct b (Reg.BSN_LVL_LOAD b) fun m => m.loadStrobe b m.now

/-- LOAD_STROBE (R194): A basin LOAD strobe from any source copies staged codes to active codes, or is ignored while pins are safe. -/
def execLoadStrobe (b : Basin) (at_ : Nat) (s : State) : Host.Outcome State Fault Refusal :=
  s.act fun m => m.loadStrobe b at_

/-- LEVEL_APPLY (R194): new active codes take effect at the first modulator edge at least 10 ns after the strobe. -/
def execLevelApply (b : Basin) (s : State) : Host.Outcome State Fault Refusal :=
  s.act fun m => m.levelApply b

/-- CLEAR_CODE_WRITE (R196): A write to PIN_LVL_CLR takes effect at the next tick boundary and moves cleared outputs to the new code. -/
def execClearCodeWrite (p : Pin) (c : Chan) (code : Half) (s : State) : Host.Outcome State Fault Refusal :=
  s.hostAct (Reg.PIN_LVL_CLR p c) fun m => m.clearCode p c code.toNat

/-- PPMU_ENABLE (R205): PIN_PMU_CTL.ENABLE = 1 connects the PPMU at the tick boundary, or is refused. -/
def execPpmuEnable (p : Pin) (ctl : Word) (s : State) : Host.Outcome State Fault Refusal :=
  s.hostAct (Reg.PIN_PMU_CTL p) fun m => m.ppmuWrite p ctl.toNat true

/-- PPMU_DISABLE (R205): A PPMU disable starts a 6 us shutdown that forces the clear code before the switch opens. -/
def execPpmuDisable (p : Pin) (ctl : Word) (s : State) : Host.Outcome State Fault Refusal :=
  s.hostAct (Reg.PIN_PMU_CTL p) fun m => (m.ppmuFields p ctl.toNat).ppmuShut p

/-- PPMU_SHUTDOWN_DONE (R205): after 6 us the PPMU switch opens and SHUTTING clears. -/
def execPpmuShutdownDone (p : Pin) (s : State) : Host.Outcome State Fault Refusal :=
  s.act fun m => m.ppmuShutDone p

/-- PPMU_RANGE_CHANGE (R206): A MODE or RANGE change on a connected PPMU forces the clear code for 8 us. -/
def execPpmuRangeChange (p : Pin) (ctl : Word) (s : State) : Host.Outcome State Fault Refusal :=
  s.hostAct (Reg.PIN_PMU_CTL p) fun m => m.ppmuWrite p ctl.toNat false

/-- PPMU_RANGE_CHANGE_END (R206): after 8 us the new MODE and RANGE take effect at FORCE's active code. -/
def execPpmuRangeChangeEnd (p : Pin) (s : State) : Host.Outcome State Fault Refusal :=
  s.act fun m => m.ppmuRangeEnd p

end Sys2Proof.Machine
end

