-- ==== Sys2Proof/Machine/RiffleExec.lean ====
section
/-! DEFINITION. The meanings of the commands of vector words, events and the loop-store window: one definition for each command. -/

namespace Sys2Proof.Machine

/-- WORD_RUN (R96): A RUN word plays one pass and goes to NEXT, or to ALT when its condition is true. -/
def execWordRun (b : Basin) (seen : Seen) (s : State) : Host.Outcome State Fault Refusal :=
  s.act fun m => m.wordRun b seen

/-- WORD_REPEAT (R94): A REPEAT word plays its payload COUNT + 1 times. -/
def execWordRepeat (b : Basin) (seen : Seen) (s : State) : Host.Outcome State Fault Refusal :=
  s.act fun m => m.wordRepeat b seen

/-- WORD_WAIT (R95): A WAIT word repeats one vector until its condition is true at a decision boundary. -/
def execWordWait (b : Basin) (seen : Seen) (s : State) : Host.Outcome State Fault Refusal :=
  s.act fun m => m.wordWait b seen

/-- WAIT_TIMEOUT (R95): the COUNT-th repetition of a WAIT ends the wait by timeout, sets TIMEOUT and may register TO_EVENT. -/
def execWaitTimeout (b : Basin) (s : State) : Host.Outcome State Fault Refusal :=
  s.act fun m => m.waitTimeout b

/-- WORD_LOOP_BEGIN (R97): A LOOP_BEGIN word loads COUNT into a basin loop counter and plays its payload. -/
def execWordLoopBegin (b : Basin) (seen : Seen) (s : State) : Host.Outcome State Fault Refusal :=
  s.act fun m => m.wordLoopBegin b seen

/-- WORD_LOOP_END (R97): A LOOP_END word plays its payload, then exits early, decrements and loops, or exits. -/
def execWordLoopEnd (b : Basin) (seen : Seen) (s : State) : Host.Outcome State Fault Refusal :=
  s.act fun m => m.wordLoopEnd b seen

/-- WORD_CALL (R98): A CALL word plays its payload, pushes RET and goes to NEXT. -/
def execWordCall (b : Basin) (seen : Seen) (s : State) : Host.Outcome State Fault Refusal :=
  s.act fun m => m.wordCall b seen

/-- WORD_RETURN (R98): A RETURN word plays its payload and goes to the popped address. -/
def execWordReturn (b : Basin) (seen : Seen) (s : State) : Host.Outcome State Fault Refusal :=
  s.act fun m => m.wordReturn b seen

/-- WORD_HALT (R99): A HALT word ends the burst at the vector boundary that ends the preceding playing word. -/
def execWordHalt (b : Basin) (s : State) : Host.Outcome State Fault Refusal :=
  s.act fun m => m.wordHalt b

/-- WORD_PALETTE_LOAD (R100): A PALETTE_LOAD word replaces the live palettes named by its mask. -/
def execWordPaletteLoad (b : Basin) (s : State) : Host.Outcome State Fault Refusal :=
  s.act fun m => m.wordPalette b

/-- WORD_LEVEL_STAGE (R101): A LEVEL_STAGE word stages new level codes for the channels named by its mask. -/
def execWordLevelStage (b : Basin) (s : State) : Host.Outcome State Fault Refusal :=
  s.act fun m => m.wordLevelStage b

/-- VECTOR_RESULT (R106): the basin's vector result is registered 20 ECLK after the vector's last strobe closes. -/
def execVectorResult (b : Basin) (s : State) : Host.Outcome State Fault Refusal :=
  s.act fun m => m.vectorResult b

/-- FLOW_LINK_MISS (R110): A device of a spanning basin lacks a decision 32 ECLK before its boundary and raises flow-link. -/
def execFlowLinkMiss (b : Basin) (at_ : Nat) (s : State) : Host.Outcome State Fault Refusal :=
  s.act fun m => m.flowMiss b at_

/-- SYNCPT_VERDICT (R113): at a SYNCPT word the engines' FLOWSIGs are compared; a mismatch sets DIVERGED and raises flow-divergence. -/
def execSyncptVerdict (b : Basin) (othersAgree : Bool) (s : State) : Host.Outcome State Fault Refusal :=
  s.act fun m => m.syncVerdict b othersAgree

/-- EVENT_REGISTER (R105): A rising crossbar edge reaches a basin event or TRIG condition input and is registered. -/
def execEventRegister (b : Basin) (line : Line) (rise : Bool) (at_ : Nat) (s : State) : Host.Outcome State Fault Refusal :=
  s.act fun m => m.eventRegister b line rise at_

/-- BSN_EVENT_SET (R105): A host write to BSN_EVENT.SET registers basin events at the exchange point that delivers it. -/
def execBsnEventSet (b : Basin) (mask : Byte) (s : State) : Host.Outcome State Fault Refusal :=
  s.basinAct b (Reg.BSN_EVENT b) fun m => m.eventSet b mask.toNat

/-- BSN_EVENT_CLEAR (R105): A host write of 1 to BSN_EVENT.EVENT clears basin events at the exchange point that delivers it. -/
def execBsnEventClear (b : Basin) (mask : Byte) (s : State) : Host.Outcome State Fault Refusal :=
  s.basinAct b (Reg.BSN_EVENT b) fun m => m.eventClear b mask.toNat

/-- LS_WRITE (R123): PIN_LS_CTL.WRITE starts a loop-store window write, or the access is refused. -/
def execLsWrite (p : Pin) (s : State) : Host.Outcome State Fault Refusal :=
  s.hostAct (Reg.PIN_LS_CTL p) fun m => m.windowStart p true

/-- LS_READ (R123): PIN_LS_CTL.READ starts a loop-store window read into PIN_LS_DATA0-7, or the access is refused. -/
def execLsRead (p : Pin) (s : State) : Host.Outcome State Fault Refusal :=
  s.hostAct (Reg.PIN_LS_CTL p) fun m => m.windowStart p false

/-- LOOP_STORE_ACCESS_DONE (R123): A loop-store window access completes within 16 CCLK: BUSY clears and ADDR may increment. -/
def execLoopStoreAccessDone (p : Pin) (s : State) : Host.Outcome State Fault Refusal :=
  s.act fun m => m.windowDone p

/-- LOOP_STORE_SCRUB (R81): each loop-store word is read and corrected at least once every 100 ms. -/
def execLoopStoreScrub (e : Engine) (s : State) : Host.Outcome State Fault Refusal :=
  s.act fun m => m.storeScrub e

end Sys2Proof.Machine
end

