-- ==== Sys2Proof/Machine/SluiceExec.lean ====
section
/-! DEFINITION. The meanings of the commands of BAR2 and the HBM: one definition for each command. -/

namespace Sys2Proof.Machine

/-- BAR2_READ (R457): A host read through BAR2 returns HBM data through the HOST class. -/
def execBar2Read (addr : Nat) (len : Nat) (ecc : Ecc) (s : State) : Host.Outcome State Fault Refusal :=
  s.act fun m => m.windowRead addr len ecc

/-- BAR2_WRITE (R457): A host write through BAR2 is written at permitted addresses and dropped elsewhere. -/
def execBar2Write (addr : Nat) (data : List Byte) (ecc : Ecc) (s : State) : Host.Outcome State Fault Refusal :=
  s.act fun m => m.windowWrite addr data ecc

/-- WIN_BASE_WRITE (R457): A write to GLB_WIN sets the BAR2 window base, or is ignored with WIN_BAD. -/
def execWinBaseWrite (value : Word) (size : BarSize) (s : State) : Host.Outcome State Fault Refusal :=
  s.act fun m => m.winBaseWrite value.toNat size

/-- HBM_REFRESH (R323): per-bank refresh falls due at the interval that the stack temperature requires. -/
def execHbmRefresh (st : Stack) (s : State) : Host.Outcome State Fault Refusal :=
  s.act fun m => m.refresh st

/-- ROW_REPAIR (R332): A marked row is repaired online with soft post-package repair. -/
def execRowRepair (row : Nat) (s : State) : Host.Outcome State Fault Refusal :=
  s.act fun m => m.rowRepair row

/-- READ_TIMING_TRACK (R328): every 1 ms each controller tracks read-timing drift and may set RETRAIN. -/
def execReadTimingTrack (st : Stack) (within : Bool) (s : State) : Host.Outcome State Fault Refusal :=
  s.act fun m => m.timingTrack st within

/-- SLC_TRAIN (R327): A long operation that trains the named operating points and stores the results. -/
def execSlcTrain (slot : Slot) (irq : Bool) (s : State) : Host.Outcome State Fault Refusal :=
  s.hostAct (Reg.MBX_CMD slot) fun m => m.train slot irq

/-- SLC_OPCHANGE (R325): A long operation that checks an operating-point change and runs its lead phase. -/
def execSlcOpchange (slot : Slot) (irq : Bool) (s : State) : Host.Outcome State Fault Refusal :=
  s.hostAct (Reg.MBX_CMD slot) fun m => m.opChange slot irq

/-- OPCHANGE_LEAD_TIMEOUT (R325): the lead condition does not hold within 64 ticks, and the change ends with nothing changed. -/
def execOpchangeLeadTimeout (s : State) : Host.Outcome State Fault Refusal :=
  s.act fun m => m.leadTimeout

/-- OPCHANGE_COMMIT (R325): at the tick boundary the change commits, holds requests and enters self-refresh. -/
def execOpchangeCommit (s : State) : Host.Outcome State Fault Refusal :=
  s.act fun m => m.opChangeCommit

/-- OPCHANGE_GAP_END (R325): self-refresh exit completes, and held requests are served at the new clock. -/
def execOpchangeGapEnd (s : State) : Host.Outcome State Fault Refusal :=
  s.act fun m => m.opChangeGap

/-- OPCHANGE_COMPLETE (R325): at the next tick boundary allotments run at the new capacity, and the operation completes. -/
def execOpchangeComplete (s : State) : Host.Outcome State Fault Refusal :=
  s.act fun m => m.opChangeDone

/-- IDLE_SELF_REFRESH_ENTRY (R329): A stack with no request for SLC_ASR.IDLE ticks enters idle self-refresh. -/
def execIdleSelfRefreshEntry (st : Stack) (s : State) : Host.Outcome State Fault Refusal :=
  s.act fun m => m.idleEntry st

/-- IDLE_SELF_REFRESH_EXIT (R329): A request to a stack in idle self-refresh makes it exit, adding at most 2.1 us. -/
def execIdleSelfRefreshExit (st : Stack) (s : State) : Host.Outcome State Fault Refusal :=
  s.act fun m => m.idleExit st

/-- SLC_TRAIN_DONE (R327): training of the named operating points ends, its results are stored in Reservoir, and the operation completes or fails with
TRAIN_FAIL or RESERVOIR. -/
def execSlcTrainDone (good : Bool) (stored : Bool) (s : State) : Host.Outcome State Fault Refusal :=
  s.act fun m => m.trainDone good stored

end Sys2Proof.Machine
end

