-- ==== Sys2Proof/Machine/SpateExec.lean ====
section
/-! DEFINITION. The meanings of the commands of power governance and the slack state: one definition for each command. -/

namespace Sys2Proof.Machine

/-- DROOP_TRIP (R412): A droop sensor trips and CCLK slows to the 375 MHz floor. -/
def execDroopTrip (sensor : Sensor) (s : State) : Host.Outcome State Fault Refusal :=
  s.act fun m => m.droopTrip sensor

/-- CCLK_RETURN (R413): after two consecutive clean ticks CCLK returns to 500 MHz. -/
def execCclkReturn (s : State) : Host.Outcome State Fault Refusal :=
  s.act fun m => m.cclkReturn

/-- SUPPLY_MONITOR_TRIP (R415): A supply monitor trips and reports supply-fault, or wakes the device in slack. -/
def execSupplyMonitorTrip (mon : Mon) (at_ : Nat) (s : State) : Host.Outcome State Fault Refusal :=
  s.act fun m => m.supplyTrip mon at_

/-- STEP_LIMIT_WRITE (R419): A write to SPT_STEP_LIMIT is taken, or refused with LIMIT_REFUSED. -/
def execStepLimitWrite (value : Word) (s : State) : Host.Outcome State Fault Refusal :=
  s.hostAct Reg.SPT_STEP_LIMIT fun m => m.stepLimitWrite value.toNat

/-- SLACK_ENTER (R423): A long operation that checks the basins and spills, shuts down and persists state for slack entry. -/
def execSlackEnter (slot : Slot) (irq : Bool) (s : State) : Host.Outcome State Fault Refusal :=
  s.hostAct (Reg.MBX_CMD slot) fun m => m.slackEnter slot irq

/-- SLACK_COMMIT (R423): at the tick boundary the stacks enter self-refresh, and the tributaries and control plane power down. -/
def execSlackCommit (s : State) : Host.Outcome State Fault Refusal :=
  s.act fun m => m.slackCommit

/-- WAKE_EVENT (R425): A wake comparator fires and starts leaving the slack state. -/
def execWakeEvent (k : Comp) (s : State) : Host.Outcome State Fault Refusal :=
  s.act fun m => m.wakeEvent k

/-- HOST_WAKE (R425): A host write of SPT_SLACK.WAKE = 1 starts leaving the slack state. -/
def execHostWake (s : State) : Host.Outcome State Fault Refusal :=
  s.hostAct Reg.SPT_SLACK fun m => m.hostWake

/-- WAKE_COMPLETE (R426): relock, alignment, power-up and training restore complete, and SLACK_ENTER completes. -/
def execWakeComplete (tick : Nat) (edges : Nat) (temps : Nat × Nat) (stored : Bool) (s : State) : Host.Outcome State Fault Refusal :=
  s.act fun m => m.wakeComplete tick edges temps.1 temps.2 stored

end Sys2Proof.Machine
end

