-- ==== Sys2Proof/Machine/Tick.lean ====
section
/-! DEFINITION. The tick boundary and the exchange point (R24, R25, Table 1.6): time, sensors, what was delivered for the boundary, and the tick
program's decisions. -/

namespace Sys2Proof.Machine

/-- A tributary's sensor reading (R209): the front-end over-temperature flag sets at 105.0 °C, clears below 100.0 °C, and reports in each tick
while it is set. -/
def Dev.senseTrib (m : Dev) (temps : List Nat) (t : Nat) : Dev :=
  let v := temps.getD t (m.get (F.TRB_FE_STAT_TEMP t))
  let x := toSigned 12 v
  let m := m.put (F.TRB_FE_STAT_TEMP t) v
  let hot := decide (840 ≤ x) || (m.on (F.TRB_FE_STAT_OT t) && decide (800 ≤ x))
  let m := if hot && !m.on (F.TRB_FE_STAT_OT t) then m.put (F.TRB_FE_STAT_OT_HIT t) 1 else m
  let m := m.put (F.TRB_FE_STAT_OT t) (flag hot)
  if hot then m.report Src.feOverTemp t 0 m.now else m

/-- The reading of a tributary's sensor, in 0.125 °C. -/
def Dev.tempOf (m : Dev) (t : Nat) : Int := toSigned 12 (m.get (F.TRB_FE_STAT_TEMP t))

/-- Die over-temperature (R389): it begins at 115.0 °C on any sensor and stops below 110.0 °C on all; THERM_N is low while it reports. -/
def Dev.senseDie (m : Dev) : Dev :=
  let all := List.range 64
  let above := all.filter fun t => decide (920 ≤ m.tempOf t)
  let hot := !above.isEmpty || (m.lev.dieHot && all.any fun t => decide (880 ≤ m.tempOf t))
  let m := m.modLev fun l => { l with dieHot := hot, thermN := !hot }
  if !above.isEmpty then m.each above fun m t => m.report Src.dieOverTemp t 0 m.now
  else if hot then
    let t := all.foldl (fun b t => if m.tempOf b < m.tempOf t then t else b) 0
    m.report Src.dieOverTemp t 0 m.now
  else m

/-- How the capacity of a tick was given out (R316, R318 to R320): units of each basin's capture data; units of scrub; and the units served of each class. -/
structure Served where
  capture : List (Nat × Nat)
  scrub : Nat
  use : List Nat

/-- The capacity of the tick that ends is given out (R316, R318 to R320): first within the allotments, the fixed HOUSE share in the order of Table
11.3; then what is idle, to
CAPTURE beyond its share, HOST beyond its floor, scrub, and the management processor. STREAM and course fetches have taken theirs in the tick. -/
def Dev.giveOut (m : Dev) (i : TickIn) : Served :=
  let want := fun b => m.capWaiting b m.now - (i.late.lookup b).getD 0
  let inShare := m.captureAllots.map fun e => (e.1, min (want e.1) (e.2 - (m.bsn e.1).cap.units))
  let already := m.definedBasins.foldl (fun n b => n + (m.bsn b).cap.units) 0
  let fixed := 512 - m.definedBasins.foldl (fun n b => n + min 1 (m.bsn b).house) 0
  let weir := min i.weir (min 256 fixed)
  let asked := min i.scrubUnits (m.get F.SLC_SCRUB_RATE)
  let scrub := min asked (fixed - weir)
  let mgmt := min i.mgmt (fixed - weir - scrub)
  let host := min m.slc.hostUnits 1024
  let idle := m.get F.SLC_CAP_CAP_UNITS - (m.streamServed + already + amounts inShare + m.houseServed + weir + scrub + mgmt + host)
  let extra := giveEach idle (inShare.map fun e => (e.1, want e.1 - e.2))
  let idle := idle - amounts extra
  let hostMore := min idle (m.slc.hostUnits - host)
  let scrubMore := min (idle - hostMore) (asked - scrub)
  let mgmtMore := min (idle - hostMore - scrubMore) (i.mgmt - mgmt)
  { capture := inShare.map fun e => (e.1, e.2 + (extra.lookup e.1).getD 0), scrub := scrub + scrubMore,
    use := [m.streamServed, already + amounts inShare + amounts extra, m.houseServed + weir + scrub + scrubMore + mgmt + mgmtMore, host + hostMore] }

/-- The units of each class served in the last tick (SLC_USE); the HOST requests served wait no longer. -/
def Dev.senseUse (m : Dev) (use : List Nat) : Dev :=
  let m := m.modSlc fun x => { x with hostUnits := x.hostUnits - use.getD 3 0 }
  m.each (List.range 4) fun m c =>
    let n := min (use.getD c 0) 0xFFFF
    (m.put (F.SLC_USE_LAST c) n).put (F.SLC_USE_PEAK c) (max n (m.get (F.SLC_USE_PEAK c)))

/-- HBM takes the capture units of the tick that ends (R237); TRB_GAU_DRAIN shows the drain space of each tributary. -/
def Dev.drainTick (m : Dev) (l : List (Nat × Nat)) : Dev :=
  let m := m.each l fun m e => (m.drainUnits e.1 e.2 m.now).seeDrained e.1
  m.each (List.range 64) fun m t =>
    let n := min (ceilDiv (m.definedBasins.foldl (fun n b => n + m.drainOf b t m.now) 0) 512) 2048
    (m.put (F.TRB_GAU_DRAIN_LEVEL t) n).put (F.TRB_GAU_DRAIN_PEAK t) (max n (m.get (F.TRB_GAU_DRAIN_PEAK t)))

/-- The ball levels (GAU_IO_LEVEL, R222): a ball that a route drives shows its driver. -/
def Dev.senseBalls (m : Dev) : Dev :=
  let m := m.settleBalls m.now
  let routes := (m.image.map (·.routes)).getD []
  let trig := (List.range 16).foldl (fun n k =>
    n + 2 ^ k * m.wire (if routes.any fun r => r.1 == 0x1000 + k then 0x1000 + k else 0x0500 + k)) 0
  let ldac := (List.range 4).foldl (fun n k => n + 2 ^ k * (1 - m.wire (0x0510 + k))) 0
  (m.put F.GAU_IO_LEVEL_TRIG trig).put F.GAU_IO_LEVEL_LDAC ldac

/-- The CCLK periods that repeat, in pin-clock periods (R412), and the whole periods that a tick holds: 512, or 384 at the floor (R25). -/
def Dev.cclkCycle (m : Dev) : List Nat := if m.on F.SPT_STAT_THROTTLED then [21, 21, 22] else [16]
def Dev.cclkTick (m : Dev) : Nat := 8192 / m.cclkCycle.foldl (· + ·) 0 * m.cclkCycle.length

/-- What Millrace does in a tick (R412, R432 to R440): it executes the words of its program, one in each CCLK, and the cycles left run the routines
requested; an operation whose routine
met a call-stack fault ends MICROCODE (R435). -/
def Dev.runMillrace (m : Dev) (i : TickIn) : Dev :=
  let m := (m.upsetCtrl i.ctrlUpsets).readCtrl i.ctrlReads
  let spans := (m.definedBasins.filter fun b => (m.bdef b).span).length
  let p := m.ctrlRun (96 + m.definedBasins.length + spans) m.mrc.entry [] i.conds
  let m := m.modMrc fun x => { x with faulted := p.2 }
  let cycles := m.cclkTick
  let m := ((m.put F.MRC_TICK_LAST p.1).put F.MRC_TICK_PEAK (max p.1 (m.get F.MRC_TICK_PEAK))).put F.MRC_FREE_LAST (cycles - p.1)
  let d := m.dropRoutines.runTick (cycles - p.1) 0 i.requests
  let m := d.1.each (d.2.filter (·.fault)) fun m r => r.slot.elim m fun s => if m.slotActive s then m.dropOp s Err.microcode false else m
  m.put F.MRC_STAT_ROUTINE (((pickRoutine m.mrc.routines).map fun r => r.1.id).getD 0xFF)

/-- The buffers between the planes move on by a tick (R24): what the last tick program committed goes to the exchange point. -/
def Dev.moveBuffers (m : Dev) : Dev := { m with committed := m.committed ++ m.committing, committing := [] }

/-- The tick program takes up the writes that arrived in the last tick, and commits them (R24). -/
def Dev.takePosted (m : Dev) : Dev := { m with committing := m.posted, posted := [] }

/-- The counts that hold for one tick start again: reports, retries, and the units of HOUSE and STREAM (R145, R147). -/
def Dev.newTick (m : Dev) : Dev :=
  { m with tick := m.tick + 1, weir := { m.weir with returns := 0 }, lev := { m.lev with intake := 0 }, slc := { m.slc with retries := [], reported := [] },
           basins := Tbl.change {} (fun x => { x with house := 0, stream := 0, cap := { x.cap with units := 0 } }) m.basins,
           pins := Tbl.change {} (fun x => { x with units := 0 }) m.pins, deltas := Tbl.change {} (fun x => { x with units := 0 }) m.deltas }

/-- Errors arise in loop-store words (R81). -/
def Dev.upset (m : Dev) (l : List (Nat × Nat × Nat)) : Dev := m.each l fun m u => m.setFlip u.1 u.2.1 u.2.2

/-- The tick program (R25, Table 1.6): what arrived in the last tick is committed, Millrace shows its words, and Weir decides and fetches. Without
Millrace there
is none (R31). -/
def Dev.tickProgram (m : Dev) (i : TickIn) : Dev :=
  if m.on F.MRC_STAT_RUNNING then ((m.takePosted.runMillrace i).weirProgram fun b => i.chainFixed.contains b).fetchTick else m

/-- TICK_BOUNDARY (R24, R25, Table 1.6): the boundary of the next tick, and the tick program that starts there. Ticks stand still while TT does not
run and in the slack state. -/
def Dev.tickBoundary (m : Dev) (i : TickIn) : Dev :=
  if m.asleep || !m.clk.locked then m
  else
    let m := ((m.upset i.upsets).each m.definedBasins Dev.payHouse).each m.definedBasins fun m b => m.overflow b (m.now + tickUnits)
    let served := m.giveOut i
    let m := ((m.senseUse served.use).newTick.drainTick served.capture).progress.timeTick.moveBuffers.syncTick
    let m := (m.put F.HDW_STAT_WALK 0).takeAmps
    let m := (m.each (List.range 8) Dev.ckoWalk).each m.definedBasins fun m b => m.playHold b m.now
    let m := m.lookAll.takeCalIdle.carryDelivered
    let m := ((m.each (List.range 64) fun m t => (m.senseTrib i.temps t).blockDue t).senseDie).sampleTemps i.stackTemps.1 i.stackTemps.2
    let m := (m.put F.SPT_MON_OK i.mon).senseBalls
    let m := (m.each i.lostTables Dev.tableLost).droopTick.startWaiting.takePadc.sumTemps
    let m := ((m.scrub served.scrub i.found).each i.lanes Dev.laneFaulty).auditAll i.audits
    m.tickProgram i

/-- EXCHANGE_POINT (R24, R406, R435): the pin plane takes the command buffers of the tick program of the previous tick; where that program has not
committed by then, or a call-stack fault ended it, tick-deadline reports. -/
def Dev.exchange (m : Dev) (committed : Bool) : Dev :=
  if m.asleep || !m.clk.locked then m
  else if !committed || m.mrc.faulted then m.report Src.tickDeadline 0 0 m.exchangeNow
  else
    let l := m.committed
    ({ m with committed := [] } : Dev).each l Dev.deliverWrite

end Sys2Proof.Machine
end

