-- ==== Sys2Proof/Machine/TickExec.lean ====
section
/-! DEFINITION. The meanings of the commands of the tick boundary and the exchange point: one definition for each command. -/

namespace Sys2Proof.Machine

/-- TICK_BOUNDARY (R24): every 1,024 ECLK a tick boundary passes: share counters restart, commanded starts, stops and switches are carried out, and
per-tick housekeeping begins. -/
def execTickBoundary (tin : TickIn) (s : State) : Host.Outcome State Fault Refusal :=
  s.act fun m => m.tickBoundary tin

/-- EXCHANGE_POINT (R24): at ECLK 16 of each tick the pin plane takes the command buffers committed in the previous tick, together with the host
writes that they deliver. -/
def execExchangePoint (committed : Bool) (s : State) : Host.Outcome State Fault Refusal :=
  s.act fun m => m.exchange committed

end Sys2Proof.Machine
end

