-- ==== Sys2Proof/Machine/ToneExec.lean ====
section
/-! DEFINITION. The meanings of the commands of tones and Delta units: one definition for each command. -/

namespace Sys2Proof.Machine

/-- TONE_ENABLE (R252): A tone enable loads the tone under R247 at the tick boundary. -/
def execToneEnable (b : Basin) (c : Tone) (ctl : Word) (s : State) : Host.Outcome State Fault Refusal :=
  s.basinAct b (Reg.TON_CTL b c) fun m => m.toneEnable b c ctl.toNat

/-- TONE_DISABLE (R252): A tone disable sets its output to 0 at the tick boundary. -/
def execToneDisable (b : Basin) (c : Tone) (ctl : Word) (s : State) : Host.Outcome State Fault Refusal :=
  s.basinAct b (Reg.TON_CTL b c) fun m => m.toneDisable b c ctl.toNat

/-- TONE_SHUTDOWN_DONE (R252): tone shutdown completes at the next tick boundary. -/
def execToneShutdownDone (b : Basin) (c : Tone) (s : State) : Host.Outcome State Fault Refusal :=
  s.act fun m => m.toneShutDone b c

/-- TONE_FTW_COMMIT (R249): A write to TON_FTW_HI commits the staged 47-bit FTW. -/
def execToneFtwCommit (b : Basin) (c : Tone) (value : Word) (s : State) : Host.Outcome State Fault Refusal :=
  s.basinAct b (Reg.TON_FTW_HI b c) fun m => m.ftwCommit b c value.toNat

/-- TONE_POFF_COMMIT (R249): A write to TON_POFF_HI commits the staged 48-bit POFF. -/
def execTonePoffCommit (b : Basin) (c : Tone) (value : Word) (s : State) : Host.Outcome State Fault Refusal :=
  s.basinAct b (Reg.TON_POFF_HI b c) fun m => m.poffCommit b c value.toNat

/-- TONE_APPLY (R250): at the apply point the staged FTW and POFF are applied, COHERENT or CONTINUOUS. -/
def execToneApply (b : Basin) (c : Tone) (at_ : Nat) (s : State) : Host.Outcome State Fault Refusal :=
  s.act fun m => m.toneApply b c at_

/-- TONE_ZERO_CROSSING (R251): A tone crosses zero rising and the crossing is registered for COND 12. -/
def execToneZeroCrossing (b : Basin) (c : Tone) (at_ : Nat) (s : State) : Host.Outcome State Fault Refusal :=
  s.act fun m => m.toneCross b c at_

/-- DELTA_ENABLE (R260): A Delta unit enable starts its modulator from zero state at the tick boundary. -/
def execDeltaEnable (t : Trib) (ctl : Word) (s : State) : Host.Outcome State Fault Refusal :=
  s.hostAct (Reg.DLT_CTL t) fun m => m.deltaEnable t ctl.toNat

/-- DELTA_DISABLE (R260): A Delta unit disable makes DDL slots drive DZ from the tick boundary. -/
def execDeltaDisable (t : Trib) (ctl : Word) (s : State) : Host.Outcome State Fault Refusal :=
  s.hostAct (Reg.DLT_CTL t) fun m => m.deltaDisable t ctl.toNat

/-- DELTA_SHUTDOWN_DONE (R260): delta shutdown completes at the next tick boundary, and the modulator state clears. -/
def execDeltaShutdownDone (t : Trib) (s : State) : Host.Outcome State Fault Refusal :=
  s.act fun m => m.deltaShutDone t

/-- DELTA_RATE_WRITE (R259): A DIV write is checked at once against the shares and taken at the next burst start, or refused. -/
def execDeltaRateWrite (t : Trib) (value : Word) (s : State) : Host.Outcome State Fault Refusal :=
  s.hostAct (Reg.DLT_RATE t) fun m => m.deltaRate t value.toNat

end Sys2Proof.Machine
end

