-- ==== Sys2Proof/Machine/WeirExec.lean ====
section
/-! DEFINITION. The meanings of the commands of bursts and Weir: one definition for each command. -/

namespace Sys2Proof.Machine

/-- SQ_DOORBELL (R467): A write to DB_SQ_TAIL makes submission entries available for fetch, or is dropped with DB_BAD. -/
def execSqDoorbell (q : Queue) (tail : Word) (s : State) : Host.Outcome State Fault Refusal :=
  s.hostAct (Reg.DB_SQ_TAIL q) fun m => m.sqDoorbell q tail.toNat

/-- SQ_ENTRY_LAND (R467): A fetched submission entry lands and is copied into its context. -/
def execSqEntryLand (q : Queue) (data : Block64) (s : State) : Host.Outcome State Fault Refusal :=
  s.act fun m => m.sqLand q data

/-- UNSPILL_LAND (R296): A spilled burst returns from its overflow chain into an on-chip entry. -/
def execUnspillLand (b : Basin) (l : Prio) (s : State) : Host.Outcome State Fault Refusal :=
  s.act fun m => m.unspill b l

/-- BURST_DELIVERY (R299): A dispatch reaches the pin plane at the exchange point of the third tick after dispatch. -/
def execBurstDelivery (b : Basin) (ecc : Ecc) (s : State) : Host.Outcome State Fault Refusal :=
  s.act fun m => m.deliver b ecc

/-- BURST_ON_DECK (R299): the burst enters the on-deck slot at the next tick boundary, and its refill and resident-block load begin. -/
def execBurstOnDeck (b : Basin) (s : State) : Host.Outcome State Fault Refusal :=
  s.act fun m => m.enterDeck b

/-- BURST_PRIMED (R298): the on-deck burst holds its setup, first entry, resident block and first 2 ticks of words. -/
def execBurstPrimed (b : Basin) (at_ : Nat) (s : State) : Host.Outcome State Fault Refusal :=
  s.act fun m => m.prime b at_

/-- BURST_START_FROM_HOLD (R300): A burst decided two ticks earlier starts at a tick boundary, setting the epoch if it is the first. -/
def execBurstStartFromHold (b : Basin) (s : State) : Host.Outcome State Fault Refusal :=
  s.act fun m => m.startFromHold b

/-- PRESPIN_RAMP_STEP (R420): at each ramp boundary a further share of a pre-spin basin's pins passes to the pre-spin word. -/
def execPrespinRampStep (b : Basin) (s : State) : Host.Outcome State Fault Refusal :=
  s.act fun m => m.rampStep b

/-- MIN_BURST_EXPIRE (R53): MIN_BURST ticks after a short burst's start, its held successor may start. -/
def execMinBurstExpire (b : Basin) (s : State) : Host.Outcome State Fault Refusal :=
  s.act fun m => m.minBurstExpire b

/-- BURST_COMPLETION (R304): weir writes the completion record and stall records, then the completion queue entry and MSI-X. -/
def execBurstCompletion (b : Basin) (s : State) : Host.Outcome State Fault Refusal :=
  s.act fun m => m.complete b

/-- COMPLETION_POST (R468): A completion queue entry waiting for room is posted once the queue has a free entry. -/
def execCompletionPost (q : Queue) (s : State) : Host.Outcome State Fault Refusal :=
  s.act fun m => m.completionPost q

/-- WEI_CANCEL (R306): A write to WEI_CANCEL queues a cancel of a context, or drops it with CANCEL_LOST. -/
def execWeiCancel (ctx : Ctxt) (abort : Bool) (s : State) : Host.Outcome State Fault Refusal :=
  s.hostAct Reg.WEI_CANCEL fun m => m.weiCancel ctx abort

/-- WEI_CANCEL_BASIN (R307): A write to WEI_CANCEL_BASIN cancels all queued bursts of a basin in bulk, and the running one with ABORT. -/
def execWeiCancelBasin (b : Basin) (abort : Bool) (s : State) : Host.Outcome State Fault Refusal :=
  s.hostAct Reg.WEI_CANCEL_BASIN fun m => m.weiCancelBasin b abort

/-- CANCEL_RUNNING_END (R306): an aborted running burst ends at the first vector boundary after the next exchange point, CANCELLED_RUNNING. -/
def execCancelRunningEnd (b : Basin) (vectors : Nat) (seen : Seen) (s : State) : Host.Outcome State Fault Refusal :=
  s.act fun m => m.cancelEnd b vectors seen

/-- BURST_TIMEOUT (R308): MAX_TICKS after its start, a burst ends as an aborted cancel and completes TIMEOUT. -/
def execBurstTimeout (b : Basin) (s : State) : Host.Outcome State Fault Refusal :=
  s.act fun m => m.burstTimeout b

end Sys2Proof.Machine
end

