-- ==== Sys2Proof/Machine/Dispatch.lean ====
section
/-! DEFINITION. One arm for each command: a direct call of its meaning. -/

namespace Sys2Proof.Machine

/-- A command's effect on everything but the queue (spec/opcode_table.json). -/
def exec (i : Instr) (s : State) : Host.Outcome State Fault Refusal :=
  match i with
  | .tickBoundary tin => Sys2Proof.Machine.execTickBoundary tin s
  | .exchangePoint committed => Sys2Proof.Machine.execExchangePoint committed s
  | .powerOnReset => Sys2Proof.Machine.execPowerOnReset s
  | .warmReset => Sys2Proof.Machine.execWarmReset s
  | .warmResetCommand value => Sys2Proof.Machine.execWarmResetCommand value s
  | .startupReady boot => Sys2Proof.Machine.execStartupReady boot s
  | .clrNAssert lowNs => Sys2Proof.Machine.execClrNAssert lowNs s
  | .clrNRelease => Sys2Proof.Machine.execClrNRelease s
  | .catchLoad slot irq => Sys2Proof.Machine.execCatchLoad slot irq s
  | .catchLoadCommit => Sys2Proof.Machine.execCatchLoadCommit s
  | .catchCheck slot irq => Sys2Proof.Machine.execCatchCheck slot irq s
  | .catchWithdraw slot irq => Sys2Proof.Machine.execCatchWithdraw slot irq s
  | .withdrawComplete => Sys2Proof.Machine.execWithdrawComplete s
  | .basinRecourse slot irq => Sys2Proof.Machine.execBasinRecourse slot irq s
  | .recourseEnter b => Sys2Proof.Machine.execRecourseEnter b s
  | .recourseDrainEnd b => Sys2Proof.Machine.execRecourseDrainEnd b s
  | .recourseCommit b => Sys2Proof.Machine.execRecourseCommit b s
  | .basinEnable b shutAbort => Sys2Proof.Machine.execBasinEnable b shutAbort s
  | .basinDisable b shutAbort => Sys2Proof.Machine.execBasinDisable b shutAbort s
  | .basinShutdownDone b => Sys2Proof.Machine.execBasinShutdownDone b s
  | .wordRun b seen => Sys2Proof.Machine.execWordRun b seen s
  | .wordRepeat b seen => Sys2Proof.Machine.execWordRepeat b seen s
  | .wordWait b seen => Sys2Proof.Machine.execWordWait b seen s
  | .waitTimeout b => Sys2Proof.Machine.execWaitTimeout b s
  | .wordLoopBegin b seen => Sys2Proof.Machine.execWordLoopBegin b seen s
  | .wordLoopEnd b seen => Sys2Proof.Machine.execWordLoopEnd b seen s
  | .wordCall b seen => Sys2Proof.Machine.execWordCall b seen s
  | .wordReturn b seen => Sys2Proof.Machine.execWordReturn b seen s
  | .wordHalt b => Sys2Proof.Machine.execWordHalt b s
  | .wordPaletteLoad b => Sys2Proof.Machine.execWordPaletteLoad b s
  | .wordLevelStage b => Sys2Proof.Machine.execWordLevelStage b s
  | .vectorResult b => Sys2Proof.Machine.execVectorResult b s
  | .flowLinkMiss b at_ => Sys2Proof.Machine.execFlowLinkMiss b at_ s
  | .syncptVerdict b othersAgree => Sys2Proof.Machine.execSyncptVerdict b othersAgree s
  | .eventRegister b line rise at_ => Sys2Proof.Machine.execEventRegister b line rise at_ s
  | .bsnEventSet b mask => Sys2Proof.Machine.execBsnEventSet b mask s
  | .bsnEventClear b mask => Sys2Proof.Machine.execBsnEventClear b mask s
  | .lsWrite p => Sys2Proof.Machine.execLsWrite p s
  | .lsRead p => Sys2Proof.Machine.execLsRead p s
  | .loopStoreAccessDone p => Sys2Proof.Machine.execLoopStoreAccessDone p s
  | .loopStoreScrub e => Sys2Proof.Machine.execLoopStoreScrub e s
  | .passBoundary b => Sys2Proof.Machine.execPassBoundary b s
  | .landingPeriodEnd b => Sys2Proof.Machine.execLandingPeriodEnd b s
  | .courseFetchDone b entry at_ ecc => Sys2Proof.Machine.execCourseFetchDone b entry at_ ecc s
  | .refillUnitLand p sample at_ ecc => Sys2Proof.Machine.execRefillUnitLand p sample at_ ecc s
  | .streamUnderrun b => Sys2Proof.Machine.execStreamUnderrun b s
  | .stallEnd b holds => Sys2Proof.Machine.execStallEnd b holds s
  | .residentBlockLoadDone b ecc => Sys2Proof.Machine.execResidentBlockLoadDone b ecc s
  | .sampleShortage t at_ => Sys2Proof.Machine.execSampleShortage t at_ s
  | .sampleResume t at_ => Sys2Proof.Machine.execSampleResume t at_ s
  | .dskUserWrite p cmp user => Sys2Proof.Machine.execDskUserWrite p cmp user s
  | .bsnLvlLoad b => Sys2Proof.Machine.execBsnLvlLoad b s
  | .loadStrobe b at_ => Sys2Proof.Machine.execLoadStrobe b at_ s
  | .levelApply b => Sys2Proof.Machine.execLevelApply b s
  | .clearCodeWrite p c code => Sys2Proof.Machine.execClearCodeWrite p c code s
  | .ppmuEnable p ctl => Sys2Proof.Machine.execPpmuEnable p ctl s
  | .ppmuDisable p ctl => Sys2Proof.Machine.execPpmuDisable p ctl s
  | .ppmuShutdownDone p => Sys2Proof.Machine.execPpmuShutdownDone p s
  | .ppmuRangeChange p ctl => Sys2Proof.Machine.execPpmuRangeChange p ctl s
  | .ppmuRangeChangeEnd p => Sys2Proof.Machine.execPpmuRangeChangeEnd p s
  | .trigInputEdge k rise at_ => Sys2Proof.Machine.execTrigInputEdge k rise at_ s
  | .ldacInputEdge k fall at_ => Sys2Proof.Machine.execLdacInputEdge k fall at_ s
  | .seqHit q => Sys2Proof.Machine.execSeqHit q s
  | .seqTimerExpire q => Sys2Proof.Machine.execSeqTimerExpire q s
  | .tsqEnable q => Sys2Proof.Machine.execTsqEnable q s
  | .tsqDisable q => Sys2Proof.Machine.execTsqDisable q s
  | .tsqShutdownDone q => Sys2Proof.Machine.execTsqShutdownDone q s
  | .gauTsqRestart g => Sys2Proof.Machine.execGauTsqRestart g s
  | .captureArm b ctl => Sys2Proof.Machine.execCaptureArm b ctl s
  | .captureDisarm b ctl => Sys2Proof.Machine.execCaptureDisarm b ctl s
  | .captureShutdownDone b => Sys2Proof.Machine.execCaptureShutdownDone b s
  | .forceTrig b => Sys2Proof.Machine.execForceTrig b s
  | .captureTrigger b => Sys2Proof.Machine.execCaptureTrigger b s
  | .recordClose b => Sys2Proof.Machine.execRecordClose b s
  | .rearmComplete b at_ => Sys2Proof.Machine.execRearmComplete b at_ s
  | .recordComplete b => Sys2Proof.Machine.execRecordComplete b s
  | .capRdWrite b value => Sys2Proof.Machine.execCapRdWrite b value s
  | .toneEnable b c ctl => Sys2Proof.Machine.execToneEnable b c ctl s
  | .toneDisable b c ctl => Sys2Proof.Machine.execToneDisable b c ctl s
  | .toneShutdownDone b c => Sys2Proof.Machine.execToneShutdownDone b c s
  | .toneFtwCommit b c value => Sys2Proof.Machine.execToneFtwCommit b c value s
  | .tonePoffCommit b c value => Sys2Proof.Machine.execTonePoffCommit b c value s
  | .toneApply b c at_ => Sys2Proof.Machine.execToneApply b c at_ s
  | .toneZeroCrossing b c at_ => Sys2Proof.Machine.execToneZeroCrossing b c at_ s
  | .deltaEnable t ctl => Sys2Proof.Machine.execDeltaEnable t ctl s
  | .deltaDisable t ctl => Sys2Proof.Machine.execDeltaDisable t ctl s
  | .deltaShutdownDone t => Sys2Proof.Machine.execDeltaShutdownDone t s
  | .deltaRateWrite t value => Sys2Proof.Machine.execDeltaRateWrite t value s
  | .adcEnable k ctl => Sys2Proof.Machine.execAdcEnable k ctl s
  | .adcReady k r33 r35 => Sys2Proof.Machine.execAdcReady k r33 r35 s
  | .adcDisable k ctl => Sys2Proof.Machine.execAdcDisable k ctl s
  | .adcPowerDown k => Sys2Proof.Machine.execAdcPowerDown k s
  | .scanRun k ctl => Sys2Proof.Machine.execScanRun k ctl s
  | .scanStop k ctl => Sys2Proof.Machine.execScanStop k ctl s
  | .scanStartHost k => Sys2Proof.Machine.execScanStartHost k s
  | .scanStartPeriodic k => Sys2Proof.Machine.execScanStartPeriodic k s
  | .scanStartLoad k strobe => Sys2Proof.Machine.execScanStartLoad k strobe s
  | .adcResult k q err limit => Sys2Proof.Machine.execAdcResult k q err limit s
  | .adcFifoRead k => Sys2Proof.Machine.execAdcFifoRead k s
  | .adcStageTakeover k good => Sys2Proof.Machine.execAdcStageTakeover k good s
  | .adcGainRoutine k r33 r35 => Sys2Proof.Machine.execAdcGainRoutine k r33 r35 s
  | .pAdcEnable p ctl => Sys2Proof.Machine.execPAdcEnable p ctl s
  | .pAdcDisable p ctl => Sys2Proof.Machine.execPAdcDisable p ctl s
  | .pAdcShutdownDone p => Sys2Proof.Machine.execPAdcShutdownDone p s
  | .pAdcResult p q err at_ => Sys2Proof.Machine.execPAdcResult p q err at_ s
  | .padcSyscalZero slot irq results => Sys2Proof.Machine.execPadcSyscalZero slot irq results s
  | .padcSyscalFull slot irq results => Sys2Proof.Machine.execPadcSyscalFull slot irq results s
  | .padcSyscalCommit slot irq stored => Sys2Proof.Machine.execPadcSyscalCommit slot irq stored s
  | .padcSyscalDiscard slot irq => Sys2Proof.Machine.execPadcSyscalDiscard slot irq s
  | .padcSessionExpire p => Sys2Proof.Machine.execPadcSessionExpire p s
  | .sqDoorbell q tail => Sys2Proof.Machine.execSqDoorbell q tail s
  | .sqEntryLand q data => Sys2Proof.Machine.execSqEntryLand q data s
  | .unspillLand b l => Sys2Proof.Machine.execUnspillLand b l s
  | .burstDelivery b ecc => Sys2Proof.Machine.execBurstDelivery b ecc s
  | .burstOnDeck b => Sys2Proof.Machine.execBurstOnDeck b s
  | .burstPrimed b at_ => Sys2Proof.Machine.execBurstPrimed b at_ s
  | .burstStartFromHold b => Sys2Proof.Machine.execBurstStartFromHold b s
  | .prespinRampStep b => Sys2Proof.Machine.execPrespinRampStep b s
  | .minBurstExpire b => Sys2Proof.Machine.execMinBurstExpire b s
  | .burstCompletion b => Sys2Proof.Machine.execBurstCompletion b s
  | .completionPost q => Sys2Proof.Machine.execCompletionPost q s
  | .weiCancel ctx abort => Sys2Proof.Machine.execWeiCancel ctx abort s
  | .weiCancelBasin b abort => Sys2Proof.Machine.execWeiCancelBasin b abort s
  | .cancelRunningEnd b vectors seen => Sys2Proof.Machine.execCancelRunningEnd b vectors seen s
  | .burstTimeout b => Sys2Proof.Machine.execBurstTimeout b s
  | .bar2Read addr len ecc => Sys2Proof.Machine.execBar2Read addr len ecc s
  | .bar2Write addr data ecc => Sys2Proof.Machine.execBar2Write addr data ecc s
  | .winBaseWrite value size => Sys2Proof.Machine.execWinBaseWrite value size s
  | .hbmRefresh st => Sys2Proof.Machine.execHbmRefresh st s
  | .rowRepair row => Sys2Proof.Machine.execRowRepair row s
  | .readTimingTrack st within => Sys2Proof.Machine.execReadTimingTrack st within s
  | .slcTrain slot irq => Sys2Proof.Machine.execSlcTrain slot irq s
  | .slcOpchange slot irq => Sys2Proof.Machine.execSlcOpchange slot irq s
  | .opchangeLeadTimeout => Sys2Proof.Machine.execOpchangeLeadTimeout s
  | .opchangeCommit => Sys2Proof.Machine.execOpchangeCommit s
  | .opchangeGapEnd => Sys2Proof.Machine.execOpchangeGapEnd s
  | .opchangeComplete => Sys2Proof.Machine.execOpchangeComplete s
  | .idleSelfRefreshEntry st => Sys2Proof.Machine.execIdleSelfRefreshEntry st s
  | .idleSelfRefreshExit st => Sys2Proof.Machine.execIdleSelfRefreshExit st s
  | .headwaterLock ref10 => Sys2Proof.Machine.execHeadwaterLock ref10 s
  | .refclkLoss => Sys2Proof.Machine.execRefclkLoss s
  | .refclkRestore => Sys2Proof.Machine.execRefclkRestore s
  | .headwaterUnlock => Sys2Proof.Machine.execHeadwaterUnlock s
  | .clkoutEnable n ctl => Sys2Proof.Machine.execClkoutEnable n ctl s
  | .clkoutDisable n ctl => Sys2Proof.Machine.execClkoutDisable n ctl s
  | .clkoutShutdownDone n => Sys2Proof.Machine.execClkoutShutdownDone n s
  | .syncArm ctl => Sys2Proof.Machine.execSyncArm ctl s
  | .syncPulse at_ => Sys2Proof.Machine.execSyncPulse at_ s
  | .syncTtZero => Sys2Proof.Machine.execSyncTtZero s
  | .syncRealign => Sys2Proof.Machine.execSyncRealign s
  | .tmbApplyArm => Sys2Proof.Machine.execTmbApplyArm s
  | .tmbApply => Sys2Proof.Machine.execTmbApply s
  | .ethEnable e ctl => Sys2Proof.Machine.execEthEnable e ctl s
  | .ethDisable e ctl => Sys2Proof.Machine.execEthDisable e ctl s
  | .ethTsqRead e => Sys2Proof.Machine.execEthTsqRead e s
  | .ethRxFrame e frame descs at_ servo => Sys2Proof.Machine.execEthRxFrame e frame descs at_ servo s
  | .vutilEnable l ctl => Sys2Proof.Machine.execVutilEnable l ctl s
  | .vutilDisable l ctl => Sys2Proof.Machine.execVutilDisable l ctl s
  | .vutilLock l => Sys2Proof.Machine.execVutilLock l s
  | .vutilCyclesStart l => Sys2Proof.Machine.execVutilCyclesStart l s
  | .vutilUp l delay => Sys2Proof.Machine.execVutilUp l delay s
  | .vutilLinkDown l cause => Sys2Proof.Machine.execVutilLinkDown l cause s
  | .vutilCycleReceive l cycle => Sys2Proof.Machine.execVutilCycleReceive l cycle s
  | .vutilSyncMessage l origin corr at_ => Sys2Proof.Machine.execVutilSyncMessage l origin corr at_ s
  | .vutilDreq l at_ => Sys2Proof.Machine.execVutilDreq l at_ s
  | .vutilDresp l receipt => Sys2Proof.Machine.execVutilDresp l receipt s
  | .vutilCtrl l msg => Sys2Proof.Machine.execVutilCtrl l msg s
  | .vutilTimeExchange l at_ => Sys2Proof.Machine.execVutilTimeExchange l at_ s
  | .calTempInterval => Sys2Proof.Machine.execCalTempInterval s
  | .calGatherBegin t => Sys2Proof.Machine.execCalGatherBegin t s
  | .calGatherTimeout t => Sys2Proof.Machine.execCalGatherTimeout t s
  | .calOutageBegin t => Sys2Proof.Machine.execCalOutageBegin t s
  | .calKindsDone t run stored => Sys2Proof.Machine.execCalKindsDone t run stored s
  | .calOutageEnd t => Sys2Proof.Machine.execCalOutageEnd t s
  | .calRun slot irq => Sys2Proof.Machine.execCalRun slot irq s
  | .calRef slot irq results stored => Sys2Proof.Machine.execCalRef slot irq results stored s
  | .faultReport source inst detail at_ => Sys2Proof.Machine.execFaultReport source inst detail at_ s
  | .levForce value => Sys2Proof.Machine.execLevForce value s
  | .levArm value => Sys2Proof.Machine.execLevArm value s
  | .levArmLapse => Sys2Proof.Machine.execLevArmLapse s
  | .levLogRead => Sys2Proof.Machine.execLevLogRead s
  | .levSevWrite source value => Sys2Proof.Machine.execLevSevWrite source value s
  | .levDeviceClear => Sys2Proof.Machine.execLevDeviceClear s
  | .levDumpAck => Sys2Proof.Machine.execLevDumpAck s
  | .dump slot irq => Sys2Proof.Machine.execDump slot irq s
  | .dumpComplete => Sys2Proof.Machine.execDumpComplete s
  | .pcntRecordWrite stored => Sys2Proof.Machine.execPcntRecordWrite stored s
  | .spareCopyDone t => Sys2Proof.Machine.execSpareCopyDone t s
  | .millraceLaneOutvoted lane majority => Sys2Proof.Machine.execMillraceLaneOutvoted lane majority s
  | .managementWatchdog => Sys2Proof.Machine.execManagementWatchdog s
  | .droopTrip sensor => Sys2Proof.Machine.execDroopTrip sensor s
  | .cclkReturn => Sys2Proof.Machine.execCclkReturn s
  | .supplyMonitorTrip mon at_ => Sys2Proof.Machine.execSupplyMonitorTrip mon at_ s
  | .stepLimitWrite value => Sys2Proof.Machine.execStepLimitWrite value s
  | .slackEnter slot irq => Sys2Proof.Machine.execSlackEnter slot irq s
  | .slackCommit => Sys2Proof.Machine.execSlackCommit s
  | .wakeEvent k => Sys2Proof.Machine.execWakeEvent k s
  | .hostWake => Sys2Proof.Machine.execHostWake s
  | .wakeComplete tick edges temps stored => Sys2Proof.Machine.execWakeComplete tick edges temps stored s
  | .servo slot irq => Sys2Proof.Machine.execServo slot irq s
  | .servoNoMaster => Sys2Proof.Machine.execServoNoMaster s
  | .fwStage slot irq verdict => Sys2Proof.Machine.execFwStage slot irq verdict s
  | .fwSelect slot irq good => Sys2Proof.Machine.execFwSelect slot irq good s
  | .unknownOp slot op irq => Sys2Proof.Machine.execUnknownOp slot op irq s
  | .mailboxAbort slot => Sys2Proof.Machine.execMailboxAbort slot s
  | .qpEnable q => Sys2Proof.Machine.execQpEnable q s
  | .qpDisable q => Sys2Proof.Machine.execQpDisable q s
  | .qpShutdownDone q => Sys2Proof.Machine.execQpShutdownDone q s
  | .cqHeadDoorbell q head => Sys2Proof.Machine.execCqHeadDoorbell q head s
  | .dmaRun e r => Sys2Proof.Machine.execDmaRun e r s
  | .dmaStop e r => Sys2Proof.Machine.execDmaStop e r s
  | .dmaTailDoorbell e r tail => Sys2Proof.Machine.execDmaTailDoorbell e r tail s
  | .dmaDescriptorDone e desc data ok ecc at_ => Sys2Proof.Machine.execDmaDescriptorDone e desc data ok ecc at_ s
  | .multiWordLowRead off => Sys2Proof.Machine.execMultiWordLowRead off s
  | .multiWordHighRead off => Sys2Proof.Machine.execMultiWordHighRead off s
  | .readClear off len => Sys2Proof.Machine.execReadClear off len s
  | .registerWrite off value len full => Sys2Proof.Machine.execRegisterWrite off value len full s
  | .pcieTlpError kind => Sys2Proof.Machine.execPcieTlpError kind s
  | .deviceRequestTimeout => Sys2Proof.Machine.execDeviceRequestTimeout s
  | .smbSetAddr value => Sys2Proof.Machine.execSmbSetAddr value s
  | .smbReadReg => Sys2Proof.Machine.execSmbReadReg s
  | .smbWriteMailbox value => Sys2Proof.Machine.execSmbWriteMailbox value s
  | .smbReadTemp => Sys2Proof.Machine.execSmbReadTemp s
  | .smbReadStatus => Sys2Proof.Machine.execSmbReadStatus s
  | .smbUnknownCommand => Sys2Proof.Machine.execSmbUnknownCommand s
  | .jtagIdcode => Sys2Proof.Machine.execJtagIdcode s
  | .jtagSamplePreload cells => Sys2Proof.Machine.execJtagSamplePreload cells s
  | .jtagExtest => Sys2Proof.Machine.execJtagExtest s
  | .jtagExtestPulse => Sys2Proof.Machine.execJtagExtestPulse s
  | .jtagExtestTrain => Sys2Proof.Machine.execJtagExtestTrain s
  | .jtagClamp => Sys2Proof.Machine.execJtagClamp s
  | .jtagHighz => Sys2Proof.Machine.execJtagHighz s
  | .jtagBypass code => Sys2Proof.Machine.execJtagBypass code s
  | .jtagTestLogicReset => Sys2Proof.Machine.execJtagTestLogicReset s
  | .powerGoodLoss core => Sys2Proof.Machine.execPowerGoodLoss core s
  | .powerGoodReturn core => Sys2Proof.Machine.execPowerGoodReturn core s
  | .ethLinkUp e => Sys2Proof.Machine.execEthLinkUp e s
  | .ethLinkDown e => Sys2Proof.Machine.execEthLinkDown e s
  | .pcieLinkUp speed width => Sys2Proof.Machine.execPcieLinkUp speed width s
  | .timeBaseHalf zero => Sys2Proof.Machine.execTimeBaseHalf zero s
  | .slcTrainDone good stored => Sys2Proof.Machine.execSlcTrainDone good stored s
  | .fwStageDone good => Sys2Proof.Machine.execFwStageDone good s

end Sys2Proof.Machine
end

