-- ==== Sys2Proof/WellFormed.lean ====
section
/-! DEFINITION. Which commands the outside world can send: the checks on operands that their types do not make. -/

namespace Sys2Proof

open Sys2Proof.Machine

/-- True where the ball voltages of a word name pins (R14), and those of a pin stand in order of time. -/
def Seen.wf (x : Seen) : Bool :=
  (x.wave.all fun e => decide (e.1 < 1024)) && decide (x.wave.Pairwise fun a b => a.1 = b.1 → a.2.1 ≤ b.2.1)

/-- True where a routine's CMT word is one of its words, with at most 64 after it (R439, R440); one that a call-stack fault ends may not have come to it. -/
def Routine.wf (r : Routine) : Bool := decide (1 ≤ r.commit) && decide (r.words ≤ r.commit + 64) && (r.fault || decide (r.commit ≤ r.words))

/-- True where what a tick brings fits its registers: basins, 64 tributaries with 12-bit readings, six monitors (R209, R336, R382). -/
def TickIn.wf (x : TickIn) : Bool :=
  (x.late.all fun e => decide (e.1 < 256)) && (x.temps.length == 0 || x.temps.length == 64) && (x.temps.all fun t => decide (t < 4096)) && decide (x.mon < 64) &&
  (x.lanes.all fun g => decide (g < 128)) && (x.requests.all fun r => r.2.wf) &&
  (x.ctrlUpsets.all fun u => decide (u.1 < 3) && decide (u.2.1 < 8192) && decide (u.2.2 < 3)) &&
  (x.ctrlReads.all fun u => decide (u.1 < 3) && decide (u.2 < 8192)) &&
  (x.upsets.all fun u => decide (u.1 < 1088) && decide (u.2.1 < 2048) && decide (u.2.2 < 3)) &&
  decide (x.stackTemps.1 < 4096) && decide (x.stackTemps.2 < 4096)

/-- True for a command that the outside world can send. -/
def WellFormed : Instr → Bool
  | .tickBoundary x => x.wf
  | .wordRun _ x | .wordRepeat _ x | .wordWait _ x | .wordLoopBegin _ x | .wordLoopEnd _ x | .wordCall _ x | .wordReturn _ x => x.wf
  | .cancelRunningEnd _ _ x => x.wf
  | .dmaRun e r | .dmaStop e r => ringExists e r
  | .dmaTailDoorbell e r _ => ringExists e r
  | .multiWordLowRead off => groupSize off.toNat != 0
  | .multiWordHighRead off => (groupLow off.toNat).isSome
  | .faultReport s _ _ _ => sourceListed s
  | .unknownOp _ op _ => !knownOps.contains op.toNat
  | .pcieLinkUp speed width => decide (1 ≤ speed.val) && decide (speed.val ≤ 5) && [1, 2, 4, 8, 16].contains width.val
  | .jtagBypass code => decide (code.toNat = 0 ∨ 8 ≤ code.toNat)
  | .padcSyscalZero _ _ l | .padcSyscalFull _ _ l => l.length == 64
  | _ => true

end Sys2Proof
end

