-- ==== Sys2Proof/Safety.lean ====
section
/-! DEFINITION. What counts as a safe run: the canonical form of the memories, and the invariant that claims are stated with. -/

namespace Sys2Proof.Machine

/-- The canonical form of HBM: addresses strictly rising, and no listed byte equal to what an unlisted one reads as. -/
def Memory.wf (l : List Host.Cell) : Bool := Tbl.wf (fun _ => (0 : Byte)) l

/-- The canonical form of the registers: offsets strictly rising, and no listed one at its reset value. -/
def regsWf (l : List (Nat × Word)) : Bool := Tbl.wf (fun off => BitVec.ofNat 32 (resetOf off)) l

/-- The canonical form of the loop stores. -/
def storeWf (l : List (Nat × VecWord)) : Bool := Tbl.wf (fun _ => (0 : VecWord)) l

/-- The invariant of the memories: HBM, registers and loop stores are in canonical form. -/
def Dev.canonical (m : Dev) : Prop := Memory.wf m.hbm = true ∧ regsWf m.regs = true ∧ storeWf m.store = true

/-- The block as a command finds it: what the previous command put out has gone. -/
def State.start (s : State) : Dev := { s.dev with out := [] }

/-- The answer of a command that takes the block to m; the queue stays as it was. -/
def State.becomes (s : State) (m : Dev) : Host.Outcome State Fault Refusal := .next { s with dev := m }

/-- Commands act: power is good and the device was reset since it last lost it (R488, R499), and no report of an earlier command is owed. -/
abbrev State.acts (s : State) : Prop := s.dev.power.usable = true ∧ s.dev.lev.owed = []

/-- A host write to a BAR0 offset acts (R398, R427, R446, R479). -/
abbrev State.takes (s : State) (off : Nat) : Prop := s.acts ∧ s.dev.writable off = true ∧ s.dev.inTest = false

/-- A host write to a register of basin b acts: the admitted image defines the basin (R77). -/
abbrev State.takesIn (s : State) (b off : Nat) : Prop := s.takes off ∧ s.dev.defined b = true

end Sys2Proof.Machine
end

