-- ==== Sys2Proof/Certificates/Slice0/Obligations.lean ====
section
/-! DEFINITION. The statements for the provers, stated from the rules of the spec. -/

open Sys2Proof Sys2Proof.Machine

/-- (95_what_each_step_holds.md, log 2) For every command c and state s, step of s with c at the front of its queue is exec of c on s with
the queue's rest; on an empty queue step answers next with the same state (the model's choice, log 2). Where the spec leaves a point open
this is the model's choice: log 2. -/
def Obligations.StepRunsTheFrontCommandOrIdles : Prop :=
  (∀ (c : Instr) (rest : List Instr) (s : State), step { s with pending := c :: rest } = exec c { s with pending := rest }) ∧
  (∀ s : State, s.pending = [] → step s = .next s)

/-- (R9, R80, R447) In State.reset the list of registers, that of HBM bytes and that of loop-store words each hold strictly rising keys and
no entry equal to what an unlisted key reads as; no command waits. Where the spec leaves a point open this is the model's choice: logs 1, 4.
-/
def Obligations.ResetMemoriesAreCanonical : Prop :=
  State.reset.dev.canonical ∧ State.reset.pending = []

/-- (R7, R9, R80, R447) From every state, not only those a run reaches, step answers a next state: no command faults and none is refused.
Its queue is the old one without its front command. Where the lists of registers, HBM bytes and loop-store words are in canonical form
before the step, they are after it. -/
def Obligations.EveryStepKeepsMemoriesCanonical : Prop :=
  ∀ s : State, ∃ t : State, step s = .next t ∧ t.pending = s.pending.tail ∧ (s.dev.canonical → t.dev.canonical)

/-- (R399, R488, R499) While the device is unusable, every command but POWER_ON_RESET, POWER_GOOD_LOSS and POWER_GOOD_RETURN leaves it as it
was, with no output, and of these three the only one after which it is usable is a POWER_ON_RESET with power good on VDD_CORE and VDD_IO18.
A POWER_GOOD_LOSS leaves it unusable. Where the spec leaves a point open this is the model's choice: log 10. -/
def Obligations.WithoutPowerOnlyPowerCommandsAct : Prop :=
  (∀ (c : Instr) (s : State), s.dev.power.usable = false → c ≠ .powerOnReset → (∀ core, c ≠ .powerGoodLoss core) → (∀ core, c ≠ .powerGoodReturn core) →
    exec c s = s.becomes s.start) ∧
  (∀ (c : Instr) (s t : State), s.dev.power.usable = false → exec c s = .next t → t.dev.power.usable = true →
    c = .powerOnReset ∧ s.dev.power.core = true ∧ s.dev.power.io = true) ∧
  (∀ (core : Bool) (s : State), ∃ m : Dev, exec (.powerGoodLoss core) s = s.becomes m ∧ m.power.usable = false)

/-- (R77) Basin b's block lies at 0x0500000 + b × 0x1000 and holds BSN_CTL, BSN_STATE, BSN_SHARES and BSN_HOUSE with the bits, access codes
and reset values of Table 2.15. Where the admitted image does not define b, a host read of a word of the block that is served now puts out
0; a host write to it changes nothing, at once or when it is delivered, but waits at most for its delivery; and every command that is a
write to a register of the block leaves the device as it was. -/
def Obligations.UndefinedBasinsReadZeroAndIgnoreWrites : Prop :=
  (∀ b : Basin,
    (Reg.BSN_CTL b = 0x0500000 + b * 0x1000 ∧ Reg.BSN_STATE b = 0x0500004 + b * 0x1000 ∧ Reg.BSN_SHARES b = 0x0500008 + b * 0x1000 ∧
      Reg.BSN_HOUSE b = 0x050000C + b * 0x1000) ∧
    (rowOf (Reg.BSN_CTL b)).map RegRow.fields = some [⟨0, 0, .rw, 0⟩, ⟨1, 1, .rw, 0⟩] ∧
    (rowOf (Reg.BSN_STATE b)).map RegRow.fields = some [⟨2, 0, .ro, 0⟩, ⟨3, 3, .ro, 0⟩, ⟨4, 4, .ro, 0⟩, ⟨26, 16, .ro, 0⟩] ∧
    (rowOf (Reg.BSN_SHARES b)).map RegRow.fields = some [⟨15, 0, .ro, 0⟩, ⟨31, 16, .ro, 0⟩] ∧
    (rowOf (Reg.BSN_HOUSE b)).map RegRow.fields = some [⟨15, 0, .ro, 0⟩, ⟨31, 16, .ro, 0⟩]) ∧
  (∀ (s : State) (b : Basin) (off : Bar0), s.acts → s.dev.inTest = false → s.dev.defined b = false →
    0x0500000 + b * 0x1000 ≤ off.toNat → off.toNat < 0x0501000 + b * 0x1000 → off.toNat % 4 = 0 → s.dev.readable off.toNat = true →
    (∀ low, groupLow off.toNat = some low → (s.dev.snapshot Req.host low).lookup off.toNat = none) →
    ∃ m : Dev, exec (.readClear off 4) s = s.becomes m ∧ m.out = [.data 0] ∧
      (∀ r, r ≠ Reg.GLB_ACC_STAT → r ≠ Reg.GLB_ACC_ADDR → m.reg r = s.dev.reg r)) ∧
  (∀ (m : Dev) (b : Basin) (req off v : Nat), m.defined b = false → 0x0500000 + b * 0x1000 ≤ off → off < 0x0501000 + b * 0x1000 →
    m.carryOut req off v = m) ∧
  (∀ (s : State) (b : Basin) (off : Bar0) (v : Long), s.acts → s.dev.defined b = false →
    0x0500000 + b * 0x1000 ≤ off.toNat → off.toNat < 0x0501000 + b * 0x1000 → off.toNat % 4 = 0 →
    ∃ m : Dev, exec (.registerWrite off v 4 true) s = s.becomes m ∧
      { m with posted := s.dev.posted, delivered := s.dev.delivered } = s.start) ∧
  (∀ (s : State) (b : Basin) (on : Bool) (w : Word) (mask : Byte) (t : Tone), s.acts → s.dev.defined b = false →
    ∀ c ∈ [Instr.basinEnable b on, .basinDisable b on, .captureArm b w, .captureDisarm b w, .forceTrig b, .capRdWrite b w, .bsnLvlLoad b,
        .bsnEventSet b mask, .bsnEventClear b mask, .toneEnable b t w, .toneDisable b t w, .toneFtwCommit b t w, .tonePoffCommit b t w,
        .tsqEnable ⟨b, by omega⟩, .tsqDisable ⟨b, by omega⟩],
      exec c s = s.becomes s.start)

/-- (R123, R315, R457, R467) A BAR2_WRITE whose partial words read clean writes those bytes from its address on that the host may write
while HBM is open, and leaves every other byte, every register but GLB_WIN_STAT and the loop stores as they were. SQ_ENTRY_LAND writes the
oldest entry on its way from the queue: it changes no byte outside the 64 of the context of that entry's slot, no register and no loop
store; with no entry on its way it changes nothing. A loop-store access that completes, and does not read a word whose single-bit error it
has to report (R81), changes no byte of HBM and no word but the one that a pending write names, in the store of the pin's engine, which then
holds the written word. Where the spec leaves a point open this is the model's choice: log 72. -/
def Obligations.MemoryChangesOnlyWhereItIsWritten : Prop :=
  (∀ (s : State) (o : Nat) (data : List Byte), s.acts → s.dev.inTest = false → s.dev.canonical →
    ∃ m : Dev, exec (.bar2Write o data .good) s = s.becomes m ∧
      (∀ a, a < s.dev.windowAddr o ∨ s.dev.windowAddr o + data.length ≤ a → m.byte a = s.dev.byte a) ∧
      (∀ i (h : i < data.length), m.byte (s.dev.windowAddr o + i) =
        if s.dev.on F.SLC_STAT_AVAIL = true ∧ s.dev.on F.LEV_STAT_SEALED = false ∧ s.dev.hostMay (s.dev.windowAddr o + i) = true then data[i]
          else s.dev.byte (s.dev.windowAddr o + i)) ∧
      (∀ r, r ≠ Reg.GLB_WIN_STAT → m.reg r = s.dev.reg r) ∧ m.store = s.dev.store ∧ m.out = []) ∧
  (∀ (s : State) (q : Queue) (data : Block64), s.acts →
    ∃ m : Dev, exec (.sqEntryLand q data) s = s.becomes m ∧
      (∀ e a, s.dev.weir.fetching.find? (fun e => e.1 == q.val) = some e →
        a < ctxAddr (q * 1024 + e.2) ∨ ctxAddr (q * 1024 + e.2) + 64 ≤ a → m.byte a = s.dev.byte a) ∧
      (s.dev.weir.fetching.find? (fun e => e.1 == q.val) = none → m = s.start) ∧
      (∀ r, m.reg r = s.dev.reg r) ∧ m.store = s.dev.store ∧ m.out = []) ∧
  (∀ (s : State) (p : Pin), s.acts → (∀ n w, (s.dev.pin p).window = some (false, n, w) → s.dev.flip (s.start.engineOf p) n ≠ 1) →
    ∃ m : Dev, exec (.loopStoreAccessDone p) s = s.becomes m ∧ (∀ a, m.byte a = s.dev.byte a) ∧
      (∀ e a, (∀ n w, (s.dev.pin p).window = some (true, n, w) → 2048 * e + a ≠ 2048 * s.start.engineOf p + n) → m.word e a = s.dev.word e a) ∧
      (∀ n w, s.dev.canonical → (s.dev.pin p).window = some (true, n, w) → m.word (s.start.engineOf p) n = w))

/-- (R63) While slot k runs or aborts an operation of the catchment group, each of CATCH_LOAD, CATCH_CHECK, CATCH_WITHDRAW and
BASIN_RECOURSE that starts in another slot j (issued there, or waiting QUEUED) is FAILED with error 0x70 (BUSY) after that one command; slot
k's status word, parameters and MBX_SUM bits, the admitted and the staged image, the basins and pins, every register below 0x0900000 but
MBX_SUM and j's status word, and every byte of HBM but j's first result entry are as they were. -/
def Obligations.SecondCatchmentOperationIsRefusedBusy : Prop :=
  ∀ (s : State) (j k : Slot) (irq : Bool), s.takes (Reg.MBX_CMD j) → s.dev.canonical → s.dev.isReady = true → k ≠ j →
    (s.dev.slotState k = Slot.running ∨ s.dev.slotState k = Slot.aborting) → (s.dev.slot k).op / 256 = 1 →
    ∀ c ∈ [(Instr.catchLoad j irq, Op.catchLoad), (.catchCheck j irq, Op.catchCheck), (.catchWithdraw j irq, Op.catchWithdraw),
      (.basinRecourse j irq, Op.recourse)],
    s.dev.slotActive j = false ∨ (s.dev.slotState j = Slot.queued ∧ (s.dev.slot j).op = c.2) →
    ∃ m : Dev, exec c.1 s = s.becomes m ∧ m.slotState j = Slot.failed ∧ bitsOf (m.status j) 31 16 = 0x70 ∧
      m.status k = s.dev.status k ∧ m.slot k = s.dev.slot k ∧ m.image = s.dev.image ∧ m.staged = s.dev.staged ∧ m.basins = s.dev.basins ∧
      m.pins = s.dev.pins ∧
      (∀ r, r ≠ Reg.MBX_STAT_LO j → r ≠ Reg.MBX_STAT_HI j → r ≠ Reg.MBX_SUM → r < 0x0900000 → m.reg r = s.dev.reg r) ∧
      (∀ d ∈ [0, 8, 16], bitsOf (m.reg Reg.MBX_SUM) (k + d) (k + d) = bitsOf (s.dev.reg Reg.MBX_SUM) (k + d) (k + d)) ∧
      (∀ a, a < resultBase j ∨ resultBase j + 8 ≤ a → m.byte a = s.dev.byte a)

/-- (R9, R399, R447, R499) From any state that is not sealed and whose memories are canonical, POWER_ON_RESET answers a next state in which
every register reads its reset value with only the kept bits carried over, every byte of HBM and every loop-store word is 0, no image is
admitted or staged, no basin, pin, burst or operation holds anything, Reservoir is as before, and the device may be used exactly where power
is good on VDD_CORE and VDD_IO18. The queue is unchanged. Where the spec leaves a point open this is the model's choice: logs 1, 11, 12. -/
def Obligations.PowerOnResetLeavesResetValues : Prop :=
  ∀ s : State, s.dev.canonical → s.dev.on F.LEV_STAT_SEALED = false →
    ∃ m : Dev, exec .powerOnReset s = s.becomes m ∧
      (∀ off, m.reg off =
        ((powerOnKeeps off).foldl (fun n b => setBits n b.1 b.2 (bitsOf (s.dev.reg off) b.1 b.2)) (resetOf off)) % 2 ^ 32) ∧
      (∀ a, m.byte a = 0) ∧ (∀ e a, m.word e a = 0) ∧ m.image = none ∧ m.staged = none ∧ m.basins = [] ∧ m.pins = [] ∧ m.mbx = [] ∧
      m.posted = [] ∧ m.committing = [] ∧ m.committed = [] ∧ m.delivered = [] ∧ m.weir = {} ∧ m.tick = 0 ∧ m.timeBase = 0 ∧ m.rsv = s.dev.rsv ∧
      m.power = { s.dev.power with usable := s.dev.power.core && s.dev.power.io }

/-- (R9, R447, R481, Table 16.6) WARM_RESET on a device that acts, and a write of the key 0x57A1 to GLB_RESET that is served, answer a next
state: a device m that then reports the pins whose programmed clear codes lie outside their limits. m holds no image, no basin, pin or
mailbox operation, no write under way and nothing in Weir; its loop stores are empty; HBM, the tick, the time base, the JTAG registers,
Reservoir and the power are as before; and where the memories were canonical and the device is not sealed, every register below the
tributaries' blocks (offsets under 0x0100000) reads its reset value with only the bits carried over that warmKeeps lists (RWS fields,
Headwater's lock and alignment, the time base, the persistent accumulators, CLR_N's level and count). A served write of any other value to
GLB_RESET changes nothing. Where the spec leaves a point open this is the model's choice: log 12. -/
def Obligations.WarmResetKeepsWhatTableSays : Prop :=
  (∀ s : State, s.acts → ∃ m : Dev, exec .warmReset s = s.becomes m.payOwed ∧ m.image = none ∧ m.staged = none ∧ m.basins = [] ∧ m.pins = [] ∧
    m.mbx = [] ∧ m.weir = {} ∧ m.posted = [] ∧ m.committing = [] ∧ m.committed = [] ∧ m.delivered = [] ∧ m.store = [] ∧
    m.hbm = s.dev.hbm ∧ m.tick = s.dev.tick ∧ m.timeBase = s.dev.timeBase ∧ m.jtag = s.dev.jtag ∧ m.rsv = s.dev.rsv ∧ m.power = s.dev.power ∧
    (s.dev.canonical → s.dev.on F.LEV_STAT_SEALED = false → ∀ off, off < 0x0100000 → m.reg off =
      ((warmKeeps off).foldl (fun n b => setBits n b.1 b.2 (bitsOf (s.dev.reg off) b.1 b.2)) (resetOf off)) % 2 ^ 32)) ∧
  (∀ (s : State) (v : Word), s.takes Reg.GLB_RESET → bitsOf v.toNat 15 0 = 0x57A1 → exec (.warmResetCommand v) s = exec .warmReset s) ∧
  (∀ (s : State) (v : Word), s.takes Reg.GLB_RESET → bitsOf v.toNat 15 0 ≠ 0x57A1 → exec (.warmResetCommand v) s = s.becomes s.start)

/-- (R200, R399, R488, R499) A loss on VDD_CORE puts every pin in the safe state, clears the sealed latch and makes the device unusable; a
loss on VDD_IO18 does so but for the latch; a return marks the supply good and leaves the device unusable until its power-on reset. CLR_N
low for 50 ns or more, while it was not low, sets LEVEL and HIT, counts up to 0xFFFF, and clears and holds the pins; a pulse shorter than 20
ns, or any while CLR_N is low already, takes no effect; of one between, a free value says whether it is taken. Its release clears LEVEL
alone. Where the spec leaves a point open this is the model's choice: logs 3, 10, 48. -/
def Obligations.PowerAndClearPinsAct : Prop :=
  (∀ (s : State) (m : Dev) (core : Bool), s.start = m →
    exec (.powerGoodLoss core) s = s.becomes
      (let a := m.each (List.range 1024) fun m p => m.put (F.PIN_FE_STAT_SAFE p) 1
       let b := if core then a.put F.LEV_STAT_SEALED 0 else a
       { b with power := { core := b.power.core && !core, io := b.power.io && core, usable := false } })) ∧
  (∀ (s : State) (core : Bool), exec (.powerGoodReturn core) s = s.becomes
    { s.start with power := { s.dev.power with core := s.dev.power.core || core, io := s.dev.power.io || !core } }) ∧
  (∀ (s : State) (m : Dev) (ns : Nat), s.acts → s.start = m → 50 ≤ ns → m.on F.GLB_CLR_STAT_LEVEL = false →
    exec (.clrNAssert ns) s = s.becomes
      (let a := (m.put F.GLB_CLR_STAT_LEVEL 1).put F.GLB_CLR_STAT_HIT 1
       (a.put F.GLB_CLR_STAT_COUNT (min (a.get F.GLB_CLR_STAT_COUNT + 1) 0xFFFF)).clearHold.payOwed)) ∧
  (∀ (s : State) (ns : Nat), s.acts → ns < 20 ∨ (50 ≤ ns ∧ s.dev.on F.GLB_CLR_STAT_LEVEL = true) → exec (.clrNAssert ns) s = s.becomes s.start) ∧
  (∀ (s : State) (m : Dev) (ns : Nat), s.acts → s.start.draw = m → 20 ≤ ns → ns < 50 →
    exec (.clrNAssert ns) s = s.becomes (if s.start.free 1 = 1 ∧ m.on F.GLB_CLR_STAT_LEVEL = false then
      (((m.put F.GLB_CLR_STAT_LEVEL 1).put F.GLB_CLR_STAT_HIT 1).count F.GLB_CLR_STAT_COUNT 1).clearHold else m).payOwed) ∧
  (∀ s : State, s.acts → exec .clrNRelease s = s.becomes (s.start.put F.GLB_CLR_STAT_LEVEL 0))

/-- (R444, R445, R446, Table 16.5) In a start-up stage below READY: steps 1 to 3 halt with NO_FLASH where the flash does not answer, else,
where neither slot can be used, with MCODE if a slot's Mybimer image verifies and FW_SIGNATURE if none does. Otherwise the code is loaded; a
lock that fails halts with HEADWATER; without the lock start-up waits in step 4; with it, start-up loads what Reservoir holds, halts with
MEMORY where training fails, and else brings up memory and calibration and reaches READY. In service mode, halted or READY it changes
nothing. Where the spec leaves a point open this is the model's choice: logs 13, 14, 15, 120. -/
def Obligations.StartUpReachesReadyOrHalts : Prop :=
  (∀ (s : State) (m : Dev) (i : BootIn) (e : Nat), s.acts → s.start = m → m.get F.MRC_BOOT_STAGE < 7 →
    ((i.err = 1 ∧ e = 1) ∨ (i.err ≠ 1 ∧ m.slotGood i 0 = false ∧ m.slotGood i 1 = false ∧ e = if (i.slotA.firm || i.slotB.firm) = true then 3 else 2)) →
    exec (.startupReady i) s = s.becomes
      (((m.put F.MRC_BOOT_FALLBACK (flag (e != 1))).put F.MRC_BOOT_STAGE 0xF).put F.MRC_BOOT_ERR e)) ∧
  (∀ (s : State) (m c : Dev) (i : BootIn), s.acts → s.start = m → m.get F.MRC_BOOT_STAGE < 7 → i.err ≠ 1 →
    (m.slotGood i 0 = true ∨ m.slotGood i 1 = true) → m.bootCode i = c →
    exec (.startupReady i) s = s.becomes
      (if i.err = 4 then (c.put F.MRC_BOOT_STAGE 0xF).put F.MRC_BOOT_ERR 4
       else if c.on F.HDW_STAT_LOCKED = false then c.put F.MRC_BOOT_STAGE 4
       else if i.err = 5 then ((c.loadReservoir i).put F.MRC_BOOT_STAGE 0xF).put F.MRC_BOOT_ERR 5
       else (((c.loadReservoir i).bootMemory i).bootCalibrate i).bootReady).payOwed) ∧
  (∀ (s : State) (i : BootIn), s.acts → 7 ≤ s.start.get F.MRC_BOOT_STAGE → exec (.startupReady i) s = s.becomes s.start)

/-- (R24, R25, R406, Table 1.6) While TT runs outside slack: TICK_BOUNDARY accounts for the tick that ends, begins the next, moves time, the
buffers, walks, hold words, deliveries, sensors and audits on, and, where Millrace runs, ends in the tick program and Weir's fetches;
EXCHANGE_POINT of a program that has committed, and that no call-stack fault ended, delivers every committed write in order and empties the
buffer, and of any other reports tick-deadline and keeps it. Otherwise both leave the device as it was. Where the spec leaves a point open
this is the model's choice: logs 7, 77, 79, 107, 110, 116, 117. -/
def Obligations.TicksAndExchangesRun : Prop :=
  (∀ (s : State) (m : Dev) (i : TickIn), s.acts → s.start = m → m.asleep = false → m.clk.locked = true →
    exec (.tickBoundary i) s = s.becomes
      (let a := ((m.upset i.upsets).each m.definedBasins Dev.payHouse).each m.definedBasins fun m b => m.overflow b (m.now + tickUnits)
       let served := a.giveOut i
       let a := ((a.senseUse served.use).newTick.drainTick served.capture).progress.timeTick.moveBuffers.syncTick
       let a := (a.put F.HDW_STAT_WALK 0).takeAmps
       let a := (a.each (List.range 8) Dev.ckoWalk).each a.definedBasins fun m b => m.playHold b m.now
       let a := a.lookAll.takeCalIdle.carryDelivered
       let a := ((a.each (List.range 64) fun m t => (m.senseTrib i.temps t).blockDue t).senseDie).sampleTemps i.stackTemps.1 i.stackTemps.2
       let a := (a.put F.SPT_MON_OK i.mon).senseBalls
       let a := (a.each i.lostTables Dev.tableLost).droopTick.startWaiting.takePadc.sumTemps
       let a := ((a.scrub served.scrub i.found).each i.lanes Dev.laneFaulty).auditAll i.audits
       if a.on F.MRC_STAT_RUNNING = true then ((a.takePosted.runMillrace i).weirProgram fun b => i.chainFixed.contains b).fetchTick else a).payOwed) ∧
  (∀ (s : State) (c : Bool), s.acts → s.dev.asleep = false → s.dev.clk.locked = true →
    exec (.exchangePoint c) s = s.becomes
      (if c = true ∧ s.dev.mrc.faulted = false then ({ s.start with committed := [] } : Dev).each s.dev.committed Dev.deliverWrite
       else s.start.report Src.tickDeadline 0 0 s.start.exchangeNow).payOwed) ∧
  (∀ (s : State) (i : TickIn) (c : Bool), s.acts → (s.dev.asleep = true ∨ s.dev.clk.locked = false) →
    exec (.tickBoundary i) s = s.becomes s.start ∧ exec (.exchangePoint c) s = s.becomes s.start)

/-- (R58, R62, R64, R65, R66, R67, R68) With the operation begun: CATCH_LOAD with nothing admitted stages an image that passes and refuses
one that does not, with its reasons; CATCH_CHECK ends DONE or refused and keeps the image; CATCH_WITHDRAW of an admitted image stops
dispatch, without ABORT_RUNNING leaving bursts to run; BASIN_RECOURSE stages an image in scope. The commit of a load shows the image, its
basins DISABLED, its pins and severities, and opens dispatch; a withdrawal completes once no burst runs. Where the spec leaves a point open
this is the model's choice: logs 18, 19, 20, 24, 25, 27, 88, 89, 90. -/
def Obligations.CatchmentOperationsAdmitAndWithdraw : Prop :=
  (∀ (s : State) (slot : Slot) (irq : Bool) (m : Dev), s.takes (Reg.MBX_CMD slot) → s.start.catchStart slot Op.catchLoad irq = (m, true) →
    s.dev.image = none → ∀ l r, m.admission = (l, r) →
    exec (.catchLoad slot irq) s = s.becomes
      (match r with | some i => ({ m with staged := some i }.catchState 1).payOwed | none => (m.refuse slot l).payOwed)) ∧
  (∀ (s : State) (slot : Slot) (irq : Bool) (m : Dev), s.takes (Reg.MBX_CMD slot) → s.start.catchStart slot Op.catchCheck irq = (m, true) →
    ∀ l r, m.admission = (l, r) →
    exec (.catchCheck slot irq) s = s.becomes (if r.isSome then (m.opEnd slot 0).payOwed else (m.refuse slot l).payOwed)) ∧
  (∀ (s : State) (slot : Slot) (irq : Bool) (m : Dev), s.takes (Reg.MBX_CMD slot) → s.start.catchStart slot Op.catchWithdraw irq = (m, true) →
    s.dev.image.isSome = true → bitOf (((m.catchState 3).put F.WEI_STAT_DISPATCHING 0).param slot 0) 0 = false →
    exec (.catchWithdraw slot irq) s = s.becomes ((m.catchState 3).put F.WEI_STAT_DISPATCHING 0).payOwed) ∧
  (∀ (s : State) (slot : Slot) (irq : Bool) (m : Dev) (o n : Image) (l : List Reason), s.takes (Reg.MBX_CMD slot) →
    s.start.catchStart slot Op.recourse irq = (m, true) → m.image = some o → m.admission = (l, some n) →
    recourseScope (m.param slot 0 % 256) o n = true → (recourseShared (m.param slot 0 % 256) o n = true → bitOf (m.param slot 0) 9 = true) →
    exec (.basinRecourse slot irq) s = s.becomes
      (((({ m with staged := some n } : Dev).put F.GLB_CATCH_STATE_RECOURSE 1).put F.GLB_CATCH_STATE_RC_BASIN (m.param slot 0 % 256)).modBsn
        (m.param slot 0 % 256) fun x => { x with recourseState := 1, heldAfter := false }).payOwed) ∧
  (∀ (s : State) (m : Dev) (i : Image) (k : Nat), s.acts → s.start = m → m.staged = some i → m.opSlot Op.catchLoad = some k →
    exec .catchLoadCommit s = s.becomes
      (let a : Dev := (({ m with image := some i, staged := none } : Dev).catchState 2).bump F.GLB_CATCH_GEN_GEN
       let a : Dev := a.showImage
       let a := a.each (i.basins.map (·.1)) fun m b => (m.showBasin b).setState b St.disabled
       let a := a.each (i.pins.map (·.1)) Dev.showPin
       let a : Dev := { a with takeovers := a.takeovers.filter fun (e : Nat × Instant) => (a.pinDef e.1).served }
       let a := (a.each (List.range 64) Dev.showDelta).each (List.range 64) (Dev.showAudit · true)
       let a := a.each (List.range 512) fun m k => m.put (F.LEV_SEV_SEV k) (i.sevs.getD k 0 % 8)
       let a := (a.showDemand.showLinks.put F.WEI_STAT_DISPATCHING 1).reroute []
       a.opEnd k 0).payOwed) ∧
  (∀ (s : State) (m : Dev) (k : Nat), s.acts → s.start = m → m.opSlot Op.catchWithdraw = some k → m.get F.GLB_CATCH_STATE_STATE = 3 →
    (m.definedBasins.any fun b => (m.bsn b).run.isSome) = false →
    exec .withdrawComplete s = s.becomes
      (let a := m.each m.definedBasins Dev.dropBasin
       let a : Dev := { a with image := none }
       let a := a.each m.definedBasins fun m b =>
         ((m.put (F.BSN_TS_EPOCH_HI_VALID b) 0).setState b St.undefined).setBsn b { perLow := (m.bsn b).perLow }
       let a := (a.each ((m.image.map fun i => i.pins.map (·.1)).getD []) Dev.showPin).each (List.range 64) Dev.showDelta
       let a := (a.each (List.range 64) (Dev.showAudit · false)).reroute ((m.image.map (·.routes)).getD [])
       let a := a.dropScans.showImage.showDemand.showLinks
       (a.catchState 0).opEnd k 0).payOwed)

/-- (R73, R77, R78, R79, R200, R398) In a defined basin, outside a SYNC event, with no CLR_N hold and not sealed, BASIN_ENABLE enters IDLE
from DISABLED or HELD, is held PENDING where R78 makes it wait (in SHUTTING or RECOURSING the timing values are then those of the later
entry to IDLE: log 93), and otherwise sets ENABLE and calls off a closing (log 91). BASIN_DISABLE on an idle or running basin shuts down
with no burst running (log 92), ends the burst at once with SHUT_ABORT, and otherwise marks the basin to close at the burst boundary. The
end of a shutdown stops the tones and leaves DISABLED with pins safe and no enable kept, or enters IDLE where an enable is held and CLR_N is
high. While CLR_N holds the pins or the device is sealed an enable changes nothing. Where the spec leaves a point open this is the model's
choice: logs 5, 45, 48, 91, 92, 93, 94. -/
def Obligations.BasinsEnableAndShutDown : Prop :=
  (∀ (s : State) (b : Basin) (ab : Bool) (m a : Dev), s.takesIn b (Reg.BSN_CTL b) → s.start = m → m.put (F.BSN_CTL_SHUT_ABORT b) (flag ab) = a →
    m.clrHeld = false → m.on F.LEV_STAT_SEALED = false → m.clk.event = 0 →
    (a.enableWaits b = true → exec (.basinEnable b ab) s = s.becomes (let e := (a.put (F.BSN_CTL_ENABLE b) 1).put (F.BSN_STATE_PENDING b) 1
      if a.bstate b == St.shutting || a.bstate b == St.recoursing then e.modBsn b fun x => { x with enableTaken := false } else e).payOwed) ∧
    (a.enableWaits b = false → a.bstate b = St.disabled ∨ a.bstate b = St.held → exec (.basinEnable b ab) s = s.becomes (a.enterIdle b).payOwed) ∧
    (a.enableWaits b = false → a.bstate b ≠ St.disabled → a.bstate b ≠ St.held →
      exec (.basinEnable b ab) s = s.becomes ((a.put (F.BSN_CTL_ENABLE b) 1).modBsn b fun x => { x with closing := false }).payOwed)) ∧
  (∀ (s : State) (b : Basin) (ab : Bool), s.takesIn b (Reg.BSN_CTL b) → (s.dev.clrHeld = true ∨ s.dev.on F.LEV_STAT_SEALED = true) →
    exec (.basinEnable b ab) s = s.becomes s.start) ∧
  (∀ (s : State) (b : Basin) (ab : Bool) (m a : Dev), s.takesIn b (Reg.BSN_CTL b) → s.start = m → m.on F.LEV_STAT_SEALED = false →
    (((({ m with clk := { m.clk with enables := m.clk.enables.filter fun (e : Nat × Bool) => e.1 != ↑b } } : Dev).put (F.BSN_CTL_SHUT_ABORT b) (flag ab)).put
      (F.BSN_CTL_ENABLE b) 0).put (F.BSN_STATE_PENDING b) 0) = a →
    a.bstate b = St.idle ∨ a.bstate b = St.running →
    ((a.bsn b).run = none → exec (.basinDisable b ab) s = s.becomes (((a.returnDeck b 4).setState b St.shutting).shutPpmus b).payOwed) ∧
    ((a.bsn b).run.isSome = true → ab = true →
      exec (.basinDisable b ab) s = s.becomes ((a.endBurst b 0x07 0 (max (a.bsn b).pos a.now)).afterEnd b true (max (a.bsn b).pos a.now)).payOwed) ∧
    ((a.bsn b).run.isSome = true → ab = false →
      exec (.basinDisable b ab) s = s.becomes (a.modBsn b fun x => { x with closing := true }).payOwed)) ∧
  (∀ (s : State) (b : Basin), s.acts → s.start.bstate b = St.shutting →
    exec (.basinShutdownDone b) s = s.becomes
      (if s.start.on (F.BSN_STATE_PENDING b) && !s.start.clrHeld then s.start.enterIdle b
       else ((s.start.stopTones b s.start.now).safeBasin b false s.start.now).forgetEnable b St.disabled).payOwed)

/-- (R68, R71) Under a running BASIN_RECOURSE: RECOURSE_ENTER of a basin whose burst does not run, or is to be aborted, ends that burst,
returns the on-deck one, stops the tones and shows RECOURSING; RECOURSE_DRAIN_END disarms capture and makes the pins safe; RECOURSE_COMMIT
admits the new records with their severities, shows them, and ends the operation DONE: the basin is undefined where the new image leaves it
out, HELD where its hold word or timing failed, enters IDLE where it is enabled, and otherwise stands in HELD or DISABLED. Where the spec
leaves a point open this is the model's choice: logs 24, 25, 27. -/
def Obligations.RecoursesRunThroughTheirSteps : Prop :=
  (∀ (s : State) (m a : Dev) (b : Basin) (k : Nat), s.acts → s.start = m → m.opSlot Op.recourse = some k → (m.bsn b).recourseState = 1 →
    ((m.bsn b).run.isSome = true → bitOf (m.param k 0) 8 = true) →
    (if (m.bsn b).run.isSome then m.endBurst b 0x08 0 (max (m.bsn b).pos m.now) else m) = a →
    exec (.recourseEnter b) s = s.becomes
      ((((a.modBsn b fun x => { x with recourse := a.bstate b, recourseState := 2 }).returnDeck b 1).stopTones b a.now).setState b St.recoursing).payOwed) ∧
  (∀ (s : State) (b : Basin), s.acts → (s.start.bsn b).recourseState = 2 →
    exec (.recourseDrainEnd b) s = s.becomes (((s.start.dropCapture b).safeBasin b false s.start.now).modBsn b fun x => { x with recourseState := 3 }).payOwed) ∧
  (∀ (s : State) (m : Dev) (b : Basin) (o n : Image) (k : Nat), s.acts → s.start = m → m.image = some o → m.staged = some n →
    m.opSlot Op.recourse = some k → (m.bsn b).recourseState = 3 →
    exec (.recourseCommit b) s = s.becomes
      (let gone := ((mergeImage b o n).basins.lookup b.val).isNone
       let a : Dev := if gone && m.defined b then m.dropBasin b else m
       let a : Dev := ({ a with image := some (mergeImage b o n), staged := none } : Dev).bump F.GLB_CATCH_GEN_GEN
       let a := a.each (List.range 512) fun m k => m.put (F.LEV_SEV_SEV k) ((mergeImage b o n).sevs.getD k 0 % 8)
       let a := a.showImage.showBasin b
       let a := a.each ((m.allPins b ++ a.allPins b).eraseDups) Dev.showPin
       let a : Dev := { a with takeovers := a.takeovers.filter fun (e : Nat × Instant) => (a.pinDef e.1).served }
       let a := (a.each (List.range 64) Dev.showDelta).each (List.range 64) (Dev.showAudit · false)
       let a := (a.showDemand.showLinks.reroute o.routes).dropScans
       let a := (a.put F.GLB_CATCH_STATE_RECOURSE 0).put F.GLB_CATCH_STATE_RC_BASIN 0
       let a := a.modBsn b fun x => { x with recourse := 0, recourseState := 0, heldAfter := false, closing := false }
       let on := a.on (F.BSN_CTL_ENABLE b) || a.on (F.BSN_STATE_PENDING b)
       let was := (m.bsn b).recourse
       let a := if gone then a.setState b St.undefined
         else if (m.bsn b).heldAfter then a.setState b St.held
         else if on && !a.clrHeld then a.enterIdle b
         else a.forgetEnable b (if was == St.held || (on && (was == St.idle || was == St.running)) then St.held else St.disabled)
       a.opEnd k 0).payOwed)

/-- (R92, R94, R96, R97, R98, R107, R121) Where basin b has a word at hand that passes its checks, the command of its kind begins the word
and plays its vectors, giving a device q. Where q's engines were not halted, the word completes: RUN goes to NEXT, or to ALT where its
decision is true, and ends the pass as a tail word; REPEAT goes to NEXT; LOOP_BEGIN loads its counter and goes to NEXT; LOOP_END leaves by
EXIT on its decision or at counter 0 and else counts down to NEXT; CALL pushes its return address on every lane and goes to NEXT; RETURN
pops every lane's stack and goes to what stood on top. Where q's engines were halted, each of the six commands leaves q. Where the word
fails its checks, each of the six commands of the word's kind has the effect of the check and no other. Where the spec leaves a point open
this is the model's choice: logs 33, 34, 36, 38, 104, 118, 119. -/
def Obligations.PlayingWordsPlayAndGoOn : Prop :=
  (∀ (s : State) (m c q : Dev) (b : Basin) (seen : Seen) (h : AtHand), s.acts → s.start = m → m.atHand b = some h → m.checkWord b h = (c, true) →
    (c.beginWord b h 2).1.playWord b h ((m.bsn b).tset != wTset h.word) (c.beginWord b h 2).2 seen
      ((wSpan h.word + 1) * passesOf h.word / max 1 (m.spv b (wTset h.word))) = q →
    ((q.bsn b).run.any (·.halted) = false →
      (wKind h.word = Kind.run → h.tail = true → exec (.wordRun b seen) s = s.becomes (q.endWord b h 3 toNext).payOwed) ∧
      (wKind h.word = Kind.run → h.tail = false → exec (.wordRun b seen) s = s.becomes
        (if (q.takeDecision b (wCond h.word)).2 then (q.takeDecision b (wCond h.word)).1.endWord b h 2 toAddr2
          else (q.takeDecision b (wCond h.word)).1.endWord b h 1 toNext).payOwed) ∧
      (wKind h.word = Kind.repeat → exec (.wordRepeat b seen) s = s.becomes (q.endWord b h 1 toNext).payOwed) ∧
      (wKind h.word = Kind.loopBegin → exec (.wordLoopBegin b seen) s = s.becomes
        ((q.put (F.BSN_LCTR_VALUE b (wLctr h.word)) (wCount h.word)).endWord b h 1 toNext).payOwed) ∧
      (wKind h.word = Kind.loopEnd → exec (.wordLoopEnd b seen) s = s.becomes
        (let r := q.takeDecision b (wCond h.word)
         if r.2 then r.1.endWord b h 2 toAddr2
         else if r.1.get (F.BSN_LCTR_VALUE b (wLctr h.word)) ≠ 0 then
           (r.1.put (F.BSN_LCTR_VALUE b (wLctr h.word)) (r.1.get (F.BSN_LCTR_VALUE b (wLctr h.word)) - 1)).endWord b h 1 toNext
         else r.1.endWord b h 2 toAddr2).payOwed) ∧
      (wKind h.word = Kind.call → exec (.wordCall b seen) s = s.becomes
        ((q.each h.words fun m w => m.setStack w.1 (wAddr2 w.2 :: (m.pin w.1).stack)).endWord b h 1 toNext).payOwed) ∧
      (wKind h.word = Kind.ret → exec (.wordReturn b seen) s = s.becomes
        ((q.each h.words fun m w => m.setStack w.1 ((m.pin w.1).stack.drop 1)).endWord b h 2 fun p _ => (q.pin p).stack.headD 0).payOwed)) ∧
    ((q.bsn b).run.any (·.halted) = true → ((wKind h.word = Kind.run → exec (.wordRun b seen) s = s.becomes q.payOwed) ∧
      (wKind h.word = Kind.repeat → exec (.wordRepeat b seen) s = s.becomes q.payOwed) ∧
      (wKind h.word = Kind.loopBegin → exec (.wordLoopBegin b seen) s = s.becomes q.payOwed) ∧
      (wKind h.word = Kind.loopEnd → exec (.wordLoopEnd b seen) s = s.becomes q.payOwed) ∧
      (wKind h.word = Kind.call → exec (.wordCall b seen) s = s.becomes q.payOwed) ∧
      (wKind h.word = Kind.ret → exec (.wordReturn b seen) s = s.becomes q.payOwed)))) ∧
  (∀ (s : State) (m c : Dev) (b : Basin) (seen : Seen) (h : AtHand), s.acts → s.start = m → m.atHand b = some h → m.checkWord b h = (c, false) →
    ((wKind h.word = Kind.run → exec (.wordRun b seen) s = s.becomes c.payOwed) ∧
      (wKind h.word = Kind.repeat → exec (.wordRepeat b seen) s = s.becomes c.payOwed) ∧
      (wKind h.word = Kind.loopBegin → exec (.wordLoopBegin b seen) s = s.becomes c.payOwed) ∧
      (wKind h.word = Kind.loopEnd → exec (.wordLoopEnd b seen) s = s.becomes c.payOwed) ∧
      (wKind h.word = Kind.call → exec (.wordCall b seen) s = s.becomes c.payOwed) ∧
      (wKind h.word = Kind.ret → exec (.wordReturn b seen) s = s.becomes c.payOwed)))

/-- (R95, R99, R100, R101, R102) A first repetition of a WAIT that checks begins the word and plays one vector; unless its engines are
halted, the wait then ends on a true decision, is due its timeout after the COUNT-th repetition, or goes on; a later repetition plays one
vector likewise, and one of a streamed WAIT past the granules raises GRAN_MISMATCH and plays none. A word that fails its checks has only the
effect of the check. The timeout sets TIMEOUT, registers TO_EVENT where enabled, and goes to NEXT. PALETTE_LOAD writes the named palettes of
every lane, LEVEL_STAGE stages levels, both going to NEXT, and HALT ends the burst at the boundary; each of the three counts as a
non-playing word. Where the spec leaves a point open this is the model's choice: logs 37, 95. -/
def Obligations.WaitsAndSilentWordsAct : Prop :=
  (∀ (s : State) (m c : Dev) (b : Basin) (seen : Seen) (h : AtHand), s.acts → s.start = m → m.atHand b = some h → wKind h.word = Kind.wait →
    h.run.timeoutDue = false → (if h.run.waits = 0 then m.checkWord b h else (m, true)) = (c, true) →
    (h.run.waits ≠ 0 → (m.courseCodes b h.entry h.run h.word h.streamed h.tail (h.run.waits + 1)).contains 0x06 = false) →
    exec (.wordWait b seen) s = s.becomes
      (let r := if h.run.waits = 0 then c.beginWord b h 3 else (m, (m.bsn b).pos)
       let a := (r.1.put (F.BSN_FLOW_STAT_WAITING b) 1).modRun b fun x =>
         { x with waits := x.waits + 1, waitStart := if h.run.waits = 0 then r.2 else x.waitStart }
       let a := a.playWord b h ((m.bsn b).tset != wTset h.word) r.2 seen 1
       if (a.bsn b).run.any (·.halted) = true then a
       else
         let d := a.takeDecision b (wCond h.word)
         if d.2 = true ∧ (wCond h.word ≠ 13 ∨ (if h.run.waits = 0 then r.2 else h.run.waitStart) + a.flowLat b ≤ (a.bsn b).pos) then
           (d.1.endWord b h 1 toNext).put (F.BSN_FLOW_STAT_WAITING b) 0
         else if wCount h.word ≠ 0 ∧ wCount h.word ≤ h.run.waits + 1 then a.modRun b fun x => { x with timeoutDue := true }
         else a).payOwed) ∧
  (∀ (s : State) (m : Dev) (b : Basin) (seen : Seen) (h : AtHand), s.acts → s.start = m → m.atHand b = some h → wKind h.word = Kind.wait →
    h.run.timeoutDue = false → h.run.waits ≠ 0 → (m.courseCodes b h.entry h.run h.word h.streamed h.tail (h.run.waits + 1)).contains 0x06 = true →
    exec (.wordWait b seen) s = s.becomes (m.courseFault b 0x06 h.run.entry (m.bsn b).pos).payOwed) ∧
  (∀ (s : State) (m c : Dev) (b : Basin) (seen : Seen) (h : AtHand), s.acts → s.start = m → m.atHand b = some h → m.checkWord b h = (c, false) →
    (wKind h.word = Kind.wait → h.run.timeoutDue = false → h.run.waits = 0 → exec (.wordWait b seen) s = s.becomes c.payOwed) ∧
    (wKind h.word = Kind.halt → exec (.wordHalt b) s = s.becomes c.payOwed) ∧
    (wKind h.word = Kind.palette → exec (.wordPaletteLoad b) s = s.becomes c.payOwed) ∧
    (wKind h.word = Kind.levelStage → exec (.wordLevelStage b) s = s.becomes c.payOwed)) ∧
  (∀ (s : State) (m : Dev) (b : Basin) (h : AtHand), s.acts → s.start = m → m.atHand b = some h → h.run.timeoutDue = true →
    exec (.waitTimeout b) s = s.becomes
      (let a := (m.put (F.BSN_FLOW_STAT_TIMEOUT b) 1).put (F.BSN_FLOW_STAT_WAITING b) 0
       let a := if a.getForce (F.BSN_FLOW_CTL_TO_EVENT_EN b) = 1 then
           a.registerEvent b (a.getForce (F.BSN_FLOW_CTL_TO_EVENT b)) ((a.bsn b).pos - a.flowLat b) else a
       a.endWord b h 1 toNext).payOwed) ∧
  (∀ (s : State) (m c : Dev) (b : Basin) (h : AtHand), s.acts → s.start = m → m.atHand b = some h → m.checkWord b h = (c, true) →
    (wKind h.word = Kind.halt → exec (.wordHalt b) s = s.becomes
      ((((c.decode h).signWords h.words).each h.words fun m q => m.modPin q.1 fun x => { x with nonPlay := x.nonPlay + 1 }).endNormally b 0x02 (m.bsn b).pos).payOwed) ∧
    (wKind h.word = Kind.palette → exec (.wordPaletteLoad b) s = s.becomes
      (((((c.decode h).signWords h.words).each h.words fun m q =>
          m.setPair (Reg.PIN_PAL_LIVE_LO q.1) (Reg.PIN_PAL_LIVE_HI q.1)
            ((onesOf 4 (wCount q.2)).foldl (fun v k => setBits v (16 * k + 15) (16 * k) (wbits q.2 (16 * k + 15) (16 * k))) (m.palettes q.1))).each
        h.words fun m q => m.modPin q.1 fun x => { x with nonPlay := x.nonPlay + 1 }).endWord b h 1 toNext).payOwed) ∧
    (wKind h.word = Kind.levelStage → exec (.wordLevelStage b) s = s.becomes
      (((((c.decode h).signWords h.words).each h.words fun m q => (m.settlePin q.1 (m.bsn b).pos).stageLevels q.1 (wCount q.2) q.2.toNat).each
        h.words fun m q => m.modPin q.1 fun x => { x with nonPlay := x.nonPlay + 1 }).endWord b h 1 toNext).payOwed))

/-- (R105, R110, R113, R215, R221) The oldest vector result that waits is registered, shown in MATCH, told to the leader of a span, and
reaches the sequencers; a sync point that disagrees on this device, or across a span, sets DIVERGED and reports once, and one that agrees
only ends; a FLOW miss reports on a running basin of a span this device does not lead; an edge sets its line's level, and a rising one takes
effect there; BSN_EVENT registers the named events at the exchange point and tells the leader of a span, or clears those registered before
it. Where the spec leaves a point open this is the model's choice: log 38. -/
def Obligations.FlowVerdictsAndEventsAct : Prop :=
  (∀ (s : State) (b : Basin) (t code : Nat) (rest : List (Nat × Nat)), s.acts → (s.start.bsn b).waiting = (t, code) :: rest →
    exec (.vectorResult b) s = s.becomes
      (let a := ((s.start.modBsn b fun x => { x with waiting := rest, results := timed x.results (t, code) }).put (F.BSN_FLOW_STAT_MATCH_PASS b)
         (flag (code % 4 == 1))).put (F.BSN_FLOW_STAT_MATCH_FAIL b) (flag (bitOf code 1))
       (if code % 4 == 1 then a.tellLeader b 11 t else if bitOf code 1 then a.tellLeader b 12 t else a).vectorOccurs b code t).payOwed) ∧
  (∀ (s : State) (b : Basin) (t : Nat) (agree others : Bool), s.acts → (s.start.bsn b).sync = some (t, agree) →
    exec (.syncptVerdict b others) s = s.becomes
      (if agree = true ∧ (others = true ∨ (s.start.bdef b).span = false) then s.start.modBsn b fun x => { x with sync := none }
        else ((s.start.modBsn b fun x => { x with sync := none }).put (F.BSN_FLOW_STAT_DIVERGED b) 1).report Src.flowDivergence b 0 t).payOwed) ∧
  (∀ (s : State) (b : Basin) (t : Nat), s.acts → (s.start.bdef b).span = true → (s.start.bdef b).leader ≠ s.start.deviceIndex →
    (s.start.bsn b).run.isSome = true → exec (.flowLinkMiss b t) s = s.becomes (s.start.report Src.flowLink b 0 t).payOwed) ∧
  (∀ (s : State) (b : Basin) (l : Line) (t : Nat), s.acts → s.start.defined b = true →
    exec (.eventRegister b l true t) s = s.becomes
      ((s.start.setLevel true (if l.val < 8 then 0x1100 + 8 * b.val + l.val else 0x1900 + b.val, t)).edgeAt
        (if l.val < 8 then 0x1100 + 8 * b.val + l.val else 0x1900 + b.val, t)).payOwed ∧
    exec (.eventRegister b l false t) s = s.becomes
      (s.start.setLevel false (if l.val < 8 then 0x1100 + 8 * b.val + l.val else 0x1900 + b.val, t)).payOwed) ∧
  (∀ (s : State) (b : Basin) (mask : Byte), s.takesIn b (Reg.BSN_EVENT b) →
    exec (.bsnEventSet b mask) s = s.becomes
      (s.start.each (onesOf 8 mask.toNat) fun m e => (m.modBsn b fun x => { x with events := x.events ++ [(e, m.exchangeNow)] }).tellLeader b e m.exchangeNow).payOwed ∧
    exec (.bsnEventClear b mask) s = s.becomes
      (s.start.modBsn b fun x => { x with events := x.events.filter fun e => !(bitOf mask.toNat e.1 && decide (e.2 < s.start.exchangeNow)) }))

/-- (R81, R123) LS_WRITE and LS_READ refused by R123 set REFUSED; else they set BUSY and take the address and data. An access that completes
clears BUSY, writes the word into the pin's engine's store or reads it into PIN_LS_DATA, and moves the address on with AUTOINC. A read
corrects and reports a single flipped bit; what it reads from a word with two is free. A scrub corrects every word of the engine's store
with a single flipped bit and reports each on the engine's pin. Where the spec leaves a point open this is the model's choice: logs 83, 85,
120. -/
def Obligations.LoopStoreIsAccessed : Prop :=
  (∀ (s : State) (p : Pin), s.takes (Reg.PIN_LS_CTL p) → s.start.windowRefused p true = true →
    exec (.lsWrite p) s = s.becomes (s.start.put (F.PIN_LS_CTL_REFUSED p) 1)) ∧
  (∀ (s : State) (p : Pin), s.takes (Reg.PIN_LS_CTL p) → s.start.windowRefused p true = false →
    exec (.lsWrite p) s = s.becomes ((s.start.put (F.PIN_LS_CTL_BUSY p) 1).modPin p fun x => { x with
      window := some (true, (s.start.put (F.PIN_LS_CTL_BUSY p) 1).get (F.PIN_LS_ADDR_ADDR p), (s.start.put (F.PIN_LS_CTL_BUSY p) 1).windowData p) })) ∧
  (∀ (s : State) (p : Pin), s.takes (Reg.PIN_LS_CTL p) → s.start.windowRefused p false = false →
    exec (.lsRead p) s = s.becomes ((s.start.put (F.PIN_LS_CTL_BUSY p) 1).modPin p fun x => { x with
      window := some (false, (s.start.put (F.PIN_LS_CTL_BUSY p) 1).get (F.PIN_LS_ADDR_ADDR p), (s.start.put (F.PIN_LS_CTL_BUSY p) 1).windowData p) })) ∧
  (∀ (s : State) (m a : Dev) (p : Pin) (n : Nat) (w : VecWord), s.acts → s.start = m → (m.pin p).window = some (true, n, w) →
    ((m.put (F.PIN_LS_CTL_BUSY p) 0).modPin p fun x => { x with window := none }).setWord (m.engineOf p) n w = a →
    exec (.loopStoreAccessDone p) s = s.becomes
      (if a.on (F.PIN_LS_ADDR_AUTOINC p) then a.put (F.PIN_LS_ADDR_ADDR p) (a.get (F.PIN_LS_ADDR_ADDR p) + 1) else a).payOwed) ∧
  (∀ (s : State) (m a : Dev) (p : Pin) (n : Nat) (w : VecWord), s.acts → s.start = m → (m.pin p).window = some (false, n, w) →
    (let q : Dev := (m.put (F.PIN_LS_CTL_BUSY p) 0).modPin p fun x => { x with window := none }
     let read := fun (q : Dev) => q.each (List.range 8) fun x k => x.setReg (Reg.PIN_LS_DATA p k) (bitsOf (x.word (m.engineOf p) n).toNat (32 * k + 31) (32 * k))
     if m.flip (m.engineOf p) n = 2 then
       { q.each (List.range 8) (fun x k => x.setReg (Reg.PIN_LS_DATA p k) (Config.freeValue 32 (x.drawn + k)).toNat) with drawn := m.drawn + 8 }
     else if m.flip (m.engineOf p) n = 1 then read (q.report Src.storeCorrected p 0 q.now)
     else read q) = a →
    exec (.loopStoreAccessDone p) s = s.becomes
      (if a.on (F.PIN_LS_ADDR_AUTOINC p) then a.put (F.PIN_LS_ADDR_ADDR p) (a.get (F.PIN_LS_ADDR_ADDR p) + 1) else a).payOwed) ∧
  (∀ (s : State) (e : Engine), s.acts →
    exec (.loopStoreScrub e) s = s.becomes
      ((((s.start.flips.filter fun f => decide (2048 * e.val ≤ f.1) && decide (f.1 < 2048 * (e.val + 1)) && f.2 == 1).map (·.1)).foldl
        (fun m k => (m.setFlip e (k - 2048 * e)  0).report Src.storeCorrected (m.enginePin e) 0 m.now) s.start).payOwed))

/-- (R132, R137, R143, R144, R146, R150, R151, R154) A pass boundary at least 256 ECLK and H after the last takes a jump whose event is
registered, else repeats the entry, or, with no pass left, ends the burst at LAST, raises 0x0A within a landing period, and else goes to
NEXT; a span hears what was decided. A landing period's end shows PLAY. An entry that was requested first, of a house allowance not used up,
lands in the running burst's window, which asks for the next, or lands for the on-deck burst that begins with it. A vector unit that its
lane is offered lands in its FIFO. A streamed word or an entry that is due and missing makes a basin stall on its hold word, or abort by its
policy, and the stall ends at the first hold boundary at which it may. Where the spec leaves a point open this is the model's choice: logs
40, 41, 107. -/
def Obligations.CoursesFetchRefillAndStall : Prop :=
  (∀ (s : State) (m a : Dev) (b : Basin) (r : Run) (e : Entry), s.acts → s.start = m → (m.bsn b).run = some r → m.curEntry b = some e →
    r.halted = false → r.atBoundary = true → r.stall = none → r.succ = none → r.passStart + max (256 * eclk) (m.horizon b) ≤ (m.bsn b).pos →
    (if e.jmask = 0 then m else m.tellSpan { basin := b, succs := [((m.bsn b).pos, (m.jumpSlot b e r (m.bsn b).pos).elim 0 (· + 1))] }) = a →
    (∀ k, m.jumpSlot b e r (m.bsn b).pos = some k →
      exec (.passBoundary b) s = s.becomes (a.takeJump b k (e.jumps.getD k 0) e r (m.bsn b).pos).payOwed) ∧
    (m.jumpSlot b e r (m.bsn b).pos = none →
      (r.pass ≤ e.again → exec (.passBoundary b) s = s.becomes
        (((a.passSamples b r.entry r.pass false).beginPass b r.entry (r.pass + 1) (m.bsn b).pos).put (F.BSN_CRS_POS_STATE b) (r.courseState (m.bsn b).pos)).payOwed) ∧
      (e.again < r.pass → e.last = true → exec (.passBoundary b) s = s.becomes (a.endNormally b 0x01 (m.bsn b).pos).payOwed) ∧
      (e.again < r.pass → e.last = false → r.landing (m.bsn b).pos = true →
        exec (.passBoundary b) s = s.becomes (a.courseFault b 0x0A r.entry (m.bsn b).pos).payOwed) ∧
      (e.again < r.pass → e.last = false → r.landing (m.bsn b).pos = false →
        exec (.passBoundary b) s = s.becomes (a.takeNext b e r (m.bsn b).pos).payOwed))) ∧
  (∀ (s : State) (b : Basin), s.acts → s.start.get (F.BSN_CRS_POS_STATE b) = Crs.landing →
    exec (.landingPeriodEnd b) s = s.becomes (s.start.put (F.BSN_CRS_POS_STATE b) Crs.play)) ∧
  (∀ (s : State) (m a w : Dev) (b : Basin) (i : EntryNo) (t k : Nat) (rest : List (Nat × Nat)) (r : Run) (ecc : Ecc), s.acts → s.start = m →
    m.defined b = true → i.val ≤ (m.bdef b).courseLen → m.houseLeft b ≠ 0 → (m.bsn b).deck = none → (m.bsn b).asked = (i.val, k) :: rest →
    m.recordWaits b k = false → (m.modBsn b fun x => { x with house := x.house + 1 }).readUnit b Cls.house (m.entryAddr b i) ecc = (a, true) →
    (a.modBsn b fun x => { x with window := x.window ++ [⟨i, t, m.bytes (m.entryAddr b i) 64⟩], asked := x.asked.drop 1 }) = w → (w.bsn b).run = some r →
    exec (.courseFetchDone b i t ecc) s = s.becomes
      ((w.put (F.BSN_CRS_WIN_HELD b) (w.windowHeld b ((r.succ.map (·.1)).getD r.entry))).request b ((r.succ.map (·.1)).getD r.entry)).payOwed) ∧
  (∀ (s : State) (m a w : Dev) (b : Basin) (i : EntryNo) (t : Nat) (d : Deck) (ecc : Ecc), s.acts → s.start = m →
    m.defined b = true → i.val ≤ (m.bdef b).courseLen → m.houseLeft b ≠ 0 → (m.bsn b).deck = some d → d.onDeck = true → d.first = none →
    m.desc d.ctx 8 2 = i.val → m.fetchWaits b d.asked = false → m.recordWaits b d.asked = false → (m.bsn b).asked = [] →
    (m.modBsn b fun x => { x with house := x.house + 1 }).readUnit b Cls.house (m.entryAddr b i) ecc = (a, true) →
    (a.modDeck b fun d => { d with first := some ⟨i, t, m.bytes (m.entryAddr b i) 64⟩ }) = w → (w.bsn b).run = none →
    exec (.courseFetchDone b i t ecc) s = s.becomes w.payOwed) ∧
  (∀ (s : State) (m n a : Dev) (p : Pin) (b t : Nat) (q : Ptr) (ecc : Ecc), s.acts → s.start = m → m.basinOf p = some b → (m.lanes b).contains p.val = true →
    m.mayRefill b (p.val, false) = true → m.countUnit b (p.val, false) = n → n.refillOf b false (n.pin p).rPtr (n.pin p).rDeck = some (.running q) →
    n.readUnit b Cls.stream (n.unitAddr b false q ((n.lanes b).idxOf p.val)) ecc = (a, true) →
    exec (.refillUnitLand p false t ecc) s = s.becomes
      ((a.modPin p fun x => { x with fifo := x.fifo ++ (n.unitWords b q ((n.lanes b).idxOf p.val)).map (t, ·), rPtr := n.nextUnit b false q }).tellHorizon b).payOwed) ∧
  (∀ (s : State) (m a : Dev) (b : Basin) (r : Run) (cause word : Nat), s.acts → s.start = m → (m.bsn b).run = some r → r.halted = false → r.stall = none →
    (r.succ.isSome = true ∨ (r.atBoundary = false ∧ ((m.master b).any fun p => m.streamed p && (m.pin p).cur.isNone && !m.beyond b r) = true)) →
    (if r.succ.isSome then Cause.course else Cause.refill) = cause → (if r.succ.isSome then 0 else r.passWords) = word →
    (m.count (F.BSN_STALL_CNT_STALLS b) 1).stallLast b cause (m.bsn b).pos = a →
    ((m.bdef b).abort = true → exec (.streamUnderrun b) s = s.becomes ((a.addStall b cause word (m.bsn b).pos 0).underrunAbort b (m.bsn b).pos).payOwed) ∧
    ((m.bdef b).abort = false → exec (.streamUnderrun b) s = s.becomes
      ((((((a.modRun b fun x => { x with stall := some ⟨cause, (m.bsn b).pos, word⟩, underrun := true }).capStall b (m.bsn b).pos).followMarks
          b 0 (m.bsn b).pos (m.bsn b).pos).put (F.BSN_CRS_POS_STATE b) Crs.stall).enterHold b (m.bsn b).pos 4).report Src.streamUnderrun b 0 (m.bsn b).pos).payOwed)) ∧
  (∀ (s : State) (m a : Dev) (b : Basin) (holds g t : Nat) (r : Run) (x : Stall), s.acts → s.start = m → (m.bsn b).run = some r → (m.bsn b).hold = some g →
    r.halted = false → r.stall = some x → holds ≠ 0 → g + holds * m.period b (m.holdSet b) = t → m.stallMayEnd b r t = true →
    (2 ≤ holds → m.stallMayEnd b r (t - m.period b (m.holdSet b)) = false) →
    (((m.closeStall b t).leaveHold b t).modBsn b fun x => { x with pos := t }) = a →
    exec (.stallEnd b holds) s = s.becomes
      ((match r.succ with
        | some (i, landing) => a.enterEntry b i landing t
        | none => (a.put (F.BSN_CRS_POS_STATE b) (r.courseState t)).engState b 2).modRun b fun r =>
          { r with resumed := true, pauses := (x.start, t) :: r.pauses }).payOwed)

/-- (R134, R135, R159, R331) A resident block whose load is under way, met intact and good, is written word by word into every lane's
engine's store and shown loaded; one that is not good drops its burst with CRC_FAIL's status, and a basin with no burst left goes IDLE; a
poisoned one is shown as failed. A Delta unit of a running burst whose FIFO is empty when a sample is due goes dry from that instant, is
counted and reported, and underruns its burst, or aborts its basin by policy; with enough samples it resumes with the one due. Where the
spec leaves a point open this is the model's choice: logs 37, 40, 104. -/
def Obligations.ResidentBlocksAndSamplesAct : Prop :=
  (∀ (s : State) (m a : Dev) (b : Basin) (d : Deck) (ecc : Ecc), s.acts → s.start = m → (m.bsn b).deck = some d → m.get (F.BSN_RES_LOAD_STATE b) = 1 →
    m.readUnit b (if ecc = .poisoned then Cls.house else Cls.stream) (m.resBlock b d.ctx) ecc = (a, true) →
    (m.resOk b d.ctx = true → exec (.residentBlockLoadDone b ecc) s = s.becomes
      (((a.each (List.range (a.lanes b).length) fun x k =>
          x.loadLane (m.resBlock b d.ctx) (x.mem (m.resBlock b d.ctx) 2) (x.mem (m.resBlock b d.ctx + 2) 2) (a.lanes b).length k
            (x.engineOf ((a.lanes b).getD k 0))).put (F.BSN_RES_LOAD_STATE b) 2).modDeck b fun d => { d with loaded := true }).payOwed) ∧
    (m.resOk b d.ctx = false → exec (.residentBlockLoadDone b ecc) s = s.becomes (((a.put (F.BSN_RES_LOAD_STATE b) 3).dropDeck b 0x0E 0).idleCheck b).payOwed)) ∧
  (∀ (s : State) (m a : Dev) (b : Basin) (d : Deck) (ecc : Ecc), s.acts → s.start = m → (m.bsn b).deck = some d → m.get (F.BSN_RES_LOAD_STATE b) = 1 →
    m.readUnit b (if ecc = .poisoned then Cls.house else Cls.stream) (m.resBlock b d.ctx) ecc = (a, false) →
    exec (.residentBlockLoadDone b ecc) s = s.becomes (a.put (F.BSN_RES_LOAD_STATE b) 3).payOwed) ∧
  (∀ (s : State) (m a : Dev) (t : Trib) (b i : Nat), s.acts → s.start = m → m.deltaOwner t = some b → m.playSamples t (i - 1) = a →
    (a.bsn b).run.isSome = true → (a.delta t).dryAt = none → (a.delta t).fifo = [] → (a.delta t).due i ≠ 0 →
    exec (.sampleShortage t i) s = s.becomes
      (let x := (((a.count (F.BSN_STALL_CNT_SAMPLE b) 1).stallLast b Cause.sample i).addStall b Cause.sample 0 i t).capUnder b i
       if (x.bdef b).abort then x.underrunAbort b i
       else ((x.setDelta t { a.delta t with dryAt := some i }).put (F.DLT_STAT_DRY t) 1).report Src.streamUnderrun b 0 i).payOwed) ∧
  (∀ (s : State) (m : Dev) (t : Trib) (b i : Nat), s.acts → s.start = m → m.deltaOwner t = some b → (m.delta t).dryAt.isSome = true →
    (m.delta t).due i ≤ (m.delta t).fifo.length →
    exec (.sampleResume t i) s = s.becomes
      ((m.closeDry b t i).playSamplesN t ((m.delta t).due i)).payOwed)

/-- (R178, R179, R180, R193, R194, R195, R196, R200, R206, R208) A deskew USER write is kept; on a pin whose basin is not RUNNING it is in
force at once, for a burst already delivered too, and the path's target is formed again. A LOAD strobe on a basin whose pins are all safe is
ignored and flagged; otherwise it waits, in edge order, for the first modulator edge at least 10 ns after it, one strobe for each edge, and
tone changes that wait for it are due. At the earliest edge its strobe counts, is stamped and puts the codes that were staged with it, or
are staged now, into force; a pin in the safe state keeps its codes, and a strobe whose pins are all safe by then is lost. A clear code
written while CLR_N is held is dropped; on a cleared pin the active and staged codes move to it and are limited. Where the spec leaves a
point open this is the model's choice: logs 47, 49, 50, 51, 97, 99. -/
def Obligations.DeskewLevelsAndClearCodesAct : Prop :=
  (∀ (s : State) (m : Dev) (p : Pin) (cmp : Bool) (user : Half), s.takes (Reg.PIN_DSK_DRV p) → s.start = m →
    ((m.put (if cmp then F.PIN_DSK_CMP_USER p else F.PIN_DSK_DRV_USER p) user.toNat).pinRuns p = true → exec (.dskUserWrite p cmp user) s = s.becomes (m.put (if cmp then F.PIN_DSK_CMP_USER p else F.PIN_DSK_DRV_USER p) user.toNat).payOwed) ∧
    ((m.put (if cmp then F.PIN_DSK_CMP_USER p else F.PIN_DSK_DRV_USER p) user.toNat).pinRuns p = false → exec (.dskUserWrite p cmp user) s = s.becomes
      ((((m.put (if cmp then F.PIN_DSK_CMP_USER p else F.PIN_DSK_DRV_USER p) user.toNat).takeForce
        (if cmp then Reg.PIN_DSK_CMP p else Reg.PIN_DSK_DRV p)).takeDeck (if cmp then Reg.PIN_DSK_CMP p else Reg.PIN_DSK_DRV p)).retarget p cmp).payOwed)) ∧
  (∀ (s : State) (m : Dev) (b : Basin) (t : Nat), s.start = m →
    (m.allSafe b = true →
      (s.acts → exec (.loadStrobe b t) s = s.becomes (m.put (F.BSN_LVL_STAT_IGNORED b) 1).payOwed) ∧
      (s.takesIn b (Reg.BSN_LVL_LOAD b) → exec (.bsnLvlLoad b) s = s.becomes (m.put (F.BSN_LVL_STAT_IGNORED b) 1).payOwed)) ∧
    (m.allSafe b = false →
      (s.acts → exec (.loadStrobe b t) s = s.becomes
        (let a := m.each (List.range 4) fun m c =>
           let x := m.tone b c
           if x.running && x.atLoad && m.on (F.TON_STAT_STAGED b c) && x.loadAt.isNone && decide (x.commitTick * tickUnits + 16 * eclk ≤ t) then
             m.setTone b c { x with loadAt := some (ceilDiv t eclk) }
           else m
         let q : Strobe := match (m.bsn b).strobes.find? (fun q => q.edge == strobeEdge t) with
           | some q => if q.at_ ≤ t then ⟨t, q.edge, none⟩ else q
           | none => ⟨t, strobeEdge t, none⟩
         a.modBsn b fun x => { x with
           strobes := insertBy (fun a c => decide (a.edge ≤ c.edge)) q (x.strobes.filter fun k => k.edge != q.edge) }).payOwed) ∧
      (s.takesIn b (Reg.BSN_LVL_LOAD b) → exec (.bsnLvlLoad b) s = s.becomes (m.loadStrobe b m.now).payOwed))) ∧
  (∀ (s : State) (m : Dev) (b : Basin) (q : Strobe) (l : List Strobe), s.acts → s.start = m → (m.bsn b).strobes = q :: l →
    (m.modBsn b fun x => { x with strobes := l }).allSafe b = false →
    exec (.levelApply b) s = s.becomes
      (((((m.modBsn b fun x => { x with strobes := l }).bump (F.BSN_LVL_STAT_LOAD_CNT b)).putStamp (F.BSN_LVL_LAST_LO_NS b) (F.BSN_LVL_LAST_HI_FRAC b) q.edge).modBsn b
        fun x => { x with strobeAt := some q.edge }).each (q.codes.getD (m.stagedCodes b)) fun m e => m.applyPin q.edge e).payOwed) ∧
  (∀ (m : Dev) (t p : Nat) (l : List Nat), m.on (F.PIN_FE_STAT_SAFE p) = true → m.applyPin t (p, l) = m) ∧
  (∀ (s : State) (m : Dev) (b : Basin) (q : Strobe) (l : List Strobe), s.acts → s.start = m → (m.bsn b).strobes = q :: l →
    (m.modBsn b fun x => { x with strobes := l }).allSafe b = true →
    exec (.levelApply b) s = s.becomes (m.modBsn b fun x => { x with strobes := l }).payOwed) ∧
  (∀ (s : State) (m : Dev) (p : Pin) (c : Chan) (code : Half), s.takes (Reg.PIN_LVL_CLR p c) → s.start = m →
    (m.clrHeld = true → exec (.clearCodeWrite p c code) s = s.becomes m) ∧
    (m.clrHeld = false → ((m.put (F.PIN_LVL_CLR_CODE p c) code.toNat).on (F.PIN_FE_STAT_SAFE p) &&
        !((m.put (F.PIN_LVL_CLR_CODE p c) code.toNat).pin p).applied) = true →
      exec (.clearCodeWrite p c code) s = s.becomes
        (let y := ((m.put (F.PIN_LVL_CLR_CODE p c) code.toNat).put (F.PIN_LVL_ACT_CODE p c) code.toNat).put (F.PIN_LVL_STG_CODE p c) code.toNat
         (y.modPin p fun x => { x with levelAt := some y.now }).limitLevels p y.now).payOwed) ∧
    (m.clrHeld = false → ((m.put (F.PIN_LVL_CLR_CODE p c) code.toNat).on (F.PIN_FE_STAT_SAFE p) &&
        !((m.put (F.PIN_LVL_CLR_CODE p c) code.toNat).pin p).applied) = false →
      exec (.clearCodeWrite p c code) s = s.becomes (m.put (F.PIN_LVL_CLR_CODE p c) code.toNat).payOwed))

/-- (R203, R205, R206, R208, R365, R73) An enable outside a calibration outage connects the PPMU in the MODE and RANGE written, or is
refused (ENABLE 0, REFUSED 1) by the pin's role, range or basin state; while a shutdown runs it is kept pending; one written during CLR_N
low is not taken; during an outage it is kept for its end. A change of MODE or RANGE on a connected PPMU starts a range change, and one to a
reserved RANGE is refused; on a PPMU not connected it only writes the fields. The end of a range change puts the new MODE, RANGE and a FORCE
code that waited into force. A disable of a connected PPMU starts its shutdown, under which it forces its clear code (a FORCE code that
waited goes: log 96); its end opens the switch and takes a pending enable. Where the spec leaves a point open this is the model's choice:
logs 47, 52, 96, 97, 98. -/
def Obligations.PpmuConnectsChangesAndShuts : Prop :=
  (∀ (s : State) (m : Dev) (p : Pin) (ctl : Word), s.takes (Reg.PIN_PMU_CTL p) → s.start = m →
    (m.get (F.TRB_CAL_STAT_STATE (p.val / 16)) = 3 →
      exec (.ppmuEnable p ctl) s = s.becomes (m.modCal fun x => { x with pmuWrites := x.pmuWrites ++ [(p.val, ctl.toNat, true)] }).payOwed ∧
      exec (.ppmuRangeChange p ctl) s = s.becomes (m.modCal fun x => { x with pmuWrites := x.pmuWrites ++ [(p.val, ctl.toNat, false)] }).payOwed) ∧
    (m.get (F.TRB_CAL_STAT_STATE (p.val / 16)) ≠ 3 → m.clrHeld = true → exec (.ppmuEnable p ctl) s = s.becomes m) ∧
    (m.get (F.TRB_CAL_STAT_STATE (p.val / 16)) ≠ 3 → m.clrHeld = false → (m.ppmuFields p ctl.toNat).on (F.PIN_PMU_STAT_SHUTTING p) = true →
      exec (.ppmuEnable p ctl) s = s.becomes (((m.ppmuFields p ctl.toNat).put (F.PIN_PMU_CTL_ENABLE p) 1).put (F.PIN_PMU_STAT_PENDING p) 1).payOwed) ∧
    (∀ x, m.get (F.TRB_CAL_STAT_STATE (p.val / 16)) ≠ 3 → m.clrHeld = false → m.ppmuFields p ctl.toNat = x → x.on (F.PIN_PMU_STAT_SHUTTING p) = false →
      x.on (F.PIN_PMU_STAT_CONNECTED p) = false →
      (x.ppmuRefused p = true → exec (.ppmuEnable p ctl) s = s.becomes ((x.put (F.PIN_PMU_CTL_ENABLE p) 0).put (F.PIN_PMU_STAT_REFUSED p) 1).payOwed) ∧
      (x.ppmuRefused p = false → exec (.ppmuEnable p ctl) s = s.becomes
        (let y := (((((x.put (F.PIN_PMU_CTL_ENABLE p) 1).put (F.PIN_PMU_STAT_CONNECTED p) 1).put (F.PIN_PMU_STAT_RANGE_NOW p) (x.get (F.PIN_PMU_CTL_RANGE p))).put
            (F.PIN_PMU_STAT_MODE_NOW p) (x.get (F.PIN_PMU_CTL_MODE p))).modPin p
            fun z => { z with pmuMode := x.get (F.PIN_PMU_CTL_MODE p), pmuRange := x.get (F.PIN_PMU_CTL_RANGE p) })
         y.ppmuCheck p y.now).payOwed)) ∧
    (∀ x, m.get (F.TRB_CAL_STAT_STATE (p.val / 16)) ≠ 3 → m.ppmuFields p ctl.toNat = x → x.on (F.PIN_PMU_STAT_SHUTTING p) = false →
      x.on (F.PIN_PMU_STAT_CONNECTED p) = true →
      (5 ≤ x.get (F.PIN_PMU_CTL_RANGE p) → exec (.ppmuRangeChange p ctl) s = s.becomes (x.put (F.PIN_PMU_STAT_REFUSED p) 1).payOwed) ∧
      (¬ 5 ≤ x.get (F.PIN_PMU_CTL_RANGE p) → x.get (F.PIN_PMU_CTL_RANGE p) ≠ x.get (F.PIN_PMU_STAT_RANGE_NOW p) →
        exec (.ppmuRangeChange p ctl) s = s.becomes
          (let y := (x.modPin p fun z => { z with pmuMode := x.get (F.PIN_PMU_CTL_MODE p), pmuRange := x.get (F.PIN_PMU_CTL_RANGE p) }).put (F.PIN_PMU_STAT_RANGE_CHG p) 1
           y.ppmuCheck p x.now).payOwed)) ∧
    (∀ x, m.get (F.TRB_CAL_STAT_STATE (p.val / 16)) ≠ 3 → m.ppmuFields p ctl.toNat = x → x.on (F.PIN_PMU_STAT_SHUTTING p) = false →
      x.on (F.PIN_PMU_STAT_CONNECTED p) = false → exec (.ppmuRangeChange p ctl) s = s.becomes x.payOwed) ∧
    (∀ x, (m.ppmuFields p ctl.toNat).put (F.PIN_PMU_CTL_ENABLE p) 0 = x →
      (x.on (F.PIN_PMU_STAT_CONNECTED p) = true → x.on (F.PIN_PMU_STAT_SHUTTING p) = false →
        exec (.ppmuDisable p ctl) s = s.becomes
          (((((x.put (F.PIN_PMU_STAT_SHUTTING p) 1).put (F.PIN_PMU_STAT_RANGE_CHG p) 0).put (F.PIN_PMU_STAT_CLAMP p) 0).modPin p
            fun z => { z with forceNext := none, shutAt := some x.now, limiting := false }).tellForce p x.now).payOwed) ∧
      (x.on (F.PIN_PMU_STAT_CONNECTED p) = false → exec (.ppmuDisable p ctl) s = s.becomes (x.put (F.PIN_PMU_STAT_PENDING p) 0).payOwed))) ∧
  (∀ (s : State) (m a : Dev) (p : Pin), s.acts → s.start = m → m.on (F.PIN_PMU_STAT_RANGE_CHG p) = true →
    ((m.put (F.PIN_PMU_STAT_RANGE_CHG p) 0).put (F.PIN_PMU_STAT_RANGE_NOW p) (m.pin p).pmuRange).put (F.PIN_PMU_STAT_MODE_NOW p) (m.pin p).pmuMode = a →
    (∀ c, (m.pin p).forceNext = some c → exec (.ppmuRangeChangeEnd p) s = s.becomes
      (((a.put (F.PIN_LVL_ACT_CODE p 5) c).modPin p fun x => { x with forceNext := none }).ppmuCheck p (a.put (F.PIN_LVL_ACT_CODE p 5) c).now).payOwed) ∧
    ((m.pin p).forceNext = none → exec (.ppmuRangeChangeEnd p) s = s.becomes
      ((a.modPin p fun x => { x with forceNext := none }).ppmuCheck p a.now).payOwed)) ∧
  (∀ (s : State) (m a : Dev) (p : Pin), s.acts → s.start = m → m.on (F.PIN_PMU_STAT_SHUTTING p) = true →
    (((m.put (F.PIN_PMU_STAT_SHUTTING p) 0).put (F.PIN_PMU_STAT_CONNECTED p) 0).put (F.PIN_PMU_STAT_CLAMP p) 0).modPin p (fun x => { x with shutAt := none }) = a →
    (a.on (F.PIN_PMU_STAT_PENDING p) = true → exec (.ppmuShutdownDone p) s = s.becomes ((a.put (F.PIN_PMU_STAT_PENDING p) 0).ppmuConnect p).payOwed) ∧
    (a.on (F.PIN_PMU_STAT_PENDING p) = false → exec (.ppmuShutdownDone p) s = s.becomes a.payOwed))

/-- (R194, R221, R222, R224, R225, R226, R227, R73) An edge on a TRIG ball that no route drives, or on an LDAC ball (whose falling edge
counts as rising), sets the wire and drives its crossbar source. A running sequencer takes its hit transition at the instant its count is
met, and its time transition when TIMER ECLK have passed and no hit has come by then. An enable with a bad state is refused and names the
lowest; a good one enables, and enters state 0 where a burst runs or the sequencer is global; during shutdown it is held. A disable of an
enabled sequencer starts its shutdown, whose end freezes it and takes a held enable. A restart puts an enabled global sequencer into state
0. Where the spec leaves a point open this is the model's choice: logs 54, 80, 113. -/
def Obligations.EdgesAndSequencersMove : Prop :=
  (∀ (s : State) (m : Dev) (k : Trig) (l : Ldac) (rise fall : Bool) (t : Nat), s.acts → s.start = m →
    (((m.image.map (·.routes)).getD []).any (fun r => r.1 == 0x1000 + k.val) = true → exec (.trigInputEdge k rise t) s = s.becomes m) ∧
    (((m.image.map (·.routes)).getD []).any (fun r => r.1 == 0x1000 + k.val) = false →
      exec (.trigInputEdge k rise t) s = s.becomes ((m.setWire (0x0500 + k.val) (flag rise)).drive (0x0500 + k.val) t rise).payOwed) ∧
    exec (.ldacInputEdge l fall t) s = s.becomes ((m.setWire (0x0510 + l.val) (flag fall)).drive (0x0510 + l.val) t fall).payOwed) ∧
  (∀ (s : State) (m : Dev) (q : Seq) (t : Instant), s.acts → s.start = m → m.on (F.TSQ_STAT_RUNNING q) = true →
    (m.hitAt q = some t → exec (.seqHit q) s = s.becomes
      (m.enterState q (m.get (F.TSQ_COND_NEXT_HIT q (m.get (F.TSQ_STAT_STATE q)))) t).payOwed) ∧
    (m.expireAt q = some t → (∀ h, m.hitAt q = some h → ¬ h / eclk ≤ t / eclk) → exec (.seqTimerExpire q) s = s.becomes
      (m.enterState q (m.get (F.TSQ_COND_NEXT_TIME q (m.get (F.TSQ_STAT_STATE q)))) t).payOwed)) ∧
  (∀ (s : State) (m : Dev) (q : Seq), s.takes (Reg.TSQ_CTL q) → (256 ≤ q.val || s.dev.defined q) = true → s.start = m →
    (m.on (F.TSQ_STAT_SHUTTING q) = true → exec (.tsqEnable q) s = s.becomes ((m.put (F.TSQ_CTL_ENABLE q) 1).put (F.TSQ_STAT_PENDING q) 1).payOwed) ∧
    (m.on (F.TSQ_STAT_SHUTTING q) = false → m.seqEnabled q = false →
      (∀ x, m.seqBad q = some x → exec (.tsqEnable q) s = s.becomes
        (((m.put (F.TSQ_CTL_ENABLE q) 0).put (F.TSQ_STAT_REFUSED q) 1).put (F.TSQ_STAT_ERR_STATE q) x).payOwed) ∧
      (∀ a, m.seqBad q = none → m.put (F.TSQ_CTL_ENABLE q) 1 = a →
        ((256 ≤ q.val || (a.bsn q).run.isSome) = true → exec (.tsqEnable q) s = s.becomes ((a.put (F.TSQ_STAT_RUNNING q) 1).enterState q 0 a.now).payOwed) ∧
        ((256 ≤ q.val || (a.bsn q).run.isSome) = false → exec (.tsqEnable q) s = s.becomes a.payOwed))) ∧
    (m.seqEnabled q = true → exec (.tsqDisable q) s = s.becomes ((m.put (F.TSQ_CTL_ENABLE q) 0).put (F.TSQ_STAT_SHUTTING q) 1).payOwed) ∧
    (m.seqEnabled q = false → exec (.tsqDisable q) s = s.becomes ((m.put (F.TSQ_CTL_ENABLE q) 0).put (F.TSQ_STAT_PENDING q) 0).payOwed)) ∧
  (∀ (s : State) (m a : Dev) (q : Seq), s.acts → s.start = m → m.on (F.TSQ_STAT_SHUTTING q) = true →
    (m.put (F.TSQ_STAT_SHUTTING q) 0).freezeSeq q m.now = a →
    (a.on (F.TSQ_STAT_PENDING q) = true → exec (.tsqShutdownDone q) s = s.becomes ((a.put (F.TSQ_STAT_PENDING q) 0).seqStart q).payOwed) ∧
    (a.on (F.TSQ_STAT_PENDING q) = false → exec (.tsqShutdownDone q) s = s.becomes a.payOwed)) ∧
  (∀ (s : State) (m : Dev) (g : GSeq), s.takes (Reg.GAU_TSQ_RESTART (256 + g.val)) → s.start = m →
    (m.seqEnabled (256 + g.val) = true → exec (.gauTsqRestart g) s = s.becomes (m.enterState (256 + g.val) 0 m.now).payOwed) ∧
    (m.seqEnabled (256 + g.val) = false → exec (.gauTsqRestart g) s = s.becomes m))

/-- (R230, R231, R232, R233, R235, R239, R73) A host ARM of idle capture runs the arming check: a code refuses it (ARM 0, REFUSED, ARM_ERR),
none starts capture; during shutdown it is held. A disarm of armed capture ends the records being taken and starts the shutdown; its end
drains every closed record, gives its segments and history back (until then the basin counts as armed: log 101) and checks a held ARM, whose
refusal code goes to the burst that wrote it. Fields of the control write are taken where capture is idle. A RD value within the ring
reached from RD without passing WR releases the segments between; any other sets RD_BAD. FORCE_TRIG triggers a running burst's capture, and
is flagged as ignored without one. Where the spec leaves a point open this is the model's choice: logs 47, 55, 101. -/
def Obligations.CaptureArmsReleasesAndShutsDown : Prop :=
  (∀ (s : State) (m x : Dev) (b : Basin) (ctl : Word), s.takesIn b (Reg.BSN_CAP_CTL b) → s.start = m → m.defined b = true → m.capFields b ctl.toNat = x →
    (x.on (F.BSN_CAP_STAT_SHUTTING b) = true → x.on (F.BSN_CAP_STAT_PENDING b) = false → exec (.captureArm b ctl) s = s.becomes
      (((x.put (F.BSN_CAP_CTL_ARM b) 1).put (F.BSN_CAP_STAT_PENDING b) 1).modBsn b fun y => { y with cap := { y.cap with burstArm := none } }).payOwed) ∧
    (x.on (F.BSN_CAP_STAT_SHUTTING b) = true → x.on (F.BSN_CAP_STAT_PENDING b) = true → exec (.captureArm b ctl) s = s.becomes x.payOwed) ∧
    (x.on (F.BSN_CAP_STAT_SHUTTING b) = false → x.on (F.BSN_CAP_STAT_ARMED b) = false →
      (x.armCode b = 0 → exec (.captureArm b ctl) s = s.becomes (x.capStart b).payOwed) ∧
      (x.armCode b ≠ 0 → exec (.captureArm b ctl) s = s.becomes
        (((x.put (F.BSN_CAP_CTL_ARM b) 0).put (F.BSN_CAP_STAT_REFUSED b) 1).put (F.BSN_CAP_STAT_ARM_ERR b) (x.armCode b)).payOwed)) ∧
    (x.on (F.BSN_CAP_STAT_SHUTTING b) = false → x.on (F.BSN_CAP_STAT_ARMED b) = true → exec (.captureArm b ctl) s = s.becomes x.payOwed) ∧
    ((x.put (F.BSN_CAP_CTL_ARM b) 0).on (F.BSN_CAP_STAT_ARMED b) = true → exec (.captureDisarm b ctl) s = s.becomes
      ((((x.put (F.BSN_CAP_CTL_ARM b) 0).endCapture b x.now).put (F.BSN_CAP_STAT_ARMED b) 0).put (F.BSN_CAP_STAT_SHUTTING b) 1).payOwed) ∧
    ((x.put (F.BSN_CAP_CTL_ARM b) 0).on (F.BSN_CAP_STAT_ARMED b) = false → exec (.captureDisarm b ctl) s = s.becomes
      ((x.put (F.BSN_CAP_CTL_ARM b) 0).put (F.BSN_CAP_STAT_PENDING b) 0).payOwed) ∧
    ((m.bsn b).run.isNone = true → exec (.forceTrig b) s = s.becomes (m.put (F.BSN_CAP_STAT_FORCE_IGNORED b) 1).payOwed) ∧
    ((m.bsn b).run.isNone = false → exec (.forceTrig b) s = s.becomes (m.trigger b 1 m.now).payOwed)) ∧
  (∀ (s : State) (m : Dev) (b : Basin) (value : Word) (n d : Nat), s.takesIn b (Reg.BSN_CAP_RD b) → s.start = m → max 1 (m.get (F.BSN_CAP_NSEG_NSEG b)) = n →
    (value.toNat % 2 ^ 20 + n - m.get (F.BSN_CAP_RD_RD b)) % n = d →
    (((m.on (F.BSN_CAP_STAT_ARMED b) || m.on (F.BSN_CAP_STAT_SHUTTING b)) && decide (value.toNat % 2 ^ 20 < n) && decide (d ≤ m.heldSegs b)) = true →
      exec (.capRdWrite b value) s = s.becomes ((m.put (F.BSN_CAP_OCC_OCC b) (m.get (F.BSN_CAP_OCC_OCC b) - d)).put (F.BSN_CAP_RD_RD b)
        (((m.put (F.BSN_CAP_OCC_OCC b) (m.get (F.BSN_CAP_OCC_OCC b) - d)).get (F.BSN_CAP_RD_RD b) + d) %
          max 1 ((m.put (F.BSN_CAP_OCC_OCC b) (m.get (F.BSN_CAP_OCC_OCC b) - d)).get (F.BSN_CAP_NSEG_NSEG b)))).payOwed) ∧
    (((m.on (F.BSN_CAP_STAT_ARMED b) || m.on (F.BSN_CAP_STAT_SHUTTING b)) && decide (value.toNat % 2 ^ 20 < n) && decide (d ≤ m.heldSegs b)) = false →
      exec (.capRdWrite b value) s = s.becomes (m.put (F.BSN_CAP_STAT_RD_BAD b) 1).payOwed)) ∧
  (∀ (s : State) (m a c e x : Dev) (b : Basin), s.acts → s.start = m → m.on (F.BSN_CAP_STAT_SHUTTING b) = true →
    (m.each (m.bsn b).cap.closed fun m _ => m.recordComplete b) = a → a.put F.GAU_SEG_USED_SEGS (a.get F.GAU_SEG_USED_SEGS - a.get (F.BSN_CAP_NSEG_NSEG b)) = c →
    ((c.each (c.tribs b) fun m t => m.put (F.TRB_GAU_HIST_USED t) (m.get (F.TRB_GAU_HIST_USED t) - m.histUnits b t)).put (F.BSN_CAP_STAT_SHUTTING b) 0).put
      (F.BSN_CAP_STAT_REARM b) 0 = e →
    (e.modBsn b fun x => { x with cap := { since := x.cap.since, units := x.cap.units, burst := x.cap.burst } }) = x →
    (x.on (F.BSN_CAP_STAT_PENDING b) = false → exec (.captureShutdownDone b) s = s.becomes x.payOwed) ∧
    (x.on (F.BSN_CAP_STAT_PENDING b) = true →
      ((e.bsn b).cap.burstArm = none → exec (.captureShutdownDone b) s = s.becomes ((x.put (F.BSN_CAP_STAT_PENDING b) 0).tryArm b).1.payOwed) ∧
      (∀ k, (e.bsn b).cap.burstArm = some k → exec (.captureShutdownDone b) s = s.becomes
        (let r := (x.put (F.BSN_CAP_STAT_PENDING b) 0).tryArm b
         if r.2 = 0 then r.1 else r.1.tellArm b k r.2).payOwed)))

/-- (R225, R229, R230, R231, R233, R234, R235, R236, R237, R238, R239) The oldest trigger of a basin's sequencer reaches its capture unit:
on armed capture with room it places a record; while a record of another ECLK is open it is missed. A slot for which a lane's drain space
has no room is the first lost one: it counts on that tributary and reports. The open record closes once POST slots, captured or lost, are in
it; the lost ones are added up and re-arm runs. Re-arm's end, after an OVERFLOW no earlier than 496 ECLK after the drain space has emptied,
drops history older than its point. The oldest closed record goes to HBM, its header last: WR moves past it, SEQ counts it, and after
RECORDS records capture disarms. Where the spec leaves a point open this is the model's choice: logs 55, 105, 106. -/
def Obligations.RecordsArePlacedClosedAndDrained : Prop :=
  (∀ (s : State) (m a : Dev) (b : Basin) (t : Instant) (l : List Instant) (r : Run), s.acts → s.start = m → (m.bsn b).triggers = t :: l →
    (m.modBsn b fun x => { x with triggers := l }) = a → (a.bsn b).run = some r → (a.bsn b).cap.finished = false → a.on (F.BSN_CAP_STAT_ARMED b) = true →
    (∀ o, (a.bsn b).cap.opened = some o → o.trigger / eclk ≠ t / eclk → exec (.captureTrigger b) s = s.becomes (a.missTrigger b t).payOwed) ∧
    ((a.bsn b).cap.opened = none → a.on (F.BSN_CAP_STAT_REARM b) = false → a.get (F.BSN_CAP_GEOM_SEGS_PER_REC b) ≤ a.freeSegs b →
      exec (.captureTrigger b) s = s.becomes (a.placeRecord b 0 t).payOwed)) ∧
  (∀ (s : State) (m a : Dev) (b : Basin) (r : CapRec), s.acts → s.start = m → m.overflow b (m.now + tickUnits) = a → (a.bsn b).cap.opened = some r →
    (r.post.length < a.capPost b → exec (.recordClose b) s = s.becomes a.payOwed) ∧
    (¬ r.post.length < a.capPost b → exec (.recordClose b) s = s.becomes
      (let n := a.get (F.BSN_CAP_RECS_RECORDS b)
       let q := r.ended (a.get (F.BSN_CAP_POST_POST b)) (a.lanes b).length
       let x := a.modBsn b fun x =>
         let c := x.cap.close q
         { x with cap := { c with history := (r.post.drop (a.capPost b)).filter (fun s => decide (c.since ≤ s.start)), finished := n != 0 && decide (n ≤ c.taken) } }
       let y := (x.put (F.BSN_CAP_STAT_OPEN b) 0).put (F.BSN_CAP_STAT_REARM b) 1
       y.setPair (Reg.BSN_CAP_LOST_LO b) (Reg.BSN_CAP_LOST_HI b) (y.pair (Reg.BSN_CAP_LOST_LO b) (Reg.BSN_CAP_LOST_HI b) + q.lost)).payOwed)) ∧
  (∀ (m : Dev) (b k t at_ : Nat) (r : CapRec), (m.bsn b).cap.opened = some r → r.cut = none → m.overflowOf b r at_ = some (k, t) →
    m.overflow b at_ = (((m.modBsn b fun x => { x with cap := { x.cap with opened := some { r with cut := some k } } }).count (F.TRB_GAU_OVF_COUNT t) 1).report
      Src.captureOverflow b 0 ((r.post[k]?.map (·.start)).getD m.now))) ∧
  (∀ (s : State) (m : Dev) (b : Basin) (t : Nat), s.acts → s.start = m → m.on (F.BSN_CAP_STAT_REARM b) = true →
    ((m.bsn b).cap.lapsed = true → ((m.bsn b).cap.emptied.any fun e => decide (e + 496 * eclk ≤ t)) = true) →
    exec (.rearmComplete b t) s = s.becomes ((m.put (F.BSN_CAP_STAT_REARM b) 0).modBsn b fun x =>
      let since := if (m.bsn b).cap.lapsed then max (m.bsn b).cap.since t else (m.bsn b).cap.since
      { x with cap := { x.cap with since := since, rearm := none, lapsed := false, history := x.cap.history.filter fun s => decide (since ≤ s.start) } }).payOwed) ∧
  (∀ (s : State) (m a c d e : Dev) (b : Basin) (r : CapRec) (l : List CapRec) (n : Nat), s.acts → s.start = m → (m.bsn b).cap.closed = r :: l →
    max 1 (m.get (F.BSN_CAP_NSEG_NSEG b)) = n → m.writeRecord (m.bsn b).cap n r.seg 64 (m.recordLanes b r).flatten = a →
    a.writeRecord (m.bsn b).cap n r.seg 0 (m.recordHeader b r (m.reg (Reg.BSN_CAP_SEQ b))) = c →
    (c.put (F.BSN_CAP_WR_WR b) ((c.get (F.BSN_CAP_WR_WR b) + c.get (F.BSN_CAP_GEOM_SEGS_PER_REC b)) % n)).setReg (Reg.BSN_CAP_SEQ b) (m.reg (Reg.BSN_CAP_SEQ b) + 1) = d →
    (d.modBsn b fun x => { x with cap := { x.cap with
        closed := l, units := x.cap.units + (m.tribs b).foldl (fun n t => n + (m.get (F.BSN_CAP_UNITS_LANE_UNITS b) - (r.units.lookup t).getD 0)) 1 } }).seeDrained b = e →
    (e.get (F.BSN_CAP_RECS_RECORDS b) ≠ 0 → m.reg (Reg.BSN_CAP_SEQ b) + 1 = e.get (F.BSN_CAP_RECS_RECORDS b) → e.on (F.BSN_CAP_STAT_ARMED b) = true →
      exec (.recordComplete b) s = s.becomes (e.capShut b).payOwed) ∧
    (¬ (e.get (F.BSN_CAP_RECS_RECORDS b) ≠ 0 ∧ m.reg (Reg.BSN_CAP_SEQ b) + 1 = e.get (F.BSN_CAP_RECS_RECORDS b) ∧ e.on (F.BSN_CAP_STAT_ARMED b) = true) →
      exec (.recordComplete b) s = s.becomes e.payOwed))

/-- (R105, R248, R249, R250, R251, R252, R73) A TON_CTL write with ENABLE = 1 takes MODE and APPLY: during a shutdown the enable is held; a
tone not enabled is enabled and loaded where its basin lets it run. ENABLE = 0 on an enabled tone stops its output and starts its shutdown,
whose end takes a held enable. A write of the high half of FTW or POFF commits the pair and shows it staged. The apply point of a running
tone with a committed change is the first tick boundary after the commit, or with APPLY 1 the edge at or after the LOAD strobe that follows
it; there the change is taken, restarting the phase or continuing it by MODE; a tone whose change is not due keeps what it has. A crossing
of the phase in the ECLK named, of the tone its basin tests, is registered 4 ECLK later. Where the spec leaves a point open this is the
model's choice: log 47. -/
def Obligations.TonesEnableChangeAndCross : Prop :=
  (∀ (s : State) (m x : Dev) (b : Basin) (c : Tone) (ctl : Word), s.takesIn b (Reg.TON_CTL b c) → s.start = m → m.toneFields b c ctl.toNat = x →
    (x.on (F.TON_STAT_SHUTTING b c) = true → exec (.toneEnable b c ctl) s = s.becomes ((x.put (F.TON_CTL_ENABLE b c) 1).put (F.TON_STAT_PENDING b c) 1).payOwed) ∧
    (x.on (F.TON_STAT_SHUTTING b c) = false → (x.tone b c).enabled = true → exec (.toneEnable b c ctl) s = s.becomes x.payOwed) ∧
    (∀ y, x.on (F.TON_STAT_SHUTTING b c) = false → (x.tone b c).enabled = false →
      (x.put (F.TON_CTL_ENABLE b c) 1).setTone b c { (x.tone b c) with enabled := true } = y →
      (y.playsNow b = true → exec (.toneEnable b c ctl) s = s.becomes (y.loadTone b c (y.tick * 1024)).payOwed) ∧
      (y.playsNow b = false → exec (.toneEnable b c ctl) s = s.becomes y.payOwed)) ∧
    (∀ y z, x.put (F.TON_CTL_ENABLE b c) 0 = y → (y.tone b c).enabled = true → (y.stopTone b c (y.tick * 1024)).put (F.TON_STAT_SHUTTING b c) 1 = z →
      exec (.toneDisable b c ctl) s = s.becomes (z.setTone b c { z.tone b c with enabled := false }).payOwed) ∧
    (∀ y, x.put (F.TON_CTL_ENABLE b c) 0 = y → (y.tone b c).enabled = false →
      exec (.toneDisable b c ctl) s = s.becomes (y.put (F.TON_STAT_PENDING b c) 0).payOwed)) ∧
  (∀ (s : State) (m x : Dev) (b : Basin) (c : Tone), s.acts → s.start = m → m.on (F.TON_STAT_SHUTTING b c) = true → m.put (F.TON_STAT_SHUTTING b c) 0 = x →
    (x.on (F.TON_STAT_PENDING b c) = true → exec (.toneShutdownDone b c) s = s.becomes ((x.put (F.TON_STAT_PENDING b c) 0).toneStart b c).payOwed) ∧
    (x.on (F.TON_STAT_PENDING b c) = false → exec (.toneShutdownDone b c) s = s.becomes x.payOwed)) ∧
  (∀ (s : State) (m x : Dev) (b : Basin) (c : Tone) (value : Word), s.start = m →
    (s.takesIn b (Reg.TON_FTW_HI b c) → (m.put (F.TON_FTW_HI_FTW b c) value.toNat).put (F.TON_STAT_STAGED b c) 1 = x →
      exec (.toneFtwCommit b c value) s = s.becomes
        (x.setTone b c { x.tone b c with commitTick := x.tick, nextFtw := some (x.reg (Reg.TON_FTW_LO b c) + 2 ^ 32 * x.get (F.TON_FTW_HI_FTW b c)) }).payOwed) ∧
    (s.takesIn b (Reg.TON_POFF_HI b c) → (m.put (F.TON_POFF_HI_POFF b c) value.toNat).put (F.TON_STAT_STAGED b c) 1 = x →
      exec (.tonePoffCommit b c value) s = s.becomes
        (x.setTone b c { x.tone b c with commitTick := x.tick, nextPoff := some (x.reg (Reg.TON_POFF_LO b c) + 2 ^ 32 * x.get (F.TON_POFF_HI_POFF b c)) }).payOwed)) ∧
  (∀ (s : State) (m : Dev) (b : Basin) (c : Tone) (t : Nat), s.acts → s.start = m →
    (m.toneDue b c t = none → exec (.toneApply b c t) s = s.becomes m) ∧
    (∀ tt a, m.toneDue b c t = some tt → m.lookBasin b tt = a →
      ((a.tone b c).mode = true → exec (.toneApply b c t) s = s.becomes (a.loadTone b c tt).payOwed) ∧
      ((a.tone b c).mode = false → exec (.toneApply b c t) s = s.becomes
        (let x := a.tone b c
         ((a.bump (F.TON_STAT_CHANGES b c)).put (F.TON_STAT_STAGED b c) 0).setTone b c
          { x.jump tt ((x.phaseAt tt + x.nextPoff.getD x.poff + 2 ^ 48 - x.poff) % 2 ^ 48) with
            ftw := x.nextFtw.getD x.ftw, poff := x.nextPoff.getD x.poff, nextFtw := none, nextPoff := none, loadAt := none }).payOwed)) ∧
    (((m.tone b c).crossedBy (t / eclk) == some (t / eclk) && m.getForce (F.BSN_FLOW_CTL_TONE b) == c.val) = true →
      exec (.toneZeroCrossing b c t) s = s.becomes
        ((m.modBsn b fun x => { x with crossings := x.crossings ++ [(c.val, eclkUp t + 4 * eclk)] }).tellLeader b 10 (eclkUp t + 4 * eclk)).payOwed) ∧
    (((m.tone b c).crossedBy (t / eclk) == some (t / eclk) && m.getForce (F.BSN_FLOW_CTL_TONE b) == c.val) = false →
      exec (.toneZeroCrossing b c t) s = s.becomes m)) ∧
  (∀ (x : ToneX) (m : Dev) (b c t : Nat), m.tone b c = x → x.running = true → (x.nextFtw.isSome || x.nextPoff.isSome) = true →
    (x.atLoad = false → m.toneDue b c t = if x.commitTick < m.tick then some (m.tick * 1024) else none) ∧
    (∀ n, x.atLoad = true → x.loadAt = some n → m.toneDue b c t = if n * eclk ≤ t then some n else none))

/-- (R157, R158, R253, R254, R259, R260, R73) A DLT_CTL write to a tributary whose image gives it no Delta pin is dropped. With a Delta pin
its fields are taken: ENABLE = 1 enables the unit, or is held during its shutdown; ENABLE = 0 on an enabled unit starts its shutdown, and
clears a held enable otherwise; the shutdown's end takes a held enable. A rate is written and waits for a burst start where it keeps the
basin within its stream share; another leaves the rate unchanged, sets RATE_REFUSED and reports. Where the spec leaves a point open this is
the model's choice: logs 47, 103, 104. -/
def Obligations.DeltaUnitsEnableAndTakeRates : Prop :=
  (∀ (s : State) (m : Dev) (t : Trib) (ctl : Word), s.takes (Reg.DLT_CTL t) → s.start = m →
    ((m.deltaPin t).isNone = true → exec (.deltaEnable t ctl) s = s.becomes m ∧ exec (.deltaDisable t ctl) s = s.becomes m) ∧
    (∀ x, (m.deltaPin t).isNone = false → (m.deltaFields t ctl.toNat).put (F.DLT_CTL_ENABLE t) 1 = x →
      (x.on (F.DLT_STAT_SHUTTING t) = true → exec (.deltaEnable t ctl) s = s.becomes (x.put (F.DLT_STAT_PENDING t) 1).payOwed) ∧
      (x.on (F.DLT_STAT_SHUTTING t) = false →
        exec (.deltaEnable t ctl) s = s.becomes ((x.setDelta t { x.delta t with enabled := true }).deltaClamp t).payOwed)) ∧
    (∀ x, (m.deltaPin t).isNone = false → (m.deltaFields t ctl.toNat).put (F.DLT_CTL_ENABLE t) 0 = x →
      ((x.delta t).enabled = true → exec (.deltaDisable t ctl) s = s.becomes
        (((x.setDelta t { x.delta t with enabled := false }).put (F.DLT_STAT_SHUTTING t) 1).deltaClamp t).payOwed) ∧
      ((x.delta t).enabled = false → exec (.deltaDisable t ctl) s = s.becomes (x.put (F.DLT_STAT_PENDING t) 0).payOwed))) ∧
  (∀ (s : State) (m x : Dev) (t : Trib), s.acts → s.start = m → m.on (F.DLT_STAT_SHUTTING t) = true → m.put (F.DLT_STAT_SHUTTING t) 0 = x →
    (x.on (F.DLT_STAT_PENDING t) = true → exec (.deltaShutdownDone t) s = s.becomes
      (((x.put (F.DLT_STAT_PENDING t) 0).setDelta t { x.delta t with enabled := true }).deltaClamp t).payOwed) ∧
    (x.on (F.DLT_STAT_PENDING t) = false → exec (.deltaShutdownDone t) s = s.becomes x.payOwed)) ∧
  (∀ (s : State) (m x : Dev) (t : Trib) (b : Nat) (value : Word), s.takes (Reg.DLT_RATE t) → s.start = m → m.deltaOwner t = some b →
    m.put (F.DLT_RATE_DIV t) value.toNat = x →
    (x.streamDemand b + x.sampleDemand b ≤ (m.bdef b).streamSh →
      exec (.deltaRateWrite t value) s = s.becomes (x.setDelta t { x.delta t with nextDiv := some (value.toNat % 65536) }).payOwed) ∧
    (¬ x.streamDemand b + x.sampleDemand b ≤ (m.bdef b).streamSh →
      exec (.deltaRateWrite t value) s = s.becomes ((m.put (F.DLT_STAT_RATE_REFUSED t) 1).report Src.deltaRate t 0 m.now).payOwed))

/-- (R73, R271, R272, R276, R279, R280, R371, R372) ADC_CTL with ENABLE = 1 powers the channel, or is held during its shutdown; ENABLE = 0
on a powered channel stops its scan and starts the shutdown, and clears a held enable otherwise. The shutdown ends once no scan is in
progress: POWERED and READY clear, and a held enable powers the channel again. A gain routine within the plausible limits stores GAIN and
OFFS; another reports and stores nothing. The first routine on a powered channel sets READY. A stage takeover on a ready channel moves POS
on; a bad trim is counted and reported, the third retires the stage, keeps that in the Reservoir and degrades the channel, and another moves
POS on. Where the spec leaves a point open this is the model's choice: log 56. -/
def Obligations.AdcsPowerCalibrateAndRetireStages : Prop :=
  (∀ (s : State) (m x : Dev) (k : Adc) (ctl : Word), s.takes (Reg.ADC_CTL k) → s.start = m → m.scanFields k ctl.toNat = x →
    ((x.put (F.ADC_CTL_ENABLE k) 1).on (F.ADC_STAT_SHUTTING k) = true →
      exec (.adcEnable k ctl) s = s.becomes ((x.put (F.ADC_CTL_ENABLE k) 1).put (F.ADC_STAT_PENDING k) 1).payOwed) ∧
    ((x.put (F.ADC_CTL_ENABLE k) 1).on (F.ADC_STAT_SHUTTING k) = false →
      exec (.adcEnable k ctl) s = s.becomes ((x.put (F.ADC_CTL_ENABLE k) 1).put (F.ADC_STAT_POWERED k) 1).payOwed) ∧
    (∀ y, x.put (F.ADC_CTL_ENABLE k) 0 = y → (y.on (F.ADC_STAT_SHUTTING k) || !y.on (F.ADC_STAT_POWERED k)) = true →
      exec (.adcDisable k ctl) s = s.becomes (y.put (F.ADC_STAT_PENDING k) 0).payOwed) ∧
    (∀ y, x.put (F.ADC_CTL_ENABLE k) 0 = y → (y.on (F.ADC_STAT_SHUTTING k) || !y.on (F.ADC_STAT_POWERED k)) = false →
      exec (.adcDisable k ctl) s = s.becomes ((y.scanShut k y.now).put (F.ADC_STAT_SHUTTING k) 1).payOwed)) ∧
  (∀ (s : State) (m x : Dev) (k : Adc), s.acts → s.start = m → m.on (F.ADC_STAT_SHUTTING k) = true → m.on (F.ADC_STAT_SCANNING k) = false →
    ((m.put (F.ADC_STAT_SHUTTING k) 0).put (F.ADC_STAT_POWERED k) 0).put (F.ADC_STAT_READY k) 0 = x →
    (x.on (F.ADC_STAT_PENDING k) = true → exec (.adcPowerDown k) s = s.becomes ((x.put (F.ADC_STAT_PENDING k) 0).put (F.ADC_STAT_POWERED k) 1).payOwed) ∧
    (x.on (F.ADC_STAT_PENDING k) = false → exec (.adcPowerDown k) s = s.becomes x.payOwed)) ∧
  (∀ (s : State) (m : Dev) (k : Adc) (r33 r35 : Nat) (g o : Int), s.acts → s.start = m → gainOf (m.reg Reg.ADC_REF_VAL : Nat) r33 r35 = g → offsOf g r35 = o →
    ((g < 32440 ∨ 33096 < g ∨ o < -328 ∨ 328 < o) → exec (.adcGainRoutine k r33 r35) s = s.becomes (m.report Src.calPlausibility (2 * k.val) 0 m.now).payOwed) ∧
    (¬ (g < 32440 ∨ 33096 < g ∨ o < -328 ∨ 328 < o) → exec (.adcGainRoutine k r33 r35) s = s.becomes
      ((m.put (F.ADC_GAIN_GAIN k) g.toNat).put (F.ADC_OFFS_OFFS k) (ofSigned 16 o)).payOwed) ∧
    (m.on (F.ADC_STAT_POWERED k) = true → m.on (F.ADC_STAT_SHUTTING k) = false → m.on (F.ADC_STAT_READY k) = false →
      exec (.adcReady k r33 r35) s = s.becomes ((m.gainRoutine k r33 r35).put (F.ADC_STAT_READY k) 1).payOwed)) ∧
  (∀ (s : State) (m x : Dev) (k : Adc) (pos n : Nat), s.acts → s.start = m → m.on (F.ADC_STAT_READY k) = true → m.get (F.ADC_CAL_RETIRED k) = 0xF →
    m.get (F.ADC_CAL_POS k) = pos →
    (m.setAdc k { m.adc k with fails := (m.adc k).fails.set pos 0 } = x →
      (pos = 13 → exec (.adcStageTakeover k true) s = s.becomes ((x.put (F.ADC_CAL_POS k) 0).bump (F.ADC_CAL_ROUNDS k)).payOwed) ∧
      (pos ≠ 13 → exec (.adcStageTakeover k true) s = s.becomes (x.put (F.ADC_CAL_POS k) (pos + 1)).payOwed)) ∧
    ((m.adc k).fails.getD pos 0 + 1 = n →
      (m.setAdc k { m.adc k with fails := (m.adc k).fails.set pos n }).report Src.adcStage k pos (m.setAdc k { m.adc k with fails := (m.adc k).fails.set pos n }).now = x →
      (3 ≤ n → exec (.adcStageTakeover k false) s = s.becomes
        (let y := ({ x with rsv := { x.rsv with retired := x.rsv.retired ++ [(k.val, pos)] } } : Dev).recWrite Rec.stage k 0 (leBytes 4 pos)
         ((y.put (F.ADC_CAL_RETIRED k) pos).put (F.ADC_STAT_DEGRADED k) 1).report Src.adcDegraded k pos y.now).payOwed) ∧
      (¬ 3 ≤ n → pos = 13 → exec (.adcStageTakeover k false) s = s.becomes ((x.put (F.ADC_CAL_POS k) 0).bump (F.ADC_CAL_ROUNDS k)).payOwed) ∧
      (¬ 3 ≤ n → pos ≠ 13 → exec (.adcStageTakeover k false) s = s.becomes (x.put (F.ADC_CAL_POS k) (pos + 1)).payOwed)))

/-- (R73, R267, R272, R273, R274, R275, R276, R277) RUN = 1 on a stopped scan checks the setup: the lowest failing code refuses it, none
enables scanning; during a scan's shutdown it is held. RUN = 0 shuts the scan down. A start by the host, by PERIOD or by a LOAD strobe acts
where scanning is enabled with that SRC: it begins the scan of the masked inputs, is flagged as missed where one is in progress, waits for
READY, and is refused with its code where the setup no longer holds. The result of a dwell is formed from the quantity at its input and the
converter's error, corrected, limited and compared by a CHECK input, kept as the input's latest, queued with its stamp and put to the
threshold on it; then the next input of the scan begins, or the scan ends: a free-running one starts again, and a shutdown ends with it and
takes a held RUN. Where the spec leaves a point open this is the model's choice: logs 56, 86, 108. -/
def Obligations.ScansStartStopAndConvert : Prop :=
  (∀ (s : State) (m x : Dev) (k : Adc) (ctl : Word), s.takes (Reg.ADC_CTL k) → s.start = m → m.scanFields k ctl.toNat = x →
    (x.on (F.ADC_STAT_SCAN_SHUTTING k) = true → exec (.scanRun k ctl) s = s.becomes ((x.put (F.ADC_CTL_RUN k) 1).put (F.ADC_STAT_SCAN_PENDING k) 1).payOwed) ∧
    (x.on (F.ADC_STAT_SCAN_SHUTTING k) = false → x.on (F.ADC_STAT_SCAN_RUN k) = true → exec (.scanRun k ctl) s = s.becomes x.payOwed) ∧
    (∀ c l, x.on (F.ADC_STAT_SCAN_SHUTTING k) = false → x.on (F.ADC_STAT_SCAN_RUN k) = false → x.scanCodes k = c :: l →
      exec (.scanRun k ctl) s = s.becomes (((x.scanShut k x.now).put (F.ADC_STAT_REFUSED k) 1).put (F.ADC_STAT_ERR k) c).payOwed) ∧
    (∀ y, x.on (F.ADC_STAT_SCAN_SHUTTING k) = false → x.on (F.ADC_STAT_SCAN_RUN k) = false → x.scanCodes k = [] →
      (x.put (F.ADC_CTL_RUN k) 1).put (F.ADC_STAT_SCAN_RUN k) 1 = y →
      (y.get (F.ADC_CTL_SRC k) = 1 → exec (.scanRun k ctl) s = s.becomes (y.scanStart k y.now none).payOwed) ∧
      (y.get (F.ADC_CTL_SRC k) ≠ 1 → exec (.scanRun k ctl) s = s.becomes y.payOwed)) ∧
    exec (.scanStop k ctl) s = s.becomes (x.scanShut k m.now).payOwed) ∧
  (∀ (s : State) (m : Dev) (k : Adc) (t : Nat), s.start = m → m.on (F.ADC_STAT_SCAN_RUN k) = true →
    (s.takes (Reg.ADC_CTL k) → m.get (F.ADC_CTL_SRC k) = 0 → exec (.scanStartHost k) s = s.becomes (m.scanStart k m.now none).payOwed) ∧
    (s.acts → m.get (F.ADC_CTL_SRC k) = 1 → m.get (F.ADC_PERIOD_PERIOD k) ≠ 0 → (m.adc k).lastStart + m.get (F.ADC_PERIOD_PERIOD k) ≤ m.tick →
      exec (.scanStartPeriodic k) s = s.becomes (m.scanStart k m.now none).payOwed) ∧
    (s.acts → m.get (F.ADC_CTL_SRC k) = 2 → exec (.scanStartLoad k t) s = s.becomes
      (m.scanStart k (ceilDiv (t / eclk * eclk + m.get (F.ADC_DWELL_DELAY k) * eclk) conversion * conversion) none).payOwed)) ∧
  (∀ (s : State) (m : Dev) (k : Adc), s.takes (Reg.ADC_CTL k) → s.start = m → m.on (F.ADC_STAT_SCAN_RUN k) = true → m.get (F.ADC_CTL_SRC k) = 0 →
    (m.on (F.ADC_STAT_SCANNING k) = true → exec (.scanStartHost k) s = s.becomes (m.put (F.ADC_STAT_MISSED k) 1).payOwed) ∧
    (m.on (F.ADC_STAT_SCANNING k) = false → m.on (F.ADC_STAT_READY k) = false →
      exec (.scanStartHost k) s = s.becomes (m.setAdc k { m.adc k with waiting := true }).payOwed) ∧
    (∀ c l, m.on (F.ADC_STAT_SCANNING k) = false → m.on (F.ADC_STAT_READY k) = true → m.scanSetup k = c :: l →
      exec (.scanStartHost k) s = s.becomes (((m.scanShut k m.now).put (F.ADC_STAT_REFUSED k) 1).put (F.ADC_STAT_ERR k) c).payOwed) ∧
    (m.on (F.ADC_STAT_SCANNING k) = false → m.on (F.ADC_STAT_READY k) = true → m.scanSetup k = [] →
      exec (.scanStartHost k) s = s.becomes ((m.put (F.ADC_STAT_SCANNING k) 1).setAdc k { (m.put (F.ADC_STAT_SCANNING k) 1).adc k with
        scan := m.scanInputs k, short := false, dwell := m.dwellOf k, dwellAt := m.now, before := none, lastStart := m.tick, waiting := false }).payOwed)) ∧
  (∀ (s : State) (m a p c d : Dev) (k : Adc) (q err raw : Int) (limit clip : Bool) (x : AdcX) (i stop first : Nat) (rest : List Nat) (v : Nat × Bool), s.acts → s.start = m →
    m.adc k = x → x.scan = i :: rest → m.on (F.ADC_STAT_SCANNING k) = true → x.dwellAt + x.dwell * conversion = stop →
    (if x.before == some i then x.dwellAt else x.dwellAt + 8 * conversion) = first → m.seeClamp k i q first = a →
    a.rawOf k (a.inputVolts k i q first) err = raw → a.corrected k (clampInt 0 (65535 * 16) raw).toNat = v →
    (limit || v.2 || decide (raw ≤ 0) || decide (65535 * 16 ≤ raw)) = clip →
    (if i = 32 then a.plausible k v.1 (stop + 16 * conversion) else a) = p →
    ((((p.put (F.ADC_LAST_VALUE k i) v.1).put (F.ADC_LAST_VALID k i) 1).put (F.ADC_LAST_CLIP k i) (flag clip)).put
      (F.ADC_LAST_SUSPECT k i) (flag (p.on (F.ADC_PLS_STAT_SUSPECT (pairOf k))))).put (F.ADC_LAST_SCAN k i) (p.get (F.ADC_STAT_SCANS k)) = c →
    (let n := c.fifoPush k ⟨c.stampNs first, v.1, i, clip, p.on (F.ADC_PLS_STAT_SUSPECT (pairOf k)), false, p.get (F.ADC_STAT_SCANS k) % 128⟩
     if n.on (F.ADC_THR_EN k) && n.get (F.ADC_THR_INPUT k) == i then
       n.setFlag k (decide (v.1 < n.get (F.ADC_THR_LIM_LO k)) || decide (n.get (F.ADC_THR_LIM_HI k) < v.1)) (stop + 16 * conversion)
     else n) = d →
    (rest ≠ [] → exec (.adcResult k q err limit) s = s.becomes
      (d.setAdc k { d.adc k with scan := rest, dwellAt := stop, before := some i }).payOwed) ∧
    (rest = [] → d.on (F.ADC_STAT_SCAN_SHUTTING k) = false → exec (.adcResult k q err limit) s = s.becomes
      (let e := (d.put (F.ADC_STAT_SCANNING k) 0).bump (F.ADC_STAT_SCANS k)
       let e := e.setAdc k { e.adc k with scan := [], before := none }
       if e.get (F.ADC_CTL_SRC k) = 1 ∧ e.get (F.ADC_PERIOD_PERIOD k) = 0 then e.scanStart k stop (some i) else e).payOwed) ∧
    (rest = [] → d.on (F.ADC_STAT_SCAN_SHUTTING k) = true → exec (.adcResult k q err limit) s = s.becomes
      (let e := (d.put (F.ADC_STAT_SCANNING k) 0).put (F.ADC_STAT_SCAN_SHUTTING k) 0
       let e := if (e.adc k).short then e else e.bump (F.ADC_STAT_SCANS k)
       let e := e.setAdc k { e.adc k with scan := [], before := none }
       if e.on (F.ADC_STAT_SCAN_PENDING k) then (e.put (F.ADC_STAT_SCAN_PENDING k) 0).scanEnable k else e).payOwed))

/-- (R73, R277, R281, R282, R283, R284, R371) P_CTL with ENABLE = 1 takes the other fields; for a BUS_SEL that names no source the enable is
refused (a running converter then shuts down: log 109); otherwise a stopped converter starts, unsettled, while during a shutdown the enable
is held. ENABLE = 0 on a running converter starts its shutdown, unsettles it and discards its session; the shutdown's end takes a held
enable. A result, formed from the quantity at the input and the converter's error, is corrected, limited and stamped, counts, and the third
since a change settles the converter. A good ZERO or FULL step keeps its sum and value in the session; COMMIT without both fails with 0x06,
or 0x0A after a loss, and a good one stores the coefficients in the Reservoir and for the next boundary; DISCARD drops the session, and so
do 600 s; what a drop loses is kept as lost (log 114). Where the spec leaves a point open this is the model's choice: logs 56, 108, 109. -/
def Obligations.PAdcsConvertAndCalibrate : Prop :=
  (∀ (s : State) (m x : Dev) (p : PAdc) (ctl : Word), s.takes (Reg.P_CTL p) → s.start = m → m.padcFields p ctl.toNat = x →
    (∀ y, busOk (bitsOf ctl.toNat 26 16) = false → x.put (F.P_CTL_ENABLE p) 0 = y →
      ((y.on (F.P_STAT_RUNNING p) && !y.on (F.P_STAT_SHUTTING p)) = true → exec (.pAdcEnable p ctl) s = s.becomes
        ((((y.put (F.P_STAT_SHUTTING p) 1).put (F.P_STAT_SETTLED p) 0).dropSession p).put (F.P_STAT_REFUSED p) 1).payOwed) ∧
      ((y.on (F.P_STAT_RUNNING p) && !y.on (F.P_STAT_SHUTTING p)) = false → exec (.pAdcEnable p ctl) s = s.becomes
        ((y.put (F.P_STAT_PENDING p) 0).put (F.P_STAT_REFUSED p) 1).payOwed)) ∧
    (busOk (bitsOf ctl.toNat 26 16) = true → x.on (F.P_STAT_SHUTTING p) = true →
      exec (.pAdcEnable p ctl) s = s.becomes ((x.put (F.P_CTL_ENABLE p) 1).put (F.P_STAT_PENDING p) 1).payOwed) ∧
    (busOk (bitsOf ctl.toNat 26 16) = true → x.on (F.P_STAT_SHUTTING p) = false → x.on (F.P_STAT_RUNNING p) = true →
      exec (.pAdcEnable p ctl) s = s.becomes x.payOwed) ∧
    (∀ y, busOk (bitsOf ctl.toNat 26 16) = true → x.on (F.P_STAT_SHUTTING p) = false → x.on (F.P_STAT_RUNNING p) = false →
      ((x.put (F.P_CTL_ENABLE p) 1).put (F.P_STAT_RUNNING p) 1).put (F.P_STAT_SETTLED p) 0 = y →
      exec (.pAdcEnable p ctl) s = s.becomes (y.setPadc p { x.padc p with results := 0 }).payOwed) ∧
    (∀ y, x.put (F.P_CTL_ENABLE p) 0 = y → (y.on (F.P_STAT_RUNNING p) && !y.on (F.P_STAT_SHUTTING p)) = true →
      exec (.pAdcDisable p ctl) s = s.becomes (((y.put (F.P_STAT_SHUTTING p) 1).put (F.P_STAT_SETTLED p) 0).dropSession p).payOwed) ∧
    (∀ y, x.put (F.P_CTL_ENABLE p) 0 = y → (y.on (F.P_STAT_RUNNING p) && !y.on (F.P_STAT_SHUTTING p)) = false →
      exec (.pAdcDisable p ctl) s = s.becomes (y.put (F.P_STAT_PENDING p) 0).payOwed)) ∧
  (∀ (s : State) (m x : Dev) (p : PAdc), s.acts → s.start = m → m.on (F.P_STAT_SHUTTING p) = true → (m.put (F.P_STAT_SHUTTING p) 0).put (F.P_STAT_RUNNING p) 0 = x →
    (x.on (F.P_STAT_PENDING p) = true → exec (.pAdcShutdownDone p) s = s.becomes ((x.put (F.P_STAT_PENDING p) 0).padcStart p).payOwed) ∧
    (x.on (F.P_STAT_PENDING p) = false → exec (.pAdcShutdownDone p) s = s.becomes x.payOwed)) ∧
  (∀ (s : State) (m a c d : Dev) (p : PAdc) (q err : Int) (t : Nat) (v w : Int), s.acts → s.start = m → m.on (F.P_STAT_RUNNING p) = true → m.on (F.P_STAT_SHUTTING p) = false →
    roundDiv ((m.padcRaw p (m.padcVolts p q t) err - toSigned 24 (m.get (F.P_OFFS_OFFS p))) * m.reg (Reg.P_GAIN p)) (2 ^ 30) = v → clampInt (-8388607) 8388607 v = w →
    ((m.setPadc p { m.padc p with results := (m.padc p).results + 1 }).put (F.P_RES_LO_VALUE p) (ofSigned 24 w)).put (F.P_RES_LO_CLIP p) (flag (w != v)) = a →
    (a.put (F.P_RES_HI_TS_NS p) (a.stampNs t)).bump (F.P_STAT_RESULTS p) = c →
    (if 3 ≤ (m.padc p).results + 1 then c.put (F.P_STAT_SETTLED p) 1 else c) = d →
    (d.on (F.P_CTL_THR_EN p) = false → exec (.pAdcResult p q err t) s = s.becomes d.payOwed) ∧
    (d.on (F.P_CTL_THR_EN p) = true → exec (.pAdcResult p q err t) s = s.becomes
      (d.setFlag (32 + p.val) (decide (w < toSigned 24 (d.get (F.P_THR_LO_LO p))) || decide (toSigned 24 (d.get (F.P_THR_HI_HI p)) < w)) t).payOwed)) ∧
  (∀ (s : State) (m a c : Dev) (slot : Slot) (irq : Bool) (l : List Int) (p : Nat), s.takes (Reg.MBX_CMD slot) → s.start = m →
    a.syscalStepErr slot l = 0 → (a.syscalBuffer slot l).sessionBegin p = c →
    (m.syscalStart slot irq 0 = (a, some p) → exec (.padcSyscalZero slot irq l) s = s.becomes
      ((c.setPadc p { c.padc p with zero := some (sumOf l, (a.syscalBuffer slot l).syscalValue slot) }).opEnd slot 0).payOwed) ∧
    (m.syscalStart slot irq 1 = (a, some p) → exec (.padcSyscalFull slot irq l) s = s.becomes
      ((c.setPadc p { c.padc p with full := some (sumOf l, (a.syscalBuffer slot l).syscalValue slot) }).opEnd slot 0).payOwed)) ∧
  (∀ (s : State) (m a : Dev) (slot : Slot) (irq stored : Bool) (p : Nat), s.takes (Reg.MBX_CMD slot) → s.start = m →
    (m.syscalStart slot irq 2 = (a, some p) → (a.padc p).zero = none ∨ (a.padc p).full = none → exec (.padcSyscalCommit slot irq stored) s = s.becomes
      ((a.setPadc p { (a.padc p) with lost := false }).opEnd slot (if (a.padc p).lost then 0x0A else 0x06)).payOwed) ∧
    (∀ z f g o c d, m.syscalStart slot irq 2 = (a, some p) → stored = true → (a.padc p).zero = some z → (a.padc p).full = some f → ¬ f.2 - z.2 < 1500000 →
      syscalGain z f = g → syscalOffs z g = o → ¬ (g < 1063004406 ∨ 1084479242 < g) → ¬ (o < -16777 ∨ 16777 < o) →
      (a.recWrite Rec.padc p 0 (leBytes 4 g.toNat ++ leBytes 4 (ofSigned 24 o))).setPadc p
        { a.padc p with zero := none, full := none, next := some (g.toNat, ofSigned 24 o) } = c →
      { c with rsv := { c.rsv with padc := c.rsv.padc.filter (fun (e : Nat × Nat × Nat) => e.1 != p) ++ [(p, g.toNat, ofSigned 24 o)] } } = d →
      exec (.padcSyscalCommit slot irq stored) s = s.becomes
        ((((d.setMem (resultBase slot) 8 g.toNat).setMem (resultBase slot + 8) 8 (ofSigned 64 o)).partialCount slot 2).opEnd slot 0).payOwed) ∧
    (m.syscalStart slot irq 3 = (a, some p) → exec (.padcSyscalDiscard slot irq) s = s.becomes
      ((a.setPadc p { a.padc p with zero := none, full := none, lost := (a.padc p).lost || (a.padc p).zero.isSome || (a.padc p).full.isSome }).opEnd slot 0).payOwed)) ∧
  (∀ (s : State) (m : Dev) (p : PAdc), s.acts → s.start = m →
    ((m.padc p).since + 585937500 ≤ m.tick → exec (.padcSessionExpire p) s = s.becomes (m.setPadc p
      { m.padc p with zero := none, full := none, lost := (m.padc p).lost || (m.padc p).zero.isSome || (m.padc p).full.isSome }).payOwed) ∧
    (¬ (m.padc p).since + 585937500 ≤ m.tick → exec (.padcSessionExpire p) s = s.becomes m))

/-- (R53, R72, R135, R146, R292, R296, R298, R299, R300, R301, R420, R421) The head of a chain joins its list where an entry is free, fewer
than 64 bursts returned in this tick, and its list has nothing on chip, or no chain's list is so bare and it is this chain's turn; else
nothing changes. A dispatched burst whose delivery is due and whose setup list is intact has every entry applied, its timing and deskew
values taken and, where its descriptor asks it, ARM tried; where an entry may not be written it is dropped with DESC_INVALID, detail 7. A
delivered burst whose tick has come enters the slot: refill pointers are set, the resident load begins and its range is locked. A burst that
holds all it needs becomes primed. One whose start was decided starts at its tick, or ends SPAN_MISMATCH where the devices of its span
disagree. A ramp step moves its share of pins to the pre-spin word. MIN_BURST's end clears PADDING. Where the spec leaves a point open this
is the model's choice: logs 29, 31, 44, 90, 102. -/
def Obligations.BurstsComeOnDeckAndStart : Prop :=
  (∀ (s : State) (m : Dev) (b : Basin) (l : Prio) (c : Nat) (r : List Nat), s.acts → s.start = m → (m.bsn b).chains.getD l [] = c :: r →
    ((!m.entryFree b l || decide (64 ≤ m.weir.returns) ||
        !(m.chainsBare.contains (8 * b + l) || (m.chainsBare.isEmpty && m.chainTurn == some (8 * b.val + l.val)))) = false →
      exec (.unspillLand b l) s = s.becomes
        ((((m.modWeir fun w => { w with returns := w.returns + 1
                                        lastChain := if m.chainsBare.contains (8 * b + l) then w.lastChain else 8 * b + l }).modBsn b fun x =>
          { x with chains := x.chains.set l r, lists := x.lists.modify l (· ++ [c]) }).setCtx c Ctx.ready).trace Trace.unspill l b c).payOwed) ∧
    ((!m.entryFree b l || decide (64 ≤ m.weir.returns) ||
        !(m.chainsBare.contains (8 * b + l) || (m.chainsBare.isEmpty && m.chainTurn == some (8 * b.val + l.val)))) = true →
      exec (.unspillLand b l) s = s.becomes m)) ∧
  (∀ (s : State) (m x : Dev) (b : Basin) (d : Deck) (ecc : Ecc) (a : Nat) (l : List (Nat × Nat)), s.acts → s.start = m → (m.bsn b).deck = some d →
    d.delivered = false → ¬ m.tick < d.tick + 3 → (m.part (m.bdef b).coursePart).base + m.desc d.ctx 16 8 = a →
    ((List.range (m.desc d.ctx 10 2)).map fun i => (m.mem (a + 8 * i) 4, m.mem (a + 8 * i + 4) 4)) = l →
    (if m.desc d.ctx 10 2 = 0 then (m, true) else m.readUnit b Cls.house a ecc) = (x, true) →
    ((l.any fun e => !m.setupOk b e.1) = true → exec (.burstDelivery b ecc) s = s.becomes ((x.dropDeck b 0x0F 0x07).idleCheck b).payOwed) ∧
    (∀ y z, (l.any fun e => !m.setupOk b e.1) = false → (x.each l fun m e => m.setupWrite b e).takeTiming b = y →
      (y.each (y.allPins b) fun m p => (m.takeDeck (Reg.PIN_DSK_DRV p)).takeDeck (Reg.PIN_DSK_CMP p)) = z →
      (z.descFlag d.ctx 0 = true → exec (.burstDelivery b ecc) s = s.becomes
        ((z.burstArm b d.ctx).1.modDeck b fun k => { k with delivered := true, setupDone := true, armCode := (z.burstArm b d.ctx).2 }).payOwed) ∧
      (z.descFlag d.ctx 0 = false → exec (.burstDelivery b ecc) s = s.becomes
        (z.modDeck b fun k => { k with delivered := true, setupDone := true, armCode := 0 }).payOwed))) ∧
  (∀ (s : State) (m x y z : Dev) (b : Basin) (d : Deck), s.acts → s.start = m → (m.bsn b).deck = some d → d.delivered = true → d.onDeck = false →
    ¬ m.tick < d.tick + 4 → (m.each (m.lanes b) fun n p => n.modPin p fun x => { x with rDeck := n.seek b false 64 (m.desc d.ctx 8 2) }) = x →
    (x.each (x.deltasOf b) fun n k => n.setDelta k { n.delta k with deckPtr := n.seek b true 64 (m.desc d.ctx 8 2) }) = y →
    y.put (F.BSN_RES_LOAD_STATE b) (flag (m.descFlag d.ctx 3)) = z →
    exec (.burstOnDeck b) s = s.becomes (z.modDeck b fun k => { k with
      onDeck := true, asked := z.tick
      lockFirst := if m.descFlag d.ctx 3 then z.mem (m.resBlock b d.ctx) 2 % 2048 else 0
      lockCount := if m.descFlag d.ctx 3 then z.mem (m.resBlock b d.ctx + 2) 2 else 0 }).payOwed) ∧
  (∀ (s : State) (m : Dev) (b : Basin) (d : Deck) (t : Nat), s.acts → s.start = m → (m.bsn b).deck = some d →
    (d.primedAt = none → m.primed b d = true → exec (.burstPrimed b t) s = s.becomes (m.modDeck b fun d => { d with primedAt := some t }).payOwed) ∧
    (m.primed b d = false → exec (.burstPrimed b t) s = s.becomes m)) ∧
  (∀ (s : State) (m : Dev) (b : Basin) (d : Deck) (n : Nat), s.acts → s.start = m → (m.bsn b).deck = some d → (m.bsn b).run = none →
    d.startTick = some n → n ≤ m.tick →
    (m.spanAgrees b = false → exec (.burstStartFromHold b) s = s.becomes ((m.dropDeck b 0x0D 0).idleCheck b).payOwed) ∧
    (m.spanAgrees b = true → exec (.burstStartFromHold b) s = s.becomes (m.startBurst b false m.now).payOwed)) ∧
  (∀ (s : State) (m a : Dev) (b : Basin) (n k : Nat), s.acts → s.start = m → (m.bsn b).rampStart = some n → (m.bsn b).ramp = k →
    ¬ m.tick < n + k → ¬ (m.bdef b).prespinTicks ≤ k → (if k = 0 then m.checkHold b (m.bdef b).prespinAddr m.now else (m, true)) = (a, true) →
    exec (.prespinRampStep b) s = s.becomes
      ((a.each ((List.range (a.lanes b).length).filter fun i => i * (m.bdef b).prespinTicks / max 1 (a.lanes b).length == k) fun m' i =>
        let p := (a.lanes b).getD i 0
        let h := if (m'.bsn b).hold.isSome then m'.playHoldPin b m'.now p else m'
        ((h.modPin p fun x => { x with ramped := some h.now, holdAt := h.now, holdFresh := true }).put (F.PIN_ENG_STAT_STATE p) 5).put
          (F.PIN_ENG_PC_ADDR p) (m.bdef b).prespinAddr).modBsn b fun x => { x with ramp := k + 1 }).payOwed) ∧
  (∀ (s : State) (m : Dev) (b : Basin), s.acts → s.start = m →
    (m.minBurstOver b m.tick = true → exec (.minBurstExpire b) s = s.becomes (m.put (F.BSN_WEI_STAT_PADDING b) 0).payOwed) ∧
    (m.minBurstOver b m.tick = false → exec (.minBurstExpire b) s = s.becomes m))

/-- (R78, R306, R307, R308) A cancel of a context joins the queue of cancels with its tick, or is lost and flagged where 64 wait; a cancel
of a basin is kept with the contexts that wait in it now. A running burst whose MAX_TICKS have passed since its start becomes aborting with
status 6 from this tick's exchange point, unless it is already. An aborting burst plays the rest of its word, or hold vectors of its stall,
up to the first boundary at or after its exchange point: there it ends with its status and its basin passes on; a number of vectors that
leads to another boundary has no effect, and one whose engines halted on the way stops there. Where the spec leaves a point open this is the
model's choice: logs 39, 43, 45. -/
def Obligations.CancelsAndTimeoutsEndBursts : Prop :=
  (∀ (s : State) (m : Dev) (c : Ctxt) (b : Basin) (abort : Bool), s.start = m →
    (s.takes Reg.WEI_CANCEL → 64 ≤ m.weir.cancels.length → exec (.weiCancel c abort) s = s.becomes (m.put F.WEI_STAT_CANCEL_LOST 1).payOwed) ∧
    (s.takes Reg.WEI_CANCEL → ¬ 64 ≤ m.weir.cancels.length → exec (.weiCancel c abort) s = s.becomes
      (m.modWeir fun w => { w with cancels := w.cancels ++ [(c.val, abort, m.tick)] }).cancelShow.payOwed) ∧
    (s.takes Reg.WEI_CANCEL_BASIN → exec (.weiCancelBasin b abort) s = s.becomes
      (m.modWeir fun w => { w with basinCancels := w.basinCancels ++ [(b.val, abort, (m.bsn b).queued)] }).payOwed)) ∧
  (∀ (s : State) (m : Dev) (b : Basin) (r : Run), s.acts → s.start = m → (m.bsn b).run = some r →
    ((m.desc r.ctx 12 4 ≠ 0 ∧ r.start + m.desc r.ctx 12 4 * tickUnits ≤ m.now) → exec (.burstTimeout b) s = s.becomes
      (m.modRun b fun r => { r with aborting := r.aborting.or (some (0x06, m.exchangeNow)) }).payOwed) ∧
    (¬ (m.desc r.ctx 12 4 ≠ 0 ∧ r.start + m.desc r.ctx 12 4 * tickUnits ≤ m.now) → exec (.burstTimeout b) s = s.becomes m)) ∧
  (∀ (s : State) (m a e : Dev) (b : Basin) (r : Run) (k vector : Nat) (seen : Seen) (status : Nat) (point : Instant), s.acts → s.start = m →
    (m.bsn b).run = some r → r.aborting = some (status, point) → m.playRest b k seen = a →
    (if r.stall.isSome then a.modBsn b fun x => { x with pos := (x.hold.getD x.pos) + k * a.period b (a.holdSet b) } else a) = e →
    e.period b (if r.stall.isSome then e.holdSet b else (e.bsn b).tset) = vector →
    ((a.bsn b).run.any (·.halted) = true → exec (.cancelRunningEnd b k seen) s = s.becomes a.payOwed) ∧
    ((a.bsn b).run.any (·.halted) = false → ((e.bsn b).pos < point ∨ 0 < k ∧ point + vector ≤ (e.bsn b).pos) →
      exec (.cancelRunningEnd b k seen) s = s.becomes m) ∧
    ((a.bsn b).run.any (·.halted) = false → ¬ ((e.bsn b).pos < point ∨ 0 < k ∧ point + vector ≤ (e.bsn b).pos) →
      exec (.cancelRunningEnd b k seen) s = s.becomes ((e.endBurst b status 0 (e.bsn b).pos).afterEnd b (e.bsn b).closing (e.bsn b).pos).payOwed))

/-- (R238, R304, R305, R468) A completion waits where the HOUSE allowance has not the units its records still need, or an earlier course
fetch comes first; otherwise those units are spent. In the sealed state nothing else is then done. Otherwise the oldest ended burst of the
basin completes: capture records it closed go to HBM, then its record and stall records to RESULT_ADDR where one is given, then its entry is
posted at the tail of its queue, or waits behind others or for room with CQ_FULL set. The oldest entry that waits is posted once its queue
has room. Where the spec leaves a point open this is the model's choice: logs 42, 46. -/
def Obligations.CompletionsAreWrittenAndPosted : Prop :=
  (∀ (s : State) (m : Dev) (b : Basin) (d : Done) (l : List Done), s.acts → s.start = m → (m.bsn b).done = d :: l →
    (decide (m.houseLeft b < m.houseCost b d - (m.bsn b).paid) || (m.houseCost b d - (m.bsn b).paid != 0 && m.fetchWaits b (d.tick + 1))) = true →
      exec (.burstCompletion b) s = s.becomes m) ∧
  (∀ (s : State) (m n : Dev) (b : Basin) (d : Done) (l : List Done), s.acts → s.start = m → (m.bsn b).done ≠ [] → (m.bsn b).done.headD d = d →
    (decide (m.houseLeft b < m.houseCost b d - (m.bsn b).paid) || (m.houseCost b d - (m.bsn b).paid != 0 && m.fetchWaits b (d.tick + 1))) = false →
    (m.modBsn b fun x => { x with house := x.house + (m.houseCost b d - (m.bsn b).paid) }) = n → (n.bsn b).done = d :: l →
    (n.on F.LEV_STAT_SEALED = true → exec (.burstCompletion b) s = s.becomes n.payOwed) ∧
    (∀ x y z, n.on F.LEV_STAT_SEALED = false → (n.modBsn b fun x => { x with done := l, paid := 0 }) = x →
      (x.each ((x.bsn b).cap.closed.filter fun r => r.ctx == d.ctx) fun m _ => m.recordComplete b) = y → (y.writeResult b d).trace Trace.complete d.status b d.ctx = z →
      (((Tbl.find [] z.weir.waiting (ctxQueue d.ctx)).isEmpty && !z.cqFull (ctxQueue d.ctx)) = true →
        exec (.burstCompletion b) s = s.becomes (z.postEntry (ctxQueue d.ctx) (z.entryFor d)).payOwed) ∧
      (((Tbl.find [] z.weir.waiting (ctxQueue d.ctx)).isEmpty && !z.cqFull (ctxQueue d.ctx)) = false →
        exec (.burstCompletion b) s = s.becomes
          ((z.modWeir fun w => { w with waiting := Tbl.set [] w.waiting (ctxQueue d.ctx) (Tbl.find [] z.weir.waiting (ctxQueue d.ctx) ++ [z.entryFor d]) }).put
            (F.QP_STAT_CQ_FULL (ctxQueue d.ctx)) 1).payOwed))) ∧
  (∀ (s : State) (m : Dev) (q : Queue) (e : CqEntry) (l : List CqEntry), s.acts → s.start = m → Tbl.find [] m.weir.waiting q.val = e :: l →
    (m.cqFull q = true → exec (.completionPost q) s = s.becomes m) ∧
    (m.cqFull q = false → exec (.completionPost q) s = s.becomes
      ((m.modWeir fun w => { w with waiting := Tbl.set [] w.waiting q.val l }).postEntry q e).payOwed))

/-- (R323, R328, R329, R332) A refresh of a stack sets its fast rate from its temperature against 85 °C. Read-timing drift within range
changes nothing; beyond it RETRAIN sets and hbm-training reports. A marked row whose pseudo-channel was not repaired within 16 ticks is
repaired onto a spare row: counted, its bank's spares less by one, no longer marked or found, reported; with no spare left only
hbm-exhausted reports. A stack enters self-refresh when it is enabled, every basin is quiet, the idle time has passed and no gap runs; a
request makes it exit. Where the spec leaves a point open this is the model's choice: log 58. -/
def Obligations.RefreshRepairAndSelfRefreshAct : Prop :=
  (∀ (s : State) (m : Dev) (k : Stack), s.acts → s.start = m → exec (.hbmRefresh k) s = s.becomes
    (m.modSlc fun x => { x with fast := x.fast.set k (decide (680 < toSigned 12 (if k.val = 0 then m.get F.SLC_TEMP_T0 else m.get F.SLC_TEMP_T1))) }).payOwed) ∧
  (∀ (s : State) (m : Dev) (k : Stack), s.acts → s.start = m → exec (.readTimingTrack k true) s = s.becomes m ∧
    exec (.readTimingTrack k false) s = s.becomes ((m.put F.SLC_STAT_RETRAIN 1).report Src.hbmTraining k 0 (m.put F.SLC_STAT_RETRAIN 1).now).payOwed) ∧
  (∀ (s : State) (m x : Dev) (row : Nat), s.acts → s.start = m → m.slc.marked.contains row = true →
    ((m.slc.repaired.lookup (row / 2 ^ 24)).any fun t => decide (m.tick < t + 16)) = false →
    (m.modSlc fun x => { x with marked := x.marked.filter (· != row) }) = x →
    (Config.spareRows (row / 2 ^ 16) ≤ Tbl.find 0 m.slc.spent (row / 2 ^ 16) →
      exec (.rowRepair row) s = s.becomes (x.report Src.hbmExhausted (row / 2 ^ 24) 0 x.now).payOwed) ∧
    (∀ y z, ¬ Config.spareRows (row / 2 ^ 16) ≤ Tbl.find 0 m.slc.spent (row / 2 ^ 16) →
      (x.modSlc fun z => { z with spent := Tbl.set 0 z.spent (row / 2 ^ 16) (Tbl.find 0 m.slc.spent (row / 2 ^ 16) + 1), repaired := z.repaired.filter (fun e => e.1 != row / 2 ^ 24) ++ [(row / 2 ^ 24, x.tick)], foundNow := z.foundNow.filter (· != row), foundBefore := z.foundBefore.filter (· != row) }) = y →
      (y.count F.SLC_REPAIR_ROWS 1).count F.SLC_REPAIR_HARD_PEND 1 = z →
      exec (.rowRepair row) s = s.becomes ((z.put F.SLC_REPAIR_MIN_SPARE (min (z.get F.SLC_REPAIR_MIN_SPARE)
        (Config.spareRows (row / 2 ^ 16) - Tbl.find 0 m.slc.spent (row / 2 ^ 16) - 1))).report Src.hbmRowRepair (row / 2 ^ 24) 0 z.now).payOwed)) ∧
  (∀ (s : State) (m : Dev) (k : Stack), s.acts → s.start = m →
    (m.on F.SLC_CTL_ASR_EN = true → (m.definedBasins.all fun b => m.bstate b == St.disabled || m.bstate b == St.held) = true →
      m.slc.lastRequest.getD k 0 + m.get F.SLC_ASR_IDLE ≤ m.tick → m.slc.step ≠ 3 → m.inRefresh k = false →
      exec (.idleSelfRefreshEntry k) s = s.becomes (m.put F.SLC_STAT_SR (setBits (m.get F.SLC_STAT_SR) k k 1)).payOwed) ∧
    (m.on F.SLC_CTL_ASR_EN = false → exec (.idleSelfRefreshEntry k) s = s.becomes m) ∧
    (m.inRefresh k = true → m.slc.step ≠ 3 → exec (.idleSelfRefreshExit k) s = s.becomes
      ((m.put F.SLC_STAT_SR (setBits (m.get F.SLC_STAT_SR) k k 0)).modSlc fun x => { x with lastRequest := x.lastRequest.set k (m.put F.SLC_STAT_SR (setBits (m.get F.SLC_STAT_SR) k k 0)).tick }).payOwed))

/-- (R324, R325, R326, R327, R332) A training command with a bad mask ends 0x01, under an admitted image 0x06; a good one runs. Its end
leaves the training region as free values: bad lanes end it 0x07; else lane repairs are made, results for the points named come into force
at the stacks' temperatures, and it ends 0 with them in Reservoir, or 0x08 where Reservoir fails. A change to a point beyond 2 ends 0x01, to
the current one 0, one that does not carry the demand 0x02 without FORCE, to an untrained one 0x03; else the lead phase runs. It ends 0x04
after 64 ticks, commits at a tick boundary after the issue once the lead condition holds or under FORCE, both stacks entering self-refresh;
the gap's end sets the point, and the first tick boundary after it the capacity. Where the spec leaves a point open this is the model's
choice: logs 58, 70, 111. -/
def Obligations.TrainingAndOperatingPointsChange : Prop :=
  (∀ (s : State) (m a : Dev) (slot : Slot) (irq : Bool), s.takes (Reg.MBX_CMD slot) → s.start = m → m.opStart slot Op.slcTrain irq 0x05 = (a, true) → a.sluiceBusy slot = false →
    ((bitsOf (a.param slot 0) 3 0 = 0 ∨ 8 ≤ bitsOf (a.param slot 0) 3 0) → exec (.slcTrain slot irq) s = s.becomes (a.opEnd slot 0x01).payOwed) ∧
    (¬ (bitsOf (a.param slot 0) 3 0 = 0 ∨ 8 ≤ bitsOf (a.param slot 0) 3 0) → a.image.isSome = true → exec (.slcTrain slot irq) s = s.becomes (a.opEnd slot 0x06).payOwed) ∧
    (¬ (bitsOf (a.param slot 0) 3 0 = 0 ∨ 8 ≤ bitsOf (a.param slot 0) 3 0) → a.image.isSome = false → exec (.slcTrain slot irq) s = s.becomes
      ((a.put F.SLC_STAT_OP_BUSY 1).modSlc fun x => { x with training := some (slot.val, bitsOf (a.param slot 0) 3 0) }).payOwed)) ∧
  (∀ (s : State) (m a c : Dev) (k mask : Nat) (stored : Bool), s.acts → s.start = m → m.slc.training = some (k, mask) →
    ((m.put F.SLC_STAT_OP_BUSY 0).modSlc fun x => { x with training := none }) = a →
    { a with drawn := a.drawn + 0x200000, slc := { a.slc with patterns := a.drawn + 1 },
             hbm := a.hbm.filter fun e => decide (e.1 < 0x0C200000) || decide (0x0C400000 ≤ e.1) } = c →
    exec (.slcTrainDone false stored) s = s.becomes (c.opEnd k 0x07).payOwed ∧
    (∀ (d e : Dev) (join : List (Nat × Nat × Nat) → List (Nat × Nat × Nat)), c.repairLanes.put F.SLC_STAT_RETRAIN 0 = e →
      (fun l : List (Nat × Nat × Nat) => l.filter (fun x => !bitOf mask x.1) ++
        ((List.range 3).filter fun p => bitOf mask p).map fun p => (p, e.get F.SLC_TEMP_T0, e.get F.SLC_TEMP_T1)) = join →
      (e.modSlc fun x => { x with trained := join x.trained }).showTraining = d →
      exec (.slcTrainDone true false) s = s.becomes (((d.put F.RSV_STAT_WRITE_ERR 1).report Src.reservoirWrite 0 0 d.now).opEnd k 0x08).payOwed ∧
      exec (.slcTrainDone true true) s = s.becomes
        (({ d.setPair Reg.RSV_WRITES_LO Reg.RSV_WRITES_HI (d.pair Reg.RSV_WRITES_LO Reg.RSV_WRITES_HI + 1) with
            rsv := { (d.setPair Reg.RSV_WRITES_LO Reg.RSV_WRITES_HI (d.pair Reg.RSV_WRITES_LO Reg.RSV_WRITES_HI + 1)).rsv with
              trained := join (d.setPair Reg.RSV_WRITES_LO Reg.RSV_WRITES_HI (d.pair Reg.RSV_WRITES_LO Reg.RSV_WRITES_HI + 1)).rsv.trained } } : Dev).opEnd k 0).payOwed)) ∧
  (∀ (s : State) (m a : Dev) (slot : Slot) (irq : Bool) (t : Nat), s.takes (Reg.MBX_CMD slot) → s.start = m → m.opStart slot Op.opChange irq 0x05 = (a, true) →
    a.sluiceBusy slot = false → bitsOf (a.param slot 0) 3 0 = t →
    (2 < t → exec (.slcOpchange slot irq) s = s.becomes (a.opEnd slot 0x01).payOwed) ∧
    (¬ 2 < t → t = a.get F.SLC_STAT_OP → exec (.slcOpchange slot irq) s = s.becomes (a.opEnd slot 0).payOwed) ∧
    (¬ 2 < t → t ≠ a.get F.SLC_STAT_OP →
      (!bitOf (a.param slot 0) 8 && decide (16 * opCapacity t < a.get F.SLC_CAP_DEMAND)) = true → exec (.slcOpchange slot irq) s = s.becomes (a.opEnd slot 0x02).payOwed) ∧
    (¬ 2 < t → t ≠ a.get F.SLC_STAT_OP →
      (!bitOf (a.param slot 0) 8 && decide (16 * opCapacity t < a.get F.SLC_CAP_DEMAND)) = false →
      ((!bitOf (a.get F.SLC_TRAIN_VALID) t || !bitOf (a.get F.SLC_TRAIN_INBAND) t) = true → exec (.slcOpchange slot irq) s = s.becomes (a.opEnd slot 0x03).payOwed) ∧
      ((!bitOf (a.get F.SLC_TRAIN_VALID) t || !bitOf (a.get F.SLC_TRAIN_INBAND) t) = false → exec (.slcOpchange slot irq) s = s.becomes
        ((a.put F.SLC_STAT_OP_BUSY 1).modSlc fun x => { x with
          step := 2, slot := slot.val, target := t, since := a.tick, force := bitOf (a.param slot 0) 8 }).payOwed))) ∧
  (∀ (s : State) (m : Dev), s.acts → s.start = m →
    (m.slc.step = 2 → m.slc.force = false → m.slc.since + 64 ≤ m.tick → exec .opchangeLeadTimeout s = s.becomes (m.opChangeEnd 0x04).payOwed) ∧
    (m.slc.step = 2 → m.slc.since < m.tick → (m.slc.force || m.leadHolds) = true → exec .opchangeCommit s = s.becomes
      (((m.setSlot m.slc.slot { m.slot m.slc.slot with committed := true }).put F.SLC_STAT_SR 3).modSlc fun x => { x with step := 3 }).payOwed) ∧
    (m.slc.step = 2 → (m.tick ≤ m.slc.since ∨ (m.slc.force || m.leadHolds) = false) → exec .opchangeCommit s = s.becomes m) ∧
    (∀ x, m.slc.step = 3 → (m.put F.SLC_STAT_SR 0).put F.SLC_STAT_OP (m.put F.SLC_STAT_SR 0).slc.target = x → exec .opchangeGapEnd s = s.becomes
      (x.modSlc fun y => { y with step := 4, since := x.tick, lastRequest := [x.tick, x.tick] }).repairLanes.payOwed) ∧
    (∀ x, m.slc.step = 4 → m.slc.since < m.tick → m.put F.SLC_CAP_CAP_UNITS (16 * opCapacity m.slc.target) = x → exec .opchangeComplete s = s.becomes
      ((x.put F.SLC_STAT_OVER (flag (decide (16 * opCapacity m.slc.target < x.get F.SLC_CAP_DEMAND)))).opChangeEnd 0).payOwed))

/-- (R337, R338, R339, R340, R343, R347, R348) The first lock sets the reference found, starts TT anew at 0, takes the nominal increment and
reads LOCKED, REF_OK and no HOLDOVER, enabled outputs starting; a device already locked keeps everything. A reference loss clears REF_OK and
ALIGNED and sets REF_LOST: a locked device holds over and reports, one in slack loses its count. A restored reference relocks from holdover,
or reads REF_OK. An unlock with a valid reference clears ALIGNED, holds over and reports. Where the spec leaves a point open this is the
model's choice: logs 59, 61. -/
def Obligations.HeadwaterLocksHoldsAndUnlocks : Prop :=
  (∀ (s : State) (m : Dev) (ref10 : Bool), s.acts → s.start = m →
    (m.on F.HDW_STAT_LOCKED = true → exec (.headwaterLock ref10) s = s.becomes m) ∧
    (∀ x, m.on F.HDW_STAT_LOCKED = false → ¬ 2 ≤ m.get F.SPT_SLACK_STATE → m.put F.HDW_STAT_REF_10M (flag ref10) = x →
      (x.clk.locked = true → exec (.headwaterLock ref10) s = s.becomes x.setLocked.payOwed) ∧
      (x.clk.locked = false → exec (.headwaterLock ref10) s = s.becomes
        (((x.rebase x.now).modClk fun c => { c with locked := true, inc := x.nominalInc }).setReg Reg.TMB_INC x.nominalInc).setLocked.payOwed))) ∧
  (∀ (s : State) (m x : Dev), s.acts → s.start = m → ((m.put F.HDW_STAT_REF_OK 0).put F.TMB_STAT_REF_LOST 1).put F.HDW_STAT_ALIGNED 0 = x →
    (2 ≤ x.get F.SPT_SLACK_STATE → exec .refclkLoss s = s.becomes (x.modClk fun c => { c with slackLost := true }).payOwed) ∧
    (¬ 2 ≤ x.get F.SPT_SLACK_STATE → x.on F.HDW_STAT_LOCKED = true → exec .refclkLoss s = s.becomes ((x.put F.HDW_STAT_HOLDOVER 1).report Src.refclkLoss 0 0 x.now).payOwed) ∧
    (¬ 2 ≤ x.get F.SPT_SLACK_STATE → x.on F.HDW_STAT_LOCKED = false → exec .refclkLoss s = s.becomes (x.report Src.refclkLoss 0 0 x.now).payOwed)) ∧
  (∀ (s : State) (m : Dev), s.acts → s.start = m →
    (m.on F.HDW_STAT_HOLDOVER = true → exec .refclkRestore s = s.becomes m.setLocked.payOwed) ∧
    (m.on F.HDW_STAT_HOLDOVER = false → exec .refclkRestore s = s.becomes (m.put F.HDW_STAT_REF_OK 1).payOwed) ∧
    ((m.on F.HDW_STAT_LOCKED && m.on F.HDW_STAT_REF_OK) = true → exec .headwaterUnlock s = s.becomes
      (((m.put F.HDW_STAT_ALIGNED 0).put F.HDW_STAT_HOLDOVER 1).report Src.headwaterUnlock 0 0 m.now).payOwed) ∧
    ((m.on F.HDW_STAT_LOCKED && m.on F.HDW_STAT_REF_OK) = false → exec .headwaterUnlock s = s.becomes m))

/-- (R73, R341, R342) A CLKOUT enable takes AMP, and FMT and DIV where it may; during a shutdown it is held; a divider below 2 or below its
format's least refuses it (ENABLE 0, REFUSED 1); else ENABLE reads 1 and the output runs once Headwater has locked, at the phase written and
its first grid point from then on. A disable clears ENABLE and a held enable and, where it runs, starts the shutdown up to its next grid
point; its end stops the output low and takes a held enable. -/
def Obligations.ClockOutputsRunAndStop : Prop :=
  (∀ (s : State) (m x : Dev) (n : Cko) (ctl : Word), s.takes (Reg.HDW_CKO_CTL n) → s.start = m → m.ckoFields n ctl.toNat = x →
    (x.on (F.HDW_CKO_STAT_SHUTTING n) = true → exec (.clkoutEnable n ctl) s = s.becomes ((x.put (F.HDW_CKO_CTL_ENABLE n) 1).put (F.HDW_CKO_STAT_PENDING n) 1).payOwed) ∧
    (x.on (F.HDW_CKO_STAT_SHUTTING n) = false → x.on (F.HDW_CKO_CTL_ENABLE n) = true → exec (.clkoutEnable n ctl) s = s.becomes x.payOwed) ∧
    (x.on (F.HDW_CKO_STAT_SHUTTING n) = false → x.on (F.HDW_CKO_CTL_ENABLE n) = false →
      (decide (x.ckoDiv n < 2) || decide (x.ckoDiv n < ckoLeast (x.get (F.HDW_CKO_CTL_FMT n)))) = true →
      exec (.clkoutEnable n ctl) s = s.becomes ((x.put (F.HDW_CKO_CTL_ENABLE n) 0).put (F.HDW_CKO_STAT_REFUSED n) 1).payOwed) ∧
    (∀ y, x.on (F.HDW_CKO_STAT_SHUTTING n) = false → x.on (F.HDW_CKO_CTL_ENABLE n) = false →
      (decide (x.ckoDiv n < 2) || decide (x.ckoDiv n < ckoLeast (x.get (F.HDW_CKO_CTL_FMT n)))) = false → x.put (F.HDW_CKO_CTL_ENABLE n) 1 = y →
      ((y.on F.HDW_STAT_LOCKED && y.on (F.HDW_CKO_CTL_ENABLE n)) = true → exec (.clkoutEnable n ctl) s = s.becomes
        (let z := (y.put (F.HDW_CKO_STAT_RUNNING n) 1).modClk fun c =>
           { c with phases := Tbl.set 0 c.phases n (y.get (F.HDW_CKO_PH_PH n)) }
         z.modClk fun c => { c with ckoFrom := Tbl.set 0 c.ckoFrom n (z.ckoNext n z.now) }).payOwed) ∧
      ((y.on F.HDW_STAT_LOCKED && y.on (F.HDW_CKO_CTL_ENABLE n)) = false → exec (.clkoutEnable n ctl) s = s.becomes y.payOwed)) ∧
    (∀ y, (x.put (F.HDW_CKO_CTL_ENABLE n) 0).put (F.HDW_CKO_STAT_PENDING n) 0 = y →
      (y.on (F.HDW_CKO_STAT_RUNNING n) = true → exec (.clkoutDisable n ctl) s = s.becomes
        ((y.put (F.HDW_CKO_STAT_SHUTTING n) 1).modClk fun c => { c with ckoUntil := Tbl.set 0 c.ckoUntil n (y.ckoNext n (y.now + 1)) }).payOwed) ∧
      (y.on (F.HDW_CKO_STAT_RUNNING n) = false → exec (.clkoutDisable n ctl) s = s.becomes y.payOwed))) ∧
  (∀ (s : State) (m x : Dev) (n : Cko), s.acts → s.start = m → m.on (F.HDW_CKO_STAT_SHUTTING n) = true →
    ((m.put (F.HDW_CKO_STAT_SHUTTING n) 0).put (F.HDW_CKO_STAT_RUNNING n) 0).put (F.HDW_CKO_STAT_WALK n) 0 = x →
    (x.on (F.HDW_CKO_STAT_PENDING n) = true → exec (.clkoutShutdownDone n) s = s.becomes ((x.put (F.HDW_CKO_STAT_PENDING n) 0).ckoStart n).payOwed) ∧
    (x.on (F.HDW_CKO_STAT_PENDING n) = false → exec (.clkoutShutdownDone n) s = s.becomes x.payOwed))

/-- (R343, R344, R346, R347, R350) An arm takes MONITOR and sets ARM, or ARM_REFUSED while a basin is active. An armed pulse starts the
event: the tree walks, HDW_PHASE takes a free value (log 3, the model's) and the event's zero is A − SKEW; an unarmed one is measured where
MONITOR is set. At TT = 0 the time base is latched in TMB_SYNC_TS, TT starts anew 25.6 µs after the event, outputs that shut down stop,
those that run start their grids anew, and the time base keeps its value or takes SYNC_LOAD's. A realignment walks PHASE by the last
deviation, or is refused while a basin is active. Where the spec leaves a point open this is the model's choice: logs 3, 59, 60. -/
def Obligations.SyncAlignsTheDevice : Prop :=
  (∀ (s : State) (m x : Dev) (ctl : Word), s.takes Reg.HDW_SYNC_CTL → s.start = m → m.put F.HDW_SYNC_CTL_MONITOR (bitsOf ctl.toNat 1 1) = x →
    (x.anyActive = true → exec (.syncArm ctl) s = s.becomes (x.put F.HDW_STAT_ARM_REFUSED 1).payOwed) ∧
    (x.anyActive = false → exec (.syncArm ctl) s = s.becomes (x.put F.HDW_SYNC_CTL_ARM 1).payOwed) ∧
    (m.anyActive = true → exec .syncRealign s = s.becomes (m.put F.HDW_STAT_ARM_REFUSED 1).payOwed) ∧
    (m.anyActive = false → exec .syncRealign s = s.becomes
      ((m.put F.HDW_PHASE_PHASE (ofSigned 16 ((m.get F.HDW_PHASE_PHASE : Int) + toSigned 16 (m.get F.HDW_SYNC_DEV_DEV)))).put F.HDW_STAT_WALK
        (flag (toSigned 16 (m.get F.HDW_SYNC_DEV_DEV) != 0))).payOwed)) ∧
  (∀ (s : State) (m : Dev) (a : Nat), s.acts → s.start = m →
    (m.on F.HDW_SYNC_CTL_ARM = true → m.clk.event = 0 → exec (.syncPulse a) s = s.becomes
      ((((m.put F.HDW_PHASE_PHASE (m.free 16)).draw).put F.HDW_STAT_WALK 1).modClk fun c =>
        { c with event := 1, eventS := a - m.get F.HDW_SYNC_SKEW_SKEW, skew := some (m.get F.HDW_SYNC_SKEW_SKEW) }).payOwed) ∧
    (m.on F.HDW_SYNC_CTL_ARM = true → m.clk.event ≠ 0 → exec (.syncPulse a) s = s.becomes m) ∧
    (m.on F.HDW_SYNC_CTL_ARM = false → m.on F.HDW_SYNC_CTL_MONITOR = true → exec (.syncPulse a) s = s.becomes (m.syncMeasure a).payOwed) ∧
    (m.on F.HDW_SYNC_CTL_ARM = false → m.on F.HDW_SYNC_CTL_MONITOR = false → exec (.syncPulse a) s = s.becomes m)) ∧
  (∀ (s : State) (m x y : Dev) (z v : Nat), s.acts → s.start = m → m.clk.event = 1 → m.clk.eventS + alignPeriod = z → m.timeAt z = v →
    (m.setReg Reg.TMB_SYNC_TS_LO (v / 2 ^ 24)).put F.TMB_SYNC_TS_HI_FRAC v = x → ((x.rebase z).each (List.range 8) Dev.ckoShutDone).modClk (fun c => { c with ckoFrom := c.ckoFrom.map fun e => (e.1, Tbl.find 0 c.phases e.1) }) = y →
    (y.on F.TMB_CTL_SYNC_LOAD = false → exec .syncTtZero s = s.becomes
      ((({ y with timeBase := v, timeRest := 0, latches := [(0, v)] } : Dev).put F.HDW_STAT_WALK 0).modClk fun c => { c with event := 2 }).payOwed) ∧
    (y.on F.TMB_CTL_SYNC_LOAD = true → exec .syncTtZero s = s.becomes
      ((({ y with timeBase := y.reg Reg.TMB_SYNC_LOAD_LO * 2 ^ 24 + y.get F.TMB_SYNC_LOAD_HI_FRAC, timeRest := 0,
                  latches := [(0, y.reg Reg.TMB_SYNC_LOAD_LO * 2 ^ 24 + y.get F.TMB_SYNC_LOAD_HI_FRAC)] } : Dev).put F.HDW_STAT_WALK 0).modClk fun c =>
        { c with event := 2 }).payOwed))

/-- (R348, R349, R350, R353, R363, R451) An apply is armed for the tick staged, or with LATE for the next where that is not later. At that
tick, or later where REFCLK was lost, the time base adds STEP, which reads 0 again, and INC takes its staged value, or INC_BAD sets where it
is off nominal by more than 0.1 %. A half crossing sets HALF, and at 0 counts WRAP. A port enable takes RSFEC and ENABLE; a disable drops
the link and ends a servo on the port; only an enabled port gains a link, and losing one ends the servo. Where the spec leaves a point open
this is the model's choice: logs 61, 62. -/
def Obligations.TimeBaseAndEthernetPortsAct : Prop :=
  (∀ (s : State) (m : Dev), s.takes Reg.TMB_CTL → s.start = m →
    (m.pair Reg.TMB_APPLY_LO Reg.TMB_APPLY_HI ≤ m.tick + 1 → exec .tmbApplyArm s = s.becomes
      (((m.put F.TMB_STAT_LATE 1).put F.TMB_STAT_ARMED 1).modClk fun c => { c with applyAt := some ((m.put F.TMB_STAT_LATE 1).tick + 1) }).payOwed) ∧
    (¬ m.pair Reg.TMB_APPLY_LO Reg.TMB_APPLY_HI ≤ m.tick + 1 → exec .tmbApplyArm s = s.becomes
      ((m.put F.TMB_STAT_ARMED 1).modClk fun c => { c with applyAt := some (m.pair Reg.TMB_APPLY_LO Reg.TMB_APPLY_HI) }).payOwed)) ∧
  (∀ (s : State) (m x : Dev) (n step : Nat), s.acts → s.start = m → m.clk.applyAt = some n → ¬ m.tick < n → m.on F.HDW_STAT_REF_OK = true →
    m.reg Reg.TMB_STEP_LO + 2 ^ 32 * m.get F.TMB_STEP_HI_STEP = step →
    (({ m with timeBase := (m.timeBase + step) % 2 ^ 56 } : Dev).setReg Reg.TMB_STEP_LO 0).setReg Reg.TMB_STEP_HI 0 = x →
    ((x.nominalInc : Int) < 1000 * ((x.clk.inc : Int) - x.nominalInc).natAbs → exec .tmbApply s = s.becomes
      (((x.put F.TMB_STAT_INC_BAD 1).put F.TMB_STAT_ARMED 0).modClk fun c => { c with applyAt := none }).payOwed) ∧
    (¬ (x.nominalInc : Int) < 1000 * ((x.clk.inc : Int) - x.nominalInc).natAbs → exec .tmbApply s = s.becomes
      (((x.setReg Reg.TMB_INC x.clk.inc).put F.TMB_STAT_ARMED 0).modClk fun c => { c with applyAt := none }).payOwed)) ∧
  (∀ (s : State) (m : Dev), s.acts → s.start = m →
    exec (.timeBaseHalf true) s = s.becomes ((m.put F.TMB_STAT_HALF 1).bump F.TMB_NOW_HI_WRAP).payOwed ∧
    exec (.timeBaseHalf false) s = s.becomes (m.put F.TMB_STAT_HALF 1).payOwed) ∧
  (∀ (s : State) (m : Dev) (e : Eth) (ctl : Word), s.takes (Reg.ETH_CTL e) → s.start = m →
    (m.on (F.ETH_CTL_ENABLE e) = false → exec (.ethEnable e ctl) s = s.becomes ((m.put (F.ETH_CTL_RSFEC e) (bitsOf ctl.toNat 1 1)).put (F.ETH_CTL_ENABLE e) 1).payOwed ∧
      exec (.ethDisable e ctl) s = s.becomes (m.put (F.ETH_CTL_RSFEC e) (bitsOf ctl.toNat 1 1)).payOwed) ∧
    (m.on (F.ETH_CTL_ENABLE e) = true → exec (.ethEnable e ctl) s = s.becomes m ∧
      exec (.ethDisable e ctl) s = s.becomes (((m.put (F.ETH_CTL_ENABLE e) 0).put (F.ETH_STAT_LINK e) 0).servoEnd e 0x01).payOwed)) ∧
  (∀ (s : State) (m : Dev) (e : Eth), s.acts → s.start = m →
    (m.on (F.ETH_CTL_ENABLE e) = true → exec (.ethLinkUp e) s = s.becomes (m.put (F.ETH_STAT_LINK e) 1).payOwed) ∧
    (m.on (F.ETH_CTL_ENABLE e) = false → exec (.ethLinkUp e) s = s.becomes m) ∧
    (m.on (F.ETH_STAT_LINK e) = true → exec (.ethLinkDown e) s = s.becomes ((m.put (F.ETH_STAT_LINK e) 0).servoEnd e 0x01).payOwed) ∧
    (m.on (F.ETH_STAT_LINK e) = false → exec (.ethLinkDown e) s = s.becomes m))

/-- (R109, R301, R355, R356, R357, R358, R359) An enable of a link that was off starts its training; a disable takes it down. Lock, the
start of cycles under ALIGNED, and the measured delay bring it up in turn, D_L being the delay plus 8 ns rounded up to 8 ns. Loss of block
lock takes a trained link back to training and reports, as do three discarded cycles and drift. A cycle whose check fails counts and
reports; a good one on an up link releases its FLOW and trigger blocks. An exchange is begun on an up link, once its interval has passed;
SYNC, DREQ and DRESP stamp, answer and complete it, and its path delay and offset are shown. A control message's identity, PRIMED reports
and latencies are kept. Where the spec leaves a point open this is the model's choice: logs 26, 53, 62, 84, 112, 113, 121. -/
def Obligations.LinksTrainAndCarryCycles : Prop :=
  (∀ (s : State) (m x : Dev) (l : Link) (ctl : Word), s.takes (Reg.VTL_CTL l) → s.start = m → m.put (F.VTL_CTL_TRIG_TX l) (bitsOf ctl.toNat 31 16) = x →
    (x.on (F.VTL_CTL_ENABLE l) = true → exec (.vutilEnable l ctl) s = s.becomes x.payOwed) ∧
    (x.on (F.VTL_CTL_ENABLE l) = false → exec (.vutilEnable l ctl) s = s.becomes
      (((x.put (F.VTL_CTL_ENABLE l) 1).put (F.VTL_STAT_STATE l) Lnk.locking).setLink l {}).payOwed) ∧
    exec (.vutilDisable l ctl) s = s.becomes ((x.put (F.VTL_CTL_ENABLE l) 0).put (F.VTL_STAT_STATE l) Lnk.down).payOwed) ∧
  (∀ (s : State) (m : Dev) (l : Link) (delay cause : Nat), s.acts → s.start = m →
    (m.lnkState l = Lnk.locking → exec (.vutilLock l) s = s.becomes (m.put (F.VTL_STAT_STATE l) Lnk.waitAlign).payOwed) ∧
    (m.lnkState l = Lnk.waitAlign → m.on F.HDW_STAT_ALIGNED = true → exec (.vutilCyclesStart l) s = s.becomes (m.put (F.VTL_STAT_STATE l) Lnk.measuring).payOwed) ∧
    (m.lnkState l = Lnk.measuring → exec (.vutilUp l delay) s = s.becomes
      ((m.put (F.VTL_LAT_D l) (ceilDiv (delay + 32000) 32000 * 8)).put (F.VTL_STAT_STATE l) Lnk.up).payOwed) ∧
    ((decide (m.lnkState l ≤ Lnk.locking) || (cause == 1 && decide ((m.link l).misses < 3))) = false → exec (.vutilLinkDown l cause) s = s.becomes
      (((m.put (F.VTL_STAT_STATE l) Lnk.locking).setLink l {}).report Src.linkDown l 0 m.now).payOwed) ∧
    ((decide (m.lnkState l ≤ Lnk.locking) || (cause == 1 && decide ((m.link l).misses < 3))) = true → exec (.vutilLinkDown l cause) s = s.becomes m)) ∧
  (∀ (s : State) (m : Dev) (l : Link) (c : LinkCycle), s.acts → s.start = m → ¬ m.lnkState l < Lnk.measuring →
    (c.ok = false → exec (.vutilCycleReceive l c) s = s.becomes
      (((m.setLink l { m.link l with misses := (m.link l).misses + 1 }).count (F.VTL_ERR_CYCLES l) 1).report Src.linkError l 0 m.now).payOwed) ∧
    (∀ x, c.ok = true → m.setLink l { m.link l with misses := 0 } = x →
      (x.lnkState l ≠ Lnk.up → exec (.vutilCycleReceive l c) s = s.becomes x.payOwed) ∧
      (x.lnkState l = Lnk.up → exec (.vutilCycleReceive l c) s = s.becomes ((x.each c.flow fun m f => m.flowBlock l f).each c.trig fun m e => m.trigLine l e).payOwed))) ∧
  (∀ (s : State) (m : Dev) (l : Link) (origin corr t : Nat), s.acts → s.start = m →
    (¬ m.lnkState l < Lnk.measuring → exec (.vutilSyncMessage l origin corr t) s = s.becomes
      (m.setLink l { m.link l with origin := some ((origin + corr) % 2 ^ 56), receipt := (m.stampFull t + 2 ^ 56 - m.ingress l) % 2 ^ 56 }).payOwed) ∧
    (¬ m.lnkState l < Lnk.measuring → exec (.vutilDreq l t) s = s.becomes
      ({ m with out := m.out ++ [.service l 2 [(m.stampFull t + 2 ^ 56 - m.ingress l) % 2 ^ 56]] } : Dev).payOwed) ∧
    (m.lnkState l < Lnk.measuring → exec (.vutilSyncMessage l origin corr t) s = s.becomes m ∧ exec (.vutilDreq l t) s = s.becomes m) ∧
    (∀ x, m.lnkState l = Lnk.up → (m.link l).exchanged.any (fun n => decide (m.tick < n + 2 ^ m.get F.VTL_SYNC_N)) = false →
      m.setLink l { m.link l with request := some ((m.stampFull t + m.egress l) % 2 ^ 56), exchanged := some m.tick } = x →
      exec (.vutilTimeExchange l t) s = s.becomes ({ x with out := x.out ++ [.service l 0 [m.stampFull t, x.egress l], .service l 1 []] } : Dev).payOwed) ∧
    ((m.lnkState l != Lnk.up || (m.link l).exchanged.any (fun n => decide (m.tick < n + 2 ^ m.get F.VTL_SYNC_N))) = true →
      exec (.vutilTimeExchange l t) s = s.becomes m)) ∧
  (∀ (s : State) (m x : Dev) (l : Link) (receipt o r : Nat) (there back : Int), s.acts → s.start = m → (m.link l).origin = some o → (m.link l).request = some r →
    timeDiff (m.link l).receipt o = there → timeDiff receipt r = back →
    ((m.setLink l { m.link l with origin := none, request := none }).put (F.VTL_DLY_DLY l) (ofSigned 24 ((there + back) / 2 ^ 17))).setReg
      (Reg.VTL_OFFS l) (ofSigned 32 ((there - back) / 2 ^ 17)) = x →
    (x.get F.VTL_SYNC_LIMIT < ((there - back) / 2 ^ 17).natAbs → exec (.vutilDresp l receipt) s = s.becomes (x.report Src.linkOffset l 0 x.now).payOwed) ∧
    (¬ x.get F.VTL_SYNC_LIMIT < ((there - back) / 2 ^ 17).natAbs → exec (.vutilDresp l receipt) s = s.becomes x.payOwed)) ∧
  (∀ (s : State) (m x y : Dev) (l : Link) (c : CtrlMsg), s.acts → s.start = m → ¬ m.lnkState l < Lnk.measuring →
    (m.put (F.VTL_STAT_PEER l) c.peer).setLink l { m.link l with beyond := c.beyond, far := c.far } = x →
    (x.each c.primed fun m b =>
      if (m.bdef b.1).span && (m.bsn b.1).deck.isSome then m.modBsn b.1 fun x => { x with primedBy := x.primedBy ++ [b.2] } else m) = y →
    exec (.vutilCtrl l c) s = s.becomes (y.each c.lats fun m e =>
      if (m.bdef e.1).span && (m.bdef e.1).leader != m.deviceIndex && (m.bsn e.1).run.isNone then m.setLat e.1 (min 480 (ceilDiv e.2 8 * 8)) else m).payOwed)

/-- (R368, R369, R370, R371, R372, R379, Table 13.2) After 1,024 ticks the interval takes each tributary's mean and tests every kind,
interpolating where the mean moved. A tributary that is due, not too hot, and not held off unless commanded, gathers, where no step of it
was taken in this tick; an automatic gather that lapses goes back to due, counted and reported; a gathered one whose pair neither is in
outage nor comes first goes into outage, its ADC powered; its due kinds run, are checked and stored; at the outage's end in a later tick the
accepted values come into force, PPMU writes that waited are taken and the hold ends. Where the spec leaves a point open this is the model's
choice: logs 57, 114, 115. -/
def Obligations.CalibrationRunsThroughItsSteps : Prop :=
  (∀ (s : State) (m : Dev), s.acts → s.start = m → 1024 ≤ m.cal.count →
    exec .calTempInterval s = s.becomes
      (let a := m.each (List.range 64) fun x t => x.put (F.TRB_CAL_T1_T_MEAN t) (ofSigned 12 (roundDiv ((x.cal.sums.lookup t).getD 0) m.cal.count))
       (a.modCal fun x => { x with sums := [], count := 0 }).each (List.range 64) fun m t =>
         let m := m.each (List.range 3) fun m k => m.tempTest t k
         if m.get F.RSV_CAL_DELTA_CAL_TEMP_DELTA < (m.meanTemp t - (m.cal.lastInterp.lookup t).getD 0).natAbs then m.reinterpolate t else m).payOwed) ∧
  (∀ (s : State) (m : Dev) (t : Trib), s.acts → s.start = m → m.get (F.TRB_CAL_STAT_STATE t) = 1 → m.on (F.TRB_FE_STAT_OT t) = false →
    (m.calCommanded t = true ∨ ∀ n, m.cal.notBefore.lookup t.val = some n → n ≤ m.tick) → m.stepNow t = false →
    exec (.calGatherBegin t) s = s.becomes
      (((m.stepTaken t).put (F.TRB_CAL_STAT_STATE t) 2).modCal fun x => { x with gatherAt := x.gatherAt.filter (fun e => e.1 != t.val) ++ [(t.val, m.tick)] }).payOwed) ∧
  (∀ (s : State) (t : Trib) (n : Nat), s.acts → s.start.get (F.TRB_CAL_STAT_STATE t) = 2 → s.start.calCommanded t = false →
    s.dev.cal.gatherAt.lookup t.val = some n → n + s.start.gatherTicks ≤ s.start.tick →
    exec (.calGatherTimeout t) s = s.becomes
      (let a := (s.start.put (F.TRB_CAL_STAT_STATE t) 1).count (F.TRB_CAL_STAT_DEFERRED t) 1
       let b := a.modCal fun x => { x with notBefore := x.notBefore.filter (fun e => e.1 != t.val) ++ [(t.val, a.tick + a.gatherTicks)] }
       b.report Src.calDeferred t 0 b.now).payOwed) ∧
  (∀ (s : State) (m x : Dev) (t : Trib), s.acts → s.start = m → m.outageReady t = true →
    m.get (F.TRB_CAL_STAT_STATE (if t.val % 2 = 0 then t.val + 1 else t.val - 1)) ≠ 3 → (t.val % 2 = 1 → m.outageReady (t.val - 1) = false) →
    m.stepNow t = false → (m.put (F.TRB_CAL_STAT_STATE t) 3).put F.RSV_STAT_OUTAGES (m.get F.RSV_STAT_OUTAGES + 1) = x →
    (x.on (F.ADC_STAT_POWERED (t.val / 2)) = true → exec (.calOutageBegin t) s = s.becomes x.payOwed) ∧
    (x.on (F.ADC_STAT_POWERED (t.val / 2)) = false → exec (.calOutageBegin t) s = s.becomes
      (((x.put (F.ADC_STAT_POWERED (t.val / 2)) 1).put (F.ADC_STAT_READY (t.val / 2)) 1).modCal fun y =>
        { y with powered := y.powered ++ [t.val / 2] }).payOwed)) ∧
  (∀ (s : State) (m : Dev) (t : Trib) (run : CalRun) (stored : Nat), s.acts → s.start = m → m.get (F.TRB_CAL_STAT_STATE t) = 3 →
    m.cal.done.contains t.val = false →
    exec (.calKindsDone t run stored) s = s.becomes
      ((((((m.each (onesOf 3 (m.get (F.TRB_CAL_STAT_DUE t))) fun m k => m.kindDone t k run (bitOf stored k)).put (F.TRB_CAL_STAT_DUE t) 0).bump
        (F.TRB_CAL_REJ_RUNS t)).bump F.RSV_STAT_RUNS).stepTaken t).modCal fun x => { x with done := x.done ++ [t.val] }).payOwed) ∧
  (∀ (s : State) (m : Dev) (t : Trib), s.acts → s.start = m → m.cal.done.contains t.val = true → m.stepNow t = false →
    exec (.calOutageEnd t) s = s.becomes
      (let a := m.takeCoefs false fun p => p / 16 == t.val
       let a := a.put (F.TRB_CAL_STAT_STATE t) (if a.get (F.TRB_CAL_STAT_DUE t) = 0 then 0 else 1)
       let a := (a.put F.RSV_STAT_OUTAGES (a.get F.RSV_STAT_OUTAGES - 1)).showFactory t
       let w := a.cal.pmuWrites.filter fun e => e.1 / 16 == t.val
       let own := a.cal.powered.contains (t.val / 2)
       let a := a.modCal fun x => { x with
         done := x.done.filter (· != t.val), pmuWrites := x.pmuWrites.filter (fun e => e.1 / 16 != t.val), powered := x.powered.filter (· != t.val / 2) }
       let a := if own && !a.on (F.ADC_CTL_ENABLE (t.val / 2)) then (a.put (F.ADC_STAT_POWERED (t.val / 2)) 0).put (F.ADC_STAT_READY (t.val / 2)) 0 else a
       (a.each w fun m e => if e.2.2 then m.ppmuEnable e.1 e.2.1 else m.ppmuRange e.1 e.2.1).calRunEnd).payOwed) ∧
  (∀ (s : State) (t : Trib) (run : CalRun) (stored : Nat), s.acts →
    (s.start.cal.done.contains t.val = false ∨ s.start.stepNow t = true → exec (.calOutageEnd t) s = s.becomes s.start) ∧
    (s.start.get (F.TRB_CAL_STAT_STATE t) ≠ 3 → exec (.calKindsDone t run stored) s = s.becomes s.start) ∧
    (s.start.outageReady t = false → exec (.calOutageBegin t) s = s.becomes s.start) ∧
    (s.start.get (F.TRB_CAL_STAT_STATE t) ≠ 1 → exec (.calGatherBegin t) s = s.becomes s.start))

/-- (R379, Table 13.7) With its operation begun, CAL_RUN that names a tributary and a kind awaits each pair named and makes the kinds due
there; one that names none ends 0x01. CAL_REF ends 0x01 for a converter beyond 3; 0x05 for one that is not enabled, settled, calibrated and
set to the reference; 0x06 where its 64 results do not keep together; 0x07 for a mean outside 1,198,000 to 1,202,000 microvolts; 0x08,
reported, where Reservoir fails; else it stores the mean's record, shows it and ends 0. Where the spec leaves a point open this is the
model's choice: log 69. -/
def Obligations.CalibrationCommandsAct : Prop :=
  (∀ (s : State) (slot : Slot) (irq : Bool) (m : Dev) (ts ks : List Nat), s.takes (Reg.MBX_CMD slot) → s.start.opStart slot Op.calRun irq 0x02 = (m, true) →
    onesOf 32 (m.param slot 0) ++ (onesOf 32 (m.param slot 1)).map (· + 32) = ts → onesOf 3 (m.param slot 2) = ks →
    ((ts = [] ∨ ks = []) → exec (.calRun slot irq) s = s.becomes (m.opEnd slot 0x01).payOwed) ∧
    (¬ (ts = [] ∨ ks = []) → exec (.calRun slot irq) s = s.becomes
      ((m.modCal fun x => { x with wanted := ts.flatMap (fun t => ks.map fun k => (t, 2 ^ k)), rejected := false, failed := false }).each
        ts fun x t => x.makeDue t (x.param slot 2 % 8)).payOwed)) ∧
  (∀ (s : State) (slot : Slot) (irq stored : Bool) (l : List Int) (m : Dev) (p : Nat) (uv : Int) (fit even : Bool), s.takes (Reg.MBX_CMD slot) →
    s.start.opStart slot Op.calRef irq 0x02 = (m, true) → bitsOf (m.param slot 0) 3 0 = p →
    (m.on (F.P_CTL_ENABLE p) && m.on (F.P_STAT_SETTLED p) && !m.on (F.P_STAT_UNCAL p) && m.on (F.P_CTL_SRC p) && m.get (F.P_CTL_BUS_SEL p) == 1) = fit →
    decide (64 * l.foldl (fun n x => n + x * x) 0 - sumOf l * sumOf l ≤ 67 * 67 * 4096) = even → roundDiv (sumOf l * 2500000) (64 * 8388608) = uv →
    (3 < p → exec (.calRef slot irq l stored) s = s.becomes (m.opEnd slot 0x01).payOwed) ∧
    (p ≤ 3 → fit = false → exec (.calRef slot irq l stored) s = s.becomes (m.opEnd slot 0x05).payOwed) ∧
    (p ≤ 3 → fit = true → even = false → exec (.calRef slot irq l stored) s = s.becomes (m.opEnd slot 0x06).payOwed) ∧
    (p ≤ 3 → fit = true → even = true → (uv < 1198000 ∨ 1202000 < uv) → exec (.calRef slot irq l stored) s = s.becomes (m.opEnd slot 0x07).payOwed) ∧
    (p ≤ 3 → fit = true → even = true → ¬ (uv < 1198000 ∨ 1202000 < uv) → stored = false → exec (.calRef slot irq l stored) s = s.becomes
      (((m.put F.RSV_STAT_WRITE_ERR 1).report Src.reservoirWrite 0x10 0 m.now).opEnd slot 0x08).payOwed) ∧
    (∀ x, p ≤ 3 → fit = true → even = true → ¬ (uv < 1198000 ∨ 1202000 < uv) → stored = true → m.recWrite Rec.reference 0 0 (leBytes 4 uv.toNat) = x →
      exec (.calRef slot irq l stored) s = s.becomes
        ((({ x with rsv := { x.rsv with refUv := some uv.toNat } } : Dev).put F.ADC_REF_VAL_UV uv.toNat).opEnd slot 0).payOwed))

/-- (R61, R412, R413, R414, R415, R419) A sensor's trip begins a throttling episode, counted, named and reported once, and keeps one going;
the second clean tick in a row ends it; CCLK stays at the floor before that; a supply monitor that trips outside slack clears its MON_OK bit
and is reported, and in slack monitors 0 to 2 clear theirs and wake the device, their reports waiting, while others do nothing;
SPT_STEP_LIMIT takes a limit that every admitted basin fits in, refuses and reports a lower one, and flags 0. Where the spec leaves a point
open this is the model's choice: log 77. -/
def Obligations.SpateActs : Prop :=
  (∀ (s : State) (k : Sensor), s.acts → s.dev.spt.episode = false →
    exec (.droopTrip k) s = s.becomes
      ((((s.start.modSpt fun x => { x with tripped := true, clean := 0, episode := true }).showFloor.bump F.SPT_STAT_EPISODES).put
        F.SPT_STAT_SENSOR k).report Src.droop k 0 s.dev.now).payOwed) ∧
  (∀ (s : State) (k : Sensor), s.acts → s.dev.spt.episode = true →
    exec (.droopTrip k) s = s.becomes (s.start.modSpt fun x => { x with tripped := true, clean := 0, episode := true }).showFloor) ∧
  (∀ s : State, s.acts → s.dev.spt.episode = true → 2 ≤ s.dev.spt.clean →
    exec .cclkReturn s = s.becomes (s.start.modSpt fun x => { x with episode := false }).showFloor) ∧
  (∀ (s : State) (k : Mon) (t : Nat), s.acts → s.start.get F.SPT_SLACK_STATE < Slack.slack →
    exec (.supplyMonitorTrip k t) s = s.becomes
      ((s.start.put F.SPT_MON_OK (setBits (s.start.get F.SPT_MON_OK) k k 0)).report Src.supplyFault k 0 t).payOwed) ∧
  (∀ s : State, s.acts → (s.dev.spt.episode = false ∨ s.dev.spt.clean < 2) → exec .cclkReturn s = s.becomes s.start) ∧
  (∀ (s : State) (k : Mon) (t : Nat), s.acts → Slack.slack ≤ s.start.get F.SPT_SLACK_STATE → 3 ≤ k.val → exec (.supplyMonitorTrip k t) s = s.becomes s.start) ∧
  (∀ (s : State) (k : Mon) (t : Nat), s.acts → Slack.slack ≤ s.start.get F.SPT_SLACK_STATE → k.val < 3 →
    exec (.supplyMonitorTrip k t) s = s.becomes
      (((s.start.put F.SPT_MON_OK (setBits (s.start.get F.SPT_MON_OK) k k 0)).modSpt fun x => { x with supply := x.supply ++ [(k.val, t)] }).wakeEvent
        (k.val + 4)).payOwed) ∧
  (∀ (s : State) (v : Word), s.takes Reg.SPT_STEP_LIMIT → v.toNat % 65536 ≠ 0 →
    (∀ b ∈ s.start.definedBasins,
      (if (s.start.bdef b).prespin then ceilDiv (s.start.bdef b).stepCur (max 1 (s.start.bdef b).prespinTicks) else (s.start.bdef b).stepCur) ≤ v.toNat % 65536) →
    exec (.stepLimitWrite v) s = s.becomes (s.start.put F.SPT_STEP_LIMIT_LIMIT (v.toNat % 65536))) ∧
  (∀ (s : State) (v : Word) (b : Nat), s.takes Reg.SPT_STEP_LIMIT → v.toNat % 65536 ≠ 0 → b ∈ s.start.definedBasins →
    v.toNat % 65536 <
      (if (s.start.bdef b).prespin then ceilDiv (s.start.bdef b).stepCur (max 1 (s.start.bdef b).prespinTicks) else (s.start.bdef b).stepCur) →
    exec (.stepLimitWrite v) s = s.becomes ((s.start.put F.SPT_STAT_LIMIT_REFUSED 1).report Src.stepLimit 0 0 s.dev.now).payOwed) ∧
  (∀ (s : State) (v : Word), s.takes Reg.SPT_STEP_LIMIT → v.toNat % 65536 = 0 →
    exec (.stepLimitWrite v) s = s.becomes (s.start.put F.SPT_STAT_CFG_IGNORED 1))

/-- (R423, R425, R426, Table 15.2, Table 15.4) SLACK_ENTER, begun with nothing active, no excluding operation and no dump being written,
shows entering, spills the ready entries, puts the converters out, abandons calibration, takes the links down and stores the counters; else
it ends 0x01 or 0x02. The commit with nothing active and no wake event shows slack with HBM in self-refresh and no capacity, the window
closed, Millrace, CLKOUTs and lock gone; else the entry is abandoned with 0x01 or 0x03. An armed comparator wakes it, in the entry only one
of a supply, as does the host. The wake completes, with REFCLK valid, at an alignment point: the time base set, every pin safe, memory
restored, every unit powered again, supply reports made and held enables taken. Where the spec leaves a point open this is the model's
choice: log 63. -/
def Obligations.SlackIsEnteredAndLeft : Prop :=
  (∀ (s : State) (slot : Slot) (irq : Bool) (m : Dev), s.takes (Reg.MBX_CMD slot) → s.start.opStart slot Op.slack irq 0x02 = (m, true) →
    m.anyActive = false → m.lev.writing = none → (∀ g ∈ [1, 2, 4, 5], m.groupSlot g slot = none) →
    exec (.slackEnter slot irq) s = s.becomes
      (((((m.put F.SPT_SLACK_STATE Slack.entering).modSpt fun x => { x with woken := false }).each
          ((m.put F.SPT_SLACK_STATE Slack.entering).modSpt fun x => { x with woken := false }).definedBasins
          (fun m b => m.each (List.range 8) fun m l => m.spillList b l)).each (List.range 32) Dev.adcSleep).each (List.range 4)
        Dev.padcSleep).abandonCal.linksDown.storeCounters.payOwed) ∧
  (∀ (s : State) (slot : Slot) (irq : Bool) (m : Dev), s.takes (Reg.MBX_CMD slot) → s.start.opStart slot Op.slack irq 0x02 = (m, true) →
    (m.anyActive = true → exec (.slackEnter slot irq) s = s.becomes (m.opEnd slot 0x01).payOwed) ∧
    (m.anyActive = false → ([1, 2, 4, 5].any (fun g => (m.groupSlot g slot).isSome) || m.lev.writing.isSome) = true →
      exec (.slackEnter slot irq) s = s.becomes (m.opEnd slot 0x02).payOwed)) ∧
  (∀ (s : State) (m : Dev), s.acts → s.start = m → m.get F.SPT_SLACK_STATE = Slack.entering →
    (m.anyActive = true → exec .slackCommit s = s.becomes (m.slackAbandon 0x01).payOwed) ∧
    (m.anyActive = false → m.spt.woken = true → exec .slackCommit s = s.becomes (m.slackAbandon 0x03).payOwed) ∧
    (∀ x, m.anyActive = false → m.spt.woken = false →
      (((((m.put F.SLC_STAT_SR 3).put F.SLC_STAT_AVAIL 0).put F.SLC_CAP_CAP_UNITS 0).put F.GLB_WIN_STAT_OPEN 0).put F.MRC_STAT_RUNNING 0).ckoStop = x →
      exec .slackCommit s = s.becomes
        ((((x.put F.HDW_STAT_LOCKED 0).put F.HDW_STAT_HOLDOVER 0).modClk fun c => { c with slackLost := false }).put F.SPT_SLACK_STATE Slack.slack).payOwed)) ∧
  (∀ (s : State) (k : Comp), s.acts → s.start.get F.SPT_SLACK_STATE ≠ Slack.run → s.start.wakeArmed k = true →
    (s.start.get F.SPT_SLACK_STATE = Slack.entering → 4 ≤ k.val ∧ k.val < 7) → exec (.wakeEvent k) s = s.becomes (s.start.put F.SPT_WAKE_CAUSE_CMP (setBits (s.start.get F.SPT_WAKE_CAUSE_CMP) k k 1)).wake.payOwed) ∧
  (∀ s : State, s.takes Reg.SPT_SLACK → s.start.get F.SPT_SLACK_STATE ≠ Slack.run →
    exec .hostWake s = s.becomes (s.start.put F.SPT_WAKE_CAUSE_HOST 1).wake.payOwed) ∧
  (∀ m : Dev, (m.get F.SPT_SLACK_STATE = Slack.entering → m.wake = m.modSpt fun x => { x with woken := true }) ∧
    (m.get F.SPT_SLACK_STATE = Slack.slack → m.wake = m.put F.SPT_SLACK_STATE Slack.waking) ∧
    (m.get F.SPT_SLACK_STATE = Slack.waking → m.wake = m)) ∧
  (∀ (s : State) (m a b c d e : Dev) (tick edges v : Nat) (temps : Nat × Nat) (stored : Bool), s.acts → s.start = m →
    m.get F.SPT_SLACK_STATE = Slack.waking → m.on F.HDW_STAT_REF_OK = true →
    (m.timeBase + m.reg Reg.TMB_INC * edges) % 2 ^ 56 = v →
    (if m.clk.slackLost then m.rebase m.now else { m with tick := 25 * ceilDiv (max m.tick tick) 25 }) = a →
    (((({ a with timeBase := v, timeRest := 0, latches := [(a.tick, v)] } : Dev).put F.SPT_SLACK_STATE Slack.run).setLocked).modClk
      fun c => { c with slackLost := false }).put F.MRC_STAT_RUNNING 1 = b →
    (((((b.each (List.range 1024) Dev.wakePin).each (List.range 32) Dev.adcWake).each (List.range 4) Dev.padcWake).wakeMemory temps.1 temps.2 stored).linksUp) = c →
    (c.modSpt fun x => { x with supply := [], woken := false }).each c.spt.supply (fun m x => m.report Src.supplyFault x.1 0 x.2) = d →
    d.each (d.definedBasins.filter fun b => !d.enableWaits b) Dev.takeHeldEnable = e →
    (e.opSlot Op.slack = none → exec (.wakeComplete tick edges temps stored) s = s.becomes e.payOwed) ∧
    (∀ k, e.opSlot Op.slack = some k → exec (.wakeComplete tick edges temps stored) s = s.becomes (e.opEnd k 0).payOwed)) ∧
  (∀ (s : State) (tick edges : Nat) (temps : Nat × Nat) (stored : Bool), s.acts →
    (s.start.get F.SPT_SLACK_STATE ≠ Slack.waking ∨ s.start.on F.HDW_STAT_REF_OK = false) → exec (.wakeComplete tick edges temps stored) s = s.becomes s.start)

/-- (R472, R473, R446, R448) In a device that is READY and not sealed, an operation issued on a slot that holds none, while no operation of
its group runs elsewhere, begins: the slot is RUNNING, holds the id and the parameters as the MBX_PARAM registers have them, its status word
shows the id with no error, no progress and no partial count, and every register outside the slot's status word and MBX_SUM keeps its value.
Where the spec leaves a point open this is the model's choice: log 69. -/
def Obligations.MailboxOperationsBegin : Prop :=
  ∀ (m : Dev) (slot : Slot) (op : Nat) (irq : Bool) (busy : Nat), m.canonical → m.on F.LEV_STAT_SEALED = false → m.slotActive slot = false →
    m.isReady = true → m.groupSlot (op / 256) slot = none → op < 65536 →
    (m.opStart slot op irq busy).2 = true ∧
    (m.opStart slot op irq busy).1.status slot = op + Slot.running * 2 ^ 42 ∧
    (m.opStart slot op irq busy).1.mbx =
      Tbl.set {} m.mbx slot { op := op, irq := irq, params := (List.range 8).map fun k => m.reg (Reg.MBX_PARAM slot k) } ∧
    (∀ off, off ≠ Reg.MBX_STAT_LO slot → off ≠ Reg.MBX_STAT_HI slot → off ≠ Reg.MBX_SUM →
      (m.opStart slot op irq busy).1.reg off = m.reg off) ∧
    (∀ a, (m.opStart slot op irq busy).1.byte a = m.byte a)

/-- (R449, R450, R451, R472, R475) With its operation begun: SERVO runs on an enabled port that has a link and ends PORT elsewhere; FW_STAGE
with a good image that fits the staging region goes on to write the slot not in use, and ends LAYOUT, SIGNATURE or PATCH for any other;
FW_SELECT of a good slot makes it the preferred one and ends DONE, of any other it ends SLOT. A good end of staging clears the slot's
invalid mark and, with ACTIVATE, prefers it, a bad one marks it invalid and ends WRITE; no Sync for 8 s ends the servo; an id outside Table
16.7 ends UNKNOWN_OP; an abort ends a QUEUED operation, takes a RUNNING one through ABORTING, and is ignored elsewhere. Where the spec
leaves a point open this is the model's choice: logs 16, 17, 18, 32. -/
def Obligations.FirmwareOperationsRunAndEnd : Prop :=
  (∀ (s : State) (slot : Slot) (irq : Bool) (m : Dev), s.takes (Reg.MBX_CMD slot) → s.start.opStart slot Op.servo irq Err.busy = (m, true) →
    exec (.servo slot irq) s = s.becomes
      (if m.on (F.ETH_CTL_ENABLE (m.param slot 0 % 2)) = true ∧ m.on (F.ETH_STAT_LINK (m.param slot 0 % 2)) = true
        then m.modFirm fun f => { f with adjustments := 0 } else m.opEnd slot 0x01).payOwed) ∧
  (∀ s : State, s.acts → ∀ k, s.start.opSlot Op.servo = some k → exec .servoNoMaster s = s.becomes (s.start.opEnd k 0x02).payOwed) ∧
  (∀ (s : State) (slot : Slot) (irq : Bool) (m : Dev), s.takes (Reg.MBX_CMD slot) → s.start.opStart slot Op.fwStage irq Err.busy = (m, true) →
    (m.param slot 0 ≤ 31 * 0x100000 →
      exec (.fwStage slot irq 0) s = s.becomes (m.modFirm fun f => { f with staging := some (↑slot, bitOf (m.param slot 1) 0) }).payOwed ∧
      exec (.fwStage slot irq 1) s = s.becomes (m.opEnd slot 0x01).payOwed ∧ exec (.fwStage slot irq 2) s = s.becomes (m.opEnd slot 0x02).payOwed ∧
      ∀ n, exec (.fwStage slot irq (n + 3)) s = s.becomes (m.opEnd slot 0x03).payOwed) ∧
    (∀ n, 31 * 0x100000 < m.param slot 0 → exec (.fwStage slot irq n) s = s.becomes (m.opEnd slot 0x01).payOwed)) ∧
  (∀ (s : State) (m x : Dev) (k : Nat) (act good : Bool), s.acts → s.start = m → m.firm.staging = some (k, act) →
    (m.modFirm fun f => { f with staging := none
                                 invalid := f.invalid.filter (· != 1 - m.get F.MRC_BOOT_ACTIVE) ++ (if good then [] else [1 - m.get F.MRC_BOOT_ACTIVE]) }) = x →
    (good = true → exec (.fwStageDone good) s = s.becomes ((if act then x.prefer (1 - m.get F.MRC_BOOT_ACTIVE) else x).opEnd k 0).payOwed) ∧
    (good = false → exec (.fwStageDone good) s = s.becomes (x.opEnd k 0x04).payOwed)) ∧
  (∀ (s : State) (slot : Slot) (irq : Bool) (m : Dev), s.takes (Reg.MBX_CMD slot) → s.start.opStart slot Op.fwSelect irq Err.busy = (m, true) →
    (m.firm.invalid.contains (m.param slot 0 % 2) = false →
      exec (.fwSelect slot irq true) s = s.becomes ((m.prefer (m.param slot 0 % 2)).opEnd slot 0).payOwed) ∧
    (m.firm.invalid.contains (m.param slot 0 % 2) = true → exec (.fwSelect slot irq true) s = s.becomes (m.opEnd slot 0x05).payOwed) ∧
    exec (.fwSelect slot irq false) s = s.becomes (m.opEnd slot 0x05).payOwed) ∧
  (∀ (s : State) (slot : Slot) (op : Half) (irq : Bool) (m : Dev), s.takes (Reg.MBX_CMD slot) → knownOps.contains op.toNat = false →
    s.start.opIssue slot op.toNat irq = (m, true) →
    exec (.unknownOp slot op irq) s = s.becomes ((m.putStatus slot 44 42 Slot.running).opEnd slot Err.unknownOp).payOwed) ∧
  (∀ (s : State) (slot : Slot), s.takes (Reg.MBX_CMD slot) →
    exec (.mailboxAbort slot) s = s.becomes
      (if s.start.slotState slot = Slot.queued then s.start.opEnd slot Err.aborted
        else if s.start.slotState slot = Slot.running then (s.start.putStatus slot 44 42 Slot.aborting).dropOp slot Err.aborted false
        else s.start).payOwed)

/-- (R384, R386, R387, R388) Awake, FAULT_REPORT of a listed source other than a PPMU clamp counts it in its persistent counter and, by the
severity in force: IGNORE does nothing more; LOG and NOTE log it; BASIN logs it and has every affected basin react with status FAULT; DEVICE
logs it, has every basin react, asserts ALERT_N, clears every pin, sets DEVICE, stops the scans, abandons calibration, stores the counters
and starts a dump; SEALED logs it and seals the device. A PPMU clamp first sets its pin's CLAMP_HIT, and CLAMP while its output switch is
closed. A reserved source changes nothing, and in the slack state no source but a PPMU clamp's flags does. Where the spec leaves a point
open this is the model's choice: log 70. -/
def Obligations.ReportsReactBySeverity : Prop :=
  (∀ (s : State) (src : Source) (inst detail t : Nat), s.acts → s.dev.asleep = false → sourceListed src = true → src.val ≠ Src.ppmuClamp →
    (s.start.severity src = 0 → exec (.faultReport src inst detail t) s = s.becomes (s.start.countPersistent src false).payOwed) ∧
    (s.start.severity src = 1 ∨ s.start.severity src = 2 →
      exec (.faultReport src inst detail t) s = s.becomes
        ((s.start.countPersistent src false).logReport src inst detail (s.start.severity src) false t).payOwed) ∧
    (s.start.severity src = 3 → exec (.faultReport src inst detail t) s = s.becomes
      (((s.start.countPersistent src false).logReport src inst detail 3 false t).each
        (((s.start.countPersistent src false).logReport src inst detail 3 false t).affected src inst) fun m b => m.react b 0x0B src t).payOwed) ∧
    (∀ a b, s.start.severity src = 4 → (s.start.countPersistent src false).logReport src inst detail 4 false t = a →
      { (a.each a.definedBasins fun m b => m.react b 0x0B src t) with
        lev := { (a.each a.definedBasins fun m b => m.react b 0x0B src t).lev with alertN := false } } = b →
      exec (.faultReport src inst detail t) s = s.becomes
        (((((b.clearAll.put F.LEV_STAT_DEVICE 1).stopScans t).abandonCal).storeCounters.startDump 1 src inst t)).payOwed) ∧
    (s.start.severity src = 5 → exec (.faultReport src inst detail t) s = s.becomes
      (((s.start.countPersistent src false).logReport src inst detail 5 false t).seal src inst t).payOwed)) ∧
  (∀ (s : State) (src : Source) (inst detail t : Nat), s.acts → src.val = Src.ppmuClamp →
    exec (.faultReport src inst detail t) s = s.becomes
      ((if (s.start.put (F.PIN_PMU_STAT_CLAMP_HIT inst) 1).pmuClosed inst t then (s.start.put (F.PIN_PMU_STAT_CLAMP_HIT inst) 1).put (F.PIN_PMU_STAT_CLAMP inst) 1
        else s.start.put (F.PIN_PMU_STAT_CLAMP_HIT inst) 1).report src inst detail t).payOwed) ∧
  (∀ (s : State) (src : Source) (inst detail t : Nat), s.acts → s.dev.asleep = true → src.val ≠ Src.ppmuClamp →
    exec (.faultReport src inst detail t) s = s.becomes s.start) ∧
  (∀ (s : State) (src : Source) (inst detail t : Nat), s.acts → sourceListed src = false →
    exec (.faultReport src inst detail t) s = s.becomes s.start)

/-- (R386, R391, R392, R393, R401) A LEV_FORCE of a listed source whose severity is not SEALED, with no arm younger than 1 ms, makes a
forced report with detail 0xFFFF and any other unarmed force is refused; a valid arm is consumed and lets its own source be forced; the two
keys in turn arm a source, any other write of LEV_ARM drops the arm, and 1 ms after the second key it lapses; LEV_SEV takes a severity of 0
to 5 not below the floor of a listed source and flags any other; a 1 to LEV_STAT.DEVICE clears it and releases ALERT_N unless sealed;
LEV_DUMP.ACK acknowledges the held dump. Where the spec leaves a point open this is the model's choice: log 67. -/
def Obligations.LeveeRegistersAct : Prop :=
  (∀ (s : State) (v : Word), s.takes Reg.LEV_FORCE → (s.dev.lev.armKeys ≠ 2 ∨ s.dev.lev.armAt + 4000000000 ≤ s.start.now) →
    exec (.levForce v) s = s.becomes
      (if sourceListed (bitsOf v.toNat 8 0) = true ∧ s.start.severity (bitsOf v.toNat 8 0) ≠ 5
        then s.start.reportAs (bitsOf v.toNat 8 0) (bitsOf v.toNat 31 16) 0xFFFF true s.start.now
        else s.start.put F.LEV_STAT_FORCE_REFUSED 1).payOwed) ∧
  (∀ (s : State) (v : Word), s.takes Reg.LEV_FORCE → s.dev.lev.armKeys = 2 → s.start.now < s.dev.lev.armAt + 4000000000 →
    exec (.levForce v) s = s.becomes
      (if sourceListed (bitsOf v.toNat 8 0) = true ∧ s.dev.lev.armSource = some (bitsOf v.toNat 8 0)
        then s.start.disarm.reportAs (bitsOf v.toNat 8 0) (bitsOf v.toNat 31 16) 0xFFFF true s.start.disarm.now
        else s.start.disarm.put F.LEV_STAT_FORCE_REFUSED 1).payOwed) ∧
  (∀ (s : State) (v : Word), s.takes Reg.LEV_ARM →
    exec (.levArm v) s = s.becomes
      (if bitsOf v.toNat 27 16 = 0x0A5 then s.start.modLev fun l => { l with armSource := some (bitsOf v.toNat 8 0), armKeys := 1, armAt := 0 }
        else if bitsOf v.toNat 27 16 = 0x15A ∧ s.dev.lev.armKeys = 1 ∧ s.dev.lev.armSource = some (bitsOf v.toNat 8 0)
          then s.start.modLev fun l => { l with armKeys := 2, armAt := s.start.now }
        else s.start.disarm)) ∧
  (∀ s : State, s.acts → s.dev.lev.armKeys = 2 → s.dev.lev.armAt + 4000000000 < s.dev.now + tickUnits →
    exec .levArmLapse s = s.becomes s.start.disarm) ∧
  (∀ (s : State) (src : Source) (v : Word), s.takes (Reg.LEV_SEV src) → sourceListed src = true →
    exec (.levSevWrite src v) s = s.becomes
      (if bitsOf v.toNat 2 0 < 6 ∧ s.start.get (F.LEV_SEV_FLOOR src) ≤ bitsOf v.toNat 2 0
        then s.start.put (F.LEV_SEV_SEV src) (bitsOf v.toNat 2 0) else s.start.put F.LEV_STAT_CFG_IGNORED 1)) ∧
  (∀ s : State, s.takes Reg.LEV_STAT →
    exec .levDeviceClear s = s.becomes
      ((s.start.put F.LEV_STAT_DEVICE 0).modLev fun l => { l with alertN := !s.start.on F.LEV_STAT_SEALED })) ∧
  (∀ s : State, s.takes Reg.LEV_DUMP →
    exec .levDumpAck s = s.becomes (s.start.modLev fun l => { l with held := l.held.map fun d => { d with acked := true } }))

/-- (R400, R401, R402, R404, R405, R406, R407) With DUMP begun, no dump being written, Sluice available and none but a host dump held
unacknowledged, a host dump begins in its slot, and it ends 0x01, 0x02 or 0x03 where that fails; an end of a dump of the host's makes it
valid and ends the operation DONE, or invalid and 0x02 without Sluice; every 2^20 ticks a counter record that reads back right is stored,
else it is reported; an engine copied onto the spare puts its tributary on the spare and its pin up for takeover, or is listed faulty where
it serves none; a lane outvoted by the others is rewritten, counted and reported; the watchdog ends every running operation FW_RESTART and
reports. Where the spec leaves a point open this is the model's choice: logs 64, 65, 66, 68, 122. -/
def Obligations.DumpsCountersAndEnginesAct : Prop :=
  (∀ (s : State) (slot : Slot) (irq : Bool) (m : Dev), s.takes (Reg.MBX_CMD slot) → s.start.opStart slot Op.dump irq 0x01 = (m, true) →
    m.lev.writing = none → m.on F.SLC_STAT_AVAIL = true → (m.lev.held.any fun d => !d.acked && d.cause != 3) = false →
    exec (.dump slot irq) s = s.becomes
      ((m.beginDump 3 0 0 m.now).modLev fun l => { l with writing := l.writing.map fun d => { d with slot := some slot.val } }).payOwed) ∧
  (∀ (s : State) (slot : Slot) (irq : Bool) (m : Dev), s.takes (Reg.MBX_CMD slot) → s.start.opStart slot Op.dump irq 0x01 = (m, true) →
    (m.lev.writing.isSome = true → exec (.dump slot irq) s = s.becomes (m.opEnd slot 0x01).payOwed) ∧
    (m.lev.writing.isSome = false → m.on F.SLC_STAT_AVAIL = false → exec (.dump slot irq) s = s.becomes (m.opEnd slot 0x02).payOwed) ∧
    (m.lev.writing.isSome = false → m.on F.SLC_STAT_AVAIL = true → (m.lev.held.any fun d => !d.acked && d.cause != 3) = true →
      exec (.dump slot irq) s = s.becomes (m.opEnd slot 0x03).payOwed)) ∧
  (∀ (s : State) (d : DumpX) (k : Nat), s.acts → s.dev.lev.writing = some d → d.cause = 3 → d.slot = some k → s.start.on F.SLC_STAT_AVAIL = true →
    exec .dumpComplete s = s.becomes
      (((((s.start.writeDump d).put F.LEV_STAT_DUMPING 0).put F.LEV_STAT_DUMP_VALID 1).modLev
        fun l => { l with writing := none, held := some { d with regs := [] } }).opEnd k 0).payOwed) ∧
  (∀ (s : State) (d : DumpX) (k : Nat), s.acts → s.dev.lev.writing = some d → d.cause = 3 → d.slot = some k → s.start.on F.SLC_STAT_AVAIL = false →
    exec .dumpComplete s = s.becomes
      ((((s.start.put F.LEV_STAT_DUMPING 0).put F.LEV_STAT_DUMP_VALID 0).modLev fun l => { l with writing := none, held := none }).opEnd k 0x02).payOwed) ∧
  (∀ s : State, s.acts → s.start.tick % 2 ^ 20 = 0 →
    exec (.pcntRecordWrite true) s = s.becomes s.start.storeCounters.payOwed ∧
    exec (.pcntRecordWrite false) s = s.becomes ((s.start.put F.RSV_STAT_WRITE_ERR 1).report Src.reservoirWrite 0x20 0 s.start.now).payOwed) ∧
  (∀ (s : State) (stored : Bool), s.acts → s.start.tick % 2 ^ 20 ≠ 0 → exec (.pcntRecordWrite stored) s = s.becomes s.start) ∧
  (∀ (s : State) (m x : Dev) (t : Trib) (e : Nat), s.acts → s.start = m → m.on (F.TRB_AUD_STAT_COPYING t) = true →
    16 * t.val + m.get (F.TRB_AUD_STAT_FAULTY t) = e → (m.copyStore e (1024 + t)).put (F.TRB_AUD_STAT_COPYING t) 0 = x →
    (∀ p, ((x.servedBy e).filter fun p => (x.pinDef p).served) = some p → exec (.spareCopyDone t) s = s.becomes
      ({ ((x.put (F.TRB_AUD_STAT_SUSPENDED t) 1).put (F.TRB_AUD_STAT_SPARE_USED t) 1) with takeovers := x.takeovers ++ [(p, x.now)] } : Dev).payOwed) ∧
    (((x.servedBy e).filter fun p => (x.pinDef p).served) = none → exec (.spareCopyDone t) s = s.becomes
      ({ x with faulty := if x.faulty.contains e then x.faulty else x.faulty ++ [e] } : Dev).payOwed)) ∧
  (∀ (s : State) (lane : Lane), s.acts →
    exec (.millraceLaneOutvoted lane true) s = s.becomes
      (((s.start.rewriteLane lane ((lane.val + 1) % 3)).count (F.MRC_LANE_RESYNC lane) 1).report Src.millraceLane lane 0 s.start.now).payOwed ∧
    exec (.millraceLaneOutvoted lane false) s = s.becomes (s.start.report Src.millraceVote 0 0 s.dev.now).payOwed) ∧
  (∀ s : State, s.acts → exec .managementWatchdog s = s.becomes
    ((s.start.each ((List.range 8).filter fun k => s.start.slotState k == Slot.running || s.start.slotState k == Slot.aborting)
        fun m k => m.dropOp k Err.fwRestart true).report Src.managementWatchdog 0 0 s.dev.now).payOwed)

/-- (R73, R466, R468) QP_ENABLE on a queue pair that neither runs nor shuts down sets heads and tails to 0 and PHASE to 1, or, where R466
refuses it, clears ENABLE and sets REFUSED; an enable of a queue that shuts down is held, one of a queue that runs changes nothing;
QP_DISABLE clears ENABLE and PENDING and leaves a running queue shutting down; QP_SHUTDOWN_DONE ends that once no entry of it is on its way,
and a held enable is then taken; CQ_HEAD_DOORBELL takes the host's head and shows whether the ring is full. Nothing else changes. -/
def Obligations.QueuePairsEnableAndDisable : Prop :=
  (∀ (s : State) (q : Queue), s.takes (Reg.QP_CTL q) → s.start.on (F.QP_STAT_SHUTTING q) = false → s.start.on (F.QP_STAT_RUNNING q) = false →
    s.start.queueRefused q = false →
    exec (.qpEnable q) s = s.becomes
      (((((((s.start.modWeir fun w => { w with sqTail := Tbl.set 0 w.sqTail q 0, cqHead := Tbl.set 0 w.cqHead q 0 }).put
        (F.QP_CTL_ENABLE q) 1).put (F.QP_STAT_RUNNING q) 1).put (F.QP_STAT_SQ_HEAD q) 0).put (F.QP_CQ_TAIL_TAIL q) 0).put
        (F.QP_CQ_TAIL_PHASE q) 1).put (F.QP_STAT_CQ_FULL q) 0)) ∧
  (∀ (s : State) (q : Queue), s.takes (Reg.QP_CTL q) → s.start.on (F.QP_STAT_SHUTTING q) = false → s.start.on (F.QP_STAT_RUNNING q) = false →
    s.start.queueRefused q = true →
    exec (.qpEnable q) s = s.becomes ((s.start.put (F.QP_CTL_ENABLE q) 0).put (F.QP_STAT_REFUSED q) 1)) ∧
  (∀ (s : State) (q : Queue), s.takes (Reg.QP_CTL q) → s.dev.canonical → s.start.on (F.QP_STAT_RUNNING q) = true →
    exec (.qpDisable q) s = s.becomes
      ((((s.start.put (F.QP_CTL_ENABLE q) 0).put (F.QP_STAT_PENDING q) 0).put (F.QP_STAT_RUNNING q) 0).put (F.QP_STAT_SHUTTING q) 1)) ∧
  (∀ (s : State) (q : Queue), s.takes (Reg.QP_CTL q) → s.start.on (F.QP_STAT_SHUTTING q) = true →
    exec (.qpEnable q) s = s.becomes ((s.start.put (F.QP_CTL_ENABLE q) 1).put (F.QP_STAT_PENDING q) 1)) ∧
  (∀ (s : State) (q : Queue), s.takes (Reg.QP_CTL q) → s.start.on (F.QP_STAT_SHUTTING q) = false → s.start.on (F.QP_STAT_RUNNING q) = true →
    exec (.qpEnable q) s = s.becomes s.start) ∧
  (∀ (s : State) (m : Dev) (q : Queue), s.acts → s.start = m → m.on (F.QP_STAT_SHUTTING q) = true → m.weir.fetching.any (fun e => e.1 == q.val) = false →
    ((m.put (F.QP_STAT_SHUTTING q) 0).on (F.QP_STAT_PENDING q) = false → exec (.qpShutdownDone q) s = s.becomes (m.put (F.QP_STAT_SHUTTING q) 0).payOwed) ∧
    ((m.put (F.QP_STAT_SHUTTING q) 0).on (F.QP_STAT_PENDING q) = true →
      exec (.qpShutdownDone q) s = s.becomes (((m.put (F.QP_STAT_SHUTTING q) 0).put (F.QP_STAT_PENDING q) 0).queueStart q).payOwed)) ∧
  (∀ (s : State) (q : Queue), s.acts → (s.start.on (F.QP_STAT_SHUTTING q) = false ∨ s.start.weir.fetching.any (fun e => e.1 == q.val) = true) →
    exec (.qpShutdownDone q) s = s.becomes s.start) ∧
  (∀ (s : State) (q : Queue) (head : Word), s.takes (Reg.DB_CQ_HEAD q) →
    exec (.cqHeadDoorbell q head) s = s.becomes
      ((s.start.modWeir fun w => { w with cqHead := Tbl.set 0 w.cqHead q (head.toNat % 1024) }).put (F.QP_STAT_CQ_FULL q)
        (flag ((s.start.modWeir fun w => { w with cqHead := Tbl.set 0 w.cqHead q (head.toNat % 1024) }).cqFull q))))

/-- (R290, R291, R467) SQ_DOORBELL on a running queue pair takes a TAIL that does not pass entries still unfetched, and the queue waits for
Weir's fetches; any other sets DB_BAD. Weir's fetch of the next entry reads its 64 bytes from the queue's ring in host memory and moves
SQ_HEAD on by one modulo 1,024. SQ_ENTRY_LAND takes the oldest entry on its way from its queue: it writes the 64 bytes to the slot's context
with the context bytes 48 to 63 zero, and the entry waits for the tick program; with none on its way nothing changes. Where the spec leaves
a point open this is the model's choice: logs 42, 116. -/
def Obligations.SubmissionsAreTakenAndLand : Prop :=
  (∀ (s : State) (q : Queue) (tail : Word), s.takes (Reg.DB_SQ_TAIL q) →
    exec (.sqDoorbell q tail) s = s.becomes
      (if s.start.on (F.QP_STAT_RUNNING q) = true ∧
          (Tbl.find 0 s.start.weir.sqTail q + 1024 - s.start.get (F.QP_STAT_SQ_HEAD q)) % 1024 +
            (tail.toNat % 1024 + 1024 - Tbl.find 0 s.start.weir.sqTail q) % 1024 < 1024
        then s.start.modWeir fun w => { w with
          sqTail := Tbl.set 0 w.sqTail q (tail.toNat % 1024), queues := if w.queues.contains q.val then w.queues else w.queues ++ [q.val] }
        else s.start.put (F.QP_STAT_DB_BAD q) 1)) ∧
  (∀ (m x : Dev) (q head : Nat), m.get (F.QP_STAT_SQ_HEAD q) = head →
    { m with out := m.out ++ [Out.hostRead (m.pair (Reg.QP_SQ_LO q) (Reg.QP_SQ_HI q) + 64 * head) 64] } = x →
    m.fetchFrom q = (x.put (F.QP_STAT_SQ_HEAD q) ((head + 1) % 1024)).modWeir fun w => { w with fetching := w.fetching ++ [(q, head)] }) ∧
  (∀ (s : State) (m : Dev) (q : Queue) (data : Block64), s.acts → s.start = m →
    (∀ e, m.weir.fetching.find? (fun e => e.1 == q.val) = some e → exec (.sqEntryLand q data) s = s.becomes
      ((m.setMem (ctxAddr (q * 1024 + e.2)) 64 (data.toNat % 2 ^ 384)).modWeir fun w => { w with
        fetching := w.fetching.erase e, landed := w.landed ++ [⟨q * 1024 + e.2, data.toNat / 2 ^ 384 == 0⟩] }).payOwed) ∧
    (m.weir.fetching.find? (fun e => e.1 == q.val) = none → exec (.sqEntryLand q data) s = s.becomes m))

/-- (R470, R484, 17_host_interface.md Table 17.9) On a ring that exists: DMA_RUN on a ring that does not run takes RUN and a HEAD of 0, and
a tail already written is then processed, or is ignored with CFG_IGNORED where the size or the base is not as R484 asks; DMA_STOP clears RUN
and the tail; DMA_TAIL_DOORBELL takes a tail below the ring's size and, while the ring runs, shows whether a descriptor is in progress.
Where the spec leaves a point open this is the model's choice: log 71. -/
def Obligations.DmaRingsRunStopAndTakeTails : Prop :=
  (∀ (s : State) (e : Dma) (r : Ring), s.takes (Reg.DMA_CTL e r) → ringExists e r = true → s.start.on (F.DMA_CTL_RUN e r) = false →
    exec (.dmaRun e r) s = s.becomes
      (if 16 ≤ s.start.get (F.DMA_SIZE_ENTRIES e r) ∧ s.start.get (F.DMA_SIZE_ENTRIES e r) ≤ 4096 ∧
          s.start.pair (Reg.DMA_BASE_LO e r) (Reg.DMA_BASE_HI e r) % 4096 = 0
        then ((s.start.put (F.DMA_CTL_RUN e r) 1).put (F.DMA_HEAD_HEAD e r) 0).ringBusy e r
        else s.start.put (F.DMA_STAT_CFG_IGNORED e r) 1)) ∧
  (∀ (s : State) (e : Dma) (r : Ring), s.takes (Reg.DMA_CTL e r) → ringExists e r = true → s.start.on (F.DMA_CTL_RUN e r) = true →
    exec (.dmaStop e r) s = s.becomes ((s.start.put (F.DMA_CTL_RUN e r) 0).modHost fun h => { h with tails := Tbl.set 0 h.tails (2 * e + r) 0 })) ∧
  (∀ (s : State) (e : Dma) (r : Ring) (tail : Word), s.takes (Reg.DMA_TAIL e r) → ringExists e r = true →
    tail.toNat % 4096 < s.start.get (F.DMA_SIZE_ENTRIES e r) → s.start.on (F.DMA_CTL_RUN e r) = false →
    exec (.dmaTailDoorbell e r tail) s = s.becomes
      (s.start.modHost fun h => { h with tails := Tbl.set 0 h.tails (2 * e + r) (tail.toNat % 4096) })) ∧
  (∀ (s : State) (e : Dma) (r : Ring) (tail : Word), s.takes (Reg.DMA_TAIL e r) → ringExists e r = true →
    tail.toNat % 4096 < s.start.get (F.DMA_SIZE_ENTRIES e r) → s.start.on (F.DMA_CTL_RUN e r) = true →
    exec (.dmaTailDoorbell e r tail) s = s.becomes
      ((s.start.modHost fun h => { h with tails := Tbl.set 0 h.tails (2 * e + r) (tail.toNat % 4096) }).ringBusy e r))

/-- (R353, R354, R470, R471, R459) On an active ring: a copy descriptor that breaks Table 17.4 completes with ERROR; a copy into HBM reads
the host buffer, and where that succeeds and every byte may be written, writes it at HBM_ADDR and completes, else with ERROR; a copy out of
HBM writes the host buffer with what the window shows, marked poisoned where a word of it is, and completes, with ERROR where the host
access failed; a good transmit descriptor sends the frame with its FCS on a port with a link and queues the stamp asked for an event
message, any other completes with ERROR. On a port with a link, a frame whose FCS checks, with a good descriptor at the head of a running
receive ring that holds it, is written to host memory with its length and completes, an event message with its stamp; one that does not
check is dropped and counted. Where the spec leaves a point open this is the model's choice: logs 32, 72, 75. -/
def Obligations.DescriptorsAndFramesComplete : Prop :=
  (∀ (s : State) (m x : Dev) (e : Dma) (d : Block32) (data : List Byte) (ok : Bool) (ecc : Ecc) (t a n : Nat), s.acts → s.start = m →
    m.on (F.DMA_STAT_ACTIVE e 0) = true → e.val < 6 → descHbm d.toNat = a → descLen d.toNat = n →
    (descOk e 0 d.toNat = false → exec (.dmaDescriptorDone e d data ok ecc t) s = s.becomes (m.descDone e 0 d.toNat true false false 0).payOwed) ∧
    (descOk e 0 d.toNat = true → descDir d.toNat = false → { m with out := m.out ++ [Out.hostRead (descHost d.toNat) n] } = x →
      ((ok && (m.on F.SLC_STAT_AVAIL && !m.on F.LEV_STAT_SEALED && (List.range n).all fun i => m.hostMay (a + i))) = true →
        exec (.dmaDescriptorDone e d data ok ecc t) s = s.becomes
          ((((x.touch a).askHost (writeUnits a n)).setBytes a (padTo n data)).descDone e 0 d.toNat false false false 0).payOwed) ∧
      ((ok && (m.on F.SLC_STAT_AVAIL && !m.on F.LEV_STAT_SEALED && (List.range n).all fun i => m.hostMay (a + i))) = false →
        exec (.dmaDescriptorDone e d data ok ecc t) s = s.becomes (x.descDone e 0 d.toNat true false false 0).payOwed)) ∧
    (∀ bad v, descOk e 0 d.toNat = true → descDir d.toNat = true → (decide (ecc = .poisoned) && m.hostSees a) = bad →
      leNat ((List.range n).map fun i => m.windowByte (a + i)) = v → (m.hostMeets a ecc).askHost (unitsTouched a n) = x →
      (ok = true → exec (.dmaDescriptorDone e d data ok ecc t) s = s.becomes
        (({ x with out := x.out ++ .hostWrite (descHost d.toNat) n v :: (if bad then [Out.poisoned] else []) } : Dev).descDone
          e 0 d.toNat false bad false 0).payOwed) ∧
      (ok = false → exec (.dmaDescriptorDone e d data ok ecc t) s = s.becomes (x.descDone e 0 d.toNat true bad false 0).payOwed))) ∧
  (∀ (s : State) (m x y : Dev) (e : Dma) (d : Block32) (data l : List Byte) (ok : Bool) (ecc : Ecc) (t p : Nat), s.acts → s.start = m →
    m.on (F.DMA_STAT_ACTIVE e 0) = true → e.val = 6 + p →
    ((!descOk (6 + p) 0 d.toNat || !ok) = true → exec (.dmaDescriptorDone e d data ok ecc t) s = s.becomes
      (m.descDone (6 + p) 0 d.toNat true false false 0).payOwed) ∧
    ((!descOk (6 + p) 0 d.toNat || !ok) = false → padTo (descLen d.toNat) data = l →
      (if m.on (F.ETH_STAT_LINK p) then { m with out := m.out ++ [Out.frame p (l ++ leBytes 4 (frameCheck l))] } else m) = x →
      ((eventAt l).elim x fun i => if descTs d.toNat && m.on (F.ETH_STAT_LINK p) then x.pushStamp p (x.txEntry p l i t) else x) = y →
      exec (.dmaDescriptorDone e d data ok ecc t) s = s.becomes (y.descDone (6 + p) 0 d.toNat false false false 0).payOwed)) ∧
  (∀ (s : State) (m x : Dev) (e : Eth) (l : List Byte) (d : Block32) (t : Nat), s.acts → s.start = m → m.on (F.ETH_STAT_LINK e) = true →
    m.on (F.DMA_CTL_RUN (6 + e) 1) = true → m.get (F.DMA_HEAD_HEAD (6 + e) 1) ≠ m.ringTail (6 + e) 1 →
    descOk (6 + e) 1 d.toNat = true → l.length ≤ descLen d.toNat →
    { m with out := m.out ++ [Out.hostWrite (descHost d.toNat) l.length (leNat l),
        Out.hostWrite (m.pair (Reg.DMA_BASE_LO (6 + e) 1) (Reg.DMA_BASE_HI (6 + e) 1) + 32 * m.get (F.DMA_HEAD_HEAD (6 + e) 1) + 16) 4 l.length] } = x →
    exec (.ethRxFrame e (l ++ leBytes 4 (frameCheck l)) [(d, true)] t none) s = s.becomes
      (x.descDone (6 + e) 1 d.toNat false false (eventAt l).isSome (if (eventAt l).isSome then x.rxStamp e t else 0)).payOwed) ∧
  (∀ (s : State) (m : Dev) (e : Eth) (l : List Byte) (ds : Descs) (t : Nat) (servo : Servo), s.acts → s.start = m →
    (m.on (F.ETH_STAT_LINK e) = false → exec (.ethRxFrame e l ds t servo) s = s.becomes m) ∧
    (m.on (F.ETH_STAT_LINK e) = true → (l.length < 4 ∨ fieldAt l (l.length - 4) 4 ≠ frameCheck (l.take (l.length - 4))) →
      exec (.ethRxFrame e l ds t servo) s = s.becomes (m.dropFrame e).payOwed))

/-- (R315, R457, R458, R459) A read through BAR2 answers the bytes of HBM at GLB_WIN.BASE × 1 GiB + offset, marked poisoned where a word of
them is; a write while HBM is open first reads the word it covers in part, then writes each byte at a permitted address, and one with bytes
elsewhere counts once in DROPPED; one of whole 8-byte words at permitted addresses writes every byte; a write while HBM is closed changes
nothing but the DROPPED count; under a test instruction neither does anything; GLB_WIN takes a BASE that is a multiple of the BAR2 size, and
sets WIN_BAD for any other. Where the spec leaves a point open this is the model's choice: logs 72, 76. -/
def Obligations.Bar2ReadsAndWritesHbm : Prop :=
  (∀ (s : State) (o len : Nat) (ecc : Ecc), s.acts → s.dev.inTest = false →
    exec (.bar2Read o len ecc) s = s.becomes
      ({ (s.start.hostMeets (s.start.windowAddr o) ecc).askHost (if s.start.hostSees (s.start.windowAddr o) then unitsTouched (s.start.windowAddr o) len else 0) with
          out := ((s.start.hostMeets (s.start.windowAddr o) ecc).askHost
            (if s.start.hostSees (s.start.windowAddr o) then unitsTouched (s.start.windowAddr o) len else 0)).out ++
            .bytes ((List.range len).map fun i => s.start.windowByte (s.start.windowAddr o + i)) ::
              (if ecc = .poisoned ∧ s.start.hostSees (s.start.windowAddr o) then [Out.poisoned] else []) } : Dev).payOwed) ∧
  (∀ (s : State) (o : Nat) (data : List Byte) (ecc : Ecc), s.acts → s.dev.inTest = false → s.start.on F.SLC_STAT_AVAIL = true →
    s.start.on F.LEV_STAT_SEALED = false → ((List.range data.length).all fun i => s.start.hostMay (s.start.windowAddr o + i)) = true →
    s.start.windowAddr o % 8 = 0 → data.length % 8 = 0 →
    exec (.bar2Write o data ecc) s = s.becomes
      (((s.start.touch (s.start.windowAddr o)).askHost (writeUnits (s.start.windowAddr o) data.length)).setBytes (s.start.windowAddr o) data)) ∧
  (∀ (s : State) (m x y : Dev) (o a : Nat) (data : List Byte) (ecc : Ecc), s.acts → s.start = m → m.inTest = false →
    (m.on F.SLC_STAT_AVAIL && !m.on F.LEV_STAT_SEALED) = true → m.windowAddr o = a →
    ((partWord a data.length).elim m fun w => if m.hostMay w then m.rmwMeets w ecc else m) = x →
    ((x.touch a).askHost (writeUnits a data.length)).putBytes (keptOut a data.length ecc) a data = y →
    (((List.range data.length).all fun i => m.hostMay (a + i)) = true → exec (.bar2Write o data ecc) s = s.becomes y.payOwed) ∧
    (((List.range data.length).all fun i => m.hostMay (a + i)) = false → exec (.bar2Write o data ecc) s = s.becomes (y.count F.GLB_WIN_STAT_DROPPED 1).payOwed)) ∧
  (∀ (s : State) (o len : Nat) (data : List Byte) (ecc : Ecc), s.acts → s.dev.inTest = true →
    exec (.bar2Read o len ecc) s = s.becomes s.start ∧ exec (.bar2Write o data ecc) s = s.becomes s.start) ∧
  (∀ (s : State) (o : Nat) (data : List Byte) (ecc : Ecc), s.acts → s.dev.inTest = false →
    (s.start.on F.SLC_STAT_AVAIL && !s.start.on F.LEV_STAT_SEALED) = false →
    exec (.bar2Write o data ecc) s = s.becomes (s.start.count F.GLB_WIN_STAT_DROPPED 1)) ∧
  (∀ (s : State) (v : Word) (size : BarSize), s.takes Reg.GLB_WIN →
    exec (.winBaseWrite v size) s = s.becomes
      (if bitsOf v.toNat 6 0 % 2 ^ size.val = 0 then (s.start.modHost fun h => { h with barSize := size }).put F.GLB_WIN_BASE (bitsOf v.toNat 6 0)
        else (s.start.modHost fun h => { h with barSize := size }).put F.GLB_WIN_STAT_WIN_BAD 1))

/-- (R8, R275, R353, R394, R460, R461, R463) With the region open, no test instruction loaded and no words left of an earlier read: a read
of LEV_LOG_0 answers the oldest entry's first word, keeps the entry's other words for the requester and removes the entry; reads of
ETH_TSQ_0 and of ADC_FIFO_LO do so with the head of their queue; a low word's read answers it and keeps the group's other words; a high
word's read answers from what was kept and uses it up; any other aligned 4-byte read answers the register and clears its RC fields. Where
the spec leaves a point open this is the model's choice: log 73. -/
def Obligations.RegisterReadsAnswerAndTakeEffect : Prop :=
  (∀ s : State, s.acts → s.dev.inTest = false → s.start.readable (Reg.LEV_LOG 0) = true →
    (s.start.snapshot Req.host (Reg.LEV_LOG 0)).isEmpty = true →
    exec .levLogRead s = s.becomes
      (((s.start.setSnapshot Req.host (Reg.LEV_LOG 0) [(Reg.LEV_LOG 1, s.start.live (Reg.LEV_LOG 1)), (Reg.LEV_LOG 2, s.start.live (Reg.LEV_LOG 2)),
        (Reg.LEV_LOG 3, s.start.live (Reg.LEV_LOG 3))]).modLev fun l => { l with log := l.log.tail }).answer (s.start.live (Reg.LEV_LOG 0)))) ∧
  (∀ (s : State) (e : Eth), s.acts → s.dev.inTest = false → s.start.readable (Reg.ETH_TSQ_0 e) = true →
    (s.start.snapshot Req.host (Reg.ETH_TSQ_0 e)).isEmpty = true →
    exec (.ethTsqRead e) s = s.becomes
      (((s.start.setSnapshot Req.host (Reg.ETH_TSQ_0 e) [(Reg.ETH_TSQ_0 e + 4, s.start.live (Reg.ETH_TSQ_0 e + 4)),
        (Reg.ETH_TSQ_0 e + 8, s.start.live (Reg.ETH_TSQ_0 e + 8))]).setStamps e (s.start.stampsOf e).tail).answer (s.start.live (Reg.ETH_TSQ_0 e)))) ∧
  (∀ (s : State) (k : Adc), s.acts → s.dev.inTest = false → s.start.readable (Reg.ADC_FIFO_LO k) = true →
    (s.start.snapshot Req.host (Reg.ADC_FIFO_LO k)).isEmpty = true →
    exec (.adcFifoRead k) s = s.becomes
      (((s.start.setSnapshot Req.host (Reg.ADC_FIFO_LO k) [(Reg.ADC_FIFO_LO k + 4, s.start.live (Reg.ADC_FIFO_LO k + 4))]).fifoPop k).answer
        (s.start.live (Reg.ADC_FIFO_LO k)))) ∧
  (∀ (s : State) (off : Bar0), s.acts → s.dev.inTest = false → s.start.readable off.toNat = true → groupLow off.toNat = none →
    groupSize off.toNat ≠ 0 → (s.start.snapshot Req.host off.toNat).isEmpty = true →
    exec (.multiWordLowRead off) s = s.becomes
      (((s.start.setSnapshot Req.host off.toNat ((List.range (groupSize off.toNat - 1)).map fun k =>
        (off.toNat + 4 * (k + 1), s.start.live (off.toNat + 4 * (k + 1))))).readEffect off.toNat).answer (s.start.live off.toNat))) ∧
  (∀ (s : State) (off : Bar0) (low v : Nat), s.acts → s.dev.inTest = false → s.start.readable off.toNat = true → groupLow off.toNat = some low →
    (s.start.snapshot Req.host low).lookup off.toNat = some v →
    exec (.multiWordHighRead off) s = s.becomes
      (((s.start.setSnapshot Req.host low ((s.start.snapshot Req.host low).filter fun e => e.1 != off.toNat)).readEffect off.toNat).answer v)) ∧
  (∀ (s : State) (off : Bar0), s.acts → s.dev.inTest = false → s.start.readable off.toNat = true → groupLow off.toNat = none →
    groupSize off.toNat = 0 → ((basinAt off.toNat).any fun b => !s.start.defined b) = false → off.toNat % 4 = 0 →
    exec (.readClear off 4) s = s.becomes ((s.start.readEffect off.toNat).answer (s.start.live off.toNat)))

/-- (R24, R28, R398, R460, R461) A 4-byte aligned write with every byte enabled, where the region is open and the register exists: one whose
home chapter defers it waits in the posted buffer, unseen by reads until then; one taken at a tick boundary waits for that; any other acts
at once. A write to a closed region or to no register changes nothing, and any other length or alignment, or a byte not enabled, is dropped
and recorded. Where the spec leaves a point open this is the model's choice: logs 7, 8. -/
def Obligations.RegisterWritesActAtOnceOrWait : Prop :=
  (∀ (s : State) (off : Bar0) (v : Long), s.takes off.toNat → (rowOf off.toNat).isNone = false → off.toNat % 4 = 0 → deferred off.toNat = true →
    exec (.registerWrite off v 4 true) s = s.becomes { s.start with posted := s.start.posted ++ [(off.toNat, BitVec.ofNat 32 v.toNat)] }) ∧
  (∀ (s : State) (off : Bar0) (v : Long), s.takes off.toNat → (rowOf off.toNat).isNone = false → off.toNat % 4 = 0 → deferred off.toNat = false →
    atBoundary off.toNat = true → bitOf v.toNat 0 = true →
    exec (.registerWrite off v 4 true) s = s.becomes { s.start with delivered := s.start.delivered ++ [(off.toNat, BitVec.ofNat 32 v.toNat)] }) ∧
  (∀ (s : State) (off : Bar0) (v : Long), s.takes off.toNat → (rowOf off.toNat).isNone = false → off.toNat % 4 = 0 → deferred off.toNat = false →
    (atBoundary off.toNat && bitOf v.toNat 0) = false →
    exec (.registerWrite off v 4 true) s = s.becomes (s.start.carryOut Req.host off.toNat v.toNat).payOwed) ∧
  (∀ (s : State) (off : Bar0) (v : Long), s.acts → (s.start.writable off.toNat && (rowOf off.toNat).isSome) = false → off.toNat % 4 = 0 →
    exec (.registerWrite off v 4 true) s = s.becomes s.start) ∧
  (∀ (s : State) (off : Bar0) (v : Long) (len : Nat) (full : Bool), s.acts → s.dev.inTest = false →
    (full && ((len == 4 && off.toNat % 4 == 0) || (len == 8 && off.toNat % 8 == 0))) = false →
    exec (.registerWrite off v len full) s = s.becomes ((s.start.put F.GLB_ACC_STAT_BAD_ACCESS 1).put F.GLB_ACC_ADDR_OFFS off.toNat))

/-- (R463, R476, R477, 17_host_interface.md Table 17.7) SMB_SET_ADDR takes a 24-bit address; SMB_READ_REG answers the register at ADDR with
SMBus's own snapshot and advances ADDR by 4; SMB_WRITE_MAILBOX writes a word within mailbox slot 7, and no other, and advances ADDR;
SMB_READ_TEMP answers the hottest tributary sensor and the hotter stack; SMB_READ_STATUS answers the boot stage and the state bits of Table
17.7; an unknown command is NACKed. Where the spec leaves a point open this is the model's choice: log 74. -/
def Obligations.SmBusCommandsAnswer : Prop :=
  (∀ (s : State) (v : Word), s.acts → v.toNat < 2 ^ 24 →
    exec (.smbSetAddr v) s = s.becomes (s.start.modHost fun h => { h with smbAddr := v.toNat })) ∧
  (∀ s : State, s.acts → s.start.readable s.dev.host.smbAddr = true → groupLow s.dev.host.smbAddr = none → groupSize s.dev.host.smbAddr = 0 →
    exec .smbReadReg s = s.becomes
      ({ s.start with out := [.data (s.start.live s.dev.host.smbAddr)],
                      host := { s.dev.host with smbAddr := (s.dev.host.smbAddr + 4) % 2 ^ 24 } })) ∧
  (∀ (s : State) (v : Word), s.acts → 0x0010700 ≤ s.dev.host.smbAddr → s.dev.host.smbAddr < 0x0010800 →
    exec (.smbWriteMailbox v) s = s.becomes ((s.start.writeWord Req.smbus s.dev.host.smbAddr v.toNat).modHost
      fun h => { h with smbAddr := (h.smbAddr + 4) % 2 ^ 24 }).payOwed) ∧
  (∀ (s : State) (v : Word), s.acts → ¬ (0x0010700 ≤ s.dev.host.smbAddr ∧ s.dev.host.smbAddr < 0x0010800) →
    exec (.smbWriteMailbox v) s = s.becomes (s.start.modHost fun h => { h with smbAddr := (h.smbAddr + 4) % 2 ^ 24 })) ∧
  (∀ s : State, s.acts →
    exec .smbReadTemp s = s.becomes (s.start.answer
      ((List.range 63).foldl (fun x k => hotter x (s.start.get (F.TRB_FE_STAT_TEMP (k + 1)))) (s.start.get (F.TRB_FE_STAT_TEMP 0)) +
        2 ^ 16 * hotter (s.start.get F.SLC_TEMP_T0) (s.start.get F.SLC_TEMP_T1)))) ∧
  (∀ s : State, s.acts →
    exec .smbReadStatus s = s.becomes (s.start.answer
      (s.start.get F.MRC_BOOT_STAGE % 16 + 16 * s.start.get F.SLC_STAT_AVAIL + 32 * s.start.get F.LEV_STAT_DEVICE +
        64 * s.start.get F.LEV_STAT_SEALED + 128 * s.start.get F.SPT_SLACK_STATE))) ∧
  (∀ s : State, s.acts → exec .smbUnknownCommand s = s.becomes { s.start with out := [.nack] })

/-- (R478, R479, 17_host_interface.md Table 17.8) With no test instruction loaded, IDCODE answers 0x11024967, SAMPLE/PRELOAD holds the
cells, BYPASS and any code outside Table 17.8 and test-logic reset select their register, and none of these changes the device. Each of
EXTEST, EXTEST_PULSE, EXTEST_TRAIN, CLAMP and HIGHZ is loaded with its code, driving the outputs from the cells but for HIGHZ, puts the
device in the state of CLR_N low, and clears what GLB_PCI shows. Where the spec leaves a point open this is the model's choice: log 78. -/
def Obligations.JtagInstructionsAreLoaded : Prop :=
  (∀ s : State, s.acts → s.dev.inTest = false →
    exec .jtagIdcode s = s.becomes ({ s.start with jtag := { s.dev.jtag with instr := 1, driven := false }, out := [.data 0x11024967] }) ∧
    (∀ cells, exec (.jtagSamplePreload cells) s = s.becomes { s.start with jtag := { s.dev.jtag with instr := 2, driven := false, cells := cells } }) ∧
    (∀ code : Byte, code.toNat = 0 ∨ 8 ≤ code.toNat →
      exec (.jtagBypass code) s = s.becomes { s.start with jtag := { s.dev.jtag with instr := code.toNat, driven := false } }) ∧
    exec .jtagTestLogicReset s = s.becomes { s.start with jtag := { s.dev.jtag with instr := 1, driven := false } }) ∧
  (∀ s : State, s.acts → s.dev.inTest = true →
    exec .jtagTestLogicReset s = s.becomes ({ s.start with jtag := { s.dev.jtag with instr := 1, driven := false } } : Dev).warmReset.payOwed) ∧
  (∀ s : State, s.acts →
    exec .jtagExtest s = s.becomes ((s.start.modJtag fun j => { j with instr := 3, driven := true }).clearHold.setReg Reg.GLB_PCI 0).payOwed ∧
    exec .jtagExtestPulse s = s.becomes ((s.start.modJtag fun j => { j with instr := 4, driven := true }).clearHold.setReg Reg.GLB_PCI 0).payOwed ∧
    exec .jtagExtestTrain s = s.becomes ((s.start.modJtag fun j => { j with instr := 5, driven := true }).clearHold.setReg Reg.GLB_PCI 0).payOwed ∧
    exec .jtagClamp s = s.becomes ((s.start.modJtag fun j => { j with instr := 6, driven := true }).clearHold.setReg Reg.GLB_PCI 0).payOwed ∧
    exec .jtagHighz s = s.becomes ((s.start.modJtag fun j => { j with instr := 7, driven := false }).clearHold.setReg Reg.GLB_PCI 0).payOwed)

/-- (R454, R455, R481) PCIE_LINK_UP shows speed and width in GLB_PCI; a correctable TLP error reports pcie-correctable, a poisoned,
malformed or unsupported TLP and a request of the device's own that times out report pcie-uncorrectable. Where the spec leaves a point open
this is the model's choice: log 70. -/
def Obligations.PcieEventsAreShownAndReported : Prop :=
  (∀ (s : State) (speed : Speed) (width : Width), s.acts → s.dev.inTest = false →
    exec (.pcieLinkUp speed width) s = s.becomes ((s.start.put F.GLB_PCI_SPEED speed).put F.GLB_PCI_WIDTH width)) ∧
  (∀ s : State, s.acts → s.dev.inTest = false →
    exec (.pcieTlpError 0) s = s.becomes (s.start.report Src.pcieCorrectable 0 0 s.dev.now).payOwed) ∧
  (∀ (s : State) (kind : TlpKind), s.acts → s.dev.inTest = false → kind.val ≠ 0 →
    exec (.pcieTlpError kind) s = s.becomes (s.start.report Src.pcieUncorrectable 0 0 s.dev.now).payOwed) ∧
  (∀ s : State, s.acts → exec .deviceRequestTimeout s = s.becomes (s.start.report Src.pcieUncorrectable 0 0 s.dev.now).payOwed)
end

