-- ==== Sys2Proof/Laws/Table.lean ====
section
/-! SUPPORT. Laws of sparse tables: a read after a write, and the canonical form that every write keeps. -/

namespace Sys2Proof.Machine

/-- A key above which every key of the table lies is not listed below either. -/
theorem Tbl.above_mono {α : Type} {i k : Nat} (h : i ≤ k) : ∀ {t : List (Nat × α)}, Tbl.above k t = true → Tbl.above i t = true
  | [], _ => rfl
  | (j, _) :: _, ha => by
    simp only [Tbl.above, decide_eq_true_eq] at *
    omega

/-- A key that lies below every listed key reads as unlisted. -/
theorem Tbl.find_above {α : Type} [DecidableEq α] {f : Nat → α} (d : α) {j : Nat} :
    ∀ {t : List (Nat × α)}, Tbl.wf f t = true → Tbl.above j t = true → Tbl.find d t j = d
  | [], _, _ => rfl
  | (i, w) :: t, hw, ha => by
    simp only [Tbl.wf, Tbl.above, Bool.and_eq_true, decide_eq_true_eq] at hw ha
    have hne : ¬ i = j := by omega
    simp only [Tbl.find, if_neg hne]
    exact Tbl.find_above d hw.2 (Tbl.above_mono (Nat.le_of_lt ha) hw.1.2)

/-- Reading the key just written gives the value written. -/
theorem Tbl.find_set_same {α : Type} [DecidableEq α] {f : Nat → α} (d : α) (k : Nat) (v : α) :
    ∀ {t : List (Nat × α)}, Tbl.wf f t = true → Tbl.find d (Tbl.set d t k v) k = v
  | [], _ => by
    by_cases hv : v = d <;> simp [Tbl.set, Tbl.find, hv]
  | (j, w) :: t, hw => by
    have hf := hw
    simp only [Tbl.wf, Bool.and_eq_true, decide_eq_true_eq] at hw
    by_cases hk : k < j
    · by_cases hv : v = d
      · simp only [Tbl.set, if_pos hk, if_pos hv]
        exact (Tbl.find_above d hf (by simpa [Tbl.above] using hk)).trans hv.symm
      · simp [Tbl.set, Tbl.find, hk, hv]
    · by_cases hj : k = j
      · subst hj
        by_cases hv : v = d
        · simp only [Tbl.set, if_neg hk, if_pos hv]
          exact (Tbl.find_above d hw.2 hw.1.2).trans hv.symm
        · simp [Tbl.set, Tbl.find, hv]
      · have hj' : ¬ j = k := fun h => hj h.symm
        simp only [Tbl.set, if_neg hk, if_neg hj, Tbl.find, if_neg hj']
        exact Tbl.find_set_same d k v hw.2

/-- Writing one key leaves what every other key reads as. -/
theorem Tbl.find_set_other {α : Type} [DecidableEq α] (d : α) {k j : Nat} (v : α) (h : j ≠ k) :
    ∀ t : List (Nat × α), Tbl.find d (Tbl.set d t k v) j = Tbl.find d t j
  | [] => by
    by_cases hv : v = d <;> simp [Tbl.set, Tbl.find, hv, h.symm]
  | (i, w) :: t => by
    have ih := Tbl.find_set_other d v h t
    by_cases hk : k < i
    · by_cases hv : v = d <;> simp [Tbl.set, Tbl.find, hk, hv, h.symm]
    · by_cases hi : k = i
      · subst hi
        by_cases hv : v = d <;> simp [Tbl.set, Tbl.find, hv, h.symm]
      · simp only [Tbl.set, if_neg hk, if_neg hi, Tbl.find, ih]

/-- A key below both the table's keys and the key written stays below after the write. -/
theorem Tbl.above_set {α : Type} [DecidableEq α] (d : α) {i k : Nat} (v : α) (hk : i < k) :
    ∀ {t : List (Nat × α)} {f : Nat → α}, Tbl.wf f t = true → Tbl.above i t = true → Tbl.above i (Tbl.set d t k v) = true
  | [], _, _, _ => by
    by_cases hv : v = d <;> simp [Tbl.set, Tbl.above, hv, hk]
  | (j, w) :: t, f, hw, ha => by
    simp only [Tbl.wf, Bool.and_eq_true, decide_eq_true_eq] at hw
    by_cases h1 : k < j
    · by_cases hv : v = d <;> simp_all [Tbl.set, Tbl.above]
    · by_cases h2 : k = j
      · subst h2
        by_cases hv : v = d
        · simp only [Tbl.set, if_neg h1, if_pos hv]
          exact Tbl.above_mono (Nat.le_of_lt hk) hw.1.2
        · simp [Tbl.set, Tbl.above, hv, hk]
      · simpa [Tbl.set, Tbl.above, h1, h2] using ha

/-- A write keeps the canonical form. -/
theorem Tbl.wf_set {α : Type} [DecidableEq α] (f : Nat → α) (k : Nat) (v : α) :
    ∀ {t : List (Nat × α)}, Tbl.wf f t = true → Tbl.wf f (Tbl.set (f k) t k v) = true
  | [], _ => by
    by_cases hv : v = f k <;> simp [Tbl.set, Tbl.wf, Tbl.above, hv]
  | (j, w) :: t, hw => by
    have hf := hw
    simp only [Tbl.wf, Bool.and_eq_true, decide_eq_true_eq] at hw
    by_cases h1 : k < j
    · by_cases hv : v = f k
      · simp only [Tbl.set, if_pos h1, if_pos hv]; exact hf
      · simp only [Tbl.set, if_pos h1, if_neg hv, Tbl.wf, Tbl.above, Bool.and_eq_true, decide_eq_true_eq]
        exact ⟨⟨hv, h1⟩, hw⟩
    · by_cases h2 : k = j
      · subst h2
        by_cases hv : v = f k
        · simp only [Tbl.set, if_neg h1, if_pos hv]; exact hw.2
        · have he : Tbl.set (f k) ((k, w) :: t) k v = (k, v) :: t := by simp [Tbl.set, hv]
          rw [he]
          simp only [Tbl.wf, Bool.and_eq_true, decide_eq_true_eq]
          exact ⟨⟨hv, hw.1.2⟩, hw.2⟩
      · simp only [Tbl.set, if_neg h1, if_neg h2, Tbl.wf, Bool.and_eq_true, decide_eq_true_eq]
        exact ⟨⟨hw.1.1, Tbl.above_set (f k) v (by omega) hw.2 hw.1.2⟩, Tbl.wf_set f k v hw.2⟩

/-- Leaving entries out keeps what lies above a key above it. -/
theorem Tbl.above_filter {α : Type} [DecidableEq α] {f : Nat → α} (p : Nat × α → Bool) {k : Nat} :
    ∀ {t : List (Nat × α)}, Tbl.wf f t = true → Tbl.above k t = true → Tbl.above k (t.filter p) = true
  | [], _, _ => rfl
  | (j, w) :: t, hw, ha => by
    simp only [Tbl.wf, Tbl.above, Bool.and_eq_true, decide_eq_true_eq] at hw ha
    by_cases hp : p (j, w) = true
    · simp [List.filter, hp, Tbl.above, ha]
    · simp only [List.filter, hp]
      exact Tbl.above_filter p hw.2 (Tbl.above_mono (Nat.le_of_lt ha) hw.1.2)

/-- Leaving entries out keeps the canonical form. -/
theorem Tbl.wf_filter {α : Type} [DecidableEq α] {f : Nat → α} (p : Nat × α → Bool) :
    ∀ {t : List (Nat × α)}, Tbl.wf f t = true → Tbl.wf f (t.filter p) = true
  | [], _ => rfl
  | (j, w) :: t, hw => by
    simp only [Tbl.wf, Bool.and_eq_true, decide_eq_true_eq] at hw
    by_cases hp : p (j, w) = true
    · simp only [List.filter, hp, Tbl.wf, Bool.and_eq_true, decide_eq_true_eq]
      exact ⟨⟨hw.1.1, Tbl.above_filter p hw.2 hw.1.2⟩, Tbl.wf_filter p hw.2⟩
    · simp only [List.filter, hp]
      exact Tbl.wf_filter p hw.2

/-- A canonical table lies above a key exactly where each of its keys does. -/
theorem Tbl.above_iff {α : Type} [DecidableEq α] {f : Nat → α} {k : Nat} :
    ∀ {t : List (Nat × α)}, Tbl.wf f t = true → (Tbl.above k t = true ↔ ∀ e ∈ t, k < e.1)
  | [], _ => by simp [Tbl.above]
  | (j, w) :: t, hw => by
    simp only [Tbl.wf, Bool.and_eq_true, decide_eq_true_eq] at hw
    constructor
    · intro ha e he
      simp only [Tbl.above, decide_eq_true_eq] at ha
      rcases List.mem_cons.mp he with h | h
      · simpa [h] using ha
      · exact Nat.lt_trans ha ((Tbl.above_iff hw.2).mp hw.1.2 e h)
    · intro h
      simpa [Tbl.above] using h (j, w) (List.mem_cons_self ..)

/-- Two canonical tables, one wholly below the other, join to a canonical one. -/
theorem Tbl.wf_append {α : Type} [DecidableEq α] {f : Nat → α} {b : List (Nat × α)} (hb : Tbl.wf f b = true) :
    ∀ {a : List (Nat × α)}, Tbl.wf f a = true → (∀ x ∈ a, ∀ y ∈ b, x.1 < y.1) → Tbl.wf f (a ++ b) = true
  | [], _, _ => hb
  | (j, w) :: t, ha, h => by
    simp only [Tbl.wf, Bool.and_eq_true, decide_eq_true_eq] at ha
    have ht : Tbl.wf f (t ++ b) = true := Tbl.wf_append hb ha.2 fun x hx y hy => h x (List.mem_cons_of_mem _ hx) y hy
    simp only [List.cons_append, Tbl.wf, Bool.and_eq_true, decide_eq_true_eq]
    refine ⟨⟨ha.1.1, (Tbl.above_iff ht).mpr fun e he => ?_⟩, ht⟩
    rcases List.mem_append.mp he with h1 | h1
    · exact (Tbl.above_iff ha.2).mp ha.1.2 e h1
    · exact h (j, w) (List.mem_cons_self ..) e h1

/-- A range of keys taken from another canonical table keeps the canonical form. -/
theorem Tbl.wf_graft {α : Type} [DecidableEq α] {f : Nat → α} (lo hi : Nat) {src dst : List (Nat × α)}
    (hs : Tbl.wf f src = true) (hd : Tbl.wf f dst = true) (h : lo ≤ hi) : Tbl.wf f (Tbl.graft lo hi src dst) = true := by
  unfold Tbl.graft
  refine Tbl.wf_append (Tbl.wf_filter _ hd) (Tbl.wf_append (Tbl.wf_filter _ hs) (Tbl.wf_filter _ hd) ?_) ?_
  · intro x hx y hy
    simp only [List.mem_filter, Bool.and_eq_true, decide_eq_true_eq] at hx hy
    omega
  · intro x hx y hy
    simp only [List.mem_append, List.mem_filter, Bool.and_eq_true, decide_eq_true_eq] at hx hy
    rcases hx with hx | hx <;> omega

/-- Moving every key up or down by a function that rises on them keeps the canonical form, where every key reads alike as unlisted. -/
theorem Tbl.wf_map {α : Type} [DecidableEq α] {d : α} (g : Nat → Nat) :
    ∀ {t : List (Nat × α)}, Tbl.wf (fun _ => d) t = true → (∀ x ∈ t, ∀ y ∈ t, x.1 < y.1 → g x.1 < g y.1) →
      Tbl.wf (fun _ => d) (t.map fun e => (g e.1, e.2)) = true
  | [], _, _ => rfl
  | (j, w) :: t, hw, h => by
    simp only [Tbl.wf, Bool.and_eq_true, decide_eq_true_eq] at hw
    have ht := Tbl.wf_map (d := d) g hw.2 fun x hx y hy => h x (List.mem_cons_of_mem _ hx) y (List.mem_cons_of_mem _ hy)
    simp only [List.map_cons, Tbl.wf, Bool.and_eq_true, decide_eq_true_eq]
    refine ⟨⟨hw.1.1, (Tbl.above_iff ht).mpr fun e he => ?_⟩, ht⟩
    obtain ⟨x, hx, rfl⟩ := List.mem_map.mp he
    exact h (j, w) (List.mem_cons_self ..) x (List.mem_cons_of_mem _ hx) ((Tbl.above_iff hw.2).mp hw.1.2 x hx)

end Sys2Proof.Machine
end

