-- ==== Sys2Proof/Laws/Keep.lean ====
section
/-! SUPPORT. The named operations over registers and memories keep the canonical form. -/

namespace Sys2Proof.Machine

/-- A change of anything but registers and memories. -/
theorem Dev.keep_same {m m' : Dev} (h : m.canonical) (hh : m'.hbm = m.hbm) (hr : m'.regs = m.regs) (hs : m'.store = m.store) :
    m'.canonical := by
  unfold Dev.canonical at *
  rw [hh, hr, hs]
  exact h

/-- A change of the other fields of the state. -/
theorem Dev.keep_mk {m : Dev} (h : m.canonical)
    (out : List Out) (flips : List (Nat × Nat)) (mrc : MrcX) (deck : List (Nat × Word)) (force : List (Nat × Word)) (posted : List (Nat × Word)) (committing : List (Nat × Word))
    (committed : List (Nat × Word)) (delivered : List (Nat × Word)) (image : Option Image) (staged : Option Image) (tick : Nat) (timeBase : Nat)
    (timeRest : Nat) (latches : List (Nat × Nat)) (drawn : Nat) (basins : List (Nat × BasinX)) (pins : List (Nat × PinX)) (seqs : List (Nat ×
    SeqX)) (tones : List (Nat × ToneX)) (deltas : List (Nat × DeltaX)) (adcs : List (Nat × AdcX)) (padcs : List (Nat × PAdcX)) (mbx : List (Nat
    × MbxX)) (jtag : JtagX) (weir : WeirX) (lev : LevX) (slc : SlcX) (wires : List (Nat × Nat)) (cal : CalX) (clk : ClkX) (spt : SptX) (rsv :
    RsvX) (takeovers : List (Nat × Instant)) (faulty : List Nat) (auds : List (Nat × AudX)) (host : HostX) (firm : FirmX) (power : PowerX) :
    Dev.canonical
      { out := out, regs := m.regs, deck := deck, force := force, posted := posted, committing := committing, committed := committed,
        delivered := delivered, hbm := m.hbm, store := m.store, flips := flips, mrc := mrc, image := image, staged := staged, tick := tick, timeBase := timeBase,
        timeRest := timeRest, latches := latches, drawn := drawn, basins := basins, pins := pins, seqs := seqs, tones := tones,
        deltas := deltas, adcs := adcs, padcs := padcs, mbx := mbx, jtag := jtag, weir := weir, lev := lev, slc := slc, wires := wires,
        cal := cal, clk := clk, spt := spt, rsv := rsv, takeovers := takeovers, faulty := faulty, auds := auds, host := host, firm := firm,
        power := power } := h

/-- Bytes of HBM left out, with a change of other fields. -/
theorem Dev.keep_filter {m : Dev} (h : m.canonical) (p : Host.Cell → Bool)
    (out : List Out) (flips : List (Nat × Nat)) (mrc : MrcX) (deck : List (Nat × Word)) (force : List (Nat × Word)) (posted : List (Nat × Word)) (committing : List (Nat × Word))
    (committed : List (Nat × Word)) (delivered : List (Nat × Word)) (image : Option Image) (staged : Option Image) (tick : Nat) (timeBase : Nat)
    (timeRest : Nat) (latches : List (Nat × Nat)) (drawn : Nat) (basins : List (Nat × BasinX)) (pins : List (Nat × PinX)) (seqs : List (Nat ×
    SeqX)) (tones : List (Nat × ToneX)) (deltas : List (Nat × DeltaX)) (adcs : List (Nat × AdcX)) (padcs : List (Nat × PAdcX)) (mbx : List (Nat
    × MbxX)) (jtag : JtagX) (weir : WeirX) (lev : LevX) (slc : SlcX) (wires : List (Nat × Nat)) (cal : CalX) (clk : ClkX) (spt : SptX) (rsv :
    RsvX) (takeovers : List (Nat × Instant)) (faulty : List Nat) (auds : List (Nat × AudX)) (host : HostX) (firm : FirmX) (power : PowerX) :
    Dev.canonical
      { out := out, regs := m.regs, deck := deck, force := force, posted := posted, committing := committing, committed := committed,
        delivered := delivered, hbm := m.hbm.filter p, store := m.store, flips := flips, mrc := mrc, image := image, staged := staged, tick := tick, timeBase := timeBase,
        timeRest := timeRest, latches := latches, drawn := drawn, basins := basins, pins := pins, seqs := seqs, tones := tones,
        deltas := deltas, adcs := adcs, padcs := padcs, mbx := mbx, jtag := jtag, weir := weir, lev := lev, slc := slc, wires := wires,
        cal := cal, clk := clk, spt := spt, rsv := rsv, takeovers := takeovers, faulty := faulty, auds := auds, host := host, firm := firm,
        power := power } :=
  ⟨Tbl.wf_filter p h.1, h.2⟩

/-- A step of a chain: what holds of an intermediate state is used of the rest. -/
theorem Dev.cut {p q : Prop} (hp : p) (h : p → q) : q := h hp

theorem Dev.keep_ite {c : Prop} [Decidable c] {a b : Dev} (ha : a.canonical) (hb : b.canonical) : (if c then a else b).canonical := by
  split <;> assumption

theorem Dev.keep_ite_fst {α : Type} {c : Prop} [Decidable c] {a b : Dev × α} (ha : a.1.canonical) (hb : b.1.canonical) :
    (if c then a else b).1.canonical := by
  split <;> assumption

theorem Dev.elim_keeps {α : Type} {o : Option α} {m : Dev} {f : α → Dev} (h : m.canonical) (hf : ∀ a, (f a).canonical) :
    (o.elim m f).canonical := by
  cases o with
  | none => exact h
  | some a => exact hf a

theorem Dev.foldl_keeps {α : Type} {f : Dev → α → Dev} (hf : ∀ m x, m.canonical → (f m x).canonical) :
    ∀ (l : List α) {m : Dev}, m.canonical → (l.foldl f m).canonical
  | [], _, h => h
  | x :: l, _, h => Dev.foldl_keeps hf l (hf _ x h)

/-- A state whose registers and memories are canonical. -/
theorem Dev.keep_parts {m : Dev} (hh : Memory.wf m.hbm = true) (hr : regsWf m.regs = true) (hs : storeWf m.store = true) :
    m.canonical := ⟨hh, hr, hs⟩

theorem Dev.setReg_keeps {m : Dev} (h : m.canonical) (off v : Nat) : (m.setReg off v).canonical :=
  ⟨h.1, Tbl.wf_set (fun off => BitVec.ofNat 32 (resetOf off)) off _ h.2.1, h.2.2⟩

theorem Dev.setByte_keeps {m : Dev} (h : m.canonical) (a : Nat) (v : Byte) : (m.setByte a v).canonical :=
  ⟨Tbl.wf_set (fun _ => (0 : Byte)) a v h.1, h.2⟩

theorem Dev.setWord_keeps {m : Dev} (h : m.canonical) (e a : Nat) (w : VecWord) : (m.setWord e a w).canonical :=
  ⟨h.1, h.2.1, Tbl.wf_set (fun _ => (0 : VecWord)) _ w h.2.2⟩

theorem Dev.each_keeps {α : Type} {f : Dev → α → Dev} (hf : ∀ m x, m.canonical → (f m x).canonical) :
    ∀ (l : List α) {m : Dev}, m.canonical → (m.each l f).canonical
  | [], _, h => h
  | x :: l, _, h => Dev.each_keeps hf l (hf _ x h)

theorem Dev.setBytes_keeps : ∀ (l : List Byte) {m : Dev} (_ : m.canonical) (a : Nat), (m.setBytes a l).canonical
  | [], _, h, _ => h
  | v :: t, _, h, a => Dev.setBytes_keeps t (Dev.setByte_keeps h a v) (a + 1)

theorem Dev.copyStore_keeps {m : Dev} (h : m.canonical) (src dst : Nat) : (m.copyStore src dst).canonical := by
  refine ⟨h.1, h.2.1, Tbl.wf_graft _ _ (Tbl.wf_map (fun k => k - 2048 * src + 2048 * dst) (Tbl.wf_filter _ h.2.2) ?_) h.2.2 (by omega)⟩
  intro x hx y hy hlt
  simp only [List.mem_filter, Bool.and_eq_true, decide_eq_true_eq] at hx hy
  omega

/-- Of every register the bits kept through a reset stay, and what returns to its reset value is no longer listed. -/
theorem keepRegs_above (keeps : Nat → List (Nat × Nat)) {k : Nat} :
    ∀ {l : List (Nat × Word)}, regsWf l = true → Tbl.above k l = true → Tbl.above k (keepRegs keeps l) = true
  | [], _, _ => rfl
  | (j, v) :: l, hw, ha => by
    simp only [regsWf, Tbl.wf, Bool.and_eq_true] at hw
    simp only [Tbl.above, decide_eq_true_eq] at ha
    have hl := keepRegs_above keeps hw.2 (Tbl.above_mono (Nat.le_of_lt ha) hw.1.2)
    unfold keepRegs at *
    simp only [List.filterMap_cons]
    split
    · exact hl
    · rename_i e he
      split at he
      · exact absurd he (by simp)
      · simp only [Option.some.injEq] at he
        subst he
        simpa [Tbl.above] using ha

theorem keepRegs_wf (keeps : Nat → List (Nat × Nat)) :
    ∀ {l : List (Nat × Word)}, regsWf l = true → regsWf (keepRegs keeps l) = true
  | [], _ => rfl
  | (j, v) :: l, hw => by
    simp only [regsWf, Tbl.wf, Bool.and_eq_true] at hw
    have hl := keepRegs_wf keeps (l := l) hw.2
    have ha := keepRegs_above keeps hw.2 hw.1.2
    unfold keepRegs at *
    simp only [List.filterMap_cons]
    split
    · exact hl
    · rename_i e he
      split at he
      · exact absurd he (by simp)
      · rename_i hne
        simp only [Option.some.injEq] at he
        subst he
        simp only [regsWf, Tbl.wf, Bool.and_eq_true, decide_eq_true_eq]
        exact ⟨⟨hne, ha⟩, hl⟩

end Sys2Proof.Machine
end

