-- ==== Sys2Proof/Laws/KeepOps.lean ====
section
/-! SUPPORT. Canonical memories are kept by every operation of the machine: the shared operations, boundaries of a burst, safe entry, the mailbox and
the write codes. One lemma for each operation, named after it. -/

set_option maxRecDepth 4000

namespace Sys2Proof.Machine

/-! ## Ops -/

theorem Dev.put_keeps {m : Dev} (f : Fld) (v : Nat) (hk : m.canonical) : (Dev.put m f v).canonical := by
  unfold Dev.put
  repeat first
    | with_reducible first | assumption | apply Dev.setReg_keeps

theorem Dev.count_keeps {m : Dev} (f : Fld) (n : Nat) (hk : m.canonical) : (Dev.count m f n).canonical := by
  unfold Dev.count
  repeat first
    | with_reducible first | assumption | apply Dev.put_keeps

theorem Dev.bump_keeps {m : Dev} (f : Fld) (hk : m.canonical) : (Dev.bump m f).canonical := by
  unfold Dev.bump
  repeat first
    | with_reducible first | assumption | apply Dev.put_keeps

theorem Dev.setPair_keeps {m : Dev} (lo : Nat) (hi : Nat) (v : Nat) (hk : m.canonical) : (Dev.setPair m lo hi v).canonical := by
  unfold Dev.setPair
  repeat first
    | with_reducible first | assumption | apply Dev.setReg_keeps

theorem Dev.takeDeck_keeps {m : Dev} (off : Nat) (hk : m.canonical) : (Dev.takeDeck m off).canonical := by
  unfold Dev.takeDeck
  repeat first
    | with_reducible first | assumption | apply Dev.keep_mk

theorem Dev.setForce_keeps {m : Dev} (off : Nat) (v : Nat) (hk : m.canonical) : (Dev.setForce m off v).canonical := by
  unfold Dev.setForce
  repeat first
    | with_reducible first | assumption | apply Dev.keep_mk

theorem Dev.takeForce_keeps {m : Dev} (off : Nat) (hk : m.canonical) : (Dev.takeForce m off).canonical := by
  unfold Dev.takeForce
  repeat first
    | with_reducible first | assumption | apply Dev.setForce_keeps

theorem Dev.forceDeck_keeps {m : Dev} (off : Nat) (hk : m.canonical) : (Dev.forceDeck m off).canonical := by
  unfold Dev.forceDeck
  repeat first
    | with_reducible first | assumption | apply Dev.setForce_keeps

theorem Dev.setMem_keeps {m : Dev} (a : Nat) (n : Nat) (v : Nat) (hk : m.canonical) : (Dev.setMem m a n v).canonical := by
  unfold Dev.setMem
  repeat first
    | with_reducible first | assumption | apply Dev.setBytes_keeps

theorem Dev.setFlip_keeps {m : Dev} (e : Nat) (a : Nat) (v : Nat) (hk : m.canonical) : (Dev.setFlip m e a v).canonical := by
  unfold Dev.setFlip
  repeat first
    | with_reducible first | assumption | apply Dev.keep_mk

theorem Dev.setBsn_keeps {m : Dev} (b : Nat) (x : BasinX) (hk : m.canonical) : (Dev.setBsn m b x).canonical := by
  unfold Dev.setBsn
  repeat first
    | with_reducible first | assumption | apply Dev.keep_mk

theorem Dev.setPin_keeps {m : Dev} (p : Nat) (x : PinX) (hk : m.canonical) : (Dev.setPin m p x).canonical := by
  unfold Dev.setPin
  repeat first
    | with_reducible first | assumption | apply Dev.keep_mk

theorem Dev.setSeq_keeps {m : Dev} (q : Nat) (x : SeqX) (hk : m.canonical) : (Dev.setSeq m q x).canonical := by
  unfold Dev.setSeq
  repeat first
    | with_reducible first | assumption | apply Dev.keep_mk

theorem Dev.setTone_keeps {m : Dev} (b : Nat) (c : Nat) (x : ToneX) (hk : m.canonical) : (Dev.setTone m b c x).canonical := by
  unfold Dev.setTone
  repeat first
    | with_reducible first | assumption | apply Dev.keep_mk

theorem Dev.setDelta_keeps {m : Dev} (t : Nat) (x : DeltaX) (hk : m.canonical) : (Dev.setDelta m t x).canonical := by
  unfold Dev.setDelta
  repeat first
    | with_reducible first | assumption | apply Dev.keep_mk

theorem Dev.setLink_keeps {m : Dev} (l : Nat) (x : LinkX) (hk : m.canonical) : (Dev.setLink m l x).canonical := by
  unfold Dev.setLink
  repeat first
    | with_reducible first | assumption | apply Dev.keep_mk

theorem Dev.setAdc_keeps {m : Dev} (k : Nat) (x : AdcX) (hk : m.canonical) : (Dev.setAdc m k x).canonical := by
  unfold Dev.setAdc
  repeat first
    | with_reducible first | assumption | apply Dev.keep_mk

theorem Dev.setPadc_keeps {m : Dev} (p : Nat) (x : PAdcX) (hk : m.canonical) : (Dev.setPadc m p x).canonical := by
  unfold Dev.setPadc
  repeat first
    | with_reducible first | assumption | apply Dev.keep_mk

theorem Dev.draw_keeps {m : Dev} (hk : m.canonical) : (Dev.draw m).canonical := by
  unfold Dev.draw
  repeat first
    | with_reducible first | assumption | apply Dev.keep_mk

theorem Dev.modLev_keeps {m : Dev} (f : LevX → LevX) (hk : m.canonical) : (Dev.modLev m f).canonical := by
  unfold Dev.modLev
  repeat first
    | with_reducible first | assumption | apply Dev.keep_mk

theorem Dev.sendFlow_keeps {m : Dev} (ls : List Nat) (f : FlowBlock) (hk : m.canonical) : (Dev.sendFlow m ls f).canonical := by
  unfold Dev.sendFlow
  repeat first
    | with_reducible first | assumption | apply Dev.keep_mk

theorem Dev.tellSpan_keeps {m : Dev} (f : FlowBlock) (hk : m.canonical) : (Dev.tellSpan m f).canonical := by
  unfold Dev.tellSpan
  repeat first
    | with_reducible first | assumption | apply Dev.sendFlow_keeps | apply Dev.keep_ite

theorem Dev.tellLeader_keeps {m : Dev} (b : Nat) (line : Nat) (t : Instant) (hk : m.canonical) : (Dev.tellLeader m b line t).canonical := by
  unfold Dev.tellLeader
  repeat first
    | with_reducible first | assumption | apply Dev.sendFlow_keeps | apply Dev.keep_ite

theorem Dev.setState_keeps {m : Dev} (b : Nat) (v : Nat) (hk : m.canonical) : (Dev.setState m b v).canonical := by
  unfold Dev.setState
  repeat first
    | with_reducible first | assumption | apply Dev.put_keeps

theorem Dev.putStamp_keeps {m : Dev} (lo : Fld) (hi : Fld) (t : Instant) (hk : m.canonical) : (Dev.putStamp m lo hi t).canonical := by
  unfold Dev.putStamp
  repeat first
    | with_reducible first | assumption | apply Dev.put_keeps

/-! ## Burst -/

theorem Dev.setCtx_keeps {m : Dev} (c : Nat) (v : Nat) (hk : m.canonical) : (Dev.setCtx m c v).canonical := by
  unfold Dev.setCtx
  repeat first
    | with_reducible first | assumption | apply Dev.setMem_keeps

theorem Dev.msix_keeps {m : Dev} (v : Nat) (hk : m.canonical) : (Dev.msix m v).canonical := by
  unfold Dev.msix
  try lift_lets -underBinder
  repeat first
    | with_reducible assumption
    | with_reducible first | apply Dev.setReg_keeps | apply Dev.keep_ite | apply Dev.keep_mk

theorem Dev.traceWord_keeps {m : Dev} (v : Nat) (hk : m.canonical) : (Dev.traceWord m v).canonical := by
  unfold Dev.traceWord
  repeat first
    | with_reducible first | assumption | apply Dev.count_keeps | apply Dev.put_keeps | apply Dev.setMem_keeps | apply Dev.keep_ite

theorem Dev.trace_keeps {m : Dev} (kind : Nat) (arg : Nat) (b : Nat) (c : Nat) (hk : m.canonical) : (Dev.trace m kind arg b c).canonical :=
    by
  unfold Dev.trace
  repeat first
    | with_reducible first | assumption | apply Dev.traceWord_keeps

theorem Dev.modBsn_keeps {m : Dev} (b : Nat) (f : BasinX → BasinX) (hk : m.canonical) : (Dev.modBsn m b f).canonical := by
  unfold Dev.modBsn
  repeat first
    | with_reducible first | assumption | apply Dev.setBsn_keeps

theorem Dev.modPin_keeps {m : Dev} (p : Nat) (f : PinX → PinX) (hk : m.canonical) : (Dev.modPin m p f).canonical := by
  unfold Dev.modPin
  repeat first
    | with_reducible first | assumption | apply Dev.setPin_keeps

theorem Dev.modRun_keeps {m : Dev} (b : Nat) (f : Run → Run) (hk : m.canonical) : (Dev.modRun m b f).canonical := by
  unfold Dev.modRun
  repeat first
    | with_reducible first | assumption | apply Dev.modBsn_keeps

theorem Dev.modDeck_keeps {m : Dev} (b : Nat) (f : Deck → Deck) (hk : m.canonical) : (Dev.modDeck m b f).canonical := by
  unfold Dev.modDeck
  repeat first
    | with_reducible first | assumption | apply Dev.modBsn_keeps

theorem Dev.engState_keeps {m : Dev} (b : Nat) (v : Nat) (hk : m.canonical) : (Dev.engState m b v).canonical := by
  unfold Dev.engState
  try lift_lets -underBinder
  repeat first
    | with_reducible assumption
    | (intro n x hn; have : Dev.canonical n := hn; try lift_lets -underBinder)
    | with_reducible first | apply Dev.each_keeps | apply Dev.put_keeps

theorem Dev.closeStall_keeps {m : Dev} (b : Nat) (t : Instant) (hk : m.canonical) : (Dev.closeStall m b t).canonical := by
  unfold Dev.closeStall
  try lift_lets -underBinder
  repeat first
    | with_reducible first | assumption | apply Dev.modRun_keeps | apply Dev.setPair_keeps | apply Dev.keep_ite
    | (split <;> try lift_lets -underBinder)
    | with_reducible apply Dev.keep_mk

theorem Dev.setWire_keeps {m : Dev} (c : Nat) (v : Nat) (hk : m.canonical) : (Dev.setWire m c v).canonical := by
  unfold Dev.setWire
  repeat first
    | with_reducible first | assumption | apply Dev.keep_mk

theorem Dev.sendLine_keeps {m : Dev} (l : Nat) (v : Bool) (t : Instant) (hk : m.canonical) : (Dev.sendLine m l v t).canonical := by
  unfold Dev.sendLine
  try lift_lets -underBinder
  repeat first
    | with_reducible assumption
    | (intro n x hn; have : Dev.canonical n := hn; try lift_lets -underBinder)
    | with_reducible first | apply Dev.each_keeps | apply Dev.setWire_keeps | apply Dev.count_keeps | apply Dev.keep_ite
    | with_reducible apply Dev.keep_mk

theorem Dev.driveBall_keeps {m : Dev} (k : Nat) (v : Bool) (t : Instant) (hk : m.canonical) : (Dev.driveBall m k v t).canonical := by
  unfold Dev.driveBall
  repeat first
    | with_reducible first | assumption | apply Dev.keep_mk

theorem Dev.settleBalls_keeps {m : Dev} (t : Instant) (hk : m.canonical) : (Dev.settleBalls m t).canonical := by
  unfold Dev.settleBalls
  try lift_lets -underBinder
  repeat first
    | with_reducible assumption
    | (intro n x hn; have : Dev.canonical n := hn; try lift_lets -underBinder)
    | with_reducible first | apply Dev.each_keeps | apply Dev.setWire_keeps | apply Dev.keep_mk

theorem Dev.setLevel_keeps {m : Dev} (v : Bool) (e : Nat × Instant) (hk : m.canonical) : (Dev.setLevel m v e).canonical := by
  unfold Dev.setLevel
  repeat first
    | with_reducible first | assumption | apply Dev.modBsn_keeps | apply Dev.tellLeader_keeps | apply Dev.sendLine_keeps
    | with_reducible first | apply Dev.driveBall_keeps | apply Dev.keep_ite

theorem Dev.spread_keeps {m : Dev} (src : Nat) (t : Instant) (v : Bool) (hk : m.canonical) : (Dev.spread m src t v).canonical := by
  unfold Dev.spread
  try lift_lets -underBinder
  repeat first
    | with_reducible assumption
    | (intro n x hn; have : Dev.canonical n := hn; try lift_lets -underBinder)
    | with_reducible first | apply Dev.each_keeps | apply Dev.setLevel_keeps

theorem Dev.marksOff_keeps {m : Dev} (b : Nat) (t : Instant) (hk : m.canonical) : (Dev.marksOff m b t).canonical := by
  unfold Dev.marksOff
  try lift_lets -underBinder
  repeat first
    | with_reducible assumption
    | (intro n x hn; have : Dev.canonical n := hn; try lift_lets -underBinder)
    | with_reducible first | apply Dev.each_keeps | apply Dev.modBsn_keeps | apply Dev.spread_keeps | apply Dev.keep_mk

theorem Dev.closeRecord_keeps {m : Dev} (b : Nat) (r : CapRec) (rest : List CapSlot) (hk : m.canonical) : (Dev.closeRecord m b r
    rest).canonical := by
  unfold Dev.closeRecord
  repeat first
    | with_reducible first | assumption | apply Dev.modBsn_keeps | apply Dev.put_keeps | apply Dev.setPair_keeps

theorem Dev.endCapture_keeps {m : Dev} (b : Nat) (t : Instant) (hk : m.canonical) : (Dev.endCapture m b t).canonical := by
  unfold Dev.endCapture
  try lift_lets -underBinder
  repeat first
    | with_reducible first | assumption | apply Dev.closeRecord_keeps | apply Dev.modBsn_keeps
    | (split <;> try lift_lets -underBinder)
    | with_reducible apply Dev.keep_mk

theorem Dev.freezeSeq_keeps {m : Dev} (q : Nat) (t : Instant) (hk : m.canonical) : (Dev.freezeSeq m q t).canonical := by
  unfold Dev.freezeSeq
  repeat first
    | with_reducible first | assumption | apply Dev.setReg_keeps | apply Dev.put_keeps | apply Dev.spread_keeps | apply Dev.keep_ite

theorem Dev.closeDry_keeps {m : Dev} (b : Nat) (t : Nat) (at_ : Instant) (hk : m.canonical) : (Dev.closeDry m b t at_).canonical := by
  unfold Dev.closeDry
  try lift_lets -underBinder
  repeat first
    | with_reducible first | assumption | apply Dev.count_keeps | apply Dev.put_keeps | apply Dev.setDelta_keeps
    | with_reducible first | apply Dev.modRun_keeps | apply Dev.keep_ite
    | (split <;> try lift_lets -underBinder)
    | with_reducible apply Dev.keep_mk

theorem Dev.stopSamples_keeps {m : Dev} (b : Nat) (t : Instant) (hk : m.canonical) : (Dev.stopSamples m b t).canonical := by
  unfold Dev.stopSamples
  try lift_lets -underBinder
  repeat first
    | with_reducible assumption
    | (intro n x hn; have : Dev.canonical n := hn; try lift_lets -underBinder)
    | with_reducible first | apply Dev.each_keeps | apply Dev.closeDry_keeps | apply Dev.put_keeps | apply Dev.setDelta_keeps
    | with_reducible first | apply Dev.keep_ite | apply Dev.keep_mk

theorem Dev.payHouse_keeps {m : Dev} (b : Nat) (hk : m.canonical) : (Dev.payHouse m b).canonical := by
  unfold Dev.payHouse
  try lift_lets -underBinder
  repeat first
    | with_reducible first | assumption | apply Dev.modBsn_keeps | apply Dev.keep_ite
    | (split <;> try lift_lets -underBinder)
    | with_reducible apply Dev.keep_mk

theorem Dev.endBurst_keeps {m : Dev} (b : Nat) (status : Nat) (source : Nat) (t : Instant) (hk : m.canonical) : (Dev.endBurst m b status
    source t).canonical := by
  unfold Dev.endBurst
  try lift_lets -underBinder
  repeat first
    | with_reducible assumption
    | (intro n x hn; have : Dev.canonical n := hn; try lift_lets -underBinder)
    | with_reducible first | apply Dev.each_keeps | apply Dev.closeStall_keeps | apply Dev.stopSamples_keeps
    | with_reducible first | apply Dev.endCapture_keeps | apply Dev.freezeSeq_keeps | apply Dev.setCtx_keeps | apply Dev.modBsn_keeps
    | with_reducible first | apply Dev.modPin_keeps | apply Dev.setDelta_keeps | apply Dev.put_keeps | apply Dev.engState_keeps
    | (split <;> try lift_lets -underBinder)
    | with_reducible apply Dev.keep_mk

theorem Dev.returnDeck_keeps {m : Dev} (b : Nat) (reason : Nat) (hk : m.canonical) : (Dev.returnDeck m b reason).canonical := by
  unfold Dev.returnDeck
  try lift_lets -underBinder
  repeat first
    | with_reducible assumption
    | (intro n x hn; have : Dev.canonical n := hn; try lift_lets -underBinder)
    | with_reducible first | apply Dev.each_keeps | apply Dev.modBsn_keeps | apply Dev.modPin_keeps | apply Dev.setDelta_keeps
    | with_reducible first | apply Dev.setCtx_keeps | apply Dev.trace_keeps
    | (split <;> try lift_lets -underBinder)
    | with_reducible apply Dev.keep_mk

/-! ## Safe -/

theorem Dev.clampFlags_keeps {m : Dev} (p : Nat) (hk : m.canonical) : (Dev.clampFlags m p).canonical := by
  unfold Dev.clampFlags
  repeat first
    | with_reducible first | assumption | apply Dev.put_keeps | apply Dev.keep_ite

theorem Dev.limitOwed_keeps {m : Dev} (p : Nat) (hk : m.canonical) : (Dev.limitOwed m p).canonical := by
  unfold Dev.limitOwed
  try lift_lets -underBinder
  repeat first
    | with_reducible assumption
    | with_reducible first | apply Dev.clampFlags_keeps | apply Dev.modLev_keeps | apply Dev.keep_ite | apply Dev.keep_mk

theorem Dev.clearLevels_keeps {m : Dev} (p : Nat) (hk : m.canonical) : (Dev.clearLevels m p).canonical := by
  unfold Dev.clearLevels
  try lift_lets -underBinder
  repeat first
    | with_reducible assumption
    | (intro n x hn; have : Dev.canonical n := hn; try lift_lets -underBinder)
    | with_reducible first | apply Dev.each_keeps | apply Dev.put_keeps

theorem Dev.clearPin_keeps {m : Dev} (p : Nat) (hk : m.canonical) : (Dev.clearPin m p).canonical := by
  unfold Dev.clearPin
  try lift_lets -underBinder
  repeat first
    | with_reducible assumption
    | with_reducible first | apply Dev.clearLevels_keeps | apply Dev.put_keeps | apply Dev.modPin_keeps | apply Dev.limitOwed_keeps
    | with_reducible apply Dev.keep_mk

theorem Dev.dropPmu_keeps {m : Dev} (p : Nat) (hk : m.canonical) : (Dev.dropPmu m p).canonical := by
  unfold Dev.dropPmu
  repeat first
    | with_reducible first | assumption | apply Dev.put_keeps | apply Dev.modPin_keeps

theorem Dev.safePin_keeps {m : Dev} (clear : Bool) (p : Nat) (hk : m.canonical) : (Dev.safePin m clear p).canonical := by
  unfold Dev.safePin
  repeat first
    | with_reducible first | assumption | apply Dev.clearPin_keeps | apply Dev.put_keeps | apply Dev.modPin_keeps
    | with_reducible first | apply Dev.dropPmu_keeps | apply Dev.keep_ite

theorem Dev.safeBasin_keeps {m : Dev} (b : Nat) (clear : Bool) (t : Instant) (hk : m.canonical) : (Dev.safeBasin m b clear t).canonical :=
    by
  unfold Dev.safeBasin
  try lift_lets -underBinder
  repeat first
    | with_reducible assumption
    | (intro n x hn; have : Dev.canonical n := hn; try lift_lets -underBinder)
    | with_reducible first | apply Dev.each_keeps | apply Dev.safePin_keeps | apply Dev.marksOff_keeps | apply Dev.modBsn_keeps
    | with_reducible apply Dev.keep_mk

theorem Dev.stopTone_keeps {m : Dev} (b : Nat) (c : Nat) (tt : Nat) (hk : m.canonical) : (Dev.stopTone m b c tt).canonical := by
  unfold Dev.stopTone
  repeat first
    | with_reducible first | assumption | apply Dev.setTone_keeps | apply Dev.put_keeps

theorem Dev.stopTones_keeps {m : Dev} (b : Nat) (t : Instant) (hk : m.canonical) : (Dev.stopTones m b t).canonical := by
  unfold Dev.stopTones
  try lift_lets -underBinder
  repeat first
    | with_reducible assumption
    | (intro n x hn; have : Dev.canonical n := hn; try lift_lets -underBinder)
    | with_reducible first | apply Dev.each_keeps | apply Dev.stopTone_keeps

theorem Dev.loadTone_keeps {m : Dev} (b : Nat) (c : Nat) (tt : Nat) (hk : m.canonical) : (Dev.loadTone m b c tt).canonical := by
  unfold Dev.loadTone
  repeat first
    | with_reducible first | assumption | apply Dev.bump_keeps | apply Dev.put_keeps | apply Dev.setTone_keeps | apply Dev.keep_ite

theorem Dev.loadTones_keeps {m : Dev} (b : Nat) (hk : m.canonical) : (Dev.loadTones m b).canonical := by
  unfold Dev.loadTones
  try lift_lets -underBinder
  repeat first
    | with_reducible assumption
    | (intro n x hn; have : Dev.canonical n := hn; try lift_lets -underBinder)
    | with_reducible first | apply Dev.each_keeps | apply Dev.loadTone_keeps | apply Dev.keep_ite

theorem Dev.disableUnits_keeps {m : Dev} (b : Nat) (t : Instant) (hk : m.canonical) : (Dev.disableUnits m b t).canonical := by
  unfold Dev.disableUnits
  try lift_lets -underBinder
  repeat first
    | with_reducible assumption
    | (intro n x hn; have : Dev.canonical n := hn; try lift_lets -underBinder)
    | with_reducible first | apply Dev.each_keeps | apply Dev.stopTones_keeps | apply Dev.put_keeps | apply Dev.setTone_keeps
    | with_reducible first | apply Dev.setDelta_keeps | apply Dev.endCapture_keeps | apply Dev.freezeSeq_keeps | apply Dev.keep_ite
    | with_reducible apply Dev.keep_mk

theorem Dev.discardEnables_keeps {m : Dev} (hit : Nat → Bool) (hk : m.canonical) : (Dev.discardEnables m hit).canonical := by
  unfold Dev.discardEnables
  repeat first
    | with_reducible first | assumption | apply Dev.keep_mk

theorem Dev.discardBasin_keeps {m : Dev} (b : Nat) (hk : m.canonical) : (Dev.discardBasin m b).canonical := by
  unfold Dev.discardBasin
  try lift_lets -underBinder
  repeat first
    | with_reducible assumption
    | with_reducible first | apply Dev.discardEnables_keeps | apply Dev.modBsn_keeps | apply Dev.keep_mk

theorem Dev.react_keeps {m : Dev} (b : Nat) (status : Nat) (source : Nat) (t : Instant) (hk : m.canonical) : (Dev.react m b status source
    t).canonical := by
  unfold Dev.react
  repeat first
    | with_reducible first | assumption | apply Dev.endBurst_keeps | apply Dev.returnDeck_keeps | apply Dev.disableUnits_keeps
    | with_reducible first | apply Dev.safeBasin_keeps | apply Dev.discardBasin_keeps | apply Dev.put_keeps | apply Dev.modBsn_keeps
    | with_reducible first | apply Dev.setState_keeps | apply Dev.keep_ite

/-! ## View -/

theorem Dev.viewPin_keeps {m : Dev} (p : Nat) (hk : m.canonical) : (Dev.viewPin m p).canonical := by
  unfold Dev.viewPin
  repeat first
    | with_reducible first | assumption | apply Dev.put_keeps

theorem Dev.viewBasin_keeps {m : Dev} (b : Nat) (hk : m.canonical) : (Dev.viewBasin m b).canonical := by
  unfold Dev.viewBasin
  try lift_lets -underBinder
  repeat first
    | with_reducible assumption
    | (intro n x hn; have : Dev.canonical n := hn; try lift_lets -underBinder)
    | with_reducible first | apply Dev.each_keeps | apply Dev.put_keeps | apply Dev.setPair_keeps | apply Dev.setReg_keeps
    | with_reducible apply Dev.elim_keeps
    | intro x

theorem Dev.viewSeq_keeps {m : Dev} (q : Nat) (hk : m.canonical) : (Dev.viewSeq m q).canonical := by
  unfold Dev.viewSeq
  repeat first
    | with_reducible first | assumption | apply Dev.setReg_keeps

theorem Dev.viewTrib_keeps {m : Dev} (t : Nat) (hk : m.canonical) : (Dev.viewTrib m t).canonical := by
  unfold Dev.viewTrib
  try lift_lets -underBinder
  repeat first
    | with_reducible assumption
    | (intro n x hn; have : Dev.canonical n := hn; try lift_lets -underBinder)
    | with_reducible first | apply Dev.each_keeps | apply Dev.put_keeps | apply Dev.setReg_keeps | apply Dev.keep_ite

theorem Dev.viewOthers_keeps {m : Dev} (hk : m.canonical) : (Dev.viewOthers m).canonical := by
  unfold Dev.viewOthers
  try lift_lets -underBinder
  repeat first
    | with_reducible assumption
    | (intro n x hn; have : Dev.canonical n := hn; try lift_lets -underBinder)
    | with_reducible first | apply Dev.each_keeps | apply Dev.put_keeps | apply Dev.setPair_keeps | apply Dev.setReg_keeps

theorem Dev.viewAt_keeps {m : Dev} (off : Nat) (hk : m.canonical) : (Dev.viewAt m off).canonical := by
  unfold Dev.viewAt
  repeat first
    | with_reducible first | assumption | apply Dev.viewOthers_keeps | apply Dev.viewPin_keeps | apply Dev.viewTrib_keeps
    | with_reducible first | apply Dev.viewBasin_keeps | apply Dev.viewSeq_keeps | apply Dev.keep_ite

theorem Dev.viewAll_keeps {m : Dev} (hk : m.canonical) : (Dev.viewAll m).canonical := by
  unfold Dev.viewAll
  try lift_lets -underBinder
  repeat first
    | with_reducible assumption
    | (intro n x hn; have : Dev.canonical n := hn; try lift_lets -underBinder)
    | with_reducible first | apply Dev.each_keeps | apply Dev.viewPin_keeps | apply Dev.viewBasin_keeps | apply Dev.viewSeq_keeps
    | with_reducible first | apply Dev.viewTrib_keeps | apply Dev.viewOthers_keeps

/-! ## Reservoir -/

theorem Dev.recWrite_keeps {m : Dev} (kind : Nat) (index : Nat) (temp : Nat) (payload : List Byte) (hk : m.canonical) : (Dev.recWrite m kind
    index temp payload).canonical := by
  unfold Dev.recWrite
  try lift_lets -underBinder
  repeat first
    | with_reducible assumption
    | with_reducible first | apply Dev.setPair_keeps | apply Dev.elim_keeps | apply Dev.keep_mk
    | intro x

/-! ## Mailbox -/

theorem Dev.putStatus_keeps {m : Dev} (s : Nat) (hi : Nat) (lo : Nat) (v : Nat) (hk : m.canonical) : (Dev.putStatus m s hi lo v).canonical
    := by
  unfold Dev.putStatus
  repeat first
    | with_reducible first | assumption | apply Dev.setPair_keeps

theorem Dev.setSlot_keeps {m : Dev} (s : Nat) (x : MbxX) (hk : m.canonical) : (Dev.setSlot m s x).canonical := by
  unfold Dev.setSlot
  repeat first
    | with_reducible first | assumption | apply Dev.keep_mk

theorem Dev.sumBit_keeps {m : Dev} (s : Nat) (at_ : Nat) (v : Nat) (hk : m.canonical) : (Dev.sumBit m s at_ v).canonical := by
  unfold Dev.sumBit
  repeat first
    | with_reducible first | assumption | apply Dev.setReg_keeps

theorem Dev.opEnd_keeps {m : Dev} (s : Nat) (err : Nat) (hk : m.canonical) : (Dev.opEnd m s err).canonical := by
  unfold Dev.opEnd
  repeat first
    | with_reducible first | assumption | apply Dev.putStatus_keeps | apply Dev.sumBit_keeps | apply Dev.msix_keeps
    | with_reducible apply Dev.keep_ite

theorem Dev.partialCount_keeps {m : Dev} (s : Nat) (n : Nat) (hk : m.canonical) : (Dev.partialCount m s n).canonical := by
  unfold Dev.partialCount
  repeat first
    | with_reducible first | assumption | apply Dev.putStatus_keeps

theorem Dev.progress_keeps {m : Dev} (hk : m.canonical) : (Dev.progress m).canonical := by
  unfold Dev.progress
  try lift_lets -underBinder
  repeat first
    | with_reducible assumption
    | (intro n x hn; have : Dev.canonical n := hn; try lift_lets -underBinder)
    | with_reducible first | apply Dev.each_keeps | apply Dev.putStatus_keeps | apply Dev.draw_keeps

theorem Dev.opIssue_keeps {m : Dev} (s : Nat) (op : Nat) (irq : Bool) (hk : m.canonical) : (Dev.opIssue m s op irq).1.canonical := by
  unfold Dev.opIssue
  repeat first
    | with_reducible first | assumption | apply Dev.sumBit_keeps | apply Dev.setPair_keeps | apply Dev.setSlot_keeps
    | with_reducible first | apply Dev.keep_ite_fst | apply Dev.keep_ite

theorem Dev.opStart_keeps {m : Dev} (s : Nat) (op : Nat) (irq : Bool) (busy : Nat) (hk : m.canonical) : (Dev.opStart m s op irq
    busy).1.canonical := by
  unfold Dev.opStart
  repeat first
    | with_reducible first | assumption | apply Dev.opIssue_keeps | apply Dev.putStatus_keeps | apply Dev.opEnd_keeps
    | with_reducible first | apply Dev.keep_ite_fst | apply Dev.keep_ite

/-! ## Levee -/

theorem Dev.countPersistent_keeps {m : Dev} (s : Nat) (forced : Bool) (hk : m.canonical) : (Dev.countPersistent m s forced).canonical := by
  unfold Dev.countPersistent
  repeat first
    | with_reducible first | assumption | apply Dev.count_keeps | apply Dev.keep_ite

theorem Dev.logReport_keeps {m : Dev} (s : Nat) (inst : Nat) (detail : Nat) (sev : Nat) (forced : Bool) (t : Instant) (hk : m.canonical) :
    (Dev.logReport m s inst detail sev forced t).canonical := by
  unfold Dev.logReport
  try lift_lets -underBinder
  repeat first
    | with_reducible assumption
    | with_reducible first | apply Dev.msix_keeps | apply Dev.count_keeps | apply Dev.put_keeps | apply Dev.keep_ite
    | with_reducible apply Dev.keep_mk

theorem Dev.beginDump_keeps {m : Dev} (cause : Nat) (s : Nat) (inst : Nat) (t : Instant) (hk : m.canonical) : (Dev.beginDump m cause s inst
    t).canonical := by
  unfold Dev.beginDump
  try lift_lets -underBinder
  repeat first
    | with_reducible assumption
    | with_reducible first | apply Dev.viewAll_keeps | apply Dev.put_keeps | apply Dev.setMem_keeps | apply Dev.keep_ite
    | with_reducible apply Dev.keep_mk

theorem Dev.startDump_keeps {m : Dev} (cause : Nat) (s : Nat) (inst : Nat) (t : Instant) (hk : m.canonical) : (Dev.startDump m cause s inst
    t).canonical := by
  unfold Dev.startDump
  repeat first
    | with_reducible first | assumption | apply Dev.beginDump_keeps | apply Dev.count_keeps | apply Dev.keep_ite

theorem Dev.storeCounters_keeps {m : Dev} (hk : m.canonical) : (Dev.storeCounters m).canonical := by
  unfold Dev.storeCounters
  try lift_lets -underBinder
  repeat first
    | with_reducible assumption
    | with_reducible first | apply Dev.recWrite_keeps | apply Dev.keep_ite | apply Dev.keep_mk

theorem Dev.scanShut_keeps {m : Dev} (k : Nat) (t : Instant) (hk : m.canonical) : (Dev.scanShut m k t).canonical := by
  unfold Dev.scanShut
  repeat first
    | with_reducible first | assumption | apply Dev.put_keeps | apply Dev.setAdc_keeps | apply Dev.keep_ite

theorem Dev.stopScans_keeps {m : Dev} (t : Instant) (hk : m.canonical) : (Dev.stopScans m t).canonical := by
  unfold Dev.stopScans
  try lift_lets -underBinder
  repeat first
    | with_reducible assumption
    | (intro n x hn; have : Dev.canonical n := hn; try lift_lets -underBinder)
    | with_reducible first | apply Dev.each_keeps | apply Dev.scanShut_keeps

theorem Dev.calEntry_keeps {m : Dev} (s : Nat) (t : Nat) (kind : Nat) (mask : Nat) (temp : Nat) (outcome : Nat) (hk : m.canonical) :
    (Dev.calEntry m s t kind mask temp outcome).canonical := by
  unfold Dev.calEntry
  repeat first
    | with_reducible first | assumption | apply Dev.setMem_keeps | apply Dev.partialCount_keeps

theorem Dev.abandonCal_keeps {m : Dev} (hk : m.canonical) : (Dev.abandonCal m).canonical := by
  unfold Dev.abandonCal
  try lift_lets -underBinder
  repeat first
    | with_reducible assumption
    | (intro n x hn; have : Dev.canonical n := hn; try lift_lets -underBinder)
    | with_reducible first | apply Dev.each_keeps | apply Dev.put_keeps | apply Dev.calRun_keeps | apply Dev.calEntry_keeps
    | with_reducible apply Dev.opEnd_keeps
    | (split <;> try lift_lets -underBinder)
    | with_reducible apply Dev.keep_mk

theorem Dev.clearAll_keeps {m : Dev} (hk : m.canonical) : (Dev.clearAll m).canonical := by
  unfold Dev.clearAll
  try lift_lets -underBinder
  repeat first
    | with_reducible assumption
    | (intro n x hn; have : Dev.canonical n := hn; try lift_lets -underBinder)
    | with_reducible first | apply Dev.each_keeps | apply Dev.safePin_keeps

theorem Dev.sealOps_keeps {m : Dev} (hk : m.canonical) : (Dev.sealOps m).canonical := by
  unfold Dev.sealOps
  try lift_lets -underBinder
  repeat first
    | with_reducible assumption
    | (intro n x hn; have : Dev.canonical n := hn; try lift_lets -underBinder)
    | with_reducible first | apply Dev.each_keeps | apply Dev.put_keeps | apply Dev.opEnd_keeps | apply Dev.dump_keeps
    | with_reducible first | apply Dev.keep_ite | apply Dev.keep_mk

theorem Dev.seal_keeps {m : Dev} (s : Nat) (inst : Nat) (t : Instant) (hk : m.canonical) : (Dev.seal m s inst t).canonical := by
  unfold Dev.seal
  try lift_lets -underBinder
  repeat first
    | with_reducible assumption
    | (intro n x hn; have : Dev.canonical n := hn; try lift_lets -underBinder)
    | with_reducible first | apply Dev.each_keeps | apply Dev.put_keeps | apply Dev.disableUnits_keeps | apply Dev.safeBasin_keeps
    | with_reducible first | apply Dev.modRun_keeps | apply Dev.setState_keeps | apply Dev.clearAll_keeps | apply Dev.stopScans_keeps
    | with_reducible first | apply Dev.abandonCal_keeps | apply Dev.sealOps_keeps | apply Dev.startDump_keeps | apply Dev.keep_ite
    | with_reducible apply Dev.keep_mk

theorem Dev.reactTo_keeps {m : Dev} (s : Nat) (inst : Nat) (sev : Nat) (t : Instant) (hk : m.canonical) : (Dev.reactTo m s inst sev
    t).canonical := by
  unfold Dev.reactTo
  try lift_lets -underBinder
  repeat first
    | with_reducible assumption
    | (intro n x hn; have : Dev.canonical n := hn; try lift_lets -underBinder)
    | with_reducible first | apply Dev.each_keeps | apply Dev.react_keeps | apply Dev.clearAll_keeps | apply Dev.put_keeps
    | with_reducible first | apply Dev.stopScans_keeps | apply Dev.abandonCal_keeps | apply Dev.storeCounters_keeps
    | with_reducible first | apply Dev.startDump_keeps | apply Dev.seal_keeps | apply Dev.keep_ite | apply Dev.keep_mk

theorem Dev.reportAs_keeps {m : Dev} (s : Nat) (inst : Nat) (detail : Nat) (forced : Bool) (t : Instant) (hk : m.canonical) : (Dev.reportAs
    m s inst detail forced t).canonical := by
  unfold Dev.reportAs
  repeat first
    | with_reducible first | assumption | apply Dev.countPersistent_keeps | apply Dev.logReport_keeps | apply Dev.reactTo_keeps
    | with_reducible apply Dev.keep_ite

theorem Dev.report_keeps {m : Dev} (s : Nat) (inst : Nat) (detail : Nat) (t : Instant) (hk : m.canonical) : (Dev.report m s inst detail
    t).canonical := by
  unfold Dev.report
  repeat first
    | with_reducible first | assumption | apply Dev.reportAs_keeps | apply Dev.keep_ite

theorem Dev.payOwed_keeps {m : Dev} (hk : m.canonical) : (Dev.payOwed m).canonical := by
  unfold Dev.payOwed
  try lift_lets -underBinder
  repeat first
    | with_reducible assumption
    | (intro n x hn; have : Dev.canonical n := hn; try lift_lets -underBinder)
    | with_reducible first | apply Dev.each_keeps | apply Dev.report_keeps
    | (split <;> try lift_lets -underBinder)
    | with_reducible apply Dev.keep_mk

/-! ## Access -/

theorem Dev.hostWrite_keeps {m : Dev} (off : Nat) (f : Dev → Dev) (hk : m.canonical) (hf : ∀ n : Dev, n.canonical → (f n).canonical) :
    (Dev.hostWrite m off f).canonical := by
  unfold Dev.hostWrite
  repeat first
    | with_reducible first | assumption | apply hf | apply Dev.keep_ite

theorem Dev.writeFields_keeps {m : Dev} (off : Nat) (v : Nat) (hk : m.canonical) : (Dev.writeFields m off v).canonical := by
  unfold Dev.writeFields
  try lift_lets -underBinder
  repeat first
    | with_reducible first | assumption | apply Dev.setReg_keeps | apply Dev.report_keeps | apply Dev.keep_ite
    | (split <;> try lift_lets -underBinder)

theorem Dev.readClear_keeps {m : Dev} (off : Nat) (hk : m.canonical) : (Dev.readClear m off).canonical := by
  unfold Dev.readClear
  try lift_lets -underBinder
  repeat first
    | with_reducible first | assumption | apply Dev.setReg_keeps | apply Dev.keep_ite
    | (split <;> try lift_lets -underBinder)

end Sys2Proof.Machine
end

