-- ==== Sys2Proof/Laws/State.lean ====
section
/-! SUPPORT. What each named update leaves alone: one lemma for each field and update, and how a command's answer is reached. -/

namespace Sys2Proof.Machine

@[simp] theorem Dev.setReg_out (m : Dev) (off v : Nat) : (m.setReg off v).out = m.out := rfl
@[simp] theorem Dev.setReg_deck (m : Dev) (off v : Nat) : (m.setReg off v).deck = m.deck := rfl
@[simp] theorem Dev.setReg_force (m : Dev) (off v : Nat) : (m.setReg off v).force = m.force := rfl
@[simp] theorem Dev.setReg_posted (m : Dev) (off v : Nat) : (m.setReg off v).posted = m.posted := rfl
@[simp] theorem Dev.setReg_committing (m : Dev) (off v : Nat) : (m.setReg off v).committing = m.committing := rfl
@[simp] theorem Dev.setReg_committed (m : Dev) (off v : Nat) : (m.setReg off v).committed = m.committed := rfl
@[simp] theorem Dev.setReg_delivered (m : Dev) (off v : Nat) : (m.setReg off v).delivered = m.delivered := rfl
@[simp] theorem Dev.setReg_hbm (m : Dev) (off v : Nat) : (m.setReg off v).hbm = m.hbm := rfl
@[simp] theorem Dev.setReg_store (m : Dev) (off v : Nat) : (m.setReg off v).store = m.store := rfl
@[simp] theorem Dev.setReg_flips (m : Dev) (off v : Nat) : (m.setReg off v).flips = m.flips := rfl
@[simp] theorem Dev.setReg_mrc (m : Dev) (off v : Nat) : (m.setReg off v).mrc = m.mrc := rfl
@[simp] theorem Dev.setReg_image (m : Dev) (off v : Nat) : (m.setReg off v).image = m.image := rfl
@[simp] theorem Dev.setReg_staged (m : Dev) (off v : Nat) : (m.setReg off v).staged = m.staged := rfl
@[simp] theorem Dev.setReg_tick (m : Dev) (off v : Nat) : (m.setReg off v).tick = m.tick := rfl
@[simp] theorem Dev.setReg_timeBase (m : Dev) (off v : Nat) : (m.setReg off v).timeBase = m.timeBase := rfl
@[simp] theorem Dev.setReg_timeRest (m : Dev) (off v : Nat) : (m.setReg off v).timeRest = m.timeRest := rfl
@[simp] theorem Dev.setReg_latches (m : Dev) (off v : Nat) : (m.setReg off v).latches = m.latches := rfl
@[simp] theorem Dev.setReg_drawn (m : Dev) (off v : Nat) : (m.setReg off v).drawn = m.drawn := rfl
@[simp] theorem Dev.setReg_basins (m : Dev) (off v : Nat) : (m.setReg off v).basins = m.basins := rfl
@[simp] theorem Dev.setReg_pins (m : Dev) (off v : Nat) : (m.setReg off v).pins = m.pins := rfl
@[simp] theorem Dev.setReg_seqs (m : Dev) (off v : Nat) : (m.setReg off v).seqs = m.seqs := rfl
@[simp] theorem Dev.setReg_tones (m : Dev) (off v : Nat) : (m.setReg off v).tones = m.tones := rfl
@[simp] theorem Dev.setReg_deltas (m : Dev) (off v : Nat) : (m.setReg off v).deltas = m.deltas := rfl
@[simp] theorem Dev.setReg_adcs (m : Dev) (off v : Nat) : (m.setReg off v).adcs = m.adcs := rfl
@[simp] theorem Dev.setReg_padcs (m : Dev) (off v : Nat) : (m.setReg off v).padcs = m.padcs := rfl
@[simp] theorem Dev.setReg_mbx (m : Dev) (off v : Nat) : (m.setReg off v).mbx = m.mbx := rfl
@[simp] theorem Dev.setReg_jtag (m : Dev) (off v : Nat) : (m.setReg off v).jtag = m.jtag := rfl
@[simp] theorem Dev.setReg_weir (m : Dev) (off v : Nat) : (m.setReg off v).weir = m.weir := rfl
@[simp] theorem Dev.setReg_lev (m : Dev) (off v : Nat) : (m.setReg off v).lev = m.lev := rfl
@[simp] theorem Dev.setReg_slc (m : Dev) (off v : Nat) : (m.setReg off v).slc = m.slc := rfl
@[simp] theorem Dev.setReg_wires (m : Dev) (off v : Nat) : (m.setReg off v).wires = m.wires := rfl
@[simp] theorem Dev.setReg_cal (m : Dev) (off v : Nat) : (m.setReg off v).cal = m.cal := rfl
@[simp] theorem Dev.setReg_clk (m : Dev) (off v : Nat) : (m.setReg off v).clk = m.clk := rfl
@[simp] theorem Dev.setReg_spt (m : Dev) (off v : Nat) : (m.setReg off v).spt = m.spt := rfl
@[simp] theorem Dev.setReg_rsv (m : Dev) (off v : Nat) : (m.setReg off v).rsv = m.rsv := rfl
@[simp] theorem Dev.setReg_takeovers (m : Dev) (off v : Nat) : (m.setReg off v).takeovers = m.takeovers := rfl
@[simp] theorem Dev.setReg_faulty (m : Dev) (off v : Nat) : (m.setReg off v).faulty = m.faulty := rfl
@[simp] theorem Dev.setReg_auds (m : Dev) (off v : Nat) : (m.setReg off v).auds = m.auds := rfl
@[simp] theorem Dev.setReg_host (m : Dev) (off v : Nat) : (m.setReg off v).host = m.host := rfl
@[simp] theorem Dev.setReg_firm (m : Dev) (off v : Nat) : (m.setReg off v).firm = m.firm := rfl
@[simp] theorem Dev.setReg_power (m : Dev) (off v : Nat) : (m.setReg off v).power = m.power := rfl

@[simp] theorem Dev.put_out (m : Dev) (f : Fld) (v : Nat) : (m.put f v).out = m.out := rfl
@[simp] theorem Dev.put_deck (m : Dev) (f : Fld) (v : Nat) : (m.put f v).deck = m.deck := rfl
@[simp] theorem Dev.put_force (m : Dev) (f : Fld) (v : Nat) : (m.put f v).force = m.force := rfl
@[simp] theorem Dev.put_posted (m : Dev) (f : Fld) (v : Nat) : (m.put f v).posted = m.posted := rfl
@[simp] theorem Dev.put_committing (m : Dev) (f : Fld) (v : Nat) : (m.put f v).committing = m.committing := rfl
@[simp] theorem Dev.put_committed (m : Dev) (f : Fld) (v : Nat) : (m.put f v).committed = m.committed := rfl
@[simp] theorem Dev.put_delivered (m : Dev) (f : Fld) (v : Nat) : (m.put f v).delivered = m.delivered := rfl
@[simp] theorem Dev.put_hbm (m : Dev) (f : Fld) (v : Nat) : (m.put f v).hbm = m.hbm := rfl
@[simp] theorem Dev.put_store (m : Dev) (f : Fld) (v : Nat) : (m.put f v).store = m.store := rfl
@[simp] theorem Dev.put_flips (m : Dev) (f : Fld) (v : Nat) : (m.put f v).flips = m.flips := rfl
@[simp] theorem Dev.put_mrc (m : Dev) (f : Fld) (v : Nat) : (m.put f v).mrc = m.mrc := rfl
@[simp] theorem Dev.put_image (m : Dev) (f : Fld) (v : Nat) : (m.put f v).image = m.image := rfl
@[simp] theorem Dev.put_staged (m : Dev) (f : Fld) (v : Nat) : (m.put f v).staged = m.staged := rfl
@[simp] theorem Dev.put_tick (m : Dev) (f : Fld) (v : Nat) : (m.put f v).tick = m.tick := rfl
@[simp] theorem Dev.put_timeBase (m : Dev) (f : Fld) (v : Nat) : (m.put f v).timeBase = m.timeBase := rfl
@[simp] theorem Dev.put_timeRest (m : Dev) (f : Fld) (v : Nat) : (m.put f v).timeRest = m.timeRest := rfl
@[simp] theorem Dev.put_latches (m : Dev) (f : Fld) (v : Nat) : (m.put f v).latches = m.latches := rfl
@[simp] theorem Dev.put_drawn (m : Dev) (f : Fld) (v : Nat) : (m.put f v).drawn = m.drawn := rfl
@[simp] theorem Dev.put_basins (m : Dev) (f : Fld) (v : Nat) : (m.put f v).basins = m.basins := rfl
@[simp] theorem Dev.put_pins (m : Dev) (f : Fld) (v : Nat) : (m.put f v).pins = m.pins := rfl
@[simp] theorem Dev.put_seqs (m : Dev) (f : Fld) (v : Nat) : (m.put f v).seqs = m.seqs := rfl
@[simp] theorem Dev.put_tones (m : Dev) (f : Fld) (v : Nat) : (m.put f v).tones = m.tones := rfl
@[simp] theorem Dev.put_deltas (m : Dev) (f : Fld) (v : Nat) : (m.put f v).deltas = m.deltas := rfl
@[simp] theorem Dev.put_adcs (m : Dev) (f : Fld) (v : Nat) : (m.put f v).adcs = m.adcs := rfl
@[simp] theorem Dev.put_padcs (m : Dev) (f : Fld) (v : Nat) : (m.put f v).padcs = m.padcs := rfl
@[simp] theorem Dev.put_mbx (m : Dev) (f : Fld) (v : Nat) : (m.put f v).mbx = m.mbx := rfl
@[simp] theorem Dev.put_jtag (m : Dev) (f : Fld) (v : Nat) : (m.put f v).jtag = m.jtag := rfl
@[simp] theorem Dev.put_weir (m : Dev) (f : Fld) (v : Nat) : (m.put f v).weir = m.weir := rfl
@[simp] theorem Dev.put_lev (m : Dev) (f : Fld) (v : Nat) : (m.put f v).lev = m.lev := rfl
@[simp] theorem Dev.put_slc (m : Dev) (f : Fld) (v : Nat) : (m.put f v).slc = m.slc := rfl
@[simp] theorem Dev.put_wires (m : Dev) (f : Fld) (v : Nat) : (m.put f v).wires = m.wires := rfl
@[simp] theorem Dev.put_cal (m : Dev) (f : Fld) (v : Nat) : (m.put f v).cal = m.cal := rfl
@[simp] theorem Dev.put_clk (m : Dev) (f : Fld) (v : Nat) : (m.put f v).clk = m.clk := rfl
@[simp] theorem Dev.put_spt (m : Dev) (f : Fld) (v : Nat) : (m.put f v).spt = m.spt := rfl
@[simp] theorem Dev.put_rsv (m : Dev) (f : Fld) (v : Nat) : (m.put f v).rsv = m.rsv := rfl
@[simp] theorem Dev.put_takeovers (m : Dev) (f : Fld) (v : Nat) : (m.put f v).takeovers = m.takeovers := rfl
@[simp] theorem Dev.put_faulty (m : Dev) (f : Fld) (v : Nat) : (m.put f v).faulty = m.faulty := rfl
@[simp] theorem Dev.put_auds (m : Dev) (f : Fld) (v : Nat) : (m.put f v).auds = m.auds := rfl
@[simp] theorem Dev.put_host (m : Dev) (f : Fld) (v : Nat) : (m.put f v).host = m.host := rfl
@[simp] theorem Dev.put_firm (m : Dev) (f : Fld) (v : Nat) : (m.put f v).firm = m.firm := rfl
@[simp] theorem Dev.put_power (m : Dev) (f : Fld) (v : Nat) : (m.put f v).power = m.power := rfl

@[simp] theorem Dev.count_out (m : Dev) (f : Fld) (v : Nat) : (m.count f v).out = m.out := rfl
@[simp] theorem Dev.count_deck (m : Dev) (f : Fld) (v : Nat) : (m.count f v).deck = m.deck := rfl
@[simp] theorem Dev.count_force (m : Dev) (f : Fld) (v : Nat) : (m.count f v).force = m.force := rfl
@[simp] theorem Dev.count_posted (m : Dev) (f : Fld) (v : Nat) : (m.count f v).posted = m.posted := rfl
@[simp] theorem Dev.count_committing (m : Dev) (f : Fld) (v : Nat) : (m.count f v).committing = m.committing := rfl
@[simp] theorem Dev.count_committed (m : Dev) (f : Fld) (v : Nat) : (m.count f v).committed = m.committed := rfl
@[simp] theorem Dev.count_delivered (m : Dev) (f : Fld) (v : Nat) : (m.count f v).delivered = m.delivered := rfl
@[simp] theorem Dev.count_hbm (m : Dev) (f : Fld) (v : Nat) : (m.count f v).hbm = m.hbm := rfl
@[simp] theorem Dev.count_store (m : Dev) (f : Fld) (v : Nat) : (m.count f v).store = m.store := rfl
@[simp] theorem Dev.count_flips (m : Dev) (f : Fld) (v : Nat) : (m.count f v).flips = m.flips := rfl
@[simp] theorem Dev.count_mrc (m : Dev) (f : Fld) (v : Nat) : (m.count f v).mrc = m.mrc := rfl
@[simp] theorem Dev.count_image (m : Dev) (f : Fld) (v : Nat) : (m.count f v).image = m.image := rfl
@[simp] theorem Dev.count_staged (m : Dev) (f : Fld) (v : Nat) : (m.count f v).staged = m.staged := rfl
@[simp] theorem Dev.count_tick (m : Dev) (f : Fld) (v : Nat) : (m.count f v).tick = m.tick := rfl
@[simp] theorem Dev.count_timeBase (m : Dev) (f : Fld) (v : Nat) : (m.count f v).timeBase = m.timeBase := rfl
@[simp] theorem Dev.count_timeRest (m : Dev) (f : Fld) (v : Nat) : (m.count f v).timeRest = m.timeRest := rfl
@[simp] theorem Dev.count_latches (m : Dev) (f : Fld) (v : Nat) : (m.count f v).latches = m.latches := rfl
@[simp] theorem Dev.count_drawn (m : Dev) (f : Fld) (v : Nat) : (m.count f v).drawn = m.drawn := rfl
@[simp] theorem Dev.count_basins (m : Dev) (f : Fld) (v : Nat) : (m.count f v).basins = m.basins := rfl
@[simp] theorem Dev.count_pins (m : Dev) (f : Fld) (v : Nat) : (m.count f v).pins = m.pins := rfl
@[simp] theorem Dev.count_seqs (m : Dev) (f : Fld) (v : Nat) : (m.count f v).seqs = m.seqs := rfl
@[simp] theorem Dev.count_tones (m : Dev) (f : Fld) (v : Nat) : (m.count f v).tones = m.tones := rfl
@[simp] theorem Dev.count_deltas (m : Dev) (f : Fld) (v : Nat) : (m.count f v).deltas = m.deltas := rfl
@[simp] theorem Dev.count_adcs (m : Dev) (f : Fld) (v : Nat) : (m.count f v).adcs = m.adcs := rfl
@[simp] theorem Dev.count_padcs (m : Dev) (f : Fld) (v : Nat) : (m.count f v).padcs = m.padcs := rfl
@[simp] theorem Dev.count_mbx (m : Dev) (f : Fld) (v : Nat) : (m.count f v).mbx = m.mbx := rfl
@[simp] theorem Dev.count_jtag (m : Dev) (f : Fld) (v : Nat) : (m.count f v).jtag = m.jtag := rfl
@[simp] theorem Dev.count_weir (m : Dev) (f : Fld) (v : Nat) : (m.count f v).weir = m.weir := rfl
@[simp] theorem Dev.count_lev (m : Dev) (f : Fld) (v : Nat) : (m.count f v).lev = m.lev := rfl
@[simp] theorem Dev.count_slc (m : Dev) (f : Fld) (v : Nat) : (m.count f v).slc = m.slc := rfl
@[simp] theorem Dev.count_wires (m : Dev) (f : Fld) (v : Nat) : (m.count f v).wires = m.wires := rfl
@[simp] theorem Dev.count_cal (m : Dev) (f : Fld) (v : Nat) : (m.count f v).cal = m.cal := rfl
@[simp] theorem Dev.count_clk (m : Dev) (f : Fld) (v : Nat) : (m.count f v).clk = m.clk := rfl
@[simp] theorem Dev.count_spt (m : Dev) (f : Fld) (v : Nat) : (m.count f v).spt = m.spt := rfl
@[simp] theorem Dev.count_rsv (m : Dev) (f : Fld) (v : Nat) : (m.count f v).rsv = m.rsv := rfl
@[simp] theorem Dev.count_takeovers (m : Dev) (f : Fld) (v : Nat) : (m.count f v).takeovers = m.takeovers := rfl
@[simp] theorem Dev.count_faulty (m : Dev) (f : Fld) (v : Nat) : (m.count f v).faulty = m.faulty := rfl
@[simp] theorem Dev.count_auds (m : Dev) (f : Fld) (v : Nat) : (m.count f v).auds = m.auds := rfl
@[simp] theorem Dev.count_host (m : Dev) (f : Fld) (v : Nat) : (m.count f v).host = m.host := rfl
@[simp] theorem Dev.count_firm (m : Dev) (f : Fld) (v : Nat) : (m.count f v).firm = m.firm := rfl
@[simp] theorem Dev.count_power (m : Dev) (f : Fld) (v : Nat) : (m.count f v).power = m.power := rfl

@[simp] theorem Dev.bump_out (m : Dev) (f : Fld) : (m.bump f).out = m.out := rfl
@[simp] theorem Dev.bump_deck (m : Dev) (f : Fld) : (m.bump f).deck = m.deck := rfl
@[simp] theorem Dev.bump_force (m : Dev) (f : Fld) : (m.bump f).force = m.force := rfl
@[simp] theorem Dev.bump_posted (m : Dev) (f : Fld) : (m.bump f).posted = m.posted := rfl
@[simp] theorem Dev.bump_committing (m : Dev) (f : Fld) : (m.bump f).committing = m.committing := rfl
@[simp] theorem Dev.bump_committed (m : Dev) (f : Fld) : (m.bump f).committed = m.committed := rfl
@[simp] theorem Dev.bump_delivered (m : Dev) (f : Fld) : (m.bump f).delivered = m.delivered := rfl
@[simp] theorem Dev.bump_hbm (m : Dev) (f : Fld) : (m.bump f).hbm = m.hbm := rfl
@[simp] theorem Dev.bump_store (m : Dev) (f : Fld) : (m.bump f).store = m.store := rfl
@[simp] theorem Dev.bump_flips (m : Dev) (f : Fld) : (m.bump f).flips = m.flips := rfl
@[simp] theorem Dev.bump_mrc (m : Dev) (f : Fld) : (m.bump f).mrc = m.mrc := rfl
@[simp] theorem Dev.bump_image (m : Dev) (f : Fld) : (m.bump f).image = m.image := rfl
@[simp] theorem Dev.bump_staged (m : Dev) (f : Fld) : (m.bump f).staged = m.staged := rfl
@[simp] theorem Dev.bump_tick (m : Dev) (f : Fld) : (m.bump f).tick = m.tick := rfl
@[simp] theorem Dev.bump_timeBase (m : Dev) (f : Fld) : (m.bump f).timeBase = m.timeBase := rfl
@[simp] theorem Dev.bump_timeRest (m : Dev) (f : Fld) : (m.bump f).timeRest = m.timeRest := rfl
@[simp] theorem Dev.bump_latches (m : Dev) (f : Fld) : (m.bump f).latches = m.latches := rfl
@[simp] theorem Dev.bump_drawn (m : Dev) (f : Fld) : (m.bump f).drawn = m.drawn := rfl
@[simp] theorem Dev.bump_basins (m : Dev) (f : Fld) : (m.bump f).basins = m.basins := rfl
@[simp] theorem Dev.bump_pins (m : Dev) (f : Fld) : (m.bump f).pins = m.pins := rfl
@[simp] theorem Dev.bump_seqs (m : Dev) (f : Fld) : (m.bump f).seqs = m.seqs := rfl
@[simp] theorem Dev.bump_tones (m : Dev) (f : Fld) : (m.bump f).tones = m.tones := rfl
@[simp] theorem Dev.bump_deltas (m : Dev) (f : Fld) : (m.bump f).deltas = m.deltas := rfl
@[simp] theorem Dev.bump_adcs (m : Dev) (f : Fld) : (m.bump f).adcs = m.adcs := rfl
@[simp] theorem Dev.bump_padcs (m : Dev) (f : Fld) : (m.bump f).padcs = m.padcs := rfl
@[simp] theorem Dev.bump_mbx (m : Dev) (f : Fld) : (m.bump f).mbx = m.mbx := rfl
@[simp] theorem Dev.bump_jtag (m : Dev) (f : Fld) : (m.bump f).jtag = m.jtag := rfl
@[simp] theorem Dev.bump_weir (m : Dev) (f : Fld) : (m.bump f).weir = m.weir := rfl
@[simp] theorem Dev.bump_lev (m : Dev) (f : Fld) : (m.bump f).lev = m.lev := rfl
@[simp] theorem Dev.bump_slc (m : Dev) (f : Fld) : (m.bump f).slc = m.slc := rfl
@[simp] theorem Dev.bump_wires (m : Dev) (f : Fld) : (m.bump f).wires = m.wires := rfl
@[simp] theorem Dev.bump_cal (m : Dev) (f : Fld) : (m.bump f).cal = m.cal := rfl
@[simp] theorem Dev.bump_clk (m : Dev) (f : Fld) : (m.bump f).clk = m.clk := rfl
@[simp] theorem Dev.bump_spt (m : Dev) (f : Fld) : (m.bump f).spt = m.spt := rfl
@[simp] theorem Dev.bump_rsv (m : Dev) (f : Fld) : (m.bump f).rsv = m.rsv := rfl
@[simp] theorem Dev.bump_takeovers (m : Dev) (f : Fld) : (m.bump f).takeovers = m.takeovers := rfl
@[simp] theorem Dev.bump_faulty (m : Dev) (f : Fld) : (m.bump f).faulty = m.faulty := rfl
@[simp] theorem Dev.bump_auds (m : Dev) (f : Fld) : (m.bump f).auds = m.auds := rfl
@[simp] theorem Dev.bump_host (m : Dev) (f : Fld) : (m.bump f).host = m.host := rfl
@[simp] theorem Dev.bump_firm (m : Dev) (f : Fld) : (m.bump f).firm = m.firm := rfl
@[simp] theorem Dev.bump_power (m : Dev) (f : Fld) : (m.bump f).power = m.power := rfl

@[simp] theorem Dev.setPair_out (m : Dev) (lo hi v : Nat) : (m.setPair lo hi v).out = m.out := rfl
@[simp] theorem Dev.setPair_deck (m : Dev) (lo hi v : Nat) : (m.setPair lo hi v).deck = m.deck := rfl
@[simp] theorem Dev.setPair_force (m : Dev) (lo hi v : Nat) : (m.setPair lo hi v).force = m.force := rfl
@[simp] theorem Dev.setPair_posted (m : Dev) (lo hi v : Nat) : (m.setPair lo hi v).posted = m.posted := rfl
@[simp] theorem Dev.setPair_committing (m : Dev) (lo hi v : Nat) : (m.setPair lo hi v).committing = m.committing := rfl
@[simp] theorem Dev.setPair_committed (m : Dev) (lo hi v : Nat) : (m.setPair lo hi v).committed = m.committed := rfl
@[simp] theorem Dev.setPair_delivered (m : Dev) (lo hi v : Nat) : (m.setPair lo hi v).delivered = m.delivered := rfl
@[simp] theorem Dev.setPair_hbm (m : Dev) (lo hi v : Nat) : (m.setPair lo hi v).hbm = m.hbm := rfl
@[simp] theorem Dev.setPair_store (m : Dev) (lo hi v : Nat) : (m.setPair lo hi v).store = m.store := rfl
@[simp] theorem Dev.setPair_flips (m : Dev) (lo hi v : Nat) : (m.setPair lo hi v).flips = m.flips := rfl
@[simp] theorem Dev.setPair_mrc (m : Dev) (lo hi v : Nat) : (m.setPair lo hi v).mrc = m.mrc := rfl
@[simp] theorem Dev.setPair_image (m : Dev) (lo hi v : Nat) : (m.setPair lo hi v).image = m.image := rfl
@[simp] theorem Dev.setPair_staged (m : Dev) (lo hi v : Nat) : (m.setPair lo hi v).staged = m.staged := rfl
@[simp] theorem Dev.setPair_tick (m : Dev) (lo hi v : Nat) : (m.setPair lo hi v).tick = m.tick := rfl
@[simp] theorem Dev.setPair_timeBase (m : Dev) (lo hi v : Nat) : (m.setPair lo hi v).timeBase = m.timeBase := rfl
@[simp] theorem Dev.setPair_timeRest (m : Dev) (lo hi v : Nat) : (m.setPair lo hi v).timeRest = m.timeRest := rfl
@[simp] theorem Dev.setPair_latches (m : Dev) (lo hi v : Nat) : (m.setPair lo hi v).latches = m.latches := rfl
@[simp] theorem Dev.setPair_drawn (m : Dev) (lo hi v : Nat) : (m.setPair lo hi v).drawn = m.drawn := rfl
@[simp] theorem Dev.setPair_basins (m : Dev) (lo hi v : Nat) : (m.setPair lo hi v).basins = m.basins := rfl
@[simp] theorem Dev.setPair_pins (m : Dev) (lo hi v : Nat) : (m.setPair lo hi v).pins = m.pins := rfl
@[simp] theorem Dev.setPair_seqs (m : Dev) (lo hi v : Nat) : (m.setPair lo hi v).seqs = m.seqs := rfl
@[simp] theorem Dev.setPair_tones (m : Dev) (lo hi v : Nat) : (m.setPair lo hi v).tones = m.tones := rfl
@[simp] theorem Dev.setPair_deltas (m : Dev) (lo hi v : Nat) : (m.setPair lo hi v).deltas = m.deltas := rfl
@[simp] theorem Dev.setPair_adcs (m : Dev) (lo hi v : Nat) : (m.setPair lo hi v).adcs = m.adcs := rfl
@[simp] theorem Dev.setPair_padcs (m : Dev) (lo hi v : Nat) : (m.setPair lo hi v).padcs = m.padcs := rfl
@[simp] theorem Dev.setPair_mbx (m : Dev) (lo hi v : Nat) : (m.setPair lo hi v).mbx = m.mbx := rfl
@[simp] theorem Dev.setPair_jtag (m : Dev) (lo hi v : Nat) : (m.setPair lo hi v).jtag = m.jtag := rfl
@[simp] theorem Dev.setPair_weir (m : Dev) (lo hi v : Nat) : (m.setPair lo hi v).weir = m.weir := rfl
@[simp] theorem Dev.setPair_lev (m : Dev) (lo hi v : Nat) : (m.setPair lo hi v).lev = m.lev := rfl
@[simp] theorem Dev.setPair_slc (m : Dev) (lo hi v : Nat) : (m.setPair lo hi v).slc = m.slc := rfl
@[simp] theorem Dev.setPair_wires (m : Dev) (lo hi v : Nat) : (m.setPair lo hi v).wires = m.wires := rfl
@[simp] theorem Dev.setPair_cal (m : Dev) (lo hi v : Nat) : (m.setPair lo hi v).cal = m.cal := rfl
@[simp] theorem Dev.setPair_clk (m : Dev) (lo hi v : Nat) : (m.setPair lo hi v).clk = m.clk := rfl
@[simp] theorem Dev.setPair_spt (m : Dev) (lo hi v : Nat) : (m.setPair lo hi v).spt = m.spt := rfl
@[simp] theorem Dev.setPair_rsv (m : Dev) (lo hi v : Nat) : (m.setPair lo hi v).rsv = m.rsv := rfl
@[simp] theorem Dev.setPair_takeovers (m : Dev) (lo hi v : Nat) : (m.setPair lo hi v).takeovers = m.takeovers := rfl
@[simp] theorem Dev.setPair_faulty (m : Dev) (lo hi v : Nat) : (m.setPair lo hi v).faulty = m.faulty := rfl
@[simp] theorem Dev.setPair_auds (m : Dev) (lo hi v : Nat) : (m.setPair lo hi v).auds = m.auds := rfl
@[simp] theorem Dev.setPair_host (m : Dev) (lo hi v : Nat) : (m.setPair lo hi v).host = m.host := rfl
@[simp] theorem Dev.setPair_firm (m : Dev) (lo hi v : Nat) : (m.setPair lo hi v).firm = m.firm := rfl
@[simp] theorem Dev.setPair_power (m : Dev) (lo hi v : Nat) : (m.setPair lo hi v).power = m.power := rfl

@[simp] theorem Dev.setForce_out (m : Dev) (off v : Nat) : (m.setForce off v).out = m.out := rfl
@[simp] theorem Dev.setForce_regs (m : Dev) (off v : Nat) : (m.setForce off v).regs = m.regs := rfl
@[simp] theorem Dev.setForce_hbm (m : Dev) (off v : Nat) : (m.setForce off v).hbm = m.hbm := rfl
@[simp] theorem Dev.setForce_store (m : Dev) (off v : Nat) : (m.setForce off v).store = m.store := rfl
@[simp] theorem Dev.setForce_flips (m : Dev) (off v : Nat) : (m.setForce off v).flips = m.flips := rfl
@[simp] theorem Dev.setForce_mrc (m : Dev) (off v : Nat) : (m.setForce off v).mrc = m.mrc := rfl
@[simp] theorem Dev.setForce_image (m : Dev) (off v : Nat) : (m.setForce off v).image = m.image := rfl
@[simp] theorem Dev.setForce_tick (m : Dev) (off v : Nat) : (m.setForce off v).tick = m.tick := rfl
@[simp] theorem Dev.setForce_basins (m : Dev) (off v : Nat) : (m.setForce off v).basins = m.basins := rfl
@[simp] theorem Dev.setForce_pins (m : Dev) (off v : Nat) : (m.setForce off v).pins = m.pins := rfl
@[simp] theorem Dev.setForce_lev (m : Dev) (off v : Nat) : (m.setForce off v).lev = m.lev := rfl
@[simp] theorem Dev.setForce_power (m : Dev) (off v : Nat) : (m.setForce off v).power = m.power := rfl

@[simp] theorem Dev.takeDeck_out (m : Dev) (off : Nat) : (m.takeDeck off).out = m.out := rfl
@[simp] theorem Dev.takeDeck_regs (m : Dev) (off : Nat) : (m.takeDeck off).regs = m.regs := rfl
@[simp] theorem Dev.takeDeck_hbm (m : Dev) (off : Nat) : (m.takeDeck off).hbm = m.hbm := rfl
@[simp] theorem Dev.takeDeck_store (m : Dev) (off : Nat) : (m.takeDeck off).store = m.store := rfl
@[simp] theorem Dev.takeDeck_flips (m : Dev) (off : Nat) : (m.takeDeck off).flips = m.flips := rfl
@[simp] theorem Dev.takeDeck_mrc (m : Dev) (off : Nat) : (m.takeDeck off).mrc = m.mrc := rfl
@[simp] theorem Dev.takeDeck_image (m : Dev) (off : Nat) : (m.takeDeck off).image = m.image := rfl
@[simp] theorem Dev.takeDeck_tick (m : Dev) (off : Nat) : (m.takeDeck off).tick = m.tick := rfl
@[simp] theorem Dev.takeDeck_basins (m : Dev) (off : Nat) : (m.takeDeck off).basins = m.basins := rfl
@[simp] theorem Dev.takeDeck_pins (m : Dev) (off : Nat) : (m.takeDeck off).pins = m.pins := rfl
@[simp] theorem Dev.takeDeck_lev (m : Dev) (off : Nat) : (m.takeDeck off).lev = m.lev := rfl
@[simp] theorem Dev.takeDeck_power (m : Dev) (off : Nat) : (m.takeDeck off).power = m.power := rfl

@[simp] theorem Dev.setByte_out (m : Dev) (a : Nat) (v : Byte) : (m.setByte a v).out = m.out := rfl
@[simp] theorem Dev.setByte_regs (m : Dev) (a : Nat) (v : Byte) : (m.setByte a v).regs = m.regs := rfl
@[simp] theorem Dev.setByte_deck (m : Dev) (a : Nat) (v : Byte) : (m.setByte a v).deck = m.deck := rfl
@[simp] theorem Dev.setByte_force (m : Dev) (a : Nat) (v : Byte) : (m.setByte a v).force = m.force := rfl
@[simp] theorem Dev.setByte_posted (m : Dev) (a : Nat) (v : Byte) : (m.setByte a v).posted = m.posted := rfl
@[simp] theorem Dev.setByte_committing (m : Dev) (a : Nat) (v : Byte) : (m.setByte a v).committing = m.committing := rfl
@[simp] theorem Dev.setByte_committed (m : Dev) (a : Nat) (v : Byte) : (m.setByte a v).committed = m.committed := rfl
@[simp] theorem Dev.setByte_delivered (m : Dev) (a : Nat) (v : Byte) : (m.setByte a v).delivered = m.delivered := rfl
@[simp] theorem Dev.setByte_store (m : Dev) (a : Nat) (v : Byte) : (m.setByte a v).store = m.store := rfl
@[simp] theorem Dev.setByte_flips (m : Dev) (a : Nat) (v : Byte) : (m.setByte a v).flips = m.flips := rfl
@[simp] theorem Dev.setByte_mrc (m : Dev) (a : Nat) (v : Byte) : (m.setByte a v).mrc = m.mrc := rfl
@[simp] theorem Dev.setByte_image (m : Dev) (a : Nat) (v : Byte) : (m.setByte a v).image = m.image := rfl
@[simp] theorem Dev.setByte_staged (m : Dev) (a : Nat) (v : Byte) : (m.setByte a v).staged = m.staged := rfl
@[simp] theorem Dev.setByte_tick (m : Dev) (a : Nat) (v : Byte) : (m.setByte a v).tick = m.tick := rfl
@[simp] theorem Dev.setByte_timeBase (m : Dev) (a : Nat) (v : Byte) : (m.setByte a v).timeBase = m.timeBase := rfl
@[simp] theorem Dev.setByte_timeRest (m : Dev) (a : Nat) (v : Byte) : (m.setByte a v).timeRest = m.timeRest := rfl
@[simp] theorem Dev.setByte_latches (m : Dev) (a : Nat) (v : Byte) : (m.setByte a v).latches = m.latches := rfl
@[simp] theorem Dev.setByte_drawn (m : Dev) (a : Nat) (v : Byte) : (m.setByte a v).drawn = m.drawn := rfl
@[simp] theorem Dev.setByte_basins (m : Dev) (a : Nat) (v : Byte) : (m.setByte a v).basins = m.basins := rfl
@[simp] theorem Dev.setByte_pins (m : Dev) (a : Nat) (v : Byte) : (m.setByte a v).pins = m.pins := rfl
@[simp] theorem Dev.setByte_seqs (m : Dev) (a : Nat) (v : Byte) : (m.setByte a v).seqs = m.seqs := rfl
@[simp] theorem Dev.setByte_tones (m : Dev) (a : Nat) (v : Byte) : (m.setByte a v).tones = m.tones := rfl
@[simp] theorem Dev.setByte_deltas (m : Dev) (a : Nat) (v : Byte) : (m.setByte a v).deltas = m.deltas := rfl
@[simp] theorem Dev.setByte_adcs (m : Dev) (a : Nat) (v : Byte) : (m.setByte a v).adcs = m.adcs := rfl
@[simp] theorem Dev.setByte_padcs (m : Dev) (a : Nat) (v : Byte) : (m.setByte a v).padcs = m.padcs := rfl
@[simp] theorem Dev.setByte_mbx (m : Dev) (a : Nat) (v : Byte) : (m.setByte a v).mbx = m.mbx := rfl
@[simp] theorem Dev.setByte_jtag (m : Dev) (a : Nat) (v : Byte) : (m.setByte a v).jtag = m.jtag := rfl
@[simp] theorem Dev.setByte_weir (m : Dev) (a : Nat) (v : Byte) : (m.setByte a v).weir = m.weir := rfl
@[simp] theorem Dev.setByte_lev (m : Dev) (a : Nat) (v : Byte) : (m.setByte a v).lev = m.lev := rfl
@[simp] theorem Dev.setByte_slc (m : Dev) (a : Nat) (v : Byte) : (m.setByte a v).slc = m.slc := rfl
@[simp] theorem Dev.setByte_wires (m : Dev) (a : Nat) (v : Byte) : (m.setByte a v).wires = m.wires := rfl
@[simp] theorem Dev.setByte_cal (m : Dev) (a : Nat) (v : Byte) : (m.setByte a v).cal = m.cal := rfl
@[simp] theorem Dev.setByte_clk (m : Dev) (a : Nat) (v : Byte) : (m.setByte a v).clk = m.clk := rfl
@[simp] theorem Dev.setByte_spt (m : Dev) (a : Nat) (v : Byte) : (m.setByte a v).spt = m.spt := rfl
@[simp] theorem Dev.setByte_rsv (m : Dev) (a : Nat) (v : Byte) : (m.setByte a v).rsv = m.rsv := rfl
@[simp] theorem Dev.setByte_takeovers (m : Dev) (a : Nat) (v : Byte) : (m.setByte a v).takeovers = m.takeovers := rfl
@[simp] theorem Dev.setByte_faulty (m : Dev) (a : Nat) (v : Byte) : (m.setByte a v).faulty = m.faulty := rfl
@[simp] theorem Dev.setByte_auds (m : Dev) (a : Nat) (v : Byte) : (m.setByte a v).auds = m.auds := rfl
@[simp] theorem Dev.setByte_host (m : Dev) (a : Nat) (v : Byte) : (m.setByte a v).host = m.host := rfl
@[simp] theorem Dev.setByte_firm (m : Dev) (a : Nat) (v : Byte) : (m.setByte a v).firm = m.firm := rfl
@[simp] theorem Dev.setByte_power (m : Dev) (a : Nat) (v : Byte) : (m.setByte a v).power = m.power := rfl

@[simp] theorem Dev.setWord_out (m : Dev) (e a : Nat) (w : VecWord) : (m.setWord e a w).out = m.out := rfl
@[simp] theorem Dev.setWord_regs (m : Dev) (e a : Nat) (w : VecWord) : (m.setWord e a w).regs = m.regs := rfl
@[simp] theorem Dev.setWord_deck (m : Dev) (e a : Nat) (w : VecWord) : (m.setWord e a w).deck = m.deck := rfl
@[simp] theorem Dev.setWord_force (m : Dev) (e a : Nat) (w : VecWord) : (m.setWord e a w).force = m.force := rfl
@[simp] theorem Dev.setWord_posted (m : Dev) (e a : Nat) (w : VecWord) : (m.setWord e a w).posted = m.posted := rfl
@[simp] theorem Dev.setWord_committing (m : Dev) (e a : Nat) (w : VecWord) : (m.setWord e a w).committing = m.committing := rfl
@[simp] theorem Dev.setWord_committed (m : Dev) (e a : Nat) (w : VecWord) : (m.setWord e a w).committed = m.committed := rfl
@[simp] theorem Dev.setWord_delivered (m : Dev) (e a : Nat) (w : VecWord) : (m.setWord e a w).delivered = m.delivered := rfl
@[simp] theorem Dev.setWord_hbm (m : Dev) (e a : Nat) (w : VecWord) : (m.setWord e a w).hbm = m.hbm := rfl
@[simp] theorem Dev.setWord_image (m : Dev) (e a : Nat) (w : VecWord) : (m.setWord e a w).image = m.image := rfl
@[simp] theorem Dev.setWord_staged (m : Dev) (e a : Nat) (w : VecWord) : (m.setWord e a w).staged = m.staged := rfl
@[simp] theorem Dev.setWord_tick (m : Dev) (e a : Nat) (w : VecWord) : (m.setWord e a w).tick = m.tick := rfl
@[simp] theorem Dev.setWord_timeBase (m : Dev) (e a : Nat) (w : VecWord) : (m.setWord e a w).timeBase = m.timeBase := rfl
@[simp] theorem Dev.setWord_timeRest (m : Dev) (e a : Nat) (w : VecWord) : (m.setWord e a w).timeRest = m.timeRest := rfl
@[simp] theorem Dev.setWord_latches (m : Dev) (e a : Nat) (w : VecWord) : (m.setWord e a w).latches = m.latches := rfl
@[simp] theorem Dev.setWord_drawn (m : Dev) (e a : Nat) (w : VecWord) : (m.setWord e a w).drawn = m.drawn := rfl
@[simp] theorem Dev.setWord_basins (m : Dev) (e a : Nat) (w : VecWord) : (m.setWord e a w).basins = m.basins := rfl
@[simp] theorem Dev.setWord_pins (m : Dev) (e a : Nat) (w : VecWord) : (m.setWord e a w).pins = m.pins := rfl
@[simp] theorem Dev.setWord_seqs (m : Dev) (e a : Nat) (w : VecWord) : (m.setWord e a w).seqs = m.seqs := rfl
@[simp] theorem Dev.setWord_tones (m : Dev) (e a : Nat) (w : VecWord) : (m.setWord e a w).tones = m.tones := rfl
@[simp] theorem Dev.setWord_deltas (m : Dev) (e a : Nat) (w : VecWord) : (m.setWord e a w).deltas = m.deltas := rfl
@[simp] theorem Dev.setWord_adcs (m : Dev) (e a : Nat) (w : VecWord) : (m.setWord e a w).adcs = m.adcs := rfl
@[simp] theorem Dev.setWord_padcs (m : Dev) (e a : Nat) (w : VecWord) : (m.setWord e a w).padcs = m.padcs := rfl
@[simp] theorem Dev.setWord_mbx (m : Dev) (e a : Nat) (w : VecWord) : (m.setWord e a w).mbx = m.mbx := rfl
@[simp] theorem Dev.setWord_jtag (m : Dev) (e a : Nat) (w : VecWord) : (m.setWord e a w).jtag = m.jtag := rfl
@[simp] theorem Dev.setWord_weir (m : Dev) (e a : Nat) (w : VecWord) : (m.setWord e a w).weir = m.weir := rfl
@[simp] theorem Dev.setWord_lev (m : Dev) (e a : Nat) (w : VecWord) : (m.setWord e a w).lev = m.lev := rfl
@[simp] theorem Dev.setWord_slc (m : Dev) (e a : Nat) (w : VecWord) : (m.setWord e a w).slc = m.slc := rfl
@[simp] theorem Dev.setWord_wires (m : Dev) (e a : Nat) (w : VecWord) : (m.setWord e a w).wires = m.wires := rfl
@[simp] theorem Dev.setWord_cal (m : Dev) (e a : Nat) (w : VecWord) : (m.setWord e a w).cal = m.cal := rfl
@[simp] theorem Dev.setWord_clk (m : Dev) (e a : Nat) (w : VecWord) : (m.setWord e a w).clk = m.clk := rfl
@[simp] theorem Dev.setWord_spt (m : Dev) (e a : Nat) (w : VecWord) : (m.setWord e a w).spt = m.spt := rfl
@[simp] theorem Dev.setWord_rsv (m : Dev) (e a : Nat) (w : VecWord) : (m.setWord e a w).rsv = m.rsv := rfl
@[simp] theorem Dev.setWord_takeovers (m : Dev) (e a : Nat) (w : VecWord) : (m.setWord e a w).takeovers = m.takeovers := rfl
@[simp] theorem Dev.setWord_faulty (m : Dev) (e a : Nat) (w : VecWord) : (m.setWord e a w).faulty = m.faulty := rfl
@[simp] theorem Dev.setWord_auds (m : Dev) (e a : Nat) (w : VecWord) : (m.setWord e a w).auds = m.auds := rfl
@[simp] theorem Dev.setWord_host (m : Dev) (e a : Nat) (w : VecWord) : (m.setWord e a w).host = m.host := rfl
@[simp] theorem Dev.setWord_firm (m : Dev) (e a : Nat) (w : VecWord) : (m.setWord e a w).firm = m.firm := rfl
@[simp] theorem Dev.setWord_power (m : Dev) (e a : Nat) (w : VecWord) : (m.setWord e a w).power = m.power := rfl

@[simp] theorem Dev.setBsn_out (m : Dev) (b : Nat) (x : BasinX) : (m.setBsn b x).out = m.out := rfl
@[simp] theorem Dev.setBsn_regs (m : Dev) (b : Nat) (x : BasinX) : (m.setBsn b x).regs = m.regs := rfl
@[simp] theorem Dev.setBsn_hbm (m : Dev) (b : Nat) (x : BasinX) : (m.setBsn b x).hbm = m.hbm := rfl
@[simp] theorem Dev.setBsn_store (m : Dev) (b : Nat) (x : BasinX) : (m.setBsn b x).store = m.store := rfl
@[simp] theorem Dev.setBsn_flips (m : Dev) (b : Nat) (x : BasinX) : (m.setBsn b x).flips = m.flips := rfl
@[simp] theorem Dev.setBsn_mrc (m : Dev) (b : Nat) (x : BasinX) : (m.setBsn b x).mrc = m.mrc := rfl
@[simp] theorem Dev.setBsn_image (m : Dev) (b : Nat) (x : BasinX) : (m.setBsn b x).image = m.image := rfl
@[simp] theorem Dev.setBsn_tick (m : Dev) (b : Nat) (x : BasinX) : (m.setBsn b x).tick = m.tick := rfl
@[simp] theorem Dev.setBsn_pins (m : Dev) (b : Nat) (x : BasinX) : (m.setBsn b x).pins = m.pins := rfl
@[simp] theorem Dev.setBsn_lev (m : Dev) (b : Nat) (x : BasinX) : (m.setBsn b x).lev = m.lev := rfl
@[simp] theorem Dev.setBsn_power (m : Dev) (b : Nat) (x : BasinX) : (m.setBsn b x).power = m.power := rfl

@[simp] theorem Dev.setPin_out (m : Dev) (p : Nat) (x : PinX) : (m.setPin p x).out = m.out := rfl
@[simp] theorem Dev.setPin_regs (m : Dev) (p : Nat) (x : PinX) : (m.setPin p x).regs = m.regs := rfl
@[simp] theorem Dev.setPin_hbm (m : Dev) (p : Nat) (x : PinX) : (m.setPin p x).hbm = m.hbm := rfl
@[simp] theorem Dev.setPin_store (m : Dev) (p : Nat) (x : PinX) : (m.setPin p x).store = m.store := rfl
@[simp] theorem Dev.setPin_flips (m : Dev) (p : Nat) (x : PinX) : (m.setPin p x).flips = m.flips := rfl
@[simp] theorem Dev.setPin_mrc (m : Dev) (p : Nat) (x : PinX) : (m.setPin p x).mrc = m.mrc := rfl
@[simp] theorem Dev.setPin_image (m : Dev) (p : Nat) (x : PinX) : (m.setPin p x).image = m.image := rfl
@[simp] theorem Dev.setPin_tick (m : Dev) (p : Nat) (x : PinX) : (m.setPin p x).tick = m.tick := rfl
@[simp] theorem Dev.setPin_basins (m : Dev) (p : Nat) (x : PinX) : (m.setPin p x).basins = m.basins := rfl
@[simp] theorem Dev.setPin_lev (m : Dev) (p : Nat) (x : PinX) : (m.setPin p x).lev = m.lev := rfl
@[simp] theorem Dev.setPin_power (m : Dev) (p : Nat) (x : PinX) : (m.setPin p x).power = m.power := rfl

@[simp] theorem Dev.setSeq_out (m : Dev) (q : Nat) (x : SeqX) : (m.setSeq q x).out = m.out := rfl
@[simp] theorem Dev.setSeq_regs (m : Dev) (q : Nat) (x : SeqX) : (m.setSeq q x).regs = m.regs := rfl
@[simp] theorem Dev.setSeq_hbm (m : Dev) (q : Nat) (x : SeqX) : (m.setSeq q x).hbm = m.hbm := rfl
@[simp] theorem Dev.setSeq_store (m : Dev) (q : Nat) (x : SeqX) : (m.setSeq q x).store = m.store := rfl
@[simp] theorem Dev.setSeq_flips (m : Dev) (q : Nat) (x : SeqX) : (m.setSeq q x).flips = m.flips := rfl
@[simp] theorem Dev.setSeq_mrc (m : Dev) (q : Nat) (x : SeqX) : (m.setSeq q x).mrc = m.mrc := rfl
@[simp] theorem Dev.setSeq_image (m : Dev) (q : Nat) (x : SeqX) : (m.setSeq q x).image = m.image := rfl
@[simp] theorem Dev.setSeq_tick (m : Dev) (q : Nat) (x : SeqX) : (m.setSeq q x).tick = m.tick := rfl
@[simp] theorem Dev.setSeq_basins (m : Dev) (q : Nat) (x : SeqX) : (m.setSeq q x).basins = m.basins := rfl
@[simp] theorem Dev.setSeq_pins (m : Dev) (q : Nat) (x : SeqX) : (m.setSeq q x).pins = m.pins := rfl
@[simp] theorem Dev.setSeq_lev (m : Dev) (q : Nat) (x : SeqX) : (m.setSeq q x).lev = m.lev := rfl
@[simp] theorem Dev.setSeq_power (m : Dev) (q : Nat) (x : SeqX) : (m.setSeq q x).power = m.power := rfl

@[simp] theorem Dev.setTone_out (m : Dev) (b c : Nat) (x : ToneX) : (m.setTone b c x).out = m.out := rfl
@[simp] theorem Dev.setTone_regs (m : Dev) (b c : Nat) (x : ToneX) : (m.setTone b c x).regs = m.regs := rfl
@[simp] theorem Dev.setTone_hbm (m : Dev) (b c : Nat) (x : ToneX) : (m.setTone b c x).hbm = m.hbm := rfl
@[simp] theorem Dev.setTone_store (m : Dev) (b c : Nat) (x : ToneX) : (m.setTone b c x).store = m.store := rfl
@[simp] theorem Dev.setTone_flips (m : Dev) (b c : Nat) (x : ToneX) : (m.setTone b c x).flips = m.flips := rfl
@[simp] theorem Dev.setTone_mrc (m : Dev) (b c : Nat) (x : ToneX) : (m.setTone b c x).mrc = m.mrc := rfl
@[simp] theorem Dev.setTone_image (m : Dev) (b c : Nat) (x : ToneX) : (m.setTone b c x).image = m.image := rfl
@[simp] theorem Dev.setTone_tick (m : Dev) (b c : Nat) (x : ToneX) : (m.setTone b c x).tick = m.tick := rfl
@[simp] theorem Dev.setTone_basins (m : Dev) (b c : Nat) (x : ToneX) : (m.setTone b c x).basins = m.basins := rfl
@[simp] theorem Dev.setTone_pins (m : Dev) (b c : Nat) (x : ToneX) : (m.setTone b c x).pins = m.pins := rfl
@[simp] theorem Dev.setTone_lev (m : Dev) (b c : Nat) (x : ToneX) : (m.setTone b c x).lev = m.lev := rfl
@[simp] theorem Dev.setTone_power (m : Dev) (b c : Nat) (x : ToneX) : (m.setTone b c x).power = m.power := rfl

@[simp] theorem Dev.setDelta_out (m : Dev) (t : Nat) (x : DeltaX) : (m.setDelta t x).out = m.out := rfl
@[simp] theorem Dev.setDelta_regs (m : Dev) (t : Nat) (x : DeltaX) : (m.setDelta t x).regs = m.regs := rfl
@[simp] theorem Dev.setDelta_hbm (m : Dev) (t : Nat) (x : DeltaX) : (m.setDelta t x).hbm = m.hbm := rfl
@[simp] theorem Dev.setDelta_store (m : Dev) (t : Nat) (x : DeltaX) : (m.setDelta t x).store = m.store := rfl
@[simp] theorem Dev.setDelta_flips (m : Dev) (t : Nat) (x : DeltaX) : (m.setDelta t x).flips = m.flips := rfl
@[simp] theorem Dev.setDelta_mrc (m : Dev) (t : Nat) (x : DeltaX) : (m.setDelta t x).mrc = m.mrc := rfl
@[simp] theorem Dev.setDelta_image (m : Dev) (t : Nat) (x : DeltaX) : (m.setDelta t x).image = m.image := rfl
@[simp] theorem Dev.setDelta_tick (m : Dev) (t : Nat) (x : DeltaX) : (m.setDelta t x).tick = m.tick := rfl
@[simp] theorem Dev.setDelta_basins (m : Dev) (t : Nat) (x : DeltaX) : (m.setDelta t x).basins = m.basins := rfl
@[simp] theorem Dev.setDelta_pins (m : Dev) (t : Nat) (x : DeltaX) : (m.setDelta t x).pins = m.pins := rfl
@[simp] theorem Dev.setDelta_lev (m : Dev) (t : Nat) (x : DeltaX) : (m.setDelta t x).lev = m.lev := rfl
@[simp] theorem Dev.setDelta_power (m : Dev) (t : Nat) (x : DeltaX) : (m.setDelta t x).power = m.power := rfl

@[simp] theorem Dev.setLink_out (m : Dev) (l : Nat) (x : LinkX) : (m.setLink l x).out = m.out := rfl
@[simp] theorem Dev.setLink_regs (m : Dev) (l : Nat) (x : LinkX) : (m.setLink l x).regs = m.regs := rfl
@[simp] theorem Dev.setLink_hbm (m : Dev) (l : Nat) (x : LinkX) : (m.setLink l x).hbm = m.hbm := rfl
@[simp] theorem Dev.setLink_store (m : Dev) (l : Nat) (x : LinkX) : (m.setLink l x).store = m.store := rfl
@[simp] theorem Dev.setLink_flips (m : Dev) (l : Nat) (x : LinkX) : (m.setLink l x).flips = m.flips := rfl
@[simp] theorem Dev.setLink_mrc (m : Dev) (l : Nat) (x : LinkX) : (m.setLink l x).mrc = m.mrc := rfl
@[simp] theorem Dev.setLink_image (m : Dev) (l : Nat) (x : LinkX) : (m.setLink l x).image = m.image := rfl
@[simp] theorem Dev.setLink_tick (m : Dev) (l : Nat) (x : LinkX) : (m.setLink l x).tick = m.tick := rfl
@[simp] theorem Dev.setLink_basins (m : Dev) (l : Nat) (x : LinkX) : (m.setLink l x).basins = m.basins := rfl
@[simp] theorem Dev.setLink_pins (m : Dev) (l : Nat) (x : LinkX) : (m.setLink l x).pins = m.pins := rfl
@[simp] theorem Dev.setLink_lev (m : Dev) (l : Nat) (x : LinkX) : (m.setLink l x).lev = m.lev := rfl
@[simp] theorem Dev.setLink_power (m : Dev) (l : Nat) (x : LinkX) : (m.setLink l x).power = m.power := rfl

@[simp] theorem Dev.setAdc_out (m : Dev) (k : Nat) (x : AdcX) : (m.setAdc k x).out = m.out := rfl
@[simp] theorem Dev.setAdc_regs (m : Dev) (k : Nat) (x : AdcX) : (m.setAdc k x).regs = m.regs := rfl
@[simp] theorem Dev.setAdc_hbm (m : Dev) (k : Nat) (x : AdcX) : (m.setAdc k x).hbm = m.hbm := rfl
@[simp] theorem Dev.setAdc_store (m : Dev) (k : Nat) (x : AdcX) : (m.setAdc k x).store = m.store := rfl
@[simp] theorem Dev.setAdc_flips (m : Dev) (k : Nat) (x : AdcX) : (m.setAdc k x).flips = m.flips := rfl
@[simp] theorem Dev.setAdc_mrc (m : Dev) (k : Nat) (x : AdcX) : (m.setAdc k x).mrc = m.mrc := rfl
@[simp] theorem Dev.setAdc_image (m : Dev) (k : Nat) (x : AdcX) : (m.setAdc k x).image = m.image := rfl
@[simp] theorem Dev.setAdc_tick (m : Dev) (k : Nat) (x : AdcX) : (m.setAdc k x).tick = m.tick := rfl
@[simp] theorem Dev.setAdc_basins (m : Dev) (k : Nat) (x : AdcX) : (m.setAdc k x).basins = m.basins := rfl
@[simp] theorem Dev.setAdc_pins (m : Dev) (k : Nat) (x : AdcX) : (m.setAdc k x).pins = m.pins := rfl
@[simp] theorem Dev.setAdc_lev (m : Dev) (k : Nat) (x : AdcX) : (m.setAdc k x).lev = m.lev := rfl
@[simp] theorem Dev.setAdc_power (m : Dev) (k : Nat) (x : AdcX) : (m.setAdc k x).power = m.power := rfl

@[simp] theorem Dev.setPadc_out (m : Dev) (p : Nat) (x : PAdcX) : (m.setPadc p x).out = m.out := rfl
@[simp] theorem Dev.setPadc_regs (m : Dev) (p : Nat) (x : PAdcX) : (m.setPadc p x).regs = m.regs := rfl
@[simp] theorem Dev.setPadc_hbm (m : Dev) (p : Nat) (x : PAdcX) : (m.setPadc p x).hbm = m.hbm := rfl
@[simp] theorem Dev.setPadc_store (m : Dev) (p : Nat) (x : PAdcX) : (m.setPadc p x).store = m.store := rfl
@[simp] theorem Dev.setPadc_flips (m : Dev) (p : Nat) (x : PAdcX) : (m.setPadc p x).flips = m.flips := rfl
@[simp] theorem Dev.setPadc_mrc (m : Dev) (p : Nat) (x : PAdcX) : (m.setPadc p x).mrc = m.mrc := rfl
@[simp] theorem Dev.setPadc_image (m : Dev) (p : Nat) (x : PAdcX) : (m.setPadc p x).image = m.image := rfl
@[simp] theorem Dev.setPadc_tick (m : Dev) (p : Nat) (x : PAdcX) : (m.setPadc p x).tick = m.tick := rfl
@[simp] theorem Dev.setPadc_basins (m : Dev) (p : Nat) (x : PAdcX) : (m.setPadc p x).basins = m.basins := rfl
@[simp] theorem Dev.setPadc_pins (m : Dev) (p : Nat) (x : PAdcX) : (m.setPadc p x).pins = m.pins := rfl
@[simp] theorem Dev.setPadc_lev (m : Dev) (p : Nat) (x : PAdcX) : (m.setPadc p x).lev = m.lev := rfl
@[simp] theorem Dev.setPadc_power (m : Dev) (p : Nat) (x : PAdcX) : (m.setPadc p x).power = m.power := rfl

@[simp] theorem Dev.setSlot_out (m : Dev) (s : Nat) (x : MbxX) : (m.setSlot s x).out = m.out := rfl
@[simp] theorem Dev.setSlot_regs (m : Dev) (s : Nat) (x : MbxX) : (m.setSlot s x).regs = m.regs := rfl
@[simp] theorem Dev.setSlot_hbm (m : Dev) (s : Nat) (x : MbxX) : (m.setSlot s x).hbm = m.hbm := rfl
@[simp] theorem Dev.setSlot_store (m : Dev) (s : Nat) (x : MbxX) : (m.setSlot s x).store = m.store := rfl
@[simp] theorem Dev.setSlot_flips (m : Dev) (s : Nat) (x : MbxX) : (m.setSlot s x).flips = m.flips := rfl
@[simp] theorem Dev.setSlot_mrc (m : Dev) (s : Nat) (x : MbxX) : (m.setSlot s x).mrc = m.mrc := rfl
@[simp] theorem Dev.setSlot_image (m : Dev) (s : Nat) (x : MbxX) : (m.setSlot s x).image = m.image := rfl
@[simp] theorem Dev.setSlot_tick (m : Dev) (s : Nat) (x : MbxX) : (m.setSlot s x).tick = m.tick := rfl
@[simp] theorem Dev.setSlot_basins (m : Dev) (s : Nat) (x : MbxX) : (m.setSlot s x).basins = m.basins := rfl
@[simp] theorem Dev.setSlot_pins (m : Dev) (s : Nat) (x : MbxX) : (m.setSlot s x).pins = m.pins := rfl
@[simp] theorem Dev.setSlot_lev (m : Dev) (s : Nat) (x : MbxX) : (m.setSlot s x).lev = m.lev := rfl
@[simp] theorem Dev.setSlot_power (m : Dev) (s : Nat) (x : MbxX) : (m.setSlot s x).power = m.power := rfl

@[simp] theorem Dev.setWire_out (m : Dev) (c v : Nat) : (m.setWire c v).out = m.out := rfl
@[simp] theorem Dev.setWire_regs (m : Dev) (c v : Nat) : (m.setWire c v).regs = m.regs := rfl
@[simp] theorem Dev.setWire_hbm (m : Dev) (c v : Nat) : (m.setWire c v).hbm = m.hbm := rfl
@[simp] theorem Dev.setWire_store (m : Dev) (c v : Nat) : (m.setWire c v).store = m.store := rfl
@[simp] theorem Dev.setWire_flips (m : Dev) (c v : Nat) : (m.setWire c v).flips = m.flips := rfl
@[simp] theorem Dev.setWire_mrc (m : Dev) (c v : Nat) : (m.setWire c v).mrc = m.mrc := rfl
@[simp] theorem Dev.setWire_image (m : Dev) (c v : Nat) : (m.setWire c v).image = m.image := rfl
@[simp] theorem Dev.setWire_tick (m : Dev) (c v : Nat) : (m.setWire c v).tick = m.tick := rfl
@[simp] theorem Dev.setWire_basins (m : Dev) (c v : Nat) : (m.setWire c v).basins = m.basins := rfl
@[simp] theorem Dev.setWire_pins (m : Dev) (c v : Nat) : (m.setWire c v).pins = m.pins := rfl
@[simp] theorem Dev.setWire_lev (m : Dev) (c v : Nat) : (m.setWire c v).lev = m.lev := rfl
@[simp] theorem Dev.setWire_power (m : Dev) (c v : Nat) : (m.setWire c v).power = m.power := rfl

@[simp] theorem Dev.modLev_out (m : Dev) (f : LevX → LevX) : (m.modLev f).out = m.out := rfl
@[simp] theorem Dev.modLev_regs (m : Dev) (f : LevX → LevX) : (m.modLev f).regs = m.regs := rfl
@[simp] theorem Dev.modLev_hbm (m : Dev) (f : LevX → LevX) : (m.modLev f).hbm = m.hbm := rfl
@[simp] theorem Dev.modLev_store (m : Dev) (f : LevX → LevX) : (m.modLev f).store = m.store := rfl
@[simp] theorem Dev.modLev_flips (m : Dev) (f : LevX → LevX) : (m.modLev f).flips = m.flips := rfl
@[simp] theorem Dev.modLev_mrc (m : Dev) (f : LevX → LevX) : (m.modLev f).mrc = m.mrc := rfl
@[simp] theorem Dev.modLev_image (m : Dev) (f : LevX → LevX) : (m.modLev f).image = m.image := rfl
@[simp] theorem Dev.modLev_tick (m : Dev) (f : LevX → LevX) : (m.modLev f).tick = m.tick := rfl
@[simp] theorem Dev.modLev_basins (m : Dev) (f : LevX → LevX) : (m.modLev f).basins = m.basins := rfl
@[simp] theorem Dev.modLev_pins (m : Dev) (f : LevX → LevX) : (m.modLev f).pins = m.pins := rfl
@[simp] theorem Dev.modLev_power (m : Dev) (f : LevX → LevX) : (m.modLev f).power = m.power := rfl

@[simp] theorem Dev.modSpt_out (m : Dev) (f : SptX → SptX) : (m.modSpt f).out = m.out := rfl
@[simp] theorem Dev.modSpt_regs (m : Dev) (f : SptX → SptX) : (m.modSpt f).regs = m.regs := rfl
@[simp] theorem Dev.modSpt_hbm (m : Dev) (f : SptX → SptX) : (m.modSpt f).hbm = m.hbm := rfl
@[simp] theorem Dev.modSpt_store (m : Dev) (f : SptX → SptX) : (m.modSpt f).store = m.store := rfl
@[simp] theorem Dev.modSpt_flips (m : Dev) (f : SptX → SptX) : (m.modSpt f).flips = m.flips := rfl
@[simp] theorem Dev.modSpt_mrc (m : Dev) (f : SptX → SptX) : (m.modSpt f).mrc = m.mrc := rfl
@[simp] theorem Dev.modSpt_image (m : Dev) (f : SptX → SptX) : (m.modSpt f).image = m.image := rfl
@[simp] theorem Dev.modSpt_tick (m : Dev) (f : SptX → SptX) : (m.modSpt f).tick = m.tick := rfl
@[simp] theorem Dev.modSpt_basins (m : Dev) (f : SptX → SptX) : (m.modSpt f).basins = m.basins := rfl
@[simp] theorem Dev.modSpt_pins (m : Dev) (f : SptX → SptX) : (m.modSpt f).pins = m.pins := rfl
@[simp] theorem Dev.modSpt_lev (m : Dev) (f : SptX → SptX) : (m.modSpt f).lev = m.lev := rfl
@[simp] theorem Dev.modSpt_power (m : Dev) (f : SptX → SptX) : (m.modSpt f).power = m.power := rfl

@[simp] theorem Dev.modClk_out (m : Dev) (f : ClkX → ClkX) : (m.modClk f).out = m.out := rfl
@[simp] theorem Dev.modClk_regs (m : Dev) (f : ClkX → ClkX) : (m.modClk f).regs = m.regs := rfl
@[simp] theorem Dev.modClk_hbm (m : Dev) (f : ClkX → ClkX) : (m.modClk f).hbm = m.hbm := rfl
@[simp] theorem Dev.modClk_store (m : Dev) (f : ClkX → ClkX) : (m.modClk f).store = m.store := rfl
@[simp] theorem Dev.modClk_flips (m : Dev) (f : ClkX → ClkX) : (m.modClk f).flips = m.flips := rfl
@[simp] theorem Dev.modClk_mrc (m : Dev) (f : ClkX → ClkX) : (m.modClk f).mrc = m.mrc := rfl
@[simp] theorem Dev.modClk_image (m : Dev) (f : ClkX → ClkX) : (m.modClk f).image = m.image := rfl
@[simp] theorem Dev.modClk_tick (m : Dev) (f : ClkX → ClkX) : (m.modClk f).tick = m.tick := rfl
@[simp] theorem Dev.modClk_basins (m : Dev) (f : ClkX → ClkX) : (m.modClk f).basins = m.basins := rfl
@[simp] theorem Dev.modClk_pins (m : Dev) (f : ClkX → ClkX) : (m.modClk f).pins = m.pins := rfl
@[simp] theorem Dev.modClk_lev (m : Dev) (f : ClkX → ClkX) : (m.modClk f).lev = m.lev := rfl
@[simp] theorem Dev.modClk_power (m : Dev) (f : ClkX → ClkX) : (m.modClk f).power = m.power := rfl

@[simp] theorem Dev.modCal_out (m : Dev) (f : CalX → CalX) : (m.modCal f).out = m.out := rfl
@[simp] theorem Dev.modCal_regs (m : Dev) (f : CalX → CalX) : (m.modCal f).regs = m.regs := rfl
@[simp] theorem Dev.modCal_hbm (m : Dev) (f : CalX → CalX) : (m.modCal f).hbm = m.hbm := rfl
@[simp] theorem Dev.modCal_store (m : Dev) (f : CalX → CalX) : (m.modCal f).store = m.store := rfl
@[simp] theorem Dev.modCal_flips (m : Dev) (f : CalX → CalX) : (m.modCal f).flips = m.flips := rfl
@[simp] theorem Dev.modCal_mrc (m : Dev) (f : CalX → CalX) : (m.modCal f).mrc = m.mrc := rfl
@[simp] theorem Dev.modCal_image (m : Dev) (f : CalX → CalX) : (m.modCal f).image = m.image := rfl
@[simp] theorem Dev.modCal_tick (m : Dev) (f : CalX → CalX) : (m.modCal f).tick = m.tick := rfl
@[simp] theorem Dev.modCal_basins (m : Dev) (f : CalX → CalX) : (m.modCal f).basins = m.basins := rfl
@[simp] theorem Dev.modCal_pins (m : Dev) (f : CalX → CalX) : (m.modCal f).pins = m.pins := rfl
@[simp] theorem Dev.modCal_lev (m : Dev) (f : CalX → CalX) : (m.modCal f).lev = m.lev := rfl
@[simp] theorem Dev.modCal_power (m : Dev) (f : CalX → CalX) : (m.modCal f).power = m.power := rfl

@[simp] theorem Dev.modWeir_out (m : Dev) (f : WeirX → WeirX) : (m.modWeir f).out = m.out := rfl
@[simp] theorem Dev.modWeir_regs (m : Dev) (f : WeirX → WeirX) : (m.modWeir f).regs = m.regs := rfl
@[simp] theorem Dev.modWeir_hbm (m : Dev) (f : WeirX → WeirX) : (m.modWeir f).hbm = m.hbm := rfl
@[simp] theorem Dev.modWeir_store (m : Dev) (f : WeirX → WeirX) : (m.modWeir f).store = m.store := rfl
@[simp] theorem Dev.modWeir_flips (m : Dev) (f : WeirX → WeirX) : (m.modWeir f).flips = m.flips := rfl
@[simp] theorem Dev.modWeir_mrc (m : Dev) (f : WeirX → WeirX) : (m.modWeir f).mrc = m.mrc := rfl
@[simp] theorem Dev.modWeir_image (m : Dev) (f : WeirX → WeirX) : (m.modWeir f).image = m.image := rfl
@[simp] theorem Dev.modWeir_tick (m : Dev) (f : WeirX → WeirX) : (m.modWeir f).tick = m.tick := rfl
@[simp] theorem Dev.modWeir_basins (m : Dev) (f : WeirX → WeirX) : (m.modWeir f).basins = m.basins := rfl
@[simp] theorem Dev.modWeir_pins (m : Dev) (f : WeirX → WeirX) : (m.modWeir f).pins = m.pins := rfl
@[simp] theorem Dev.modWeir_lev (m : Dev) (f : WeirX → WeirX) : (m.modWeir f).lev = m.lev := rfl
@[simp] theorem Dev.modWeir_power (m : Dev) (f : WeirX → WeirX) : (m.modWeir f).power = m.power := rfl

@[simp] theorem Dev.modSlc_out (m : Dev) (f : SlcX → SlcX) : (m.modSlc f).out = m.out := rfl
@[simp] theorem Dev.modSlc_regs (m : Dev) (f : SlcX → SlcX) : (m.modSlc f).regs = m.regs := rfl
@[simp] theorem Dev.modSlc_hbm (m : Dev) (f : SlcX → SlcX) : (m.modSlc f).hbm = m.hbm := rfl
@[simp] theorem Dev.modSlc_store (m : Dev) (f : SlcX → SlcX) : (m.modSlc f).store = m.store := rfl
@[simp] theorem Dev.modSlc_flips (m : Dev) (f : SlcX → SlcX) : (m.modSlc f).flips = m.flips := rfl
@[simp] theorem Dev.modSlc_mrc (m : Dev) (f : SlcX → SlcX) : (m.modSlc f).mrc = m.mrc := rfl
@[simp] theorem Dev.modSlc_image (m : Dev) (f : SlcX → SlcX) : (m.modSlc f).image = m.image := rfl
@[simp] theorem Dev.modSlc_tick (m : Dev) (f : SlcX → SlcX) : (m.modSlc f).tick = m.tick := rfl
@[simp] theorem Dev.modSlc_basins (m : Dev) (f : SlcX → SlcX) : (m.modSlc f).basins = m.basins := rfl
@[simp] theorem Dev.modSlc_pins (m : Dev) (f : SlcX → SlcX) : (m.modSlc f).pins = m.pins := rfl
@[simp] theorem Dev.modSlc_lev (m : Dev) (f : SlcX → SlcX) : (m.modSlc f).lev = m.lev := rfl
@[simp] theorem Dev.modSlc_power (m : Dev) (f : SlcX → SlcX) : (m.modSlc f).power = m.power := rfl

@[simp] theorem Dev.modHost_out (m : Dev) (f : HostX → HostX) : (m.modHost f).out = m.out := rfl
@[simp] theorem Dev.modHost_regs (m : Dev) (f : HostX → HostX) : (m.modHost f).regs = m.regs := rfl
@[simp] theorem Dev.modHost_hbm (m : Dev) (f : HostX → HostX) : (m.modHost f).hbm = m.hbm := rfl
@[simp] theorem Dev.modHost_store (m : Dev) (f : HostX → HostX) : (m.modHost f).store = m.store := rfl
@[simp] theorem Dev.modHost_flips (m : Dev) (f : HostX → HostX) : (m.modHost f).flips = m.flips := rfl
@[simp] theorem Dev.modHost_mrc (m : Dev) (f : HostX → HostX) : (m.modHost f).mrc = m.mrc := rfl
@[simp] theorem Dev.modHost_image (m : Dev) (f : HostX → HostX) : (m.modHost f).image = m.image := rfl
@[simp] theorem Dev.modHost_tick (m : Dev) (f : HostX → HostX) : (m.modHost f).tick = m.tick := rfl
@[simp] theorem Dev.modHost_basins (m : Dev) (f : HostX → HostX) : (m.modHost f).basins = m.basins := rfl
@[simp] theorem Dev.modHost_pins (m : Dev) (f : HostX → HostX) : (m.modHost f).pins = m.pins := rfl
@[simp] theorem Dev.modHost_lev (m : Dev) (f : HostX → HostX) : (m.modHost f).lev = m.lev := rfl
@[simp] theorem Dev.modHost_power (m : Dev) (f : HostX → HostX) : (m.modHost f).power = m.power := rfl

@[simp] theorem Dev.modFirm_out (m : Dev) (f : FirmX → FirmX) : (m.modFirm f).out = m.out := rfl
@[simp] theorem Dev.modFirm_regs (m : Dev) (f : FirmX → FirmX) : (m.modFirm f).regs = m.regs := rfl
@[simp] theorem Dev.modFirm_hbm (m : Dev) (f : FirmX → FirmX) : (m.modFirm f).hbm = m.hbm := rfl
@[simp] theorem Dev.modFirm_store (m : Dev) (f : FirmX → FirmX) : (m.modFirm f).store = m.store := rfl
@[simp] theorem Dev.modFirm_flips (m : Dev) (f : FirmX → FirmX) : (m.modFirm f).flips = m.flips := rfl
@[simp] theorem Dev.modFirm_mrc (m : Dev) (f : FirmX → FirmX) : (m.modFirm f).mrc = m.mrc := rfl
@[simp] theorem Dev.modFirm_image (m : Dev) (f : FirmX → FirmX) : (m.modFirm f).image = m.image := rfl
@[simp] theorem Dev.modFirm_tick (m : Dev) (f : FirmX → FirmX) : (m.modFirm f).tick = m.tick := rfl
@[simp] theorem Dev.modFirm_basins (m : Dev) (f : FirmX → FirmX) : (m.modFirm f).basins = m.basins := rfl
@[simp] theorem Dev.modFirm_pins (m : Dev) (f : FirmX → FirmX) : (m.modFirm f).pins = m.pins := rfl
@[simp] theorem Dev.modFirm_lev (m : Dev) (f : FirmX → FirmX) : (m.modFirm f).lev = m.lev := rfl
@[simp] theorem Dev.modFirm_power (m : Dev) (f : FirmX → FirmX) : (m.modFirm f).power = m.power := rfl

@[simp] theorem Dev.modJtag_out (m : Dev) (f : JtagX → JtagX) : (m.modJtag f).out = m.out := rfl
@[simp] theorem Dev.modJtag_regs (m : Dev) (f : JtagX → JtagX) : (m.modJtag f).regs = m.regs := rfl
@[simp] theorem Dev.modJtag_hbm (m : Dev) (f : JtagX → JtagX) : (m.modJtag f).hbm = m.hbm := rfl
@[simp] theorem Dev.modJtag_store (m : Dev) (f : JtagX → JtagX) : (m.modJtag f).store = m.store := rfl
@[simp] theorem Dev.modJtag_flips (m : Dev) (f : JtagX → JtagX) : (m.modJtag f).flips = m.flips := rfl
@[simp] theorem Dev.modJtag_mrc (m : Dev) (f : JtagX → JtagX) : (m.modJtag f).mrc = m.mrc := rfl
@[simp] theorem Dev.modJtag_image (m : Dev) (f : JtagX → JtagX) : (m.modJtag f).image = m.image := rfl
@[simp] theorem Dev.modJtag_tick (m : Dev) (f : JtagX → JtagX) : (m.modJtag f).tick = m.tick := rfl
@[simp] theorem Dev.modJtag_basins (m : Dev) (f : JtagX → JtagX) : (m.modJtag f).basins = m.basins := rfl
@[simp] theorem Dev.modJtag_pins (m : Dev) (f : JtagX → JtagX) : (m.modJtag f).pins = m.pins := rfl
@[simp] theorem Dev.modJtag_lev (m : Dev) (f : JtagX → JtagX) : (m.modJtag f).lev = m.lev := rfl
@[simp] theorem Dev.modJtag_power (m : Dev) (f : JtagX → JtagX) : (m.modJtag f).power = m.power := rfl

@[simp] theorem Dev.modMrc_out (m : Dev) (f : MrcX → MrcX) : (m.modMrc f).out = m.out := rfl
@[simp] theorem Dev.modMrc_regs (m : Dev) (f : MrcX → MrcX) : (m.modMrc f).regs = m.regs := rfl
@[simp] theorem Dev.modMrc_hbm (m : Dev) (f : MrcX → MrcX) : (m.modMrc f).hbm = m.hbm := rfl
@[simp] theorem Dev.modMrc_store (m : Dev) (f : MrcX → MrcX) : (m.modMrc f).store = m.store := rfl
@[simp] theorem Dev.modMrc_flips (m : Dev) (f : MrcX → MrcX) : (m.modMrc f).flips = m.flips := rfl
@[simp] theorem Dev.modMrc_image (m : Dev) (f : MrcX → MrcX) : (m.modMrc f).image = m.image := rfl
@[simp] theorem Dev.modMrc_tick (m : Dev) (f : MrcX → MrcX) : (m.modMrc f).tick = m.tick := rfl
@[simp] theorem Dev.modMrc_basins (m : Dev) (f : MrcX → MrcX) : (m.modMrc f).basins = m.basins := rfl
@[simp] theorem Dev.modMrc_pins (m : Dev) (f : MrcX → MrcX) : (m.modMrc f).pins = m.pins := rfl
@[simp] theorem Dev.modMrc_lev (m : Dev) (f : MrcX → MrcX) : (m.modMrc f).lev = m.lev := rfl
@[simp] theorem Dev.modMrc_power (m : Dev) (f : MrcX → MrcX) : (m.modMrc f).power = m.power := rfl
@[simp] theorem Dev.modMrc_jtag (m : Dev) (f : MrcX → MrcX) : (m.modMrc f).jtag = m.jtag := rfl

end Sys2Proof.Machine
end

