-- ==== Sys2Proof/Laws/Act.lean ====
section
/-! SUPPORT. How the shared frames of the commands answer, where a command acts. -/

namespace Sys2Proof.Machine

@[simp] theorem State.start_out (s : State) : s.start.out = [] := rfl

theorem Dev.payOwed_nil {m : Dev} (h : m.lev.owed = []) : m.payOwed = m := by
  unfold Dev.payOwed
  rw [h]

/-- A command that acts and owes no report takes the block where its effect takes it. -/
theorem State.act_becomes {s : State} {f : Dev → Dev} (h : s.acts) (ho : (f s.start).lev.owed = []) : s.act f = s.becomes (f s.start) := by
  have e : s.start.power.usable = true := h.1
  show Host.Outcome.next _ = _
  unfold State.becomes
  congr 2
  show (if s.start.power.usable = true then (f s.start).payOwed else s.start) = f s.start
  rw [if_pos e, Dev.payOwed_nil ho]

/-- A command that acts, in full: the reports that it owes are made. -/
theorem State.act_pays {s : State} {f : Dev → Dev} (h : s.acts) : s.act f = s.becomes (f s.start).payOwed := by
  have e : s.start.power.usable = true := h.1
  show Host.Outcome.next _ = _
  unfold State.becomes
  congr 2
  show (if s.start.power.usable = true then (f s.start).payOwed else s.start) = (f s.start).payOwed
  rw [if_pos e]

/-- A command that does not act leaves the block as it was but for its outputs (R488). -/
theorem State.act_unusable {s : State} {f : Dev → Dev} (h : s.dev.power.usable = false) : s.act f = s.becomes s.start := by
  have e : ¬ s.start.power.usable = true := by
    show ¬ s.dev.power.usable = true
    rw [h]; decide
  show Host.Outcome.next _ = _
  unfold State.becomes
  congr 2
  show (if s.start.power.usable = true then (f s.start).payOwed else s.start) = s.start
  rw [if_neg e]

/-- The same of a host write: to any register, to one of a basin, and to one of a sequencer. -/
theorem State.hostAct_unusable {s : State} {off : Nat} {f : Dev → Dev} (h : s.dev.power.usable = false) : s.hostAct off f = s.becomes s.start :=
  State.act_unusable h

theorem State.basinAct_unusable {s : State} {b off : Nat} {f : Dev → Dev} (h : s.dev.power.usable = false) : s.basinAct b off f = s.becomes s.start :=
  State.act_unusable h

theorem State.seqAct_unusable {s : State} {q off : Nat} {f : Dev → Dev} (h : s.dev.power.usable = false) : s.seqAct q off f = s.becomes s.start :=
  State.act_unusable h

theorem Dev.hostWrite_open {m : Dev} {off : Nat} {f : Dev → Dev} (h : m.writable off = true) (ht : m.inTest = false) : m.hostWrite off f = f m := by
  unfold Dev.hostWrite
  simp [h, ht]

theorem Dev.hostWrite_closed {m : Dev} {off : Nat} {f : Dev → Dev} (h : m.writable off = false) : m.hostWrite off f = m := by
  unfold Dev.hostWrite
  simp [h]

/-- A host write that acts and owes no report takes the block where its effect takes it. -/
theorem State.hostAct_becomes {s : State} {off : Nat} {f : Dev → Dev} (h : s.takes off) (ho : (f s.start).lev.owed = []) :
    s.hostAct off f = s.becomes (f s.start) := by
  have e : s.start.hostWrite off f = f s.start := Dev.hostWrite_open h.2.1 h.2.2
  have := State.act_becomes (f := fun m => m.hostWrite off f) h.1 (by rw [e]; exact ho)
  rw [e] at this
  exact this

theorem State.hostAct_pays {s : State} {off : Nat} {f : Dev → Dev} (h : s.takes off) : s.hostAct off f = s.becomes (f s.start).payOwed := by
  have e : s.start.hostWrite off f = f s.start := Dev.hostWrite_open h.2.1 h.2.2
  have := State.act_pays (f := fun m => m.hostWrite off f) h.1
  rw [e] at this
  exact this

/-- A host write to a register of a defined basin acts likewise. -/
theorem State.basinAct_becomes {s : State} {b off : Nat} {f : Dev → Dev} (h : s.takesIn b off) (ho : (f s.start).lev.owed = []) :
    s.basinAct b off f = s.becomes (f s.start) := by
  have e : (if s.start.defined b then f s.start else s.start) = f s.start := if_pos h.2
  have := State.hostAct_becomes (f := fun m => if m.defined b then f m else m) h.1 (by rw [e]; exact ho)
  rw [e] at this
  exact this

theorem State.basinAct_pays {s : State} {b off : Nat} {f : Dev → Dev} (h : s.takesIn b off) : s.basinAct b off f = s.becomes (f s.start).payOwed := by
  have e : (if s.start.defined b then f s.start else s.start) = f s.start := if_pos h.2
  have := State.hostAct_pays (f := fun m => if m.defined b then f m else m) h.1
  rw [e] at this
  exact this

/-- A host write to an undefined basin's register does nothing (R77). -/
theorem State.basinAct_undefined {s : State} {b off : Nat} {f : Dev → Dev} (h : s.acts) (hd : s.dev.defined b = false) :
    s.basinAct b off f = s.becomes s.start := by
  have e : s.start.hostWrite off (fun m => if m.defined b then f m else m) = s.start := by
    unfold Dev.hostWrite
    have : s.start.defined b = false := hd
    simp [this]
  have := State.act_becomes (f := fun m => m.hostWrite off fun m => if m.defined b then f m else m) h (by rw [e]; exact h.2)
  rw [e] at this
  exact this

/-- A host write to the sequencer of an undefined basin does nothing (R77). -/
theorem State.seqAct_undefined {s : State} {q off : Nat} {f : Dev → Dev} (h : s.acts) (hq : q < 256) (hd : s.dev.defined q = false) :
    s.seqAct q off f = s.becomes s.start := by
  have e : s.start.hostWrite off (fun m => if 256 ≤ q || m.defined q then f m else m) = s.start := by
    unfold Dev.hostWrite
    have : s.start.defined q = false := hd
    have hq' : ¬ 256 ≤ q := by omega
    simp [this, hq']
  have := State.act_becomes (f := fun m => m.hostWrite off fun m => if 256 ≤ q || m.defined q then f m else m) h (by rw [e]; exact h.2)
  rw [e] at this
  exact this

/-- A host write to a sequencer's register acts: a global one, or that of a defined basin. -/
theorem State.seqAct_becomes {s : State} {q off : Nat} {f : Dev → Dev} (h : s.takes off) (hq : (256 ≤ q || s.dev.defined q) = true)
    (ho : (f s.start).lev.owed = []) : s.seqAct q off f = s.becomes (f s.start) := by
  have e : (if (256 ≤ q || s.start.defined q) = true then f s.start else s.start) = f s.start := if_pos hq
  have := State.hostAct_becomes (f := fun m => if 256 ≤ q || m.defined q then f m else m) h (by rw [e]; exact ho)
  rw [e] at this
  exact this

/-- A host write to a sequencer's register acts, and reports owed are then made. -/
theorem State.seqAct_pays {s : State} {q off : Nat} {f : Dev → Dev} (h : s.takes off) (hq : (256 ≤ q || s.dev.defined q) = true) :
    s.seqAct q off f = s.becomes (f s.start).payOwed := by
  have e : (if (256 ≤ q || s.start.defined q) = true then f s.start else s.start) = f s.start := if_pos hq
  have := State.hostAct_pays (f := fun m => if 256 ≤ q || m.defined q then f m else m) h
  rw [e] at this
  exact this

/-- The same, where the effect is known to take the block to m. -/
theorem State.act_eq {s : State} {f : Dev → Dev} {m : Dev} (h : s.acts) (e : f s.start = m) (ho : m.lev.owed = []) : s.act f = s.becomes m := by
  subst e
  exact State.act_becomes h ho

theorem State.hostAct_eq {s : State} {off : Nat} {f : Dev → Dev} {m : Dev} (h : s.takes off) (e : f s.start = m) (ho : m.lev.owed = []) :
    s.hostAct off f = s.becomes m := by
  subst e
  exact State.hostAct_becomes h ho

theorem State.basinAct_eq {s : State} {b off : Nat} {f : Dev → Dev} {m : Dev} (h : s.takesIn b off) (e : f s.start = m) (ho : m.lev.owed = []) :
    s.basinAct b off f = s.becomes m := by
  subst e
  exact State.basinAct_becomes h ho

theorem State.seqAct_eq {s : State} {q off : Nat} {f : Dev → Dev} {m : Dev} (h : s.takes off) (hq : (256 ≤ q || s.dev.defined q) = true)
    (e : f s.start = m) (ho : m.lev.owed = []) : s.seqAct q off f = s.becomes m := by
  subst e
  exact State.seqAct_becomes h hq ho

/-! What the shared frame of every command can do to the memories: a command whose effect keeps them canonical keeps them so. -/

theorem State.always_keeps {s t : State} {f : Dev → Dev} (hf : ∀ m : Dev, m.canonical → (f m).canonical) (h : s.dev.canonical)
    (e : s.always f = .next t) : t.dev.canonical := by
  cases e
  exact hf _ h

theorem State.act_keeps {s t : State} {f : Dev → Dev} (hf : ∀ m : Dev, m.canonical → (f m).canonical) (h : s.dev.canonical)
    (e : s.act f = .next t) : t.dev.canonical :=
  State.always_keeps (fun m hm => by
    split
    · exact Dev.payOwed_keeps (hf m hm)
    · exact hm) h e

theorem State.hostAct_keeps {s t : State} {off : Nat} {f : Dev → Dev} (hf : ∀ m : Dev, m.canonical → (f m).canonical) (h : s.dev.canonical)
    (e : s.hostAct off f = .next t) : t.dev.canonical :=
  State.act_keeps (fun _ hm => Dev.hostWrite_keeps off f hm hf) h e

theorem State.basinAct_keeps {s t : State} {b off : Nat} {f : Dev → Dev} (hf : ∀ m : Dev, m.canonical → (f m).canonical) (h : s.dev.canonical)
    (e : s.basinAct b off f = .next t) : t.dev.canonical :=
  State.hostAct_keeps (fun m hm => by
    split
    · exact hf m hm
    · exact hm) h e

theorem State.seqAct_keeps {s t : State} {q off : Nat} {f : Dev → Dev} (hf : ∀ m : Dev, m.canonical → (f m).canonical) (h : s.dev.canonical)
    (e : s.seqAct q off f = .next t) : t.dev.canonical :=
  State.hostAct_keeps (fun m hm => by
    split
    · exact hf m hm
    · exact hm) h e

end Sys2Proof.Machine
end

