-- ==== Sys2Proof/Laws/Regs.lean ====
section
/-! SUPPORT. Registers and their fields: what is read after a write. -/

namespace Sys2Proof.Machine

theorem Dev.reg_setReg_same {m : Dev} (h : m.canonical) (off v : Nat) : (m.setReg off v).reg off = v % 2 ^ 32 := by
  unfold Dev.reg Dev.setReg
  rw [Tbl.find_set_same _ off _ h.2.1]
  exact BitVec.toNat_ofNat v 32

theorem Dev.reg_setReg_other (m : Dev) {off off' : Nat} (v : Nat) (h : off' ≠ off) : (m.setReg off v).reg off' = m.reg off' := by
  unfold Dev.reg Dev.setReg
  exact congrArg BitVec.toNat (by
    have : ∀ (d d' : Word), off' ≠ off → Tbl.find d' (Tbl.set d m.regs off (BitVec.ofNat 32 v)) off' = Tbl.find d' m.regs off' := by
      intro d d' hn
      induction m.regs with
      | nil => by_cases hv : BitVec.ofNat 32 v = d <;> simp [Tbl.set, Tbl.find, hv, hn.symm]
      | cons e t ih =>
        obtain ⟨j, w⟩ := e
        unfold Tbl.set
        split
        · split
          · rfl
          · simp [Tbl.find, hn.symm]
        · split
          · next hj =>
            subst hj
            split <;> simp [Tbl.find, hn.symm]
          · simp only [Tbl.find, ih]
    exact this _ _ h)

/-- The width of a field. -/
def Fld.width (f : Fld) : Nat := f.hi + 1 - f.lo

/-- A field that lies within its register. -/
def Fld.ok (f : Fld) : Prop := f.lo ≤ f.hi ∧ f.hi < 32

/-- A number with a field replaced: what stands above the field, the new value, and what stands below. -/
theorem setBits_eq (n hi lo v : Nat) (h : lo ≤ hi) :
    setBits n hi lo v = (n / 2 ^ (hi + 1) * 2 ^ (hi + 1 - lo) + v % 2 ^ (hi + 1 - lo)) * 2 ^ lo + n % 2 ^ lo := by
  have hp : 2 ^ (hi + 1) = 2 ^ lo * 2 ^ (hi + 1 - lo) := by rw [← Nat.pow_add]; congr 1; omega
  unfold setBits bitsOf
  rw [Nat.shiftLeft_eq, Nat.shiftLeft_eq, Nat.shiftRight_eq_div_pow, hp, ← Nat.div_div_eq_div_mul]
  have h1 := Nat.div_add_mod n (2 ^ lo)
  have h2 := Nat.div_add_mod (n / 2 ^ lo) (2 ^ (hi + 1 - lo))
  generalize 2 ^ (hi + 1 - lo) = y at *
  generalize 2 ^ lo = x at *
  generalize n % x = c at *
  generalize n / x = d at *
  generalize d % y = b at *
  generalize d / y = a at *
  subst h2
  rw [← h1, Nat.mul_comm x, Nat.add_mul, Nat.add_mul, Nat.mul_comm y a]
  omega

theorem bitsOf_setBits_same (n hi lo v : Nat) (h : lo ≤ hi) : bitsOf (setBits n hi lo v) hi lo = v % 2 ^ (hi + 1 - lo) := by
  rw [setBits_eq n hi lo v h]
  unfold bitsOf
  rw [Nat.shiftRight_eq_div_pow, Nat.mul_comm, Nat.mul_add_div (Nat.two_pow_pos _), Nat.div_eq_of_lt (Nat.mod_lt _ (Nat.two_pow_pos _)),
    Nat.add_zero, Nat.mul_comm, Nat.mul_add_mod, Nat.mod_mod]

/-- A field above or below the one that is replaced keeps its bits. -/
theorem bitsOf_setBits_other (n hi lo v hi' lo' : Nat) (h : lo ≤ hi) (hd : hi < lo' ∨ hi' < lo) :
    bitsOf (setBits n hi lo v) hi' lo' = bitsOf n hi' lo' := by
  rw [setBits_eq n hi lo v h]
  have hp : 2 ^ (hi + 1) = 2 ^ lo * 2 ^ (hi + 1 - lo) := by rw [← Nat.pow_add]; congr 1; omega
  unfold bitsOf
  rw [Nat.shiftRight_eq_div_pow, Nat.shiftRight_eq_div_pow]
  rcases hd with hd | hd
  · have e : lo' = (hi + 1) + (lo' - (hi + 1)) := by omega
    have hq : ∀ k, k / 2 ^ lo' = k / 2 ^ (hi + 1) / 2 ^ (lo' - (hi + 1)) := fun k => by
      rw [Nat.div_div_eq_div_mul, ← Nat.pow_add, ← e]
    rw [hq, hq n]
    congr 2
    rw [hp, ← Nat.div_div_eq_div_mul, Nat.mul_comm _ (2 ^ lo), Nat.mul_add_div (Nat.two_pow_pos _),
      Nat.div_eq_of_lt (Nat.mod_lt _ (Nat.two_pow_pos _)), Nat.add_zero, Nat.mul_comm _ (2 ^ (hi + 1 - lo)),
      Nat.mul_add_div (Nat.two_pow_pos _), Nat.div_eq_of_lt (Nat.mod_lt _ (Nat.two_pow_pos _)), Nat.add_zero]
  · by_cases hw : lo' ≤ hi'
    · have hm : ∀ k, k / 2 ^ lo' % 2 ^ (hi' + 1 - lo') = k % 2 ^ lo / 2 ^ lo' % 2 ^ (hi' + 1 - lo') := fun k => by
        have e : 2 ^ lo = 2 ^ lo' * 2 ^ (lo - lo') := by rw [← Nat.pow_add]; congr 1; omega
        rw [e, Nat.mod_mul_right_div_self, Nat.mod_mod_of_dvd]
        exact Nat.pow_dvd_pow 2 (by omega)
      rw [hm, hm n, Nat.mul_comm, Nat.mul_add_mod, Nat.mod_mod]
    · have e : hi' + 1 - lo' = 0 := by omega
      rw [e]
      simp [Nat.mod_one]

theorem setBits_lt (n hi lo v : Nat) (h : lo ≤ hi) (hn : n < 2 ^ 32) (hi32 : hi < 32) : setBits n hi lo v < 2 ^ 32 := by
  rw [setBits_eq n hi lo v h]
  have hp : 2 ^ 32 = 2 ^ lo * (2 ^ (hi + 1 - lo) * 2 ^ (31 - hi)) := by
    rw [← Nat.pow_add, ← Nat.pow_add]; congr 1; omega
  have ha : n / 2 ^ (hi + 1) < 2 ^ (31 - hi) := by
    rw [Nat.div_lt_iff_lt_mul (Nat.two_pow_pos _), ← Nat.pow_add]
    have : 31 - hi + (hi + 1) = 32 := by omega
    rw [this]; exact hn
  have hb := Nat.mod_lt v (Nat.two_pow_pos (hi + 1 - lo))
  have hc := Nat.mod_lt n (Nat.two_pow_pos lo)
  rw [hp]
  generalize 2 ^ lo = x at *
  generalize 2 ^ (hi + 1 - lo) = y at *
  generalize 2 ^ (31 - hi) = z at *
  generalize n / 2 ^ (hi + 1) = a at *
  have h1 : a * y + v % y < y * z := by
    have : (a + 1) * y ≤ z * y := Nat.mul_le_mul_right _ ha
    rw [Nat.mul_comm y z]
    have e : (a + 1) * y = a * y + y := by rw [Nat.add_mul, Nat.one_mul]
    omega
  generalize a * y + v % y = d at *
  have : (d + 1) * x ≤ y * z * x := Nat.mul_le_mul_right _ h1
  rw [Nat.mul_comm x]
  have e : (d + 1) * x = d * x + x := by rw [Nat.add_mul, Nat.one_mul]
  omega

theorem Dev.reg_lt (m : Dev) (off : Nat) : m.reg off < 2 ^ 32 := by unfold Dev.reg; exact BitVec.isLt _

/-- A field reads as what was just written to it, its low bits. -/
theorem Dev.get_put_same {m : Dev} (h : m.canonical) {f : Fld} (hf : f.ok) (v : Nat) : (m.put f v).get f = v % 2 ^ f.width := by
  unfold Dev.get Dev.put
  rw [Dev.reg_setReg_same h, Nat.mod_eq_of_lt (setBits_lt _ _ _ _ hf.1 (m.reg_lt _) hf.2), bitsOf_setBits_same _ _ _ _ hf.1]
  rfl

/-- A field of another register keeps its value. -/
theorem Dev.get_put_off (m : Dev) {f g : Fld} (v : Nat) (h : g.off ≠ f.off) : (m.put f v).get g = m.get g := by
  unfold Dev.get Dev.put
  rw [Dev.reg_setReg_other _ _ h]

/-- Another field of the same register keeps its value. -/
theorem Dev.get_put_bits {m : Dev} (h : m.canonical) {f g : Fld} (hf : f.ok) (v : Nat) (ho : g.off = f.off) (hd : f.hi < g.lo ∨ g.hi < f.lo) :
    (m.put f v).get g = m.get g := by
  unfold Dev.get Dev.put
  rw [ho, Dev.reg_setReg_same h, Nat.mod_eq_of_lt (setBits_lt _ _ _ _ hf.1 (m.reg_lt _) hf.2), bitsOf_setBits_other _ _ _ _ _ _ hf.1 hd]

/-- True where a field lies within its register. -/
def Fld.fits (f : Fld) : Bool := Nat.ble f.lo f.hi && Nat.blt f.hi 32

/-- True where two fields share no bit. -/
def Fld.apart (f g : Fld) : Bool := Nat.blt f.hi g.lo || Nat.blt g.hi f.lo

theorem Fld.ok_of_fits {f : Fld} (h : f.fits = true) : f.ok := by
  unfold Fld.fits at h
  rw [Bool.and_eq_true] at h
  exact ⟨Nat.le_of_ble_eq_true h.1, Nat.le_of_ble_eq_true h.2⟩

/-- The field just written, where its place in its register is known by computation. -/
theorem Dev.get_put {m : Dev} (h : m.canonical) {f : Fld} (v : Nat) (hf : f.fits = true) : (m.put f v).get f = v % 2 ^ f.width :=
  Dev.get_put_same h (Fld.ok_of_fits hf) v

/-- Another field of the register just written, likewise. -/
theorem Dev.get_put_apart {m : Dev} (h : m.canonical) {f g : Fld} (v : Nat) (ho : g.off = f.off) (hf : f.fits = true) (hd : f.apart g = true) :
    (m.put f v).get g = m.get g := by
  refine Dev.get_put_bits h (Fld.ok_of_fits hf) v ho ?_
  unfold Fld.apart at hd
  rw [Bool.or_eq_true] at hd
  exact hd.imp Nat.le_of_ble_eq_true Nat.le_of_ble_eq_true

/-- The same of one-bit fields read as conditions. -/
theorem Dev.on_put {m : Dev} (h : m.canonical) {f : Fld} (hf : f.fits = true) : (m.put f 1).on f = true := by
  unfold Dev.on
  rw [Dev.get_put h 1 hf]
  have hw : 1 ≤ f.width := by
    have := (Fld.ok_of_fits hf).1
    unfold Fld.width
    omega
  have : 2 ≤ 2 ^ f.width := by
    calc 2 = 2 ^ 1 := rfl
      _ ≤ 2 ^ f.width := Nat.pow_le_pow_right (by decide) hw
  rw [Nat.mod_eq_of_lt (by omega)]
  rfl

theorem Dev.on_put_zero {m : Dev} (h : m.canonical) {f : Fld} (hf : f.fits = true) : (m.put f 0).on f = false := by
  unfold Dev.on
  rw [Dev.get_put h 0 hf, Nat.zero_mod]
  rfl

theorem Dev.on_put_apart {m : Dev} (h : m.canonical) {f g : Fld} (v : Nat) (ho : g.off = f.off) (hf : f.fits = true) (hd : f.apart g = true) :
    (m.put f v).on g = m.on g := by
  unfold Dev.on
  rw [Dev.get_put_apart h v ho hf hd]

theorem Dev.on_put_off (m : Dev) {f g : Fld} (v : Nat) (h : g.off ≠ f.off) : (m.put f v).on g = m.on g := by
  unfold Dev.on
  rw [Dev.get_put_off m v h]

end Sys2Proof.Machine
end

