-- ==== Sys2Proof/Laws/Memory.lean ====
section
/-! SUPPORT. HBM and loop stores: what is read after a write. -/

namespace Sys2Proof.Machine

theorem Dev.byte_setByte_same {m : Dev} (h : m.canonical) (a : Nat) (v : Byte) : (m.setByte a v).byte a = v :=
  Tbl.find_set_same 0 a v h.1

theorem Dev.byte_setByte_other (m : Dev) {a k : Nat} (v : Byte) (h : k ≠ a) : (m.setByte a v).byte k = m.byte k :=
  Tbl.find_set_other 0 v h m.hbm

/-- Bytes outside those that a list of bytes is written to keep their values. -/
theorem Dev.byte_setBytes_other {k : Nat} : ∀ (l : List Byte) (m : Dev) (a : Nat), (k < a ∨ a + l.length ≤ k) → (m.setBytes a l).byte k = m.byte k
  | [], _, _, _ => rfl
  | v :: t, m, a, h => by
    show ((m.setByte a v).setBytes (a + 1) t).byte k = m.byte k
    rw [Dev.byte_setBytes_other t _ (a + 1) (by simp only [List.length_cons] at h; omega), Dev.byte_setByte_other]
    simp only [List.length_cons] at h
    omega

theorem leBytes_length : ∀ n v, (leBytes n v).length = n
  | 0, _ => rfl
  | n + 1, v => by simp [leBytes, leBytes_length n]

/-- Bytes outside the n bytes at a keep their values. -/
theorem Dev.byte_setMem_other (m : Dev) {a n k : Nat} (v : Nat) (h : k < a ∨ a + n ≤ k) : (m.setMem a n v).byte k = m.byte k := by
  unfold Dev.setMem
  exact Dev.byte_setBytes_other _ _ _ (by rw [leBytes_length]; exact h)

theorem Dev.word_setWord_same {m : Dev} (h : m.canonical) (e a : Nat) (w : VecWord) : (m.setWord e a w).word e a = w :=
  Tbl.find_set_same 0 _ w h.2.2

theorem Dev.word_setWord_other (m : Dev) {e a e' a' : Nat} (w : VecWord) (h : 2048 * e' + a' ≠ 2048 * e + a) :
    (m.setWord e a w).word e' a' = m.word e' a' :=
  Tbl.find_set_other 0 w h m.store

/-- What a register write does not touch. -/
@[simp] theorem Dev.byte_setReg (m : Dev) (off v k : Nat) : (m.setReg off v).byte k = m.byte k := rfl
@[simp] theorem Dev.byte_put (m : Dev) (f : Fld) (v k : Nat) : (m.put f v).byte k = m.byte k := rfl
@[simp] theorem Dev.word_put (m : Dev) (f : Fld) (v e a : Nat) : (m.put f v).word e a = m.word e a := rfl
@[simp] theorem Dev.reg_setByte (m : Dev) (a : Nat) (v : Byte) (off : Nat) : (m.setByte a v).reg off = m.reg off := rfl

@[simp] theorem Dev.reg_setBytes (off : Nat) : ∀ (l : List Byte) (m : Dev) (a : Nat), (m.setBytes a l).reg off = m.reg off
  | [], _, _ => rfl
  | v :: t, m, a => by
    show ((m.setByte a v).setBytes (a + 1) t).reg off = m.reg off
    rw [Dev.reg_setBytes off t]
    rfl

@[simp] theorem Dev.reg_setMem (m : Dev) (a n v off : Nat) : (m.setMem a n v).reg off = m.reg off := Dev.reg_setBytes off _ _ _

@[simp] theorem Dev.setBytes_out : ∀ (l : List Byte) (m : Dev) (a : Nat), (m.setBytes a l).out = m.out
  | [], _, _ => rfl
  | _ :: t, _, _ => Dev.setBytes_out t _ _

@[simp] theorem Dev.setMem_out (m : Dev) (a n v : Nat) : (m.setMem a n v).out = m.out := Dev.setBytes_out _ _ _

@[simp] theorem Dev.setBytes_regs : ∀ (l : List Byte) (m : Dev) (a : Nat), (m.setBytes a l).regs = m.regs
  | [], _, _ => rfl
  | _ :: t, _, _ => Dev.setBytes_regs t _ _

@[simp] theorem Dev.setMem_regs (m : Dev) (a n v : Nat) : (m.setMem a n v).regs = m.regs := Dev.setBytes_regs _ _ _

@[simp] theorem Dev.setBytes_image : ∀ (l : List Byte) (m : Dev) (a : Nat), (m.setBytes a l).image = m.image
  | [], _, _ => rfl
  | _ :: t, _, _ => Dev.setBytes_image t _ _

@[simp] theorem Dev.setMem_image (m : Dev) (a n v : Nat) : (m.setMem a n v).image = m.image := Dev.setBytes_image _ _ _

@[simp] theorem Dev.setBytes_tick : ∀ (l : List Byte) (m : Dev) (a : Nat), (m.setBytes a l).tick = m.tick
  | [], _, _ => rfl
  | _ :: t, _, _ => Dev.setBytes_tick t _ _

@[simp] theorem Dev.setMem_tick (m : Dev) (a n v : Nat) : (m.setMem a n v).tick = m.tick := Dev.setBytes_tick _ _ _

@[simp] theorem Dev.setBytes_lev : ∀ (l : List Byte) (m : Dev) (a : Nat), (m.setBytes a l).lev = m.lev
  | [], _, _ => rfl
  | _ :: t, _, _ => Dev.setBytes_lev t _ _

@[simp] theorem Dev.setMem_lev (m : Dev) (a n v : Nat) : (m.setMem a n v).lev = m.lev := Dev.setBytes_lev _ _ _

@[simp] theorem Dev.setBytes_power : ∀ (l : List Byte) (m : Dev) (a : Nat), (m.setBytes a l).power = m.power
  | [], _, _ => rfl
  | _ :: t, _, _ => Dev.setBytes_power t _ _

@[simp] theorem Dev.setMem_power (m : Dev) (a n v : Nat) : (m.setMem a n v).power = m.power := Dev.setBytes_power _ _ _

@[simp] theorem Dev.setBytes_store : ∀ (l : List Byte) (m : Dev) (a : Nat), (m.setBytes a l).store = m.store
  | [], _, _ => rfl
  | _ :: t, _, _ => Dev.setBytes_store t _ _

@[simp] theorem Dev.setMem_store (m : Dev) (a n v : Nat) : (m.setMem a n v).store = m.store := Dev.setBytes_store _ _ _

@[simp] theorem Dev.setBytes_jtag : ∀ (l : List Byte) (m : Dev) (a : Nat), (m.setBytes a l).jtag = m.jtag
  | [], _, _ => rfl
  | _ :: t, _, _ => Dev.setBytes_jtag t _ _

@[simp] theorem Dev.setMem_jtag (m : Dev) (a n v : Nat) : (m.setMem a n v).jtag = m.jtag := Dev.setBytes_jtag _ _ _

end Sys2Proof.Machine
end

