-- ==== Sys2Proof/Laws/Frames.lean ====
section
/-! SUPPORT. Bytes and numbers, and the frame check sequence at the end of a frame. -/

namespace Sys2Proof.Machine

theorem leNat_leBytes : ∀ (n v : Nat), v < 256 ^ n → leNat (leBytes n v) = v
  | 0, v, h => by
    simp only [Nat.pow_zero] at h
    simp [leBytes, leNat]
    omega
  | n + 1, v, h => by
    have hd : v / 256 < 256 ^ n := by
      rw [Nat.div_lt_iff_lt_mul (by decide)]
      exact Nat.lt_of_lt_of_eq h (Nat.pow_succ 256 n)
    simp only [leBytes, leNat, leNat_leBytes n _ hd, BitVec.toNat_ofNat]
    omega

theorem fcsBit_lt {c : Nat} (h : c < 2 ^ 32) : fcsBit c < 2 ^ 32 := by
  unfold fcsBit
  have hs : c >>> 1 < 2 ^ 32 := by
    rw [Nat.shiftRight_eq_div_pow]
    omega
  split
  · exact Nat.xor_lt_two_pow hs (by decide)
  · exact hs

theorem fcsByte_lt {c : Nat} (h : c < 2 ^ 32) (b : Byte) : fcsByte c b < 2 ^ 32 := by
  unfold fcsByte
  have hb : c ^^^ b.toNat < 2 ^ 32 := Nat.xor_lt_two_pow h (Nat.lt_of_lt_of_le b.isLt (by decide))
  exact fcsBit_lt (fcsBit_lt (fcsBit_lt (fcsBit_lt (fcsBit_lt (fcsBit_lt (fcsBit_lt (fcsBit_lt hb)))))))

theorem frameCheck_lt (l : List Byte) : frameCheck l < 2 ^ 32 := by
  unfold frameCheck
  have : ∀ (l : List Byte) (c : Nat), c < 2 ^ 32 → l.foldl fcsByte c < 2 ^ 32 := by
    intro l
    induction l with
    | nil => intro c h; exact h
    | cons b t ih => intro c h; exact ih _ (fcsByte_lt h b)
  exact Nat.xor_lt_two_pow (this l _ (by decide)) (by decide)

/-- The sequence that ends a frame reads back. -/
theorem fieldAt_frame (l : List Byte) : fieldAt (l ++ leBytes 4 (frameCheck l)) l.length 4 = frameCheck l := by
  unfold fieldAt
  rw [List.drop_left, List.take_of_length_le (Nat.le_of_eq (leBytes_length 4 _)), leNat_leBytes _ _ (frameCheck_lt l)]

/-- What every step of an iteration leaves as it was, the iteration leaves as it was. -/
theorem Dev.each_frame {α β : Type} (g : Dev → β) {f : Dev → α → Dev} (h : ∀ m a, g (f m a) = g m) : ∀ (l : List α) (m : Dev), g (m.each l f) = g m
  | [], _ => rfl
  | a :: l, m => (Dev.each_frame g h l (f m a)).trans (h m a)

end Sys2Proof.Machine
end

