-- ==== Sys2Proof/Laws/KeepPins.lean ====
section
/-! SUPPORT. Canonical memories are kept by every operation of the machine: Millrace, levels, tones, timing and the play of a word. One lemma for each
operation, named after it. -/

set_option maxRecDepth 4000

namespace Sys2Proof.Machine

/-! ## Millrace -/

theorem Dev.modMrc_keeps {m : Dev} (f : MrcX → MrcX) (hk : m.canonical) : (Dev.modMrc m f).canonical := by
  unfold Dev.modMrc
  repeat first
    | with_reducible first | assumption | apply Dev.keep_mk

theorem Dev.loadCtrl_keeps {m : Dev} (a : Nat) (w : BitVec 128) (hk : m.canonical) : (Dev.loadCtrl m a w).canonical := by
  unfold Dev.loadCtrl
  try lift_lets -underBinder
  repeat first
    | with_reducible assumption
    | (intro n x hn; have : Dev.canonical n := hn; try lift_lets -underBinder)
    | with_reducible first | apply Dev.each_keeps | apply Dev.modMrc_keeps | apply Dev.keep_mk

theorem Dev.loadMicrocode_keeps {m : Dev} (s : SlotIn) (hk : m.canonical) : (Dev.loadMicrocode m s).canonical := by
  unfold Dev.loadMicrocode
  try lift_lets -underBinder
  repeat first
    | with_reducible assumption
    | (intro n x hn; have : Dev.canonical n := hn; try lift_lets -underBinder)
    | with_reducible first | apply Dev.each_keeps | apply Dev.modMrc_keeps | apply Dev.loadCtrl_keeps | apply Dev.keep_ite
    | with_reducible apply Dev.keep_mk

theorem Dev.upsetCtrl_keeps {m : Dev} (l : List (Nat × Nat × Nat)) (hk : m.canonical) : (Dev.upsetCtrl m l).canonical := by
  unfold Dev.upsetCtrl
  try lift_lets -underBinder
  repeat first
    | with_reducible assumption
    | (intro n x hn; have : Dev.canonical n := hn; try lift_lets -underBinder)
    | with_reducible first | apply Dev.each_keeps | apply Dev.modMrc_keeps | apply Dev.keep_mk

theorem Dev.readCtrl_keeps {m : Dev} (l : List (Nat × Nat)) (hk : m.canonical) : (Dev.readCtrl m l).canonical := by
  unfold Dev.readCtrl
  try lift_lets -underBinder
  repeat first
    | with_reducible assumption
    | (intro n x hn; have : Dev.canonical n := hn; try lift_lets -underBinder)
    | with_reducible first | apply Dev.each_keeps | apply Dev.count_keeps | apply Dev.report_keeps | apply Dev.keep_ite

theorem Dev.rewriteLane_keeps {m : Dev} (lane : Nat) (src : Nat) (hk : m.canonical) : (Dev.rewriteLane m lane src).canonical := by
  unfold Dev.rewriteLane
  repeat first
    | with_reducible first | assumption | apply Dev.modMrc_keeps

theorem Dev.requestRoutine_keeps {m : Dev} (r : Routine) (hk : m.canonical) : (Dev.requestRoutine m r).canonical := by
  unfold Dev.requestRoutine
  try lift_lets -underBinder
  repeat first
    | with_reducible assumption
    | (intro n x hn; have : Dev.canonical n := hn; try lift_lets -underBinder)
    | with_reducible first | apply Dev.each_keeps | apply Dev.bump_keeps | apply Dev.put_keeps | apply Dev.modMrc_keeps
    | with_reducible first | apply Dev.keep_ite | apply Dev.keep_mk

theorem Dev.dropRoutines_keeps {m : Dev} (hk : m.canonical) : (Dev.dropRoutines m).canonical := by
  unfold Dev.dropRoutines
  repeat first
    | with_reducible first | assumption | apply Dev.modMrc_keeps

theorem Dev.freeCycles_keeps {m : Dev} (n : Nat) (hk : m.canonical) : (Dev.freeCycles m n).1.canonical := by
  unfold Dev.freeCycles
  repeat first
    | with_reducible first | assumption | apply Dev.modMrc_keeps

theorem Dev.runTick_keeps (n : Nat) :
    ∀ (l : List (Nat × Routine)) (done : Nat) {m : Dev}, m.canonical → (m.runTick n done l).1.canonical
  | [], _, _, hk => Dev.freeCycles_keeps _ hk
  | (_, r) :: l, _, _, hk => Dev.runTick_keeps n l _ (Dev.requestRoutine_keeps r (Dev.freeCycles_keeps _ hk))

/-! ## Levels -/

theorem Dev.retarget_keeps {m : Dev} (p : Nat) (cmp : Bool) (hk : m.canonical) : (Dev.retarget m p cmp).canonical := by
  unfold Dev.retarget
  repeat first
    | with_reducible first | assumption | apply Dev.put_keeps | apply Dev.report_keeps | apply Dev.keep_ite

theorem Dev.resumeWalks_keeps {m : Dev} (p : Nat) (hk : m.canonical) : (Dev.resumeWalks m p).canonical := by
  unfold Dev.resumeWalks
  repeat first
    | with_reducible first | assumption | apply Dev.retarget_keeps

theorem Dev.userField_keeps {m : Dev} (p : Nat) (cmp : Bool) (user : Nat) (hk : m.canonical) : (Dev.userField m p cmp user).canonical := by
  unfold Dev.userField
  repeat first
    | with_reducible first | assumption | apply Dev.put_keeps | apply Dev.keep_ite

theorem Dev.userWrite_keeps {m : Dev} (p : Nat) (cmp : Bool) (user : Nat) (hk : m.canonical) : (Dev.userWrite m p cmp user).canonical := by
  unfold Dev.userWrite
  repeat first
    | with_reducible first | assumption | apply Dev.userField_keeps | apply Dev.takeForce_keeps | apply Dev.takeDeck_keeps
    | with_reducible first | apply Dev.retarget_keeps | apply Dev.keep_ite

theorem Dev.userDeliver_keeps {m : Dev} (p : Nat) (cmp : Bool) (v : Nat) (hk : m.canonical) : (Dev.userDeliver m p cmp v).canonical := by
  unfold Dev.userDeliver
  try lift_lets -underBinder
  repeat first
    | with_reducible assumption
    | with_reducible first | apply Dev.userField_keeps | apply Dev.keep_ite | apply Dev.keep_mk

theorem Dev.ppmuHit_keeps {m : Dev} (p : Nat) (t : Instant) (hk : m.canonical) : (Dev.ppmuHit m p t).canonical := by
  unfold Dev.ppmuHit
  repeat first
    | with_reducible first | assumption | apply Dev.put_keeps | apply Dev.report_keeps

theorem Dev.tellForce_keeps {m : Dev} (p : Nat) (t : Instant) (hk : m.canonical) : (Dev.tellForce m p t).canonical := by
  unfold Dev.tellForce
  try lift_lets -underBinder
  repeat first
    | with_reducible assumption
    | (split <;> try lift_lets -underBinder)
    | with_reducible apply Dev.keep_mk

theorem Dev.ppmuCheck_keeps {m : Dev} (p : Nat) (t : Instant) (hk : m.canonical) : (Dev.ppmuCheck m p t).canonical := by
  unfold Dev.ppmuCheck
  repeat first
    | with_reducible first | assumption | apply Dev.put_keeps | apply Dev.modPin_keeps | apply Dev.tellForce_keeps
    | with_reducible first | apply Dev.ppmuHit_keeps | apply Dev.keep_ite

theorem Dev.lookForce_keeps {m : Dev} (p : Nat) (tt : Nat) (hk : m.canonical) : (Dev.lookForce m p tt).canonical := by
  unfold Dev.lookForce
  try lift_lets -underBinder
  repeat first
    | with_reducible first | assumption | apply Dev.modPin_keeps | apply Dev.ppmuHit_keeps | apply Dev.keep_ite
    | (split <;> try lift_lets -underBinder)
    | with_reducible apply Dev.keep_mk

theorem Dev.dutClamp_keeps {m : Dev} (p : Nat) (acts : Bool) (t : Instant) (hk : m.canonical) : (Dev.dutClamp m p acts t).canonical := by
  unfold Dev.dutClamp
  repeat first
    | with_reducible first | assumption | apply Dev.put_keeps | apply Dev.ppmuHit_keeps | apply Dev.keep_ite

theorem Dev.limitLevels_keeps {m : Dev} (p : Nat) (t : Instant) (hk : m.canonical) : (Dev.limitLevels m p t).canonical := by
  unfold Dev.limitLevels
  repeat first
    | with_reducible first | assumption | apply Dev.clampFlags_keeps | apply Dev.report_keeps | apply Dev.keep_ite

theorem Dev.loadStrobe_keeps {m : Dev} (b : Nat) (t : Instant) (hk : m.canonical) : (Dev.loadStrobe m b t).canonical := by
  unfold Dev.loadStrobe
  try lift_lets -underBinder
  repeat first
    | with_reducible assumption
    | (intro n x hn; have : Dev.canonical n := hn; try lift_lets -underBinder)
    | with_reducible first | apply Dev.each_keeps | apply Dev.put_keeps | apply Dev.setTone_keeps | apply Dev.modBsn_keeps
    | with_reducible first | apply Dev.keep_ite | apply Dev.keep_mk

theorem Dev.settleStrobes_keeps {m : Dev} (b : Nat) (t : Instant) (hk : m.canonical) : (Dev.settleStrobes m b t).canonical := by
  unfold Dev.settleStrobes
  repeat first
    | with_reducible first | assumption | apply Dev.modBsn_keeps | apply Dev.keep_ite

theorem Dev.settlePin_keeps {m : Dev} (p : Nat) (t : Instant) (hk : m.canonical) : (Dev.settlePin m p t).canonical := by
  unfold Dev.settlePin
  try lift_lets -underBinder
  repeat first
    | with_reducible first | assumption | apply Dev.settleStrobes_keeps
    | (split <;> try lift_lets -underBinder)

theorem Dev.applyPin_keeps {m : Dev} (t : Instant) (e : Nat × List Nat) (hk : m.canonical) : (Dev.applyPin m t e).canonical := by
  unfold Dev.applyPin
  try lift_lets -underBinder
  repeat first
    | with_reducible assumption
    | (intro n x hn; have : Dev.canonical n := hn; try lift_lets -underBinder)
    | with_reducible first | apply Dev.each_keeps | apply Dev.lookForce_keeps | apply Dev.put_keeps | apply Dev.modPin_keeps
    | with_reducible first | apply Dev.limitLevels_keeps | apply Dev.ppmuCheck_keeps | apply Dev.keep_ite | apply Dev.keep_mk

theorem Dev.levelApply_keeps {m : Dev} (b : Nat) (hk : m.canonical) : (Dev.levelApply m b).canonical := by
  unfold Dev.levelApply
  try lift_lets -underBinder
  repeat first
    | with_reducible assumption
    | (intro n x hn; have : Dev.canonical n := hn; try lift_lets -underBinder)
    | with_reducible first | apply Dev.each_keeps | apply Dev.modBsn_keeps | apply Dev.bump_keeps | apply Dev.putStamp_keeps
    | with_reducible apply Dev.applyPin_keeps
    | (split <;> try lift_lets -underBinder)
    | with_reducible apply Dev.keep_mk

theorem Dev.stageLevels_keeps {m : Dev} (p : Nat) (mask : Nat) (payload : Nat) (hk : m.canonical) : (Dev.stageLevels m p mask
    payload).canonical := by
  unfold Dev.stageLevels
  try lift_lets -underBinder
  repeat first
    | with_reducible assumption
    | (intro n x hn; have : Dev.canonical n := hn; try lift_lets -underBinder)
    | with_reducible first | apply Dev.each_keeps | apply Dev.put_keeps

theorem Dev.clearCode_keeps {m : Dev} (p : Nat) (c : Nat) (code : Nat) (hk : m.canonical) : (Dev.clearCode m p c code).canonical := by
  unfold Dev.clearCode
  repeat first
    | with_reducible first | assumption | apply Dev.put_keeps | apply Dev.modPin_keeps | apply Dev.limitLevels_keeps
    | with_reducible apply Dev.keep_ite

theorem Dev.ppmuConnect_keeps {m : Dev} (p : Nat) (hk : m.canonical) : (Dev.ppmuConnect m p).canonical := by
  unfold Dev.ppmuConnect
  repeat first
    | with_reducible first | assumption | apply Dev.put_keeps | apply Dev.modPin_keeps | apply Dev.ppmuCheck_keeps | apply Dev.keep_ite

theorem Dev.ppmuChange_keeps {m : Dev} (p : Nat) (hk : m.canonical) : (Dev.ppmuChange m p).canonical := by
  unfold Dev.ppmuChange
  repeat first
    | with_reducible first | assumption | apply Dev.put_keeps | apply Dev.ppmuCheck_keeps | apply Dev.modPin_keeps | apply Dev.keep_ite

theorem Dev.ppmuFields_keeps {m : Dev} (p : Nat) (ctl : Nat) (hk : m.canonical) : (Dev.ppmuFields m p ctl).canonical := by
  unfold Dev.ppmuFields
  repeat first
    | with_reducible first | assumption | apply Dev.setReg_keeps

theorem Dev.ppmuShut_keeps {m : Dev} (p : Nat) (hk : m.canonical) : (Dev.ppmuShut m p).canonical := by
  unfold Dev.ppmuShut
  repeat first
    | with_reducible first | assumption | apply Dev.put_keeps | apply Dev.modPin_keeps | apply Dev.tellForce_keeps | apply Dev.keep_ite

theorem Dev.ppmuEnable_keeps {m : Dev} (p : Nat) (ctl : Nat) (hk : m.canonical) : (Dev.ppmuEnable m p ctl).canonical := by
  unfold Dev.ppmuEnable
  repeat first
    | with_reducible first | assumption | apply Dev.ppmuFields_keeps | apply Dev.put_keeps | apply Dev.ppmuChange_keeps
    | with_reducible first | apply Dev.ppmuConnect_keeps | apply Dev.keep_ite

theorem Dev.ppmuRange_keeps {m : Dev} (p : Nat) (ctl : Nat) (hk : m.canonical) : (Dev.ppmuRange m p ctl).canonical := by
  unfold Dev.ppmuRange
  repeat first
    | with_reducible first | assumption | apply Dev.ppmuFields_keeps | apply Dev.ppmuChange_keeps | apply Dev.keep_ite

theorem Dev.ppmuRangeEnd_keeps {m : Dev} (p : Nat) (hk : m.canonical) : (Dev.ppmuRangeEnd m p).canonical := by
  unfold Dev.ppmuRangeEnd
  try lift_lets -underBinder
  repeat first
    | with_reducible first | assumption | apply Dev.put_keeps | apply Dev.modPin_keeps | apply Dev.ppmuCheck_keeps | apply Dev.keep_ite
    | (split <;> try lift_lets -underBinder)
    | with_reducible apply Dev.keep_mk

theorem Dev.ppmuShutDone_keeps {m : Dev} (p : Nat) (hk : m.canonical) : (Dev.ppmuShutDone m p).canonical := by
  unfold Dev.ppmuShutDone
  repeat first
    | with_reducible first | assumption | apply Dev.put_keeps | apply Dev.modPin_keeps | apply Dev.ppmuConnect_keeps
    | with_reducible apply Dev.keep_ite

/-! ## Tones -/

theorem Dev.toneFields_keeps {m : Dev} (b : Nat) (c : Nat) (ctl : Nat) (hk : m.canonical) : (Dev.toneFields m b c ctl).canonical := by
  unfold Dev.toneFields
  repeat first
    | with_reducible first | assumption | apply Dev.put_keeps | apply Dev.setTone_keeps

theorem Dev.toneStart_keeps {m : Dev} (b : Nat) (c : Nat) (hk : m.canonical) : (Dev.toneStart m b c).canonical := by
  unfold Dev.toneStart
  repeat first
    | with_reducible first | assumption | apply Dev.put_keeps | apply Dev.setTone_keeps | apply Dev.loadTone_keeps | apply Dev.keep_ite

theorem Dev.toneEnable_keeps {m : Dev} (b : Nat) (c : Nat) (ctl : Nat) (hk : m.canonical) : (Dev.toneEnable m b c ctl).canonical := by
  unfold Dev.toneEnable
  repeat first
    | with_reducible first | assumption | apply Dev.toneFields_keeps | apply Dev.put_keeps | apply Dev.toneStart_keeps
    | with_reducible apply Dev.keep_ite

theorem Dev.toneDisable_keeps {m : Dev} (b : Nat) (c : Nat) (ctl : Nat) (hk : m.canonical) : (Dev.toneDisable m b c ctl).canonical := by
  unfold Dev.toneDisable
  repeat first
    | with_reducible first | assumption | apply Dev.toneFields_keeps | apply Dev.put_keeps | apply Dev.stopTone_keeps
    | with_reducible first | apply Dev.setTone_keeps | apply Dev.keep_ite

theorem Dev.toneShutDone_keeps {m : Dev} (b : Nat) (c : Nat) (hk : m.canonical) : (Dev.toneShutDone m b c).canonical := by
  unfold Dev.toneShutDone
  repeat first
    | with_reducible first | assumption | apply Dev.put_keeps | apply Dev.toneStart_keeps | apply Dev.keep_ite

theorem Dev.ftwCommit_keeps {m : Dev} (b : Nat) (c : Nat) (hi : Nat) (hk : m.canonical) : (Dev.ftwCommit m b c hi).canonical := by
  unfold Dev.ftwCommit
  repeat first
    | with_reducible first | assumption | apply Dev.put_keeps | apply Dev.setTone_keeps

theorem Dev.poffCommit_keeps {m : Dev} (b : Nat) (c : Nat) (hi : Nat) (hk : m.canonical) : (Dev.poffCommit m b c hi).canonical := by
  unfold Dev.poffCommit
  repeat first
    | with_reducible first | assumption | apply Dev.put_keeps | apply Dev.setTone_keeps

theorem Dev.deltaActs_keeps {m : Dev} (t : Nat) (acts : Bool) (at_ : Instant) (hk : m.canonical) : (Dev.deltaActs m t acts at_).canonical :=
    by
  unfold Dev.deltaActs
  repeat first
    | with_reducible first | assumption | apply Dev.put_keeps | apply Dev.report_keeps | apply Dev.deltaClamp_keeps
    | with_reducible apply Dev.keep_ite

theorem Dev.deltaLook_keeps {m : Dev} (t : Nat) (n : Nat) (hk : m.canonical) : (Dev.deltaLook m t n).canonical := by
  unfold Dev.deltaLook
  try lift_lets -underBinder
  repeat first
    | with_reducible first | assumption | apply Dev.setDelta_keeps | apply Dev.deltaActs_keeps | apply Dev.put_keeps
    | with_reducible apply Dev.keep_ite
    | (split <;> try lift_lets -underBinder)
    | with_reducible apply Dev.keep_mk

theorem Dev.deltaClamp_keeps {m : Dev} (t : Nat) (hk : m.canonical) : (Dev.deltaClamp m t).canonical := by
  unfold Dev.deltaClamp
  repeat first
    | with_reducible first | assumption | apply Dev.setDelta_keeps | apply Dev.deltaActs_keeps

theorem Dev.lookBasin_keeps {m : Dev} (b : Nat) (tt : Nat) (hk : m.canonical) : (Dev.lookBasin m b tt).canonical := by
  unfold Dev.lookBasin
  try lift_lets -underBinder
  repeat first
    | with_reducible assumption
    | (intro n x hn; have : Dev.canonical n := hn; try lift_lets -underBinder)
    | with_reducible first | apply Dev.each_keeps | apply Dev.deltaLook_keeps | apply Dev.lookForce_keeps

theorem Dev.lookAll_keeps {m : Dev} (hk : m.canonical) : (Dev.lookAll m).canonical := by
  unfold Dev.lookAll
  try lift_lets -underBinder
  repeat first
    | with_reducible assumption
    | (intro n x hn; have : Dev.canonical n := hn; try lift_lets -underBinder)
    | with_reducible first | apply Dev.each_keeps | apply Dev.lookBasin_keeps

theorem Dev.shiftTone_keeps {m : Dev} (b : Nat) (c : Nat) (tt : Nat) (hk : m.canonical) : (Dev.shiftTone m b c tt).canonical := by
  unfold Dev.shiftTone
  repeat first
    | with_reducible first | assumption | apply Dev.bump_keeps | apply Dev.put_keeps | apply Dev.setTone_keeps

theorem Dev.toneApply_keeps {m : Dev} (b : Nat) (c : Nat) (t : Instant) (hk : m.canonical) : (Dev.toneApply m b c t).canonical := by
  unfold Dev.toneApply
  try lift_lets -underBinder
  repeat first
    | with_reducible first | assumption | apply Dev.lookBasin_keeps | apply Dev.loadTone_keeps | apply Dev.shiftTone_keeps
    | with_reducible apply Dev.keep_ite
    | (split <;> try lift_lets -underBinder)

theorem Dev.toneCross_keeps {m : Dev} (b : Nat) (c : Nat) (t : Instant) (hk : m.canonical) : (Dev.toneCross m b c t).canonical := by
  unfold Dev.toneCross
  repeat first
    | with_reducible first | assumption | apply Dev.modBsn_keeps | apply Dev.tellLeader_keeps | apply Dev.keep_ite

theorem Dev.deltaFields_keeps {m : Dev} (t : Nat) (ctl : Nat) (hk : m.canonical) : (Dev.deltaFields m t ctl).canonical := by
  unfold Dev.deltaFields
  repeat first
    | with_reducible first | assumption | apply Dev.put_keeps | apply Dev.keep_ite

theorem Dev.deltaEnable_keeps {m : Dev} (t : Nat) (ctl : Nat) (hk : m.canonical) : (Dev.deltaEnable m t ctl).canonical := by
  unfold Dev.deltaEnable
  repeat first
    | with_reducible first | assumption | apply Dev.deltaFields_keeps | apply Dev.put_keeps | apply Dev.setDelta_keeps
    | with_reducible first | apply Dev.deltaClamp_keeps | apply Dev.keep_ite

theorem Dev.deltaDisable_keeps {m : Dev} (t : Nat) (ctl : Nat) (hk : m.canonical) : (Dev.deltaDisable m t ctl).canonical := by
  unfold Dev.deltaDisable
  repeat first
    | with_reducible first | assumption | apply Dev.deltaFields_keeps | apply Dev.put_keeps | apply Dev.setDelta_keeps
    | with_reducible first | apply Dev.deltaClamp_keeps | apply Dev.keep_ite

theorem Dev.deltaShutDone_keeps {m : Dev} (t : Nat) (hk : m.canonical) : (Dev.deltaShutDone m t).canonical := by
  unfold Dev.deltaShutDone
  repeat first
    | with_reducible first | assumption | apply Dev.put_keeps | apply Dev.setDelta_keeps | apply Dev.deltaClamp_keeps
    | with_reducible apply Dev.keep_ite

theorem Dev.deltaRate_keeps {m : Dev} (t : Nat) (v : Nat) (hk : m.canonical) : (Dev.deltaRate m t v).canonical := by
  unfold Dev.deltaRate
  try lift_lets -underBinder
  repeat first
    | with_reducible first | assumption | apply Dev.put_keeps | apply Dev.setDelta_keeps | apply Dev.report_keeps | apply Dev.keep_ite
    | (split <;> try lift_lets -underBinder)
    | with_reducible apply Dev.keep_mk

theorem Dev.startDeltas_keeps {m : Dev} (b : Nat) (hk : m.canonical) : (Dev.startDeltas m b).canonical := by
  unfold Dev.startDeltas
  try lift_lets -underBinder
  repeat first
    | with_reducible assumption
    | (intro n x hn; have : Dev.canonical n := hn; try lift_lets -underBinder)
    | with_reducible first | apply Dev.each_keeps | apply Dev.setDelta_keeps | apply Dev.setReg_keeps | apply Dev.keep_mk

theorem Dev.playSample_keeps {m : Dev} (t : Nat) (hk : m.canonical) : (Dev.playSample m t).canonical := by
  unfold Dev.playSample
  try lift_lets -underBinder
  repeat first
    | with_reducible assumption
    | with_reducible first | apply Dev.setDelta_keeps | apply Dev.deltaActs_keeps | apply Dev.keep_ite | apply Dev.keep_mk

theorem Dev.playSamplesN_keeps {m : Dev} (t : Nat) (k : Nat) (hk : m.canonical) : (Dev.playSamplesN m t k).canonical := by
  unfold Dev.playSamplesN
  try lift_lets -underBinder
  repeat first
    | with_reducible assumption
    | (intro n x hn; have : Dev.canonical n := hn; try lift_lets -underBinder)
    | with_reducible first | apply Dev.each_keeps | apply Dev.playSample_keeps

theorem Dev.playSamples_keeps {m : Dev} (t : Nat) (at_ : Instant) (hk : m.canonical) : (Dev.playSamples m t at_).canonical := by
  unfold Dev.playSamples
  repeat first
    | with_reducible first | assumption | apply Dev.playSamplesN_keeps | apply Dev.keep_ite

theorem Dev.startSamples_keeps {m : Dev} (b : Nat) (once : Bool) (gran : Nat) (t : Instant) (hk : m.canonical) : (Dev.startSamples m b once
    gran t).canonical := by
  unfold Dev.startSamples
  try lift_lets -underBinder
  repeat first
    | with_reducible assumption
    | (intro n x hn; have : Dev.canonical n := hn; try lift_lets -underBinder)
    | with_reducible first | apply Dev.each_keeps | apply Dev.put_keeps | apply Dev.setDelta_keeps | apply Dev.keep_ite
    | with_reducible apply Dev.keep_mk

/-! ## Timing -/

theorem Dev.stagePair_keeps {m : Dev} (b : Nat) (s : Nat) (hk : m.canonical) : (Dev.stagePair m b s).canonical := by
  unfold Dev.stagePair
  repeat first
    | with_reducible first | assumption | apply Dev.modBsn_keeps

theorem Dev.takeTiming_keeps {m : Dev} (b : Nat) (hk : m.canonical) : (Dev.takeTiming m b).canonical := by
  unfold Dev.takeTiming
  try lift_lets -underBinder
  repeat first
    | with_reducible assumption
    | (intro n x hn; have : Dev.canonical n := hn; try lift_lets -underBinder)
    | with_reducible first | apply Dev.each_keeps | apply Dev.setReg_keeps | apply Dev.keep_ite | apply Dev.keep_mk

theorem Dev.forceTiming_keeps {m : Dev} (b : Nat) (hk : m.canonical) : (Dev.forceTiming m b).canonical := by
  unfold Dev.forceTiming
  try lift_lets -underBinder
  repeat first
    | with_reducible assumption
    | (intro n x hn; have : Dev.canonical n := hn; try lift_lets -underBinder)
    | with_reducible first | apply Dev.each_keeps | apply Dev.keep_mk

theorem Dev.timingFault_keeps {m : Dev} (b : Nat) (s : Nat) (t : Instant) (hk : m.canonical) : (Dev.timingFault m b s t).canonical := by
  unfold Dev.timingFault
  try lift_lets -underBinder
  repeat first
    | with_reducible assumption
    | (intro n x hn; have : Dev.canonical n := hn; try lift_lets -underBinder)
    | with_reducible first | apply Dev.each_keeps | apply Dev.put_keeps | apply Dev.report_keeps | apply Dev.keep_ite

/-! ## Flags -/

theorem Dev.consume_keeps {m : Dev} (b : Nat) (cond : Nat) (t : Instant) (at_ : Instant) (hk : m.canonical) : (Dev.consume m b cond t
    at_).canonical := by
  unfold Dev.consume
  repeat first
    | with_reducible first | assumption | apply Dev.modBsn_keeps | apply Dev.keep_ite

theorem Dev.registerEvent_keeps {m : Dev} (b : Nat) (e : Nat) (t : Instant) (hk : m.canonical) : (Dev.registerEvent m b e t).canonical := by
  unfold Dev.registerEvent
  repeat first
    | with_reducible first | assumption | apply Dev.modBsn_keeps | apply Dev.tellLeader_keeps

theorem Dev.wordFault_keeps {m : Dev} (p : Nat) (code : Nat) (addr : Nat) (streamed : Bool) (t : Instant) (hk : m.canonical) :
    (Dev.wordFault m p code addr streamed t).canonical := by
  unfold Dev.wordFault
  repeat first
    | with_reducible first | assumption | apply Dev.put_keeps | apply Dev.report_keeps | apply Dev.keep_ite

theorem Dev.courseFault_keeps {m : Dev} (b : Nat) (code : Nat) (entry : Nat) (t : Instant) (hk : m.canonical) : (Dev.courseFault m b code
    entry t).canonical := by
  unfold Dev.courseFault
  repeat first
    | with_reducible first | assumption | apply Dev.put_keeps | apply Dev.report_keeps | apply Dev.keep_ite

/-! ## Play -/

theorem Dev.setDrvPath_keeps {m : Dev} (p : Nat) (w : Path) (hk : m.canonical) : (Dev.setDrvPath m p w).canonical := by
  unfold Dev.setDrvPath
  repeat first
    | with_reducible first | assumption | apply Dev.put_keeps | apply Dev.modPin_keeps

theorem Dev.setCmpPath_keeps {m : Dev} (p : Nat) (w : Path) (hk : m.canonical) : (Dev.setCmpPath m p w).canonical := by
  unfold Dev.setCmpPath
  repeat first
    | with_reducible first | assumption | apply Dev.put_keeps | apply Dev.modPin_keeps

theorem Dev.keepPlay_keeps {m : Dev} (p : Nat) (a : PlayAcc) (hk : m.canonical) : (Dev.keepPlay m p a).canonical := by
  unfold Dev.keepPlay
  try lift_lets -underBinder
  repeat first
    | with_reducible assumption
    | with_reducible first | apply Dev.setDrvPath_keeps | apply Dev.setCmpPath_keeps | apply Dev.modPin_keeps | apply Dev.keep_mk

theorem Dev.extendStream_keeps {m : Dev} (b : Nat) (p : Nat) (w : VecWord) (t : Instant) (stop : Instant) (hk : m.canonical) :
    (Dev.extendStream m b p w t stop).canonical := by
  unfold Dev.extendStream
  repeat first
    | with_reducible first | assumption | apply Dev.keepPlay_keeps | apply Dev.keep_ite

theorem Dev.edgeClamp_keeps {m : Dev} (p : Nat) (n : Nat) (t : Instant) (hk : m.canonical) : (Dev.edgeClamp m p n t).canonical := by
  unfold Dev.edgeClamp
  repeat first
    | with_reducible first | assumption | apply Dev.put_keeps | apply Dev.count_keeps | apply Dev.report_keeps | apply Dev.keep_ite

theorem Dev.failVector_keeps {m : Dev} (b : Nat) (l : List (Nat × VecSeen)) (vcnt : Nat) (hk : m.canonical) : (Dev.failVector m b l
    vcnt).canonical := by
  unfold Dev.failVector
  repeat first
    | with_reducible first | assumption | apply Dev.count_keeps | apply Dev.put_keeps | apply Dev.setPair_keeps | apply Dev.keep_ite

theorem Dev.closeVector_keeps {m : Dev} (b : Nat) (vcnt : Nat) (l : List (Nat × VecSeen)) (hk : m.canonical) : (Dev.closeVector m b vcnt
    l).canonical := by
  unfold Dev.closeVector
  repeat first
    | with_reducible first | assumption | apply Dev.failVector_keeps | apply Dev.modBsn_keeps | apply Dev.keep_ite

theorem Dev.endPin_keeps {m : Dev} (p : Nat) (a : PlayAcc) (vcnt : Nat) (vecs : Nat) (minPlay : Nat) (hk : m.canonical) : (Dev.endPin m p a
    vcnt vecs minPlay).canonical := by
  unfold Dev.endPin
  try lift_lets -underBinder
  repeat first
    | with_reducible first | assumption | apply Dev.count_keeps | apply Dev.setPair_keeps | apply Dev.put_keeps
    | with_reducible first | apply Dev.keepPlay_keeps | apply Dev.modPin_keeps | apply Dev.keep_ite
    | (split <;> try lift_lets -underBinder)
    | with_reducible apply Dev.keep_mk

end Sys2Proof.Machine
end

