-- ==== Sys2Proof/Laws/KeepGauge.lean ====
section
/-! SUPPORT. Canonical memories are kept by every operation of the machine: capture, hold words, courses, digitizers and calibration. One lemma for
each operation, named after it. -/

set_option maxRecDepth 4000

namespace Sys2Proof.Machine

/-! ## Gauge -/

theorem Dev.occur_keeps {m : Dev} (q : Nat) (sel : Nat) (param : Nat) (t : Instant) (hk : m.canonical) : (Dev.occur m q sel param
    t).canonical := by
  unfold Dev.occur
  repeat first
    | with_reducible first | assumption | apply Dev.count_keeps | apply Dev.setSeq_keeps | apply Dev.keep_ite

theorem Dev.edgeAt_keeps {m : Dev} (e : Nat × Instant) (hk : m.canonical) : (Dev.edgeAt m e).canonical := by
  unfold Dev.edgeAt
  repeat first
    | with_reducible first | assumption | apply Dev.registerEvent_keeps | apply Dev.occur_keeps | apply Dev.loadStrobe_keeps
    | with_reducible apply Dev.keep_ite

theorem Dev.drive_keeps {m : Dev} (src : Nat) (t : Instant) (v : Bool) (hk : m.canonical) : (Dev.drive m src t v).canonical := by
  unfold Dev.drive
  try lift_lets -underBinder
  repeat first
    | with_reducible assumption
    | (intro n x hn; have : Dev.canonical n := hn; try lift_lets -underBinder)
    | with_reducible first | apply Dev.each_keeps | apply Dev.spread_keeps | apply Dev.edgeAt_keeps | apply Dev.keep_ite

theorem Dev.setMarks_keeps {m : Dev} (b : Nat) (v : Nat) (t : Instant) (hk : m.canonical) : (Dev.setMarks m b v t).canonical := by
  unfold Dev.setMarks
  try lift_lets -underBinder
  repeat first
    | with_reducible assumption
    | (intro n x hn; have : Dev.canonical n := hn; try lift_lets -underBinder)
    | with_reducible first | apply Dev.each_keeps | apply Dev.modBsn_keeps | apply Dev.occur_keeps | apply Dev.drive_keeps
    | with_reducible first | apply Dev.keep_ite | apply Dev.keep_mk

theorem Dev.lineEdge_keeps {m : Dev} (b : Nat) (line : Nat) (rise : Bool) (t : Instant) (hk : m.canonical) : (Dev.lineEdge m b line rise
    t).canonical := by
  unfold Dev.lineEdge
  repeat first
    | with_reducible first | assumption | apply Dev.setLevel_keeps | apply Dev.edgeAt_keeps | apply Dev.keep_ite

theorem Dev.trigEdge_keeps {m : Dev} (k : Nat) (rise : Bool) (t : Instant) (hk : m.canonical) : (Dev.trigEdge m k rise t).canonical := by
  unfold Dev.trigEdge
  repeat first
    | with_reducible first | assumption | apply Dev.setWire_keeps | apply Dev.drive_keeps | apply Dev.keep_ite

theorem Dev.ldacEdge_keeps {m : Dev} (k : Nat) (fall : Bool) (t : Instant) (hk : m.canonical) : (Dev.ldacEdge m k fall t).canonical := by
  unfold Dev.ldacEdge
  repeat first
    | with_reducible first | assumption | apply Dev.setWire_keeps | apply Dev.drive_keeps

theorem Dev.enterState_keeps {m : Dev} (q : Nat) (s : Nat) (t : Instant) (hk : m.canonical) : (Dev.enterState m q s t).canonical := by
  unfold Dev.enterState
  repeat first
    | with_reducible first | assumption | apply Dev.put_keeps | apply Dev.setReg_keeps | apply Dev.setSeq_keeps
    | with_reducible first | apply Dev.modBsn_keeps | apply Dev.bump_keeps | apply Dev.drive_keeps | apply Dev.keep_ite

theorem Dev.seqHit_keeps {m : Dev} (q : Nat) (hk : m.canonical) : (Dev.seqHit m q).canonical := by
  unfold Dev.seqHit
  try lift_lets -underBinder
  repeat first
    | with_reducible first | assumption | apply Dev.enterState_keeps | apply Dev.keep_ite
    | (split <;> try lift_lets -underBinder)

theorem Dev.seqTime_keeps {m : Dev} (q : Nat) (hk : m.canonical) : (Dev.seqTime m q).canonical := by
  unfold Dev.seqTime
  try lift_lets -underBinder
  repeat first
    | with_reducible first | assumption | apply Dev.enterState_keeps | apply Dev.keep_ite
    | (split <;> try lift_lets -underBinder)

theorem Dev.seqStart_keeps {m : Dev} (q : Nat) (hk : m.canonical) : (Dev.seqStart m q).canonical := by
  unfold Dev.seqStart
  try lift_lets -underBinder
  repeat first
    | with_reducible first | assumption | apply Dev.put_keeps | apply Dev.enterState_keeps | apply Dev.keep_ite
    | (split <;> try lift_lets -underBinder)

theorem Dev.tsqEnable_keeps {m : Dev} (q : Nat) (hk : m.canonical) : (Dev.tsqEnable m q).canonical := by
  unfold Dev.tsqEnable
  repeat first
    | with_reducible first | assumption | apply Dev.put_keeps | apply Dev.seqStart_keeps | apply Dev.keep_ite

theorem Dev.tsqDisable_keeps {m : Dev} (q : Nat) (hk : m.canonical) : (Dev.tsqDisable m q).canonical := by
  unfold Dev.tsqDisable
  repeat first
    | with_reducible first | assumption | apply Dev.put_keeps | apply Dev.keep_ite

theorem Dev.tsqShutDone_keeps {m : Dev} (q : Nat) (hk : m.canonical) : (Dev.tsqShutDone m q).canonical := by
  unfold Dev.tsqShutDone
  repeat first
    | with_reducible first | assumption | apply Dev.put_keeps | apply Dev.freezeSeq_keeps | apply Dev.seqStart_keeps
    | with_reducible apply Dev.keep_ite

theorem Dev.startSeq_keeps {m : Dev} (b : Nat) (t : Instant) (hk : m.canonical) : (Dev.startSeq m b t).canonical := by
  unfold Dev.startSeq
  repeat first
    | with_reducible first | assumption | apply Dev.setReg_keeps | apply Dev.put_keeps | apply Dev.enterState_keeps
    | with_reducible apply Dev.keep_ite

theorem Dev.seqRestart_keeps {m : Dev} (g : Nat) (hk : m.canonical) : (Dev.seqRestart m g).canonical := by
  unfold Dev.seqRestart
  repeat first
    | with_reducible first | assumption | apply Dev.enterState_keeps | apply Dev.keep_ite

theorem Dev.vectorOccurs_keeps {m : Dev} (b : Nat) (code : Nat) (t : Instant) (hk : m.canonical) : (Dev.vectorOccurs m b code t).canonical
    := by
  unfold Dev.vectorOccurs
  try lift_lets -underBinder
  repeat first
    | with_reducible assumption
    | (intro n x hn; have : Dev.canonical n := hn; try lift_lets -underBinder)
    | with_reducible first | apply Dev.each_keeps | apply Dev.occur_keeps | apply Dev.keep_ite

theorem Dev.vectorResult_keeps {m : Dev} (b : Nat) (hk : m.canonical) : (Dev.vectorResult m b).canonical := by
  unfold Dev.vectorResult
  try lift_lets -underBinder
  repeat first
    | with_reducible first | assumption | apply Dev.modBsn_keeps | apply Dev.put_keeps | apply Dev.tellLeader_keeps
    | with_reducible first | apply Dev.vectorOccurs_keeps | apply Dev.keep_ite
    | (split <;> try lift_lets -underBinder)
    | with_reducible apply Dev.keep_mk

theorem Dev.capStart_keeps {m : Dev} (b : Nat) (hk : m.canonical) : (Dev.capStart m b).canonical := by
  unfold Dev.capStart
  try lift_lets -underBinder
  repeat first
    | with_reducible assumption
    | (intro n x hn; have : Dev.canonical n := hn; try lift_lets -underBinder)
    | with_reducible first | apply Dev.each_keeps | apply Dev.put_keeps | apply Dev.setReg_keeps | apply Dev.modBsn_keeps
    | with_reducible apply Dev.keep_mk

theorem Dev.tryArm_keeps {m : Dev} (b : Nat) (hk : m.canonical) : (Dev.tryArm m b).1.canonical := by
  unfold Dev.tryArm
  repeat first
    | with_reducible first | assumption | apply Dev.capStart_keeps | apply Dev.put_keeps | apply Dev.keep_ite_fst | apply Dev.keep_ite

theorem Dev.capFields_keeps {m : Dev} (b : Nat) (ctl : Nat) (hk : m.canonical) : (Dev.capFields m b ctl).canonical := by
  unfold Dev.capFields
  repeat first
    | with_reducible first | assumption | apply Dev.put_keeps | apply Dev.setReg_keeps | apply Dev.keep_ite

theorem Dev.captureArm_keeps {m : Dev} (b : Nat) (ctl : Nat) (hk : m.canonical) : (Dev.captureArm m b ctl).canonical := by
  unfold Dev.captureArm
  repeat first
    | with_reducible first | assumption | apply Dev.capFields_keeps | apply Dev.put_keeps | apply Dev.modBsn_keeps
    | with_reducible first | apply Dev.tryArm_keeps | apply Dev.keep_ite

theorem Dev.burstArm_keeps {m : Dev} (b : Nat) (ctx : Nat) (hk : m.canonical) : (Dev.burstArm m b ctx).1.canonical := by
  unfold Dev.burstArm
  repeat first
    | with_reducible first | assumption | apply Dev.put_keeps | apply Dev.modBsn_keeps | apply Dev.tryArm_keeps
    | with_reducible first | apply Dev.keep_ite_fst | apply Dev.keep_ite

theorem Dev.capShut_keeps {m : Dev} (b : Nat) (hk : m.canonical) : (Dev.capShut m b).canonical := by
  unfold Dev.capShut
  repeat first
    | with_reducible first | assumption | apply Dev.put_keeps | apply Dev.endCapture_keeps | apply Dev.keep_ite

theorem Dev.captureDisarm_keeps {m : Dev} (b : Nat) (ctl : Nat) (hk : m.canonical) : (Dev.captureDisarm m b ctl).canonical := by
  unfold Dev.captureDisarm
  repeat first
    | with_reducible first | assumption | apply Dev.capFields_keeps | apply Dev.capShut_keeps | apply Dev.keep_ite

theorem Dev.release_keeps {m : Dev} (b : Nat) (d : Nat) (hk : m.canonical) : (Dev.release m b d).canonical := by
  unfold Dev.release
  repeat first
    | with_reducible first | assumption | apply Dev.put_keeps

theorem Dev.overwriteOne_keeps {m : Dev} (b : Nat) (hk : m.canonical) : (Dev.overwriteOne m b).canonical := by
  unfold Dev.overwriteOne
  repeat first
    | with_reducible first | assumption | apply Dev.release_keeps | apply Dev.bump_keeps | apply Dev.keep_ite

theorem Dev.makeRoom_keeps {m : Dev} (b : Nat) (hk : m.canonical) : (Dev.makeRoom m b).canonical := by
  unfold Dev.makeRoom
  repeat first
    | with_reducible first | assumption | apply Dev.overwriteOne_keeps | apply Dev.keep_ite

theorem Dev.missTrigger_keeps {m : Dev} (b : Nat) (t : Instant) (hk : m.canonical) : (Dev.missTrigger m b t).canonical := by
  unfold Dev.missTrigger
  repeat first
    | with_reducible first | assumption | apply Dev.count_keeps | apply Dev.modBsn_keeps | apply Dev.keep_ite

theorem Dev.placeRecord_keeps {m : Dev} (b : Nat) (tsrc : Nat) (t : Instant) (hk : m.canonical) : (Dev.placeRecord m b tsrc t).canonical :=
    by
  unfold Dev.placeRecord
  repeat first
    | with_reducible first | assumption | apply Dev.put_keeps | apply Dev.modBsn_keeps

theorem Dev.trigger_keeps {m : Dev} (b : Nat) (tsrc : Nat) (t : Instant) (hk : m.canonical) : (Dev.trigger m b tsrc t).canonical := by
  unfold Dev.trigger
  repeat first
    | with_reducible first | assumption | apply Dev.missTrigger_keeps | apply Dev.placeRecord_keeps | apply Dev.makeRoom_keeps
    | with_reducible first | apply Dev.put_keeps | apply Dev.keep_ite

theorem Dev.captureTrigger_keeps {m : Dev} (b : Nat) (hk : m.canonical) : (Dev.captureTrigger m b).canonical := by
  unfold Dev.captureTrigger
  try lift_lets -underBinder
  repeat first
    | with_reducible first | assumption | apply Dev.modBsn_keeps | apply Dev.trigger_keeps
    | (split <;> try lift_lets -underBinder)
    | with_reducible apply Dev.keep_mk

theorem Dev.forceTrig_keeps {m : Dev} (b : Nat) (hk : m.canonical) : (Dev.forceTrig m b).canonical := by
  unfold Dev.forceTrig
  repeat first
    | with_reducible first | assumption | apply Dev.put_keeps | apply Dev.trigger_keeps | apply Dev.keep_ite

theorem Dev.overflow_keeps {m : Dev} (b : Nat) (at_ : Instant) (hk : m.canonical) : (Dev.overflow m b at_).canonical := by
  unfold Dev.overflow
  try lift_lets -underBinder
  repeat first
    | with_reducible first | assumption | apply Dev.modBsn_keeps | apply Dev.count_keeps | apply Dev.report_keeps | apply Dev.keep_ite
    | (split <;> try lift_lets -underBinder)
    | with_reducible apply Dev.keep_mk

theorem Dev.drainUnits_keeps {m : Dev} (b : Nat) (n : Nat) (at_ : Instant) (hk : m.canonical) : (Dev.drainUnits m b n at_).canonical := by
  unfold Dev.drainUnits
  repeat first
    | with_reducible first | assumption | apply Dev.modBsn_keeps

theorem Dev.seeDrained_keeps {m : Dev} (b : Nat) (hk : m.canonical) : (Dev.seeDrained m b).canonical := by
  unfold Dev.seeDrained
  repeat first
    | with_reducible first | assumption | apply Dev.modBsn_keeps | apply Dev.keep_ite

theorem Dev.recordClose_keeps {m : Dev} (b : Nat) (hk : m.canonical) : (Dev.recordClose m b).canonical := by
  unfold Dev.recordClose
  try lift_lets -underBinder
  repeat first
    | with_reducible assumption
    | (intro w; refine Dev.cut (p := Dev.canonical w) ?_ ?_; rotate_left; (intro _; clear_value w); rotate_right)
    | (intro w; refine Dev.cut (p := Dev.canonical w.1) ?_ ?_; rotate_left; (intro _; clear_value w); rotate_right)
    | (intro w; clear_value w)
    | with_reducible first | apply Dev.overflow_keeps | apply Dev.closeRecord_keeps
    | (split <;> try lift_lets -underBinder)

theorem Dev.rearmDone_keeps {m : Dev} (b : Nat) (t : Instant) (hk : m.canonical) : (Dev.rearmDone m b t).canonical := by
  unfold Dev.rearmDone
  repeat first
    | with_reducible first | assumption | apply Dev.put_keeps | apply Dev.modBsn_keeps | apply Dev.keep_ite

theorem Dev.writeRecord_keeps (c : CapX) (nseg seg : Nat) :
    ∀ (x : Nat) (l : List Byte) {m : Dev}, m.canonical → (m.writeRecord c nseg seg x l).canonical
  | _, [], _, hk => hk
  | x, v :: t, _, hk => Dev.writeRecord_keeps c nseg seg (x + 1) t (Dev.setByte_keeps hk _ v)

theorem Dev.recordComplete_keeps {m : Dev} (b : Nat) (hk : m.canonical) : (Dev.recordComplete m b).canonical := by
  unfold Dev.recordComplete
  try lift_lets -underBinder
  repeat first
    | with_reducible first | assumption | apply Dev.writeRecord_keeps | apply Dev.put_keeps | apply Dev.setReg_keeps
    | with_reducible first | apply Dev.modBsn_keeps | apply Dev.seeDrained_keeps | apply Dev.capShut_keeps | apply Dev.keep_ite
    | (split <;> try lift_lets -underBinder)
    | with_reducible apply Dev.keep_mk

theorem Dev.tellArm_keeps {m : Dev} (b : Nat) (ctx : Nat) (code : Nat) (hk : m.canonical) : (Dev.tellArm m b ctx code).canonical := by
  unfold Dev.tellArm
  repeat first
    | with_reducible first | assumption | apply Dev.modRun_keeps | apply Dev.modDeck_keeps | apply Dev.modBsn_keeps
    | with_reducible apply Dev.keep_ite

theorem Dev.captureShutDone_keeps {m : Dev} (b : Nat) (hk : m.canonical) : (Dev.captureShutDone m b).canonical := by
  unfold Dev.captureShutDone
  try lift_lets -underBinder
  repeat first
    | with_reducible assumption
    | (intro n x hn; have : Dev.canonical n := hn; try lift_lets -underBinder)
    | with_reducible first | apply Dev.each_keeps | apply Dev.recordComplete_keeps | apply Dev.put_keeps | apply Dev.burstArm_keeps
    | with_reducible first | apply Dev.modBsn_keeps | apply Dev.tryArm_keeps | apply Dev.tellArm_keeps
    | (split <;> try lift_lets -underBinder)
    | with_reducible apply Dev.keep_mk

theorem Dev.capRd_keeps {m : Dev} (b : Nat) (v : Nat) (hk : m.canonical) : (Dev.capRd m b v).canonical := by
  unfold Dev.capRd
  repeat first
    | with_reducible first | assumption | apply Dev.release_keeps | apply Dev.put_keeps | apply Dev.keep_ite

theorem Dev.capTake_keeps {m : Dev} (b : Nat) (l : List CapSlot) (hk : m.canonical) : (Dev.capTake m b l).canonical := by
  unfold Dev.capTake
  repeat first
    | with_reducible first | assumption | apply Dev.modBsn_keeps | apply Dev.keep_ite

theorem Dev.capStall_keeps {m : Dev} (b : Nat) (t : Instant) (hk : m.canonical) : (Dev.capStall m b t).canonical := by
  unfold Dev.capStall
  repeat first
    | with_reducible first | assumption | apply Dev.modBsn_keeps

theorem Dev.capUnder_keeps {m : Dev} (b : Nat) (t : Instant) (hk : m.canonical) : (Dev.capUnder m b t).canonical := by
  unfold Dev.capUnder
  repeat first
    | with_reducible first | assumption | apply Dev.modBsn_keeps

theorem Dev.startCapture_keeps {m : Dev} (b : Nat) (ctx : Nat) (t : Instant) (hk : m.canonical) : (Dev.startCapture m b ctx t).canonical :=
    by
  unfold Dev.startCapture
  repeat first
    | with_reducible first | assumption | apply Dev.modBsn_keeps

/-! ## Hold -/

theorem Dev.storeErrors_keeps {m : Dev} (ps : List Nat) (a : Nat) (t : Instant) (hk : m.canonical) : (Dev.storeErrors m ps a t).1.canonical
    := by
  unfold Dev.storeErrors
  try lift_lets -underBinder
  repeat first
    | with_reducible assumption
    | (intro n x hn; have : Dev.canonical n := hn; try lift_lets -underBinder)
    | with_reducible first | apply Dev.each_keeps | apply Dev.report_keeps

theorem Dev.checkHold_keeps {m : Dev} (b : Nat) (a : Nat) (t : Instant) (hk : m.canonical) : (Dev.checkHold m b a t).1.canonical := by
  unfold Dev.checkHold
  try lift_lets -underBinder
  repeat first
    | with_reducible assumption
    | (intro n x hn; have : Dev.canonical n := hn; try lift_lets -underBinder)
    | with_reducible first | apply Dev.each_keeps | apply Dev.storeErrors_keeps | apply Dev.timingFault_keeps
    | with_reducible first | apply Dev.wordFault_keeps | apply Dev.sendFlow_keeps | apply Dev.keep_ite_fst | apply Dev.keep_ite
    | with_reducible apply Dev.keep_mk

theorem Dev.showSet_keeps {m : Dev} (b : Nat) (s : Nat) (hk : m.canonical) : (Dev.showSet m b s).canonical := by
  unfold Dev.showSet
  try lift_lets -underBinder
  repeat first
    | with_reducible assumption
    | (intro n x hn; have : Dev.canonical n := hn; try lift_lets -underBinder)
    | with_reducible first | apply Dev.each_keeps | apply Dev.count_keeps | apply Dev.put_keeps | apply Dev.modBsn_keeps
    | with_reducible first | apply Dev.keep_ite | apply Dev.keep_mk

theorem Dev.showPc_keeps {m : Dev} (b : Nat) (addr : Nat) (streamed : Bool) (state : Nat) (hk : m.canonical) : (Dev.showPc m b addr streamed
    state).canonical := by
  unfold Dev.showPc
  try lift_lets -underBinder
  repeat first
    | with_reducible assumption
    | (intro n x hn; have : Dev.canonical n := hn; try lift_lets -underBinder)
    | with_reducible first | apply Dev.each_keeps | apply Dev.put_keeps

theorem Dev.extend_keeps {m : Dev} (b : Nat) (ext : Nat) (hk : m.canonical) : (Dev.extend m b ext).canonical := by
  unfold Dev.extend
  repeat first
    | with_reducible first | assumption | apply Dev.setPair_keeps

theorem Dev.startHold_keeps {m : Dev} (b : Nat) (t : Instant) (state : Nat) (hk : m.canonical) : (Dev.startHold m b t state).canonical := by
  unfold Dev.startHold
  try lift_lets -underBinder
  repeat first
    | with_reducible assumption
    | (intro n x hn; have : Dev.canonical n := hn; try lift_lets -underBinder)
    | with_reducible first | apply Dev.each_keeps | apply Dev.extendStream_keeps | apply Dev.extend_keeps | apply Dev.showSet_keeps
    | with_reducible first | apply Dev.showPc_keeps | apply Dev.modPin_keeps | apply Dev.modBsn_keeps
    | (split <;> try lift_lets -underBinder)
    | with_reducible apply Dev.keep_mk

theorem Dev.enterHold_keeps {m : Dev} (b : Nat) (t : Instant) (state : Nat) (hk : m.canonical) : (Dev.enterHold m b t state).canonical := by
  unfold Dev.enterHold
  try lift_lets -underBinder
  repeat first
    | with_reducible assumption
    | with_reducible first | apply Dev.checkHold_keeps | apply Dev.startHold_keeps | apply Dev.keep_ite
    | (intro w; refine Dev.cut (p := Dev.canonical w) ?_ ?_; rotate_left; (intro _; clear_value w); rotate_right)
    | (intro w; refine Dev.cut (p := Dev.canonical w.1) ?_ ?_; rotate_left; (intro _; clear_value w); rotate_right)
    | (intro w; clear_value w)
    | (split <;> try lift_lets -underBinder)

theorem Dev.holdVector_keeps {m : Dev} (b : Nat) (p : Nat) (w : VecWord) (k : Nat) (hk : m.canonical) : (Dev.holdVector m b p w k).canonical
    := by
  unfold Dev.holdVector
  try lift_lets -underBinder
  repeat first
    | with_reducible assumption
    | (intro n x hn; have : Dev.canonical n := hn; try lift_lets -underBinder)
    | with_reducible first | apply Dev.each_keeps | apply Dev.keepPlay_keeps | apply Dev.modPin_keeps | apply Dev.edgeClamp_keeps
    | with_reducible apply Dev.report_keeps
    | (split <;> try lift_lets -underBinder)
    | with_reducible apply Dev.keep_mk

theorem Dev.playHoldPin_keeps {m : Dev} (b : Nat) (t : Instant) (p : Nat) (hk : m.canonical) : (Dev.playHoldPin m b t p).canonical := by
  unfold Dev.playHoldPin
  try lift_lets -underBinder
  repeat first
    | with_reducible assumption
    | (intro n x hn; have : Dev.canonical n := hn; try lift_lets -underBinder)
    | with_reducible first | apply Dev.each_keeps | apply Dev.holdVector_keeps | apply Dev.setDrvPath_keeps
    | with_reducible first | apply Dev.setCmpPath_keeps | apply Dev.modPin_keeps
    | (split <;> try lift_lets -underBinder)
    | with_reducible apply Dev.keep_mk

theorem Dev.playHold_keeps {m : Dev} (b : Nat) (t : Instant) (hk : m.canonical) : (Dev.playHold m b t).canonical := by
  unfold Dev.playHold
  try lift_lets -underBinder
  repeat first
    | with_reducible assumption
    | with_reducible first | apply Dev.each_keeps | apply Dev.playHoldPin_keeps | apply Dev.keep_ite
    | (intro n x hn; have : Dev.canonical n := hn; try lift_lets -underBinder)
    | (intro w; refine Dev.cut (p := Dev.canonical w) ?_ ?_; rotate_left; (intro _; clear_value w); rotate_right)
    | (intro w; refine Dev.cut (p := Dev.canonical w.1) ?_ ?_; rotate_left; (intro _; clear_value w); rotate_right)
    | (intro w; clear_value w)
    | (split <;> try lift_lets -underBinder)

theorem Dev.leaveHold_keeps {m : Dev} (b : Nat) (t : Instant) (hk : m.canonical) : (Dev.leaveHold m b t).canonical := by
  unfold Dev.leaveHold
  try lift_lets -underBinder
  repeat first
    | with_reducible assumption
    | (intro n x hn; have : Dev.canonical n := hn; try lift_lets -underBinder)
    | with_reducible first | apply Dev.each_keeps | apply Dev.playHold_keeps | apply Dev.modPin_keeps | apply Dev.modBsn_keeps
    | (split <;> try lift_lets -underBinder)
    | with_reducible apply Dev.keep_mk

/-! ## Course -/

theorem Dev.request_keeps {m : Dev} (b : Nat) (i : Nat) (hk : m.canonical) : (Dev.request m b i).canonical := by
  unfold Dev.request
  repeat first
    | with_reducible first | assumption | apply Dev.modBsn_keeps

theorem Dev.windowTo_keeps {m : Dev} (b : Nat) (i : Nat) (hk : m.canonical) : (Dev.windowTo m b i).canonical := by
  unfold Dev.windowTo
  repeat first
    | with_reducible first | assumption | apply Dev.modBsn_keeps | apply Dev.put_keeps | apply Dev.request_keeps

theorem Dev.passSamples_keeps {m : Dev} (b : Nat) (i : Nat) (pass : Nat) (left : Bool) (hk : m.canonical) : (Dev.passSamples m b i pass
    left).canonical := by
  unfold Dev.passSamples
  try lift_lets -underBinder
  repeat first
    | with_reducible assumption
    | (intro n x hn; have : Dev.canonical n := hn; try lift_lets -underBinder)
    | with_reducible first | apply Dev.each_keeps | apply Dev.setDelta_keeps
    | (split <;> try lift_lets -underBinder)
    | with_reducible apply Dev.keep_mk

theorem Dev.beginPass_keeps {m : Dev} (b : Nat) (i : Nat) (pass : Nat) (t : Instant) (hk : m.canonical) : (Dev.beginPass m b i pass
    t).canonical := by
  unfold Dev.beginPass
  try lift_lets -underBinder
  repeat first
    | with_reducible assumption
    | (intro n x hn; have : Dev.canonical n := hn; try lift_lets -underBinder)
    | with_reducible first | apply Dev.each_keeps | apply Dev.modRun_keeps | apply Dev.put_keeps | apply Dev.stopSamples_keeps
    | with_reducible first | apply Dev.startSamples_keeps | apply Dev.modPin_keeps | apply Dev.keep_ite | apply Dev.keep_mk

theorem Dev.enterEntry_keeps {m : Dev} (b : Nat) (i : Nat) (landing : Bool) (t : Instant) (hk : m.canonical) : (Dev.enterEntry m b i landing
    t).canonical := by
  unfold Dev.enterEntry
  repeat first
    | with_reducible first | assumption | apply Dev.courseFault_keeps | apply Dev.beginPass_keeps | apply Dev.put_keeps
    | with_reducible first | apply Dev.windowTo_keeps | apply Dev.keep_ite

theorem Dev.takeJump_keeps {m : Dev} (b : Nat) (slot : Nat) (target : Nat) (e : Entry) (r : Run) (t : Instant) (hk : m.canonical) :
    (Dev.takeJump m b slot target e r t).canonical := by
  unfold Dev.takeJump
  try lift_lets -underBinder
  repeat first
    | with_reducible assumption
    | (intro n x hn; have : Dev.canonical n := hn; try lift_lets -underBinder)
    | with_reducible first | apply Dev.each_keeps | apply Dev.consume_keeps | apply Dev.put_keeps | apply Dev.stopSamples_keeps
    | with_reducible first | apply Dev.modBsn_keeps | apply Dev.modPin_keeps | apply Dev.setDelta_keeps | apply Dev.modDeck_keeps
    | with_reducible first | apply Dev.modRun_keeps | apply Dev.enterEntry_keeps | apply Dev.request_keeps
    | (split <;> try lift_lets -underBinder)
    | with_reducible apply Dev.keep_mk

theorem Dev.takeNext_keeps {m : Dev} (b : Nat) (e : Entry) (r : Run) (t : Instant) (hk : m.canonical) : (Dev.takeNext m b e r t).canonical
    := by
  unfold Dev.takeNext
  try lift_lets -underBinder
  repeat first
    | with_reducible first | assumption | apply Dev.stopSamples_keeps | apply Dev.passSamples_keeps | apply Dev.enterEntry_keeps
    | with_reducible first | apply Dev.modRun_keeps | apply Dev.keep_ite
    | (split <;> try lift_lets -underBinder)
    | with_reducible apply Dev.keep_mk

/-! ## Digitizer -/

theorem Dev.setFlag_keeps {m : Dev} (n : Nat) (v : Bool) (t : Instant) (hk : m.canonical) : (Dev.setFlag m n v t).canonical := by
  unfold Dev.setFlag
  try lift_lets -underBinder
  repeat first
    | with_reducible assumption
    | (intro n x hn; have : Dev.canonical n := hn; try lift_lets -underBinder)
    | with_reducible first | apply Dev.each_keeps | apply Dev.setReg_keeps | apply Dev.put_keeps | apply Dev.occur_keeps
    | with_reducible apply Dev.keep_ite

theorem Dev.scanRefuse_keeps {m : Dev} (k : Nat) (code : Nat) (hk : m.canonical) : (Dev.scanRefuse m k code).canonical := by
  unfold Dev.scanRefuse
  repeat first
    | with_reducible first | assumption | apply Dev.scanShut_keeps | apply Dev.put_keeps

theorem Dev.scanStart_keeps {m : Dev} (k : Nat) (t : Instant) (before : Option Nat) (hk : m.canonical) : (Dev.scanStart m k t
    before).canonical := by
  unfold Dev.scanStart
  try lift_lets -underBinder
  repeat first
    | with_reducible first | assumption | apply Dev.put_keeps | apply Dev.setAdc_keeps | apply Dev.scanRefuse_keeps
    | with_reducible apply Dev.keep_ite
    | (split <;> try lift_lets -underBinder)
    | with_reducible apply Dev.keep_mk

theorem Dev.startWaiting_keeps {m : Dev} (hk : m.canonical) : (Dev.startWaiting m).canonical := by
  unfold Dev.startWaiting
  try lift_lets -underBinder
  repeat first
    | with_reducible assumption
    | (intro n x hn; have : Dev.canonical n := hn; try lift_lets -underBinder)
    | with_reducible first | apply Dev.each_keeps | apply Dev.scanStart_keeps | apply Dev.keep_ite

theorem Dev.scanEnable_keeps {m : Dev} (k : Nat) (hk : m.canonical) : (Dev.scanEnable m k).canonical := by
  unfold Dev.scanEnable
  try lift_lets -underBinder
  repeat first
    | with_reducible first | assumption | apply Dev.scanRefuse_keeps | apply Dev.put_keeps | apply Dev.scanStart_keeps
    | with_reducible apply Dev.keep_ite
    | (split <;> try lift_lets -underBinder)

theorem Dev.scanFields_keeps {m : Dev} (k : Nat) (ctl : Nat) (hk : m.canonical) : (Dev.scanFields m k ctl).canonical := by
  unfold Dev.scanFields
  repeat first
    | with_reducible first | assumption | apply Dev.put_keeps | apply Dev.keep_ite

theorem Dev.periodWrite_keeps {m : Dev} (k : Nat) (v : Nat) (hk : m.canonical) : (Dev.periodWrite m k v).canonical := by
  unfold Dev.periodWrite
  repeat first
    | with_reducible first | assumption | apply Dev.put_keeps | apply Dev.keep_ite

theorem Dev.maskCommit_keeps {m : Dev} (k : Nat) (hi : Nat) (hk : m.canonical) : (Dev.maskCommit m k hi).canonical := by
  unfold Dev.maskCommit
  repeat first
    | with_reducible first | assumption | apply Dev.put_keeps | apply Dev.setAdc_keeps

theorem Dev.adcEnable_keeps {m : Dev} (k : Nat) (ctl : Nat) (hk : m.canonical) : (Dev.adcEnable m k ctl).canonical := by
  unfold Dev.adcEnable
  repeat first
    | with_reducible first | assumption | apply Dev.scanFields_keeps | apply Dev.put_keeps | apply Dev.keep_ite

theorem Dev.adcDisable_keeps {m : Dev} (k : Nat) (ctl : Nat) (hk : m.canonical) : (Dev.adcDisable m k ctl).canonical := by
  unfold Dev.adcDisable
  repeat first
    | with_reducible first | assumption | apply Dev.scanFields_keeps | apply Dev.put_keeps | apply Dev.scanShut_keeps
    | with_reducible apply Dev.keep_ite

theorem Dev.adcPowerDown_keeps {m : Dev} (k : Nat) (hk : m.canonical) : (Dev.adcPowerDown m k).canonical := by
  unfold Dev.adcPowerDown
  repeat first
    | with_reducible first | assumption | apply Dev.put_keeps | apply Dev.keep_ite

theorem Dev.gainRoutine_keeps {m : Dev} (k : Nat) (r33 : Nat) (r35 : Nat) (hk : m.canonical) : (Dev.gainRoutine m k r33 r35).canonical := by
  unfold Dev.gainRoutine
  repeat first
    | with_reducible first | assumption | apply Dev.report_keeps | apply Dev.put_keeps | apply Dev.keep_ite

theorem Dev.adcReady_keeps {m : Dev} (k : Nat) (r33 : Nat) (r35 : Nat) (hk : m.canonical) : (Dev.adcReady m k r33 r35).canonical := by
  unfold Dev.adcReady
  repeat first
    | with_reducible first | assumption | apply Dev.gainRoutine_keeps | apply Dev.put_keeps | apply Dev.keep_ite

theorem Dev.scanRun_keeps {m : Dev} (k : Nat) (ctl : Nat) (hk : m.canonical) : (Dev.scanRun m k ctl).canonical := by
  unfold Dev.scanRun
  repeat first
    | with_reducible first | assumption | apply Dev.scanFields_keeps | apply Dev.put_keeps | apply Dev.scanEnable_keeps
    | with_reducible apply Dev.keep_ite

theorem Dev.scanStop_keeps {m : Dev} (k : Nat) (ctl : Nat) (hk : m.canonical) : (Dev.scanStop m k ctl).canonical := by
  unfold Dev.scanStop
  repeat first
    | with_reducible first | assumption | apply Dev.scanFields_keeps | apply Dev.scanShut_keeps

theorem Dev.scanStartHost_keeps {m : Dev} (k : Nat) (hk : m.canonical) : (Dev.scanStartHost m k).canonical := by
  unfold Dev.scanStartHost
  repeat first
    | with_reducible first | assumption | apply Dev.scanStart_keeps | apply Dev.keep_ite

theorem Dev.scanStartPeriodic_keeps {m : Dev} (k : Nat) (hk : m.canonical) : (Dev.scanStartPeriodic m k).canonical := by
  unfold Dev.scanStartPeriodic
  repeat first
    | with_reducible first | assumption | apply Dev.scanStart_keeps | apply Dev.keep_ite

theorem Dev.scanStartLoad_keeps {m : Dev} (k : Nat) (strobe : Instant) (hk : m.canonical) : (Dev.scanStartLoad m k strobe).canonical := by
  unfold Dev.scanStartLoad
  repeat first
    | with_reducible first | assumption | apply Dev.scanStart_keeps | apply Dev.keep_ite

theorem Dev.plausible_keeps {m : Dev} (k : Nat) (value : Nat) (t : Instant) (hk : m.canonical) : (Dev.plausible m k value t).canonical := by
  unfold Dev.plausible
  repeat first
    | with_reducible first | assumption | apply Dev.setAdc_keeps | apply Dev.put_keeps | apply Dev.setReg_keeps
    | with_reducible first | apply Dev.report_keeps | apply Dev.count_keeps | apply Dev.keep_ite

theorem Dev.fifoPush_keeps {m : Dev} (k : Nat) (r : AdcRes) (hk : m.canonical) : (Dev.fifoPush m k r).canonical := by
  unfold Dev.fifoPush
  repeat first
    | with_reducible first | assumption | apply Dev.count_keeps | apply Dev.setAdc_keeps | apply Dev.put_keeps | apply Dev.keep_ite

theorem Dev.seeClamp_keeps {m : Dev} (k : Nat) (i : Nat) (q : Int) (t : Instant) (hk : m.canonical) : (Dev.seeClamp m k i q t).canonical :=
    by
  unfold Dev.seeClamp
  try lift_lets -underBinder
  repeat first
    | with_reducible assumption
    | with_reducible apply Dev.dutClamp_keeps
    | (split <;> try lift_lets -underBinder)

theorem Dev.adcResult_keeps {m : Dev} (k : Nat) (q : Int) (err : Int) (limit : Bool) (hk : m.canonical) : (Dev.adcResult m k q err
    limit).canonical := by
  unfold Dev.adcResult
  try lift_lets -underBinder
  repeat first
    | with_reducible first | assumption | apply Dev.seeClamp_keeps | apply Dev.plausible_keeps | apply Dev.put_keeps
    | with_reducible first | apply Dev.fifoPush_keeps | apply Dev.setFlag_keeps | apply Dev.bump_keeps | apply Dev.setAdc_keeps
    | with_reducible first | apply Dev.scanEnable_keeps | apply Dev.scanStart_keeps | apply Dev.keep_ite
    | (split <;> try lift_lets -underBinder)
    | with_reducible apply Dev.keep_mk

theorem Dev.fifoPop_keeps {m : Dev} (k : Nat) (hk : m.canonical) : (Dev.fifoPop m k).canonical := by
  unfold Dev.fifoPop
  repeat first
    | with_reducible first | assumption | apply Dev.setAdc_keeps | apply Dev.put_keeps

theorem Dev.stageTakeover_keeps {m : Dev} (k : Nat) (good : Bool) (hk : m.canonical) : (Dev.stageTakeover m k good).canonical := by
  unfold Dev.stageTakeover
  try lift_lets -underBinder
  repeat first
    | with_reducible assumption
    | with_reducible first | apply Dev.setAdc_keeps | apply Dev.report_keeps | apply Dev.recWrite_keeps | apply Dev.put_keeps
    | with_reducible first | apply Dev.bump_keeps | apply Dev.keep_ite | apply Dev.keep_mk

theorem Dev.dropSession_keeps {m : Dev} (p : Nat) (hk : m.canonical) : (Dev.dropSession m p).canonical := by
  unfold Dev.dropSession
  repeat first
    | with_reducible first | assumption | apply Dev.setPadc_keeps

theorem Dev.padcFields_keeps {m : Dev} (p : Nat) (ctl : Nat) (hk : m.canonical) : (Dev.padcFields m p ctl).canonical := by
  unfold Dev.padcFields
  repeat first
    | with_reducible first | assumption | apply Dev.put_keeps | apply Dev.setFlag_keeps | apply Dev.setPadc_keeps
    | with_reducible first | apply Dev.dropSession_keeps | apply Dev.keep_ite

theorem Dev.padcStart_keeps {m : Dev} (p : Nat) (hk : m.canonical) : (Dev.padcStart m p).canonical := by
  unfold Dev.padcStart
  repeat first
    | with_reducible first | assumption | apply Dev.put_keeps | apply Dev.setPadc_keeps

theorem Dev.padcDisable_keeps {m : Dev} (p : Nat) (ctl : Nat) (hk : m.canonical) : (Dev.padcDisable m p ctl).canonical := by
  unfold Dev.padcDisable
  repeat first
    | with_reducible first | assumption | apply Dev.padcFields_keeps | apply Dev.put_keeps | apply Dev.dropSession_keeps
    | with_reducible apply Dev.keep_ite

theorem Dev.padcEnable_keeps {m : Dev} (p : Nat) (ctl : Nat) (hk : m.canonical) : (Dev.padcEnable m p ctl).canonical := by
  unfold Dev.padcEnable
  repeat first
    | with_reducible first | assumption | apply Dev.padcDisable_keeps | apply Dev.put_keeps | apply Dev.padcFields_keeps
    | with_reducible first | apply Dev.padcStart_keeps | apply Dev.keep_ite

theorem Dev.padcShutDone_keeps {m : Dev} (p : Nat) (hk : m.canonical) : (Dev.padcShutDone m p).canonical := by
  unfold Dev.padcShutDone
  repeat first
    | with_reducible first | assumption | apply Dev.put_keeps | apply Dev.padcStart_keeps | apply Dev.keep_ite

theorem Dev.padcResult_keeps {m : Dev} (p : Nat) (q : Int) (err : Int) (t : Instant) (hk : m.canonical) : (Dev.padcResult m p q err
    t).canonical := by
  unfold Dev.padcResult
  repeat first
    | with_reducible first | assumption | apply Dev.setPadc_keeps | apply Dev.put_keeps | apply Dev.bump_keeps
    | with_reducible first | apply Dev.setFlag_keeps | apply Dev.keep_ite

theorem Dev.syscalStart_keeps {m : Dev} (s : Nat) (irq : Bool) (step : Nat) (hk : m.canonical) : (Dev.syscalStart m s irq step).1.canonical
    := by
  unfold Dev.syscalStart
  repeat first
    | with_reducible first | assumption | apply Dev.opStart_keeps | apply Dev.opEnd_keeps | apply Dev.keep_ite_fst | apply Dev.keep_ite

theorem Dev.syscalBuffer_keeps {m : Dev} (s : Nat) (l : List Int) (hk : m.canonical) : (Dev.syscalBuffer m s l).canonical := by
  unfold Dev.syscalBuffer
  repeat first
    | with_reducible first | assumption | apply Dev.setMem_keeps | apply Dev.partialCount_keeps

theorem Dev.sessionBegin_keeps {m : Dev} (p : Nat) (hk : m.canonical) : (Dev.sessionBegin m p).canonical := by
  unfold Dev.sessionBegin
  repeat first
    | with_reducible first | assumption | apply Dev.setPadc_keeps | apply Dev.keep_ite

theorem Dev.syscalZero_keeps {m : Dev} (s : Nat) (irq : Bool) (l : List Int) (hk : m.canonical) : (Dev.syscalZero m s irq l).canonical := by
  have h := Dev.syscalStart_keeps s irq 0 hk
  unfold Dev.syscalZero
  generalize m.syscalStart s irq 0 = r at h
  obtain ⟨n, _ | p⟩ := r
  · exact h
  · exact Dev.keep_ite (Dev.opEnd_keeps _ _ h) (Dev.keep_ite (Dev.opEnd_keeps _ _ (Dev.syscalBuffer_keeps _ _ h))
      (Dev.opEnd_keeps _ _ (Dev.setPadc_keeps _ _ (Dev.sessionBegin_keeps _ (Dev.syscalBuffer_keeps _ _ h)))))

theorem Dev.syscalFull_keeps {m : Dev} (s : Nat) (irq : Bool) (l : List Int) (hk : m.canonical) : (Dev.syscalFull m s irq l).canonical := by
  have h := Dev.syscalStart_keeps s irq 1 hk
  unfold Dev.syscalFull
  generalize m.syscalStart s irq 1 = r at h
  obtain ⟨n, _ | p⟩ := r
  · exact h
  · exact Dev.keep_ite (Dev.opEnd_keeps _ _ h) (Dev.keep_ite (Dev.opEnd_keeps _ _ (Dev.syscalBuffer_keeps _ _ h))
      (Dev.opEnd_keeps _ _ (Dev.setPadc_keeps _ _ (Dev.sessionBegin_keeps _ (Dev.syscalBuffer_keeps _ _ h)))))

theorem Dev.syscalCommit_keeps {m : Dev} (s : Nat) (irq : Bool) (stored : Bool) (hk : m.canonical) :
    (Dev.syscalCommit m s irq stored).canonical := by
  have h := Dev.syscalStart_keeps s irq 2 hk
  unfold Dev.syscalCommit
  generalize m.syscalStart s irq 2 = r at h
  obtain ⟨n, _ | p⟩ := r
  · exact h
  · dsimp only
    split
    · refine Dev.keep_ite (Dev.opEnd_keeps _ _ h) (Dev.keep_ite (Dev.opEnd_keeps _ _ (Dev.report_keeps _ _ _ _ h))
        (Dev.keep_ite (Dev.opEnd_keeps _ _ (Dev.report_keeps _ _ _ _ h))
          (Dev.keep_ite (Dev.opEnd_keeps _ _ (Dev.report_keeps _ _ _ _ (Dev.put_keeps _ _ h))) ?_)))
      refine Dev.opEnd_keeps _ _ (Dev.partialCount_keeps _ _ (Dev.setMem_keeps _ _ _ (Dev.setMem_keeps _ _ _ ?_)))
      apply Dev.keep_mk
      exact Dev.setPadc_keeps _ _ (Dev.recWrite_keeps _ _ _ _ h)
    · exact Dev.opEnd_keeps _ _ (Dev.setPadc_keeps _ _ h)

theorem Dev.syscalDiscard_keeps {m : Dev} (s : Nat) (irq : Bool) (hk : m.canonical) : (Dev.syscalDiscard m s irq).canonical := by
  have h := Dev.syscalStart_keeps s irq 3 hk
  unfold Dev.syscalDiscard
  generalize m.syscalStart s irq 3 = r at h
  obtain ⟨n, _ | p⟩ := r
  · exact h
  · exact Dev.opEnd_keeps _ _ (Dev.dropSession_keeps _ h)

theorem Dev.sessionExpire_keeps {m : Dev} (p : Nat) (hk : m.canonical) : (Dev.sessionExpire m p).canonical := by
  unfold Dev.sessionExpire
  repeat first
    | with_reducible first | assumption | apply Dev.dropSession_keeps | apply Dev.keep_ite

theorem Dev.takePadc_keeps {m : Dev} (hk : m.canonical) : (Dev.takePadc m).canonical := by
  unfold Dev.takePadc
  try lift_lets -underBinder
  repeat first
    | with_reducible assumption
    | (intro n x hn; have : Dev.canonical n := hn; try lift_lets -underBinder)
    | with_reducible first | apply Dev.each_keeps | apply Dev.put_keeps | apply Dev.setPadc_keeps
    | (split <;> try lift_lets -underBinder)
    | with_reducible apply Dev.keep_mk

/-! ## Calibration -/

theorem Dev.putCoef_keeps {m : Dev} (chained : Bool) (p : Nat) (c : Nat) (v : Int) (hk : m.canonical) : (Dev.putCoef m chained p c
    v).canonical := by
  unfold Dev.putCoef
  repeat first
    | with_reducible first | assumption | apply Dev.put_keeps | apply Dev.retarget_keeps | apply Dev.keep_ite

theorem Dev.showSource_keeps {m : Dev} (p : Nat) (hk : m.canonical) : (Dev.showSource m p).canonical := by
  unfold Dev.showSource
  repeat first
    | with_reducible first | assumption | apply Dev.put_keeps | apply Dev.keep_ite

theorem Dev.showFactory_keeps {m : Dev} (t : Nat) (hk : m.canonical) : (Dev.showFactory m t).canonical := by
  unfold Dev.showFactory
  repeat first
    | with_reducible first | assumption | apply Dev.put_keeps

theorem Dev.modCal_keeps {m : Dev} (f : CalX → CalX) (hk : m.canonical) : (Dev.modCal m f).canonical := by
  unfold Dev.modCal
  repeat first
    | with_reducible first | assumption | apply Dev.keep_mk

theorem Dev.queueCoefs_keeps {m : Dev} (p : Nat) (cs : List Nat) (hk : m.canonical) : (Dev.queueCoefs m p cs).canonical := by
  unfold Dev.queueCoefs
  repeat first
    | with_reducible first | assumption | apply Dev.modCal_keeps

theorem Dev.takeCoefs_keeps {m : Dev} (chained : Bool) (due : Nat → Bool) (hk : m.canonical) : (Dev.takeCoefs m chained due).canonical := by
  unfold Dev.takeCoefs
  try lift_lets -underBinder
  repeat first
    | with_reducible assumption
    | (intro n x hn; have : Dev.canonical n := hn; try lift_lets -underBinder)
    | with_reducible first | apply Dev.each_keeps | apply Dev.modCal_keeps | apply Dev.putCoef_keeps | apply Dev.showSource_keeps
    | with_reducible apply Dev.keep_mk

theorem Dev.takeCalOf_keeps {m : Dev} (b : Nat) (chained : Bool) (hk : m.canonical) : (Dev.takeCalOf m b chained).canonical := by
  unfold Dev.takeCalOf
  repeat first
    | with_reducible first | assumption | apply Dev.takeCoefs_keeps

theorem Dev.takeCalIdle_keeps {m : Dev} (hk : m.canonical) : (Dev.takeCalIdle m).canonical := by
  unfold Dev.takeCalIdle
  repeat first
    | with_reducible first | assumption | apply Dev.takeCoefs_keeps

theorem Dev.reinterpolate_keeps {m : Dev} (t : Nat) (hk : m.canonical) : (Dev.reinterpolate m t).canonical := by
  unfold Dev.reinterpolate
  try lift_lets -underBinder
  repeat first
    | with_reducible assumption
    | (intro n x hn; have : Dev.canonical n := hn; try lift_lets -underBinder)
    | with_reducible first | apply Dev.each_keeps | apply Dev.modCal_keeps | apply Dev.queueCoefs_keeps | apply Dev.keep_ite
    | with_reducible apply Dev.keep_mk

theorem Dev.factoryWrite_keeps {m : Dev} (v : Nat) (hk : m.canonical) : (Dev.factoryWrite m v).canonical := by
  unfold Dev.factoryWrite
  try lift_lets -underBinder
  repeat first
    | with_reducible assumption
    | (intro n x hn; have : Dev.canonical n := hn; try lift_lets -underBinder)
    | with_reducible first | apply Dev.each_keeps | apply Dev.put_keeps | apply Dev.queueCoefs_keeps | apply Dev.showFactory_keeps
    | with_reducible apply Dev.keep_ite

theorem Dev.stepTaken_keeps {m : Dev} (t : Nat) (hk : m.canonical) : (Dev.stepTaken m t).canonical := by
  unfold Dev.stepTaken
  repeat first
    | with_reducible first | assumption | apply Dev.modCal_keeps

theorem Dev.makeDue_keeps {m : Dev} (t : Nat) (kinds : Nat) (hk : m.canonical) : (Dev.makeDue m t kinds).canonical := by
  unfold Dev.makeDue
  repeat first
    | with_reducible first | assumption | apply Dev.stepTaken_keeps | apply Dev.put_keeps | apply Dev.keep_ite

theorem Dev.tempTest_keeps {m : Dev} (t : Nat) (kind : Nat) (hk : m.canonical) : (Dev.tempTest m t kind).canonical := by
  unfold Dev.tempTest
  repeat first
    | with_reducible first | assumption | apply Dev.modCal_keeps | apply Dev.makeDue_keeps | apply Dev.put_keeps
    | with_reducible first | apply Dev.report_keeps | apply Dev.keep_ite

theorem Dev.blockDue_keeps {m : Dev} (t : Nat) (hk : m.canonical) : (Dev.blockDue m t).canonical := by
  unfold Dev.blockDue
  repeat first
    | with_reducible first | assumption | apply Dev.put_keeps | apply Dev.keep_ite

theorem Dev.dropTable_keeps {m : Dev} (e : Nat × Nat) (hk : m.canonical) : (Dev.dropTable m e).canonical := by
  unfold Dev.dropTable
  try lift_lets -underBinder
  repeat first
    | with_reducible assumption
    | with_reducible first | apply Dev.report_keeps | apply Dev.keep_mk

theorem Dev.tableLost_keeps {m : Dev} (e : Nat × Nat) (hk : m.canonical) : (Dev.tableLost m e).canonical := by
  unfold Dev.tableLost
  try lift_lets -underBinder
  repeat first
    | with_reducible assumption
    | (intro n x hn; have : Dev.canonical n := hn; try lift_lets -underBinder)
    | with_reducible first | apply Dev.each_keeps | apply Dev.dropTable_keeps | apply Dev.queueCoefs_keeps
    | with_reducible first | apply Dev.showFactory_keeps | apply Dev.makeDue_keeps | apply Dev.keep_ite

theorem Dev.sumTemps_keeps {m : Dev} (hk : m.canonical) : (Dev.sumTemps m).canonical := by
  unfold Dev.sumTemps
  repeat first
    | with_reducible first | assumption | apply Dev.modCal_keeps | apply Dev.count_keeps

theorem Dev.calInterval_keeps {m : Dev} (hk : m.canonical) : (Dev.calInterval m).canonical := by
  unfold Dev.calInterval
  try lift_lets -underBinder
  repeat first
    | with_reducible assumption
    | (intro n x hn; have : Dev.canonical n := hn; try lift_lets -underBinder)
    | with_reducible first | apply Dev.each_keeps | apply Dev.count_keeps | apply Dev.put_keeps | apply Dev.modCal_keeps
    | with_reducible first | apply Dev.tempTest_keeps | apply Dev.reinterpolate_keeps | apply Dev.keep_ite | apply Dev.keep_mk

theorem Dev.gatherBegin_keeps {m : Dev} (t : Nat) (hk : m.canonical) : (Dev.gatherBegin m t).canonical := by
  unfold Dev.gatherBegin
  repeat first
    | with_reducible first | assumption | apply Dev.stepTaken_keeps | apply Dev.put_keeps | apply Dev.modCal_keeps | apply Dev.keep_ite

theorem Dev.gatherTimeout_keeps {m : Dev} (t : Nat) (hk : m.canonical) : (Dev.gatherTimeout m t).canonical := by
  unfold Dev.gatherTimeout
  repeat first
    | with_reducible first | assumption | apply Dev.put_keeps | apply Dev.count_keeps | apply Dev.modCal_keeps | apply Dev.report_keeps
    | with_reducible apply Dev.keep_ite

theorem Dev.endGathers_keeps {m : Dev} (hk : m.canonical) : (Dev.endGathers m).canonical := by
  unfold Dev.endGathers
  try lift_lets -underBinder
  repeat first
    | with_reducible assumption
    | (intro n x hn; have : Dev.canonical n := hn; try lift_lets -underBinder)
    | with_reducible first | apply Dev.each_keeps | apply Dev.stepTaken_keeps | apply Dev.put_keeps

theorem Dev.outageBegin_keeps {m : Dev} (t : Nat) (hk : m.canonical) : (Dev.outageBegin m t).canonical := by
  unfold Dev.outageBegin
  repeat first
    | with_reducible first | assumption | apply Dev.put_keeps | apply Dev.modCal_keeps | apply Dev.keep_ite

theorem Dev.kindDone_keeps {m : Dev} (t : Nat) (kind : Nat) (run : List (Nat × Nat × Int)) (stored : Bool) (hk : m.canonical) :
    (Dev.kindDone m t kind run stored).canonical := by
  unfold Dev.kindDone
  try lift_lets -underBinder
  repeat first
    | with_reducible assumption
    | (intro n x hn; have : Dev.canonical n := hn; try lift_lets -underBinder)
    | (intro w; refine Dev.cut (p := Dev.canonical w) ?_ ?_; rotate_left; (intro _; clear_value w); rotate_right)
    | (intro w; refine Dev.cut (p := Dev.canonical w.1) ?_ ?_; rotate_left; (intro _; clear_value w); rotate_right)
    | (intro w; clear_value w)
    | with_reducible first | apply Dev.each_keeps | apply Dev.put_keeps | apply Dev.count_keeps | apply Dev.report_keeps
    | with_reducible first | apply Dev.modCal_keeps | apply Dev.recWrite_keeps | apply Dev.queueCoefs_keeps | apply Dev.calRun_keeps
    | with_reducible apply Dev.calEntry_keeps
    | (split <;> try lift_lets -underBinder)
    | with_reducible apply Dev.keep_mk

theorem Dev.kindsDone_keeps {m : Dev} (t : Nat) (run : List (Nat × Nat × Int)) (stored : Nat) (hk : m.canonical) : (Dev.kindsDone m t run
    stored).canonical := by
  unfold Dev.kindsDone
  try lift_lets -underBinder
  repeat first
    | with_reducible assumption
    | (intro n x hn; have : Dev.canonical n := hn; try lift_lets -underBinder)
    | with_reducible first | apply Dev.each_keeps | apply Dev.kindDone_keeps | apply Dev.put_keeps | apply Dev.bump_keeps
    | with_reducible first | apply Dev.stepTaken_keeps | apply Dev.modCal_keeps
    | (split <;> try lift_lets -underBinder)
    | with_reducible apply Dev.keep_mk

theorem Dev.calRunEnd_keeps {m : Dev} (hk : m.canonical) : (Dev.calRunEnd m).canonical := by
  unfold Dev.calRunEnd
  try lift_lets -underBinder
  repeat first
    | with_reducible first | assumption | apply Dev.calRun_keeps | apply Dev.modCal_keeps | apply Dev.opEnd_keeps | apply Dev.keep_ite
    | (split <;> try lift_lets -underBinder)
    | with_reducible apply Dev.keep_mk

theorem Dev.outageClose_keeps {m : Dev} (t : Nat) (hk : m.canonical) : (Dev.outageClose m t).canonical := by
  unfold Dev.outageClose
  try lift_lets -underBinder
  repeat first
    | with_reducible assumption
    | (intro n x hn; have : Dev.canonical n := hn; try lift_lets -underBinder)
    | with_reducible first | apply Dev.each_keeps | apply Dev.takeCoefs_keeps | apply Dev.put_keeps | apply Dev.showFactory_keeps
    | with_reducible first | apply Dev.modCal_keeps | apply Dev.ppmuEnable_keeps | apply Dev.ppmuRange_keeps
    | with_reducible first | apply Dev.calRunEnd_keeps | apply Dev.keep_ite | apply Dev.keep_mk

theorem Dev.outageEnd_keeps {m : Dev} (t : Nat) (hk : m.canonical) : (Dev.outageEnd m t).canonical := by
  unfold Dev.outageEnd
  repeat first
    | with_reducible first | assumption | apply Dev.outageClose_keeps | apply Dev.keep_ite

theorem Dev.ppmuWrite_keeps {m : Dev} (p : Nat) (ctl : Nat) (enable : Bool) (hk : m.canonical) : (Dev.ppmuWrite m p ctl enable).canonical :=
    by
  unfold Dev.ppmuWrite
  repeat first
    | with_reducible first | assumption | apply Dev.modCal_keeps | apply Dev.ppmuEnable_keeps | apply Dev.ppmuRange_keeps
    | with_reducible apply Dev.keep_ite

theorem Dev.calRun_keeps {m : Dev} (s : Nat) (irq : Bool) (hk : m.canonical) : (Dev.calRun m s irq).canonical := by
  unfold Dev.calRun
  try lift_lets -underBinder
  repeat first
    | with_reducible assumption
    | (intro n x hn; have : Dev.canonical n := hn; try lift_lets -underBinder)
    | with_reducible first | apply Dev.each_keeps | apply Dev.opStart_keeps | apply Dev.opEnd_keeps | apply Dev.modCal_keeps
    | with_reducible first | apply Dev.makeDue_keeps | apply Dev.keep_ite | apply Dev.keep_mk

theorem Dev.calRef_keeps {m : Dev} (s : Nat) (irq : Bool) (l : List Int) (stored : Bool) (hk : m.canonical) : (Dev.calRef m s irq l
    stored).canonical := by
  unfold Dev.calRef
  try lift_lets -underBinder
  repeat first
    | with_reducible assumption
    | (intro n x hn; have : Dev.canonical n := hn; try lift_lets -underBinder)
    | with_reducible first | apply Dev.each_keeps | apply Dev.opStart_keeps | apply Dev.opEnd_keeps | apply Dev.put_keeps
    | with_reducible first | apply Dev.report_keeps | apply Dev.recWrite_keeps | apply Dev.keep_ite | apply Dev.keep_mk

end Sys2Proof.Machine
end

