-- ==== Sys2Proof/Laws/KeepBasin.lean ====
section
/-! SUPPORT. Canonical memories are kept by every operation of the machine: burst starts, words and basin commands. One lemma for each operation,
named after it. -/

set_option maxRecDepth 4000

namespace Sys2Proof.Machine

/-! ## Start -/

theorem Dev.takeOver_keeps {m : Dev} (b : Nat) (t : Instant) (hk : m.canonical) : (Dev.takeOver m b t).canonical := by
  unfold Dev.takeOver
  try lift_lets -underBinder
  repeat first
    | with_reducible assumption
    | (intro n x hn; have : Dev.canonical n := hn; try lift_lets -underBinder)
    | with_reducible first | apply Dev.each_keeps | apply Dev.copyStore_keeps | apply Dev.put_keeps | apply Dev.keep_ite
    | with_reducible apply Dev.keep_mk

theorem Dev.startPin_keeps {m : Dev} (p : Nat) (hk : m.canonical) : (Dev.startPin m p).canonical := by
  unfold Dev.startPin
  repeat first
    | with_reducible first | assumption | apply Dev.setPair_keeps | apply Dev.setReg_keeps | apply Dev.put_keeps
    | with_reducible first | apply Dev.takeForce_keeps | apply Dev.modPin_keeps

theorem Dev.clearBurst_keeps {m : Dev} (b : Nat) (hk : m.canonical) : (Dev.clearBurst m b).canonical := by
  unfold Dev.clearBurst
  try lift_lets -underBinder
  repeat first
    | with_reducible assumption
    | (intro n x hn; have : Dev.canonical n := hn; try lift_lets -underBinder)
    | with_reducible first | apply Dev.each_keeps | apply Dev.put_keeps | apply Dev.setReg_keeps | apply Dev.setPair_keeps
    | with_reducible first | apply Dev.modBsn_keeps | apply Dev.keep_mk

theorem Dev.setEpoch_keeps {m : Dev} (b : Nat) (t : Instant) (hk : m.canonical) : (Dev.setEpoch m b t).canonical := by
  unfold Dev.setEpoch
  repeat first
    | with_reducible first | assumption | apply Dev.putStamp_keeps | apply Dev.put_keeps | apply Dev.modBsn_keeps | apply Dev.keep_ite

theorem Dev.startDeskew_keeps {m : Dev} (b : Nat) (hk : m.canonical) : (Dev.startDeskew m b).canonical := by
  unfold Dev.startDeskew
  try lift_lets -underBinder
  repeat first
    | with_reducible assumption
    | (intro n x hn; have : Dev.canonical n := hn; try lift_lets -underBinder)
    | with_reducible first | apply Dev.each_keeps | apply Dev.forceDeck_keeps | apply Dev.retarget_keeps | apply Dev.keep_ite

theorem Dev.startBurst_keeps {m : Dev} (b : Nat) (chained : Bool) (t : Instant) (hk : m.canonical) : (Dev.startBurst m b chained
    t).canonical := by
  unfold Dev.startBurst
  try lift_lets -underBinder
  repeat first
    | with_reducible assumption
    | (intro n x hn; have : Dev.canonical n := hn; try lift_lets -underBinder)
    | with_reducible first | apply Dev.each_keeps | apply Dev.takeOver_keeps | apply Dev.setEpoch_keeps | apply Dev.leaveHold_keeps
    | with_reducible first | apply Dev.forceTiming_keeps | apply Dev.takeForce_keeps | apply Dev.startDeskew_keeps
    | with_reducible first | apply Dev.settleStrobes_keeps | apply Dev.setReg_keeps | apply Dev.clearBurst_keeps
    | with_reducible first | apply Dev.startPin_keeps | apply Dev.modBsn_keeps | apply Dev.setCtx_keeps | apply Dev.setState_keeps
    | with_reducible first | apply Dev.putStamp_keeps | apply Dev.put_keeps | apply Dev.startDeltas_keeps
    | with_reducible first | apply Dev.startCapture_keeps | apply Dev.startSeq_keeps | apply Dev.setDelta_keeps
    | with_reducible first | apply Dev.trigger_keeps | apply Dev.enterEntry_keeps
    | (split <;> try lift_lets -underBinder)
    | with_reducible apply Dev.keep_mk

theorem Dev.dropDeck_keeps {m : Dev} (b : Nat) (status : Nat) (detail : Nat) (hk : m.canonical) : (Dev.dropDeck m b status detail).canonical
    := by
  unfold Dev.dropDeck
  try lift_lets -underBinder
  repeat first
    | with_reducible assumption
    | (intro n x hn; have : Dev.canonical n := hn; try lift_lets -underBinder)
    | with_reducible first | apply Dev.each_keeps | apply Dev.modBsn_keeps | apply Dev.modPin_keeps | apply Dev.setDelta_keeps
    | with_reducible apply Dev.setCtx_keeps
    | (split <;> try lift_lets -underBinder)
    | with_reducible apply Dev.keep_mk

theorem Dev.shutPpmus_keeps {m : Dev} (b : Nat) (hk : m.canonical) : (Dev.shutPpmus m b).canonical := by
  unfold Dev.shutPpmus
  try lift_lets -underBinder
  repeat first
    | with_reducible assumption
    | (intro n x hn; have : Dev.canonical n := hn; try lift_lets -underBinder)
    | with_reducible first | apply Dev.each_keeps | apply Dev.ppmuShut_keeps

theorem Dev.idleCheck_keeps {m : Dev} (b : Nat) (hk : m.canonical) : (Dev.idleCheck m b).canonical := by
  unfold Dev.idleCheck
  repeat first
    | with_reducible first | assumption | apply Dev.setState_keeps | apply Dev.keep_ite

theorem Dev.afterEnd_keeps {m : Dev} (b : Nat) (closing : Bool) (t : Instant) (hk : m.canonical) : (Dev.afterEnd m b closing t).canonical :=
    by
  unfold Dev.afterEnd
  repeat first
    | with_reducible first | assumption | apply Dev.marksOff_keeps | apply Dev.leaveHold_keeps | apply Dev.returnDeck_keeps
    | with_reducible first | apply Dev.setState_keeps | apply Dev.enterHold_keeps | apply Dev.shutPpmus_keeps | apply Dev.keep_ite

theorem Dev.endNormally_keeps {m : Dev} (b : Nat) (status : Nat) (t : Instant) (hk : m.canonical) : (Dev.endNormally m b status t).canonical
    := by
  unfold Dev.endNormally
  try lift_lets -underBinder
  repeat first
    | with_reducible assumption
    | (intro w; refine Dev.cut (p := Dev.canonical w) ?_ ?_; rotate_left; (intro _; clear_value w); rotate_right)
    | (intro w; refine Dev.cut (p := Dev.canonical w.1) ?_ ?_; rotate_left; (intro _; clear_value w); rotate_right)
    | (intro w; clear_value w)
    | with_reducible first | apply Dev.endBurst_keeps | apply Dev.takeCalOf_keeps | apply Dev.startBurst_keeps
    | with_reducible first | apply Dev.dropDeck_keeps | apply Dev.afterEnd_keeps
    | (split <;> try lift_lets -underBinder)

/-! ## Riffle -/

theorem Dev.checkWord_keeps {m : Dev} (b : Nat) (h : AtHand) (hk : m.canonical) : (Dev.checkWord m b h).1.canonical := by
  unfold Dev.checkWord
  try lift_lets -underBinder
  repeat first
    | with_reducible assumption
    | with_reducible first | apply Dev.each_keeps | apply Dev.storeErrors_keeps | apply Dev.courseFault_keeps | apply Dev.report_keeps
    | with_reducible first | apply Dev.wordFault_keeps | apply Dev.timingFault_keeps | apply Dev.keep_ite_fst | apply Dev.keep_ite
    | (intro n x hn; have : Dev.canonical n := hn; try lift_lets -underBinder)
    | (intro w; refine Dev.cut (p := Dev.canonical w) ?_ ?_; rotate_left; (intro _; clear_value w); rotate_right)
    | (intro w; refine Dev.cut (p := Dev.canonical w.1) ?_ ?_; rotate_left; (intro _; clear_value w); rotate_right)
    | (intro w; clear_value w)
    | (split <;> try lift_lets -underBinder)

theorem Dev.decode_keeps {m : Dev} (h : AtHand) (hk : m.canonical) : (Dev.decode m h).canonical := by
  unfold Dev.decode
  try lift_lets -underBinder
  repeat first
    | with_reducible assumption
    | (intro n x hn; have : Dev.canonical n := hn; try lift_lets -underBinder)
    | with_reducible first | apply Dev.each_keeps | apply Dev.modPin_keeps | apply Dev.keep_ite | apply Dev.keep_mk

theorem Dev.syncPoint_keeps {m : Dev} (b : Nat) (t : Instant) (hk : m.canonical) : (Dev.syncPoint m b t).canonical := by
  unfold Dev.syncPoint
  repeat first
    | with_reducible first | assumption | apply Dev.bump_keeps | apply Dev.setPair_keeps | apply Dev.modBsn_keeps

theorem Dev.signWords_keeps {m : Dev} (l : List (Nat × VecWord)) (hk : m.canonical) : (Dev.signWords m l).canonical := by
  unfold Dev.signWords
  try lift_lets -underBinder
  repeat first
    | with_reducible assumption
    | (intro n x hn; have : Dev.canonical n := hn; try lift_lets -underBinder)
    | with_reducible first | apply Dev.each_keeps | apply Dev.setReg_keeps

theorem Dev.signSucc_keeps {m : Dev} (l : List (Nat × VecWord)) (v : Nat) (hk : m.canonical) : (Dev.signSucc m l v).canonical := by
  unfold Dev.signSucc
  try lift_lets -underBinder
  repeat first
    | with_reducible assumption
    | (intro n x hn; have : Dev.canonical n := hn; try lift_lets -underBinder)
    | with_reducible first | apply Dev.each_keeps | apply Dev.setReg_keeps

theorem Dev.followMarks_keeps {m : Dev} (b : Nat) (mark : Nat) (t : Instant) (start : Instant) (hk : m.canonical) : (Dev.followMarks m b
    mark t start).canonical := by
  unfold Dev.followMarks
  repeat first
    | with_reducible first | assumption | apply Dev.setMarks_keeps | apply Dev.keep_ite

theorem Dev.beginWord_keeps {m : Dev} (b : Nat) (h : AtHand) (state : Nat) (hk : m.canonical) : (Dev.beginWord m b h state).1.canonical :=
    by
  unfold Dev.beginWord
  try lift_lets -underBinder
  repeat first
    | with_reducible assumption
    | (intro n x hn; have : Dev.canonical n := hn; try lift_lets -underBinder)
    | with_reducible first | apply Dev.each_keeps | apply Dev.decode_keeps | apply Dev.extendStream_keeps | apply Dev.setPair_keeps
    | with_reducible first | apply Dev.modRun_keeps | apply Dev.extend_keeps | apply Dev.showSet_keeps | apply Dev.showPc_keeps
    | with_reducible first | apply Dev.put_keeps | apply Dev.signWords_keeps | apply Dev.followMarks_keeps | apply Dev.loadStrobe_keeps
    | with_reducible first | apply Dev.syncPoint_keeps | apply Dev.keep_ite_fst | apply Dev.keep_ite | apply Dev.keep_mk

theorem Dev.playLanes_keeps (b : Nat) (switch : Bool) (t : Instant) (l : List (Nat × Instant × Int)) (n : Nat) :
    ∀ (ws : List (Nat × VecWord)) {m : Dev}, m.canonical → (m.playLanes b switch t l n ws).1.canonical
  | [], _, hk => hk
  | _ :: ws, _, hk => Dev.playLanes_keeps b switch t l n ws (Dev.keep_same hk rfl rfl rfl)

theorem Dev.playWord_keeps {m : Dev} (b : Nat) (h : AtHand) (switch : Bool) (t : Instant) (seen : Seen) (k : Nat) (hk : m.canonical) :
    (Dev.playWord m b h switch t seen k).canonical := by
  unfold Dev.playWord
  try lift_lets -underBinder
  repeat first
    | with_reducible assumption
    | (intro n x hn; have : Dev.canonical n := hn; try lift_lets -underBinder)
    | with_reducible first | apply Dev.each_keeps | apply Dev.playLanes_keeps | apply Dev.endPin_keeps | apply Dev.closeVector_keeps
    | with_reducible first | apply Dev.capTake_keeps | apply Dev.modBsn_keeps | apply Dev.modRun_keeps | apply Dev.engState_keeps
    | with_reducible first | apply Dev.playSamples_keeps | apply Dev.edgeClamp_keeps | apply Dev.report_keeps | apply Dev.keep_ite
    | with_reducible apply Dev.keep_mk

theorem Dev.endWord_keeps {m : Dev} (b : Nat) (h : AtHand) (byte : Nat) (succ : Nat → VecWord → Nat) (hk : m.canonical) : (Dev.endWord m b h
    byte succ).canonical := by
  unfold Dev.endWord
  try lift_lets -underBinder
  repeat first
    | with_reducible assumption
    | (intro n x hn; have : Dev.canonical n := hn; try lift_lets -underBinder)
    | with_reducible first | apply Dev.each_keeps | apply Dev.signSucc_keeps | apply Dev.modPin_keeps | apply Dev.modRun_keeps
    | with_reducible first | apply Dev.courseFault_keeps | apply Dev.keep_ite | apply Dev.keep_mk

theorem Dev.runWord_keeps {m : Dev} (b : Nat) (k : Nat) (seen : Seen) (after : Dev → AtHand → Dev) (hk : m.canonical) (hafter :
    ∀ (n : Dev) (x : AtHand), n.canonical → (after n x).canonical) : (Dev.runWord m b k seen after).canonical := by
  unfold Dev.runWord
  try lift_lets -underBinder
  repeat first
    | with_reducible assumption
    | (intro w; refine Dev.cut (p := Dev.canonical w) ?_ ?_; rotate_left; (intro _; clear_value w); rotate_right)
    | (intro w; refine Dev.cut (p := Dev.canonical w.1) ?_ ?_; rotate_left; (intro _; clear_value w); rotate_right)
    | (intro w; clear_value w)
    | with_reducible first | apply hafter | apply Dev.checkWord_keeps | apply Dev.beginWord_keeps | apply Dev.playWord_keeps
    | (split <;> try lift_lets -underBinder)

theorem Dev.takeDecision_keeps {m : Dev} (b : Nat) (cond : Nat) (hk : m.canonical) : (Dev.takeDecision m b cond).1.canonical := by
  unfold Dev.takeDecision
  repeat first
    | with_reducible first | assumption | apply Dev.tellSpan_keeps | apply Dev.consume_keeps | apply Dev.keep_ite_fst
    | with_reducible apply Dev.keep_ite

theorem Dev.wordRun_keeps {m : Dev} (b : Nat) (seen : Seen) (hk : m.canonical) : (Dev.wordRun m b seen).canonical := by
  unfold Dev.wordRun
  try lift_lets -underBinder
  repeat first
    | with_reducible assumption
    | (intro n x hn; have : Dev.canonical n := hn; try lift_lets -underBinder)
    | (intro w; refine Dev.cut (p := Dev.canonical w) ?_ ?_; rotate_left; (intro _; clear_value w); rotate_right)
    | (intro w; refine Dev.cut (p := Dev.canonical w.1) ?_ ?_; rotate_left; (intro _; clear_value w); rotate_right)
    | (intro w; clear_value w)
    | with_reducible first | apply Dev.each_keeps | apply Dev.checkWord_keeps | apply Dev.runWord_keeps | apply Dev.endWord_keeps
    | with_reducible apply Dev.takeDecision_keeps
    | (split <;> try lift_lets -underBinder)

theorem Dev.wordRepeat_keeps {m : Dev} (b : Nat) (seen : Seen) (hk : m.canonical) : (Dev.wordRepeat m b seen).canonical := by
  unfold Dev.wordRepeat
  try lift_lets -underBinder
  repeat first
    | with_reducible assumption
    | (intro n x hn; have : Dev.canonical n := hn; try lift_lets -underBinder)
    | with_reducible first | apply Dev.each_keeps | apply Dev.runWord_keeps | apply Dev.endWord_keeps
    | (split <;> try lift_lets -underBinder)

theorem Dev.wordLoopBegin_keeps {m : Dev} (b : Nat) (seen : Seen) (hk : m.canonical) : (Dev.wordLoopBegin m b seen).canonical := by
  unfold Dev.wordLoopBegin
  try lift_lets -underBinder
  repeat first
    | with_reducible assumption
    | (intro n x hn; have : Dev.canonical n := hn; try lift_lets -underBinder)
    | with_reducible first | apply Dev.each_keeps | apply Dev.runWord_keeps | apply Dev.put_keeps | apply Dev.endWord_keeps
    | (split <;> try lift_lets -underBinder)

theorem Dev.wordLoopEnd_keeps {m : Dev} (b : Nat) (seen : Seen) (hk : m.canonical) : (Dev.wordLoopEnd m b seen).canonical := by
  unfold Dev.wordLoopEnd
  try lift_lets -underBinder
  repeat first
    | with_reducible assumption
    | (intro n x hn; have : Dev.canonical n := hn; try lift_lets -underBinder)
    | (intro w; refine Dev.cut (p := Dev.canonical w) ?_ ?_; rotate_left; (intro _; clear_value w); rotate_right)
    | (intro w; refine Dev.cut (p := Dev.canonical w.1) ?_ ?_; rotate_left; (intro _; clear_value w); rotate_right)
    | (intro w; clear_value w)
    | with_reducible first | apply Dev.each_keeps | apply Dev.runWord_keeps | apply Dev.takeDecision_keeps | apply Dev.endWord_keeps
    | with_reducible apply Dev.put_keeps
    | (split <;> try lift_lets -underBinder)

theorem Dev.setStack_keeps {m : Dev} (p : Nat) (l : List Nat) (hk : m.canonical) : (Dev.setStack m p l).canonical := by
  unfold Dev.setStack
  repeat first
    | with_reducible first | assumption | apply Dev.modPin_keeps | apply Dev.put_keeps

theorem Dev.wordCall_keeps {m : Dev} (b : Nat) (seen : Seen) (hk : m.canonical) : (Dev.wordCall m b seen).canonical := by
  unfold Dev.wordCall
  try lift_lets -underBinder
  repeat first
    | with_reducible assumption
    | (intro n x hn; have : Dev.canonical n := hn; try lift_lets -underBinder)
    | with_reducible first | apply Dev.each_keeps | apply Dev.runWord_keeps | apply Dev.setStack_keeps | apply Dev.endWord_keeps

theorem Dev.wordReturn_keeps {m : Dev} (b : Nat) (seen : Seen) (hk : m.canonical) : (Dev.wordReturn m b seen).canonical := by
  unfold Dev.wordReturn
  try lift_lets -underBinder
  repeat first
    | with_reducible assumption
    | (intro n x hn; have : Dev.canonical n := hn; try lift_lets -underBinder)
    | with_reducible first | apply Dev.each_keeps | apply Dev.runWord_keeps | apply Dev.setStack_keeps | apply Dev.endWord_keeps

theorem Dev.waitBoundary_keeps {m : Dev} (b : Nat) (h : AtHand) (from_ : Instant) (hk : m.canonical) : (Dev.waitBoundary m b h
    from_).canonical := by
  unfold Dev.waitBoundary
  repeat first
    | with_reducible first | assumption | apply Dev.takeDecision_keeps | apply Dev.endWord_keeps | apply Dev.put_keeps
    | with_reducible first | apply Dev.modRun_keeps | apply Dev.keep_ite

theorem Dev.wordWait_keeps {m : Dev} (b : Nat) (seen : Seen) (hk : m.canonical) : (Dev.wordWait m b seen).canonical := by
  unfold Dev.wordWait
  try lift_lets -underBinder
  repeat first
    | with_reducible first | assumption | apply Dev.checkWord_keeps | apply Dev.courseFault_keeps | apply Dev.beginWord_keeps
    | with_reducible first | apply Dev.put_keeps | apply Dev.modRun_keeps | apply Dev.playWord_keeps | apply Dev.waitBoundary_keeps
    | with_reducible apply Dev.keep_ite
    | (split <;> try lift_lets -underBinder)
    | with_reducible apply Dev.keep_mk

theorem Dev.waitTimeout_keeps {m : Dev} (b : Nat) (hk : m.canonical) : (Dev.waitTimeout m b).canonical := by
  unfold Dev.waitTimeout
  try lift_lets -underBinder
  repeat first
    | with_reducible first | assumption | apply Dev.put_keeps | apply Dev.registerEvent_keeps | apply Dev.endWord_keeps
    | with_reducible apply Dev.keep_ite
    | (split <;> try lift_lets -underBinder)

theorem Dev.runSilent_keeps {m : Dev} (b : Nat) (k : Nat) (act : Dev → Nat × VecWord → Dev) (hk : m.canonical) (hact : ∀ (n : Dev) (x : Nat
    × VecWord), n.canonical → (act n x).canonical) : (Dev.runSilent m b k act).canonical := by
  unfold Dev.runSilent
  try lift_lets -underBinder
  repeat first
    | with_reducible assumption
    | (intro w; refine Dev.cut (p := Dev.canonical w.1) ?_ ?_; rotate_left; (intro _; clear_value w); rotate_right)
    | (intro n x hn; have : Dev.canonical n := hn; try lift_lets -underBinder)
    | with_reducible first | apply hact | apply Dev.each_keeps | apply Dev.checkWord_keeps | apply Dev.decode_keeps | apply Dev.signWords_keeps | apply Dev.modPin_keeps
    | with_reducible apply Dev.endWord_keeps
    | (split <;> try lift_lets -underBinder)

theorem Dev.wordPalette_keeps {m : Dev} (b : Nat) (hk : m.canonical) : (Dev.wordPalette m b).canonical := by
  unfold Dev.wordPalette
  try lift_lets -underBinder
  repeat first
    | with_reducible assumption
    | (intro n x hn; have : Dev.canonical n := hn; try lift_lets -underBinder)
    | with_reducible first | apply Dev.runSilent_keeps | apply Dev.setPair_keeps

theorem Dev.wordLevelStage_keeps {m : Dev} (b : Nat) (hk : m.canonical) : (Dev.wordLevelStage m b).canonical := by
  unfold Dev.wordLevelStage
  try lift_lets -underBinder
  repeat first
    | with_reducible assumption
    | (intro n x hn; have : Dev.canonical n := hn; try lift_lets -underBinder)
    | with_reducible first | apply Dev.runSilent_keeps | apply Dev.stageLevels_keeps | apply Dev.settlePin_keeps

theorem Dev.wordHalt_keeps {m : Dev} (b : Nat) (hk : m.canonical) : (Dev.wordHalt m b).canonical := by
  unfold Dev.wordHalt
  try lift_lets -underBinder
  repeat first
    | with_reducible assumption
    | (intro n x hn; have : Dev.canonical n := hn; try lift_lets -underBinder)
    | with_reducible first | apply Dev.each_keeps | apply Dev.checkWord_keeps | apply Dev.decode_keeps | apply Dev.signWords_keeps
    | with_reducible first | apply Dev.modPin_keeps | apply Dev.endNormally_keeps
    | (split <;> try lift_lets -underBinder)
    | with_reducible apply Dev.keep_mk

theorem Dev.syncVerdict_keeps {m : Dev} (b : Nat) (othersAgree : Bool) (hk : m.canonical) : (Dev.syncVerdict m b othersAgree).canonical :=
    by
  unfold Dev.syncVerdict
  try lift_lets -underBinder
  repeat first
    | with_reducible first | assumption | apply Dev.modBsn_keeps | apply Dev.put_keeps | apply Dev.report_keeps | apply Dev.keep_ite
    | (split <;> try lift_lets -underBinder)
    | with_reducible apply Dev.keep_mk

theorem Dev.flowMiss_keeps {m : Dev} (b : Nat) (t : Instant) (hk : m.canonical) : (Dev.flowMiss m b t).canonical := by
  unfold Dev.flowMiss
  repeat first
    | with_reducible first | assumption | apply Dev.report_keeps | apply Dev.keep_ite

theorem Dev.playRest_keeps {m : Dev} (b : Nat) (k : Nat) (seen : Seen) (hk : m.canonical) : (Dev.playRest m b k seen).canonical := by
  unfold Dev.playRest
  try lift_lets -underBinder
  repeat first
    | with_reducible first | assumption | apply Dev.playWord_keeps | apply Dev.checkWord_keeps | apply Dev.beginWord_keeps
    | with_reducible apply Dev.keep_ite
    | (split <;> try lift_lets -underBinder)

theorem Dev.cancelEnd_keeps {m : Dev} (b : Nat) (k : Nat) (seen : Seen) (hk : m.canonical) : (Dev.cancelEnd m b k seen).canonical := by
  unfold Dev.cancelEnd
  try lift_lets -underBinder
  repeat first
    | with_reducible first | assumption | apply Dev.playRest_keeps | apply Dev.modBsn_keeps | apply Dev.endBurst_keeps
    | with_reducible first | apply Dev.afterEnd_keeps | apply Dev.keep_ite
    | (split <;> try lift_lets -underBinder)
    | with_reducible apply Dev.keep_mk

/-! ## Sluice -/

theorem Dev.slcErr_keeps {m : Dev} (cls : Nat) (kind : Nat) (a : Nat) (hk : m.canonical) : (Dev.slcErr m cls kind a).canonical := by
  unfold Dev.slcErr
  try lift_lets -underBinder
  repeat first
    | with_reducible assumption
    | with_reducible first | apply Dev.setReg_keeps | apply Dev.put_keeps | apply Dev.keep_mk

theorem Dev.retry_keeps {m : Dev} (a : Nat) (hk : m.canonical) : (Dev.retry m a).canonical := by
  unfold Dev.retry
  try lift_lets -underBinder
  repeat first
    | with_reducible assumption
    | with_reducible first | apply Dev.put_keeps | apply Dev.report_keeps | apply Dev.keep_ite | apply Dev.keep_mk

theorem Dev.touch_keeps {m : Dev} (a : Nat) (hk : m.canonical) : (Dev.touch m a).canonical := by
  unfold Dev.touch
  repeat first
    | with_reducible first | assumption | apply Dev.keep_mk

theorem Dev.eccFound_keeps {m : Dev} (cls : Nat) (a : Nat) (e : Ecc) (hk : m.canonical) : (Dev.eccFound m cls a e).canonical := by
  unfold Dev.eccFound
  try lift_lets -underBinder
  repeat first
    | with_reducible first | assumption | apply Dev.count_keeps | apply Dev.slcErr_keeps | apply Dev.retry_keeps | apply Dev.keep_ite
    | (split <;> try lift_lets -underBinder)
    | with_reducible apply Dev.keep_mk

theorem Dev.poisonReport_keeps {m : Dev} (b : Nat) (a : Nat) (hk : m.canonical) : (Dev.poisonReport m b a).canonical := by
  unfold Dev.poisonReport
  try lift_lets -underBinder
  repeat first
    | with_reducible assumption
    | with_reducible first | apply Dev.report_keeps | apply Dev.keep_ite | apply Dev.keep_mk

theorem Dev.askHost_keeps {m : Dev} (n : Nat) (hk : m.canonical) : (Dev.askHost m n).canonical := by
  unfold Dev.askHost
  repeat first
    | with_reducible first | assumption | apply Dev.keep_mk

theorem Dev.readUnit_keeps {m : Dev} (b : Nat) (cls : Nat) (a : Nat) (e : Ecc) (hk : m.canonical) : (Dev.readUnit m b cls a e).1.canonical
    := by
  unfold Dev.readUnit
  repeat first
    | with_reducible first | assumption | apply Dev.touch_keeps | apply Dev.eccFound_keeps | apply Dev.poisonReport_keeps
    | with_reducible first | apply Dev.keep_ite_fst | apply Dev.keep_ite

/-! ## CourseCmd -/

theorem Dev.passBoundary_keeps {m : Dev} (b : Nat) (hk : m.canonical) : (Dev.passBoundary m b).canonical := by
  unfold Dev.passBoundary
  try lift_lets -underBinder
  repeat first
    | with_reducible first | assumption | apply Dev.courseFault_keeps | apply Dev.tellSpan_keeps | apply Dev.takeJump_keeps
    | with_reducible first | apply Dev.passSamples_keeps | apply Dev.beginPass_keeps | apply Dev.put_keeps
    | with_reducible first | apply Dev.endNormally_keeps | apply Dev.takeNext_keeps | apply Dev.keep_ite
    | (split <;> try lift_lets -underBinder)
    | with_reducible apply Dev.keep_mk

theorem Dev.landingEnd_keeps {m : Dev} (b : Nat) (hk : m.canonical) : (Dev.landingEnd m b).canonical := by
  unfold Dev.landingEnd
  repeat first
    | with_reducible first | assumption | apply Dev.put_keeps | apply Dev.keep_ite

theorem Dev.courseFetch_keeps {m : Dev} (b : Nat) (i : Nat) (t : Instant) (ecc : Ecc) (hk : m.canonical) : (Dev.courseFetch m b i t
    ecc).canonical := by
  unfold Dev.courseFetch
  try lift_lets -underBinder
  repeat first
    | with_reducible first | assumption | apply Dev.modBsn_keeps | apply Dev.readUnit_keeps | apply Dev.modDeck_keeps
    | with_reducible first | apply Dev.put_keeps | apply Dev.request_keeps | apply Dev.keep_ite
    | (split <;> try lift_lets -underBinder)
    | with_reducible apply Dev.keep_mk

theorem Dev.countUnit_keeps {m : Dev} (b : Nat) (l : Nat × Bool) (hk : m.canonical) : (Dev.countUnit m b l).canonical := by
  unfold Dev.countUnit
  repeat first
    | with_reducible first | assumption | apply Dev.modBsn_keeps | apply Dev.setDelta_keeps | apply Dev.modPin_keeps
    | with_reducible apply Dev.keep_ite

theorem Dev.refillWords_keeps {m : Dev} (b : Nat) (p : Nat) (t : Instant) (ecc : Ecc) (hk : m.canonical) : (Dev.refillWords m b p t
    ecc).canonical := by
  unfold Dev.refillWords
  try lift_lets -underBinder
  repeat first
    | with_reducible first | assumption | apply Dev.readUnit_keeps | apply Dev.modPin_keeps | apply Dev.keep_ite
    | (split <;> try lift_lets -underBinder)
    | with_reducible apply Dev.keep_mk

theorem Dev.refillSamples_keeps {m : Dev} (b : Nat) (u : Nat) (ecc : Ecc) (hk : m.canonical) : (Dev.refillSamples m b u ecc).canonical := by
  unfold Dev.refillSamples
  try lift_lets -underBinder
  repeat first
    | with_reducible first | assumption | apply Dev.readUnit_keeps | apply Dev.setDelta_keeps | apply Dev.keep_ite
    | (split <;> try lift_lets -underBinder)
    | with_reducible apply Dev.keep_mk

theorem Dev.tellHorizon_keeps {m : Dev} (b : Nat) (hk : m.canonical) : (Dev.tellHorizon m b).canonical := by
  unfold Dev.tellHorizon
  try lift_lets -underBinder
  repeat first
    | with_reducible assumption
    | (intro n x hn; have : Dev.canonical n := hn; try lift_lets -underBinder)
    | with_reducible first | apply Dev.each_keeps | apply Dev.sendFlow_keeps | apply Dev.keep_ite | apply Dev.keep_mk

theorem Dev.refillLand_keeps {m : Dev} (p : Nat) (sample : Bool) (t : Instant) (ecc : Ecc) (hk : m.canonical) :
    (Dev.refillLand m p sample t ecc).canonical := by
  unfold Dev.refillLand
  repeat first
    | with_reducible first | assumption | apply Dev.refillSamples_keeps | apply Dev.refillWords_keeps | apply Dev.countUnit_keeps
    | with_reducible first | apply Dev.tellHorizon_keeps | apply Dev.keep_ite
    | split

theorem Dev.stallLast_keeps {m : Dev} (b : Nat) (cause : Nat) (t : Instant) (hk : m.canonical) : (Dev.stallLast m b cause t).canonical := by
  unfold Dev.stallLast
  repeat first
    | with_reducible first | assumption | apply Dev.putStamp_keeps | apply Dev.put_keeps

theorem Dev.addStall_keeps {m : Dev} (b : Nat) (cause : Nat) (word : Nat) (t : Instant) (unit : Nat) (hk : m.canonical) : (Dev.addStall m b
    cause word t unit).canonical := by
  unfold Dev.addStall
  repeat first
    | with_reducible first | assumption | apply Dev.modRun_keeps | apply Dev.keep_ite

theorem Dev.underrunAbort_keeps {m : Dev} (b : Nat) (t : Instant) (hk : m.canonical) : (Dev.underrunAbort m b t).canonical := by
  unfold Dev.underrunAbort
  repeat first
    | with_reducible first | assumption | apply Dev.capUnder_keeps | apply Dev.endBurst_keeps | apply Dev.returnDeck_keeps
    | with_reducible first | apply Dev.stopTones_keeps | apply Dev.safeBasin_keeps | apply Dev.setState_keeps | apply Dev.report_keeps
    | with_reducible apply Dev.streamUnderrun_keeps

theorem Dev.streamUnderrun_keeps {m : Dev} (b : Nat) (hk : m.canonical) : (Dev.streamUnderrun m b).canonical := by
  unfold Dev.streamUnderrun
  try lift_lets -underBinder
  repeat first
    | with_reducible first | assumption | apply Dev.count_keeps | apply Dev.stallLast_keeps | apply Dev.addStall_keeps
    | with_reducible first | apply Dev.underrunAbort_keeps | apply Dev.modRun_keeps | apply Dev.capStall_keeps
    | with_reducible first | apply Dev.followMarks_keeps | apply Dev.put_keeps | apply Dev.enterHold_keeps | apply Dev.report_keeps
    | with_reducible apply Dev.keep_ite
    | (split <;> try lift_lets -underBinder)
    | with_reducible apply Dev.keep_mk

theorem Dev.stallEnd_keeps {m : Dev} (b : Nat) (holds : Nat) (hk : m.canonical) : (Dev.stallEnd m b holds).canonical := by
  unfold Dev.stallEnd
  try lift_lets -underBinder
  repeat first
    | with_reducible first | assumption | apply Dev.closeStall_keeps | apply Dev.leaveHold_keeps | apply Dev.modBsn_keeps
    | with_reducible first | apply Dev.enterEntry_keeps | apply Dev.put_keeps | apply Dev.engState_keeps | apply Dev.modRun_keeps
    | with_reducible apply Dev.keep_ite
    | (split <;> try lift_lets -underBinder)
    | with_reducible apply Dev.keep_mk

theorem Dev.sampleShort_keeps {m : Dev} (t : Nat) (at_ : Instant) (hk : m.canonical) : (Dev.sampleShort m t at_).canonical := by
  unfold Dev.sampleShort
  try lift_lets -underBinder
  repeat first
    | with_reducible first | assumption | apply Dev.playSamples_keeps | apply Dev.count_keeps | apply Dev.stallLast_keeps
    | with_reducible first | apply Dev.addStall_keeps | apply Dev.capUnder_keeps | apply Dev.underrunAbort_keeps
    | with_reducible first | apply Dev.setDelta_keeps | apply Dev.put_keeps | apply Dev.report_keeps | apply Dev.streamUnderrun_keeps
    | with_reducible apply Dev.keep_ite
    | (split <;> try lift_lets -underBinder)
    | with_reducible apply Dev.keep_mk

theorem Dev.sampleResume_keeps {m : Dev} (t : Nat) (at_ : Instant) (hk : m.canonical) : (Dev.sampleResume m t at_).canonical := by
  unfold Dev.sampleResume
  try lift_lets -underBinder
  repeat first
    | with_reducible first | assumption | apply Dev.closeDry_keeps | apply Dev.playSamplesN_keeps | apply Dev.keep_ite
    | (split <;> try lift_lets -underBinder)

theorem Dev.loadLane_keeps {m : Dev} (a : Nat) (first : Nat) (count : Nat) (lanes : Nat) (k : Nat) (e : Nat) (hk : m.canonical) :
    (Dev.loadLane m a first count lanes k e).canonical := by
  unfold Dev.loadLane
  try lift_lets -underBinder
  repeat first
    | with_reducible assumption
    | (intro n x hn; have : Dev.canonical n := hn; try lift_lets -underBinder)
    | with_reducible first | apply Dev.each_keeps | apply Dev.setWord_keeps

theorem Dev.resLoadDone_keeps {m : Dev} (b : Nat) (ecc : Ecc) (hk : m.canonical) : (Dev.resLoadDone m b ecc).canonical := by
  unfold Dev.resLoadDone
  try lift_lets -underBinder
  repeat first
    | with_reducible assumption
    | (intro n x hn; have : Dev.canonical n := hn; try lift_lets -underBinder)
    | with_reducible first | apply Dev.each_keeps | apply Dev.readUnit_keeps | apply Dev.put_keeps | apply Dev.dropDeck_keeps
    | with_reducible first | apply Dev.idleCheck_keeps | apply Dev.loadLane_keeps | apply Dev.modDeck_keeps
    | (split <;> try lift_lets -underBinder)
    | with_reducible apply Dev.keep_mk

theorem Dev.eventRegister_keeps {m : Dev} (b : Nat) (line : Nat) (rise : Bool) (t : Instant) (hk : m.canonical) : (Dev.eventRegister m b
    line rise t).canonical := by
  unfold Dev.eventRegister
  repeat first
    | with_reducible first | assumption | apply Dev.lineEdge_keeps

theorem Dev.eventSet_keeps {m : Dev} (b : Nat) (mask : Nat) (hk : m.canonical) : (Dev.eventSet m b mask).canonical := by
  unfold Dev.eventSet
  try lift_lets -underBinder
  repeat first
    | with_reducible assumption
    | (intro n x hn; have : Dev.canonical n := hn; try lift_lets -underBinder)
    | with_reducible first | apply Dev.each_keeps | apply Dev.registerEvent_keeps | apply Dev.keep_ite

theorem Dev.eventClear_keeps {m : Dev} (b : Nat) (mask : Nat) (hk : m.canonical) : (Dev.eventClear m b mask).canonical := by
  unfold Dev.eventClear
  repeat first
    | with_reducible first | assumption | apply Dev.modBsn_keeps

theorem Dev.windowStart_keeps {m : Dev} (p : Nat) (write : Bool) (hk : m.canonical) : (Dev.windowStart m p write).canonical := by
  unfold Dev.windowStart
  repeat first
    | with_reducible first | assumption | apply Dev.put_keeps | apply Dev.modPin_keeps | apply Dev.keep_ite

theorem Dev.storeRead_keeps {m : Dev} (p : Nat) (e : Nat) (a : Nat) (hk : m.canonical) : (Dev.storeRead m p e a).canonical := by
  unfold Dev.storeRead
  try lift_lets -underBinder
  repeat first
    | with_reducible assumption
    | (intro n x hn; have : Dev.canonical n := hn; try lift_lets -underBinder)
    | with_reducible first | apply Dev.each_keeps | apply Dev.report_keeps | apply Dev.setReg_keeps | apply Dev.keep_ite
    | with_reducible apply Dev.keep_mk

theorem Dev.windowDone_keeps {m : Dev} (p : Nat) (hk : m.canonical) : (Dev.windowDone m p).canonical := by
  unfold Dev.windowDone
  try lift_lets -underBinder
  repeat first
    | with_reducible first | assumption | apply Dev.put_keeps | apply Dev.modPin_keeps | apply Dev.setWord_keeps
    | with_reducible first | apply Dev.storeRead_keeps | apply Dev.keep_ite
    | (split <;> try lift_lets -underBinder)
    | with_reducible apply Dev.keep_mk

theorem Dev.storeScrub_keeps {m : Dev} (e : Nat) (hk : m.canonical) : (Dev.storeScrub m e).canonical := by
  unfold Dev.storeScrub
  try lift_lets -underBinder
  repeat first
    | with_reducible assumption
    | (intro n x hn; have : Dev.canonical n := hn; try lift_lets -underBinder)
    | with_reducible first | apply Dev.each_keeps | apply Dev.setFlip_keeps | apply Dev.report_keeps

end Sys2Proof.Machine
end

