-- ==== Sys2Proof/Laws/KeepEvents.lean ====
section
/-! SUPPORT. Canonical memories are kept by every operation of the machine: Weir, the catchment image, the clocks and Sluice. One lemma for each
operation, named after it. -/

set_option maxRecDepth 4000

namespace Sys2Proof.Machine

/-! ## Weir -/

theorem Dev.modWeir_keeps {m : Dev} (f : WeirX → WeirX) (hk : m.canonical) : (Dev.modWeir m f).canonical := by
  unfold Dev.modWeir
  repeat first
    | with_reducible first | assumption | apply Dev.keep_mk

theorem Dev.joinList_keeps {m : Dev} (b : Nat) (l : Nat) (c : Nat) (hk : m.canonical) : (Dev.joinList m b l c).canonical := by
  unfold Dev.joinList
  repeat first
    | with_reducible first | assumption | apply Dev.modBsn_keeps | apply Dev.setCtx_keeps | apply Dev.trace_keeps | apply Dev.keep_ite

theorem Dev.finish_keeps {m : Dev} (b : Nat) (c : Nat) (status : Nat) (detail : Nat) (hk : m.canonical) : (Dev.finish m b c status
    detail).canonical := by
  unfold Dev.finish
  repeat first
    | with_reducible first | assumption | apply Dev.setCtx_keeps | apply Dev.modBsn_keeps

theorem Dev.cancelShow_keeps {m : Dev} (hk : m.canonical) : (Dev.cancelShow m).canonical := by
  unfold Dev.cancelShow
  repeat first
    | with_reducible first | assumption | apply Dev.put_keeps

theorem Dev.cancelResult_keeps {m : Dev} (r : Nat) (hk : m.canonical) : (Dev.cancelResult m r).canonical := by
  unfold Dev.cancelResult
  repeat first
    | with_reducible first | assumption | apply Dev.put_keeps | apply Dev.cancelShow_keeps

theorem Dev.makeReady_keeps {m : Dev} (l : Landed) (hk : m.canonical) : (Dev.makeReady m l).canonical := by
  unfold Dev.makeReady
  repeat first
    | with_reducible first | assumption | apply Dev.modWeir_keeps | apply Dev.finish_keeps | apply Dev.cancelResult_keeps
    | with_reducible first | apply Dev.setMem_keeps | apply Dev.trace_keeps | apply Dev.joinList_keeps | apply Dev.keep_ite

theorem Dev.readyAll_keeps {m : Dev} (hk : m.canonical) : (Dev.readyAll m).canonical := by
  unfold Dev.readyAll
  try lift_lets -underBinder
  repeat first
    | with_reducible assumption
    | (intro n x hn; have : Dev.canonical n := hn; try lift_lets -underBinder)
    | with_reducible first | apply Dev.each_keeps | apply Dev.modWeir_keeps | apply Dev.makeReady_keeps | apply Dev.keep_mk

theorem Dev.unspill_keeps {m : Dev} (b : Nat) (l : Nat) (hk : m.canonical) : (Dev.unspill m b l).canonical := by
  unfold Dev.unspill
  try lift_lets -underBinder
  repeat first
    | with_reducible first | assumption | apply Dev.modWeir_keeps | apply Dev.modBsn_keeps | apply Dev.setCtx_keeps
    | with_reducible first | apply Dev.trace_keeps | apply Dev.keep_ite
    | (split <;> try lift_lets -underBinder)
    | with_reducible apply Dev.keep_mk

theorem Dev.clearDeck_keeps {m : Dev} (b : Nat) (hk : m.canonical) : (Dev.clearDeck m b).canonical := by
  unfold Dev.clearDeck
  try lift_lets -underBinder
  repeat first
    | with_reducible assumption
    | (intro n x hn; have : Dev.canonical n := hn; try lift_lets -underBinder)
    | with_reducible first | apply Dev.each_keeps | apply Dev.modBsn_keeps | apply Dev.put_keeps | apply Dev.modPin_keeps
    | with_reducible first | apply Dev.setDelta_keeps | apply Dev.keep_ite | apply Dev.keep_mk

theorem Dev.takeCancel_keeps {m : Dev} (fixed : Nat → Bool) (e : Nat × Bool × Nat) (hk : m.canonical) : (Dev.takeCancel m fixed e).canonical
    := by
  unfold Dev.takeCancel
  repeat first
    | with_reducible first | assumption | apply Dev.modBsn_keeps | apply Dev.trace_keeps | apply Dev.finish_keeps
    | with_reducible first | apply Dev.idleCheck_keeps | apply Dev.cancelResult_keeps | apply Dev.clearDeck_keeps
    | with_reducible first | apply Dev.modDeck_keeps | apply Dev.modRun_keeps | apply Dev.modWeir_keeps | apply Dev.cancelShow_keeps
    | with_reducible apply Dev.keep_ite

theorem Dev.bulk_keeps {m : Dev} (b : Nat) (status : Nat) (cs : List Nat) (hk : m.canonical) : (Dev.bulk m b status cs).canonical := by
  unfold Dev.bulk
  try lift_lets -underBinder
  repeat first
    | with_reducible assumption
    | (intro n x hn; have : Dev.canonical n := hn; try lift_lets -underBinder)
    | with_reducible first | apply Dev.each_keeps | apply Dev.setCtx_keeps | apply Dev.modBsn_keeps
    | (split <;> try lift_lets -underBinder)
    | with_reducible apply Dev.keep_mk

theorem Dev.takeBasinCancel_keeps {m : Dev} (e : Nat × Bool × List Nat) (hk : m.canonical) : (Dev.takeBasinCancel m e).canonical := by
  unfold Dev.takeBasinCancel
  try lift_lets -underBinder
  repeat first
    | with_reducible assumption
    | (intro n x hn; have : Dev.canonical n := hn; try lift_lets -underBinder)
    | with_reducible first | apply Dev.each_keeps | apply Dev.modBsn_keeps | apply Dev.clearDeck_keeps | apply Dev.bulk_keeps
    | with_reducible first | apply Dev.idleCheck_keeps | apply Dev.modRun_keeps | apply Dev.finish_keeps | apply Dev.modDeck_keeps
    | with_reducible apply Dev.elim_keeps
    | intro x
    | (split <;> try lift_lets -underBinder)
    | with_reducible apply Dev.keep_mk

theorem Dev.takeCancels_keeps {m : Dev} (fixed : Nat → Bool) (hk : m.canonical) : (Dev.takeCancels m fixed).canonical := by
  unfold Dev.takeCancels
  try lift_lets -underBinder
  repeat first
    | with_reducible assumption
    | (intro n x hn; have : Dev.canonical n := hn; try lift_lets -underBinder)
    | with_reducible first | apply Dev.each_keeps | apply Dev.modWeir_keeps | apply Dev.takeCancel_keeps
    | with_reducible first | apply Dev.takeBasinCancel_keeps | apply Dev.cancelShow_keeps | apply Dev.keep_mk

theorem Dev.weiCancel_keeps {m : Dev} (c : Nat) (abort : Bool) (hk : m.canonical) : (Dev.weiCancel m c abort).canonical := by
  unfold Dev.weiCancel
  repeat first
    | with_reducible first | assumption | apply Dev.put_keeps | apply Dev.modWeir_keeps | apply Dev.cancelShow_keeps
    | with_reducible apply Dev.keep_ite

theorem Dev.weiCancelBasin_keeps {m : Dev} (b : Nat) (abort : Bool) (hk : m.canonical) : (Dev.weiCancelBasin m b abort).canonical := by
  unfold Dev.weiCancelBasin
  repeat first
    | with_reducible first | assumption | apply Dev.modWeir_keeps

theorem Dev.burstTimeout_keeps {m : Dev} (b : Nat) (hk : m.canonical) : (Dev.burstTimeout m b).canonical := by
  unfold Dev.burstTimeout
  try lift_lets -underBinder
  repeat first
    | with_reducible first | assumption | apply Dev.modRun_keeps | apply Dev.keep_ite
    | (split <;> try lift_lets -underBinder)
    | with_reducible apply Dev.keep_mk

theorem Dev.dispatchOne_keeps {m : Dev} (b : Nat) (l : Nat) (hk : m.canonical) : (Dev.dispatchOne m b l).canonical := by
  unfold Dev.dispatchOne
  try lift_lets -underBinder
  repeat first
    | with_reducible first | assumption | apply Dev.modBsn_keeps | apply Dev.trace_keeps | apply Dev.dispatch_keeps
    | with_reducible first | apply Dev.finish_keeps | apply Dev.idleCheck_keeps | apply Dev.setCtx_keeps | apply Dev.keep_ite
    | (split <;> try lift_lets -underBinder)
    | with_reducible apply Dev.keep_mk

theorem Dev.dispatch_keeps {m : Dev} (hk : m.canonical) : (Dev.dispatch m).canonical := by
  unfold Dev.dispatch
  try lift_lets -underBinder
  repeat first
    | with_reducible assumption
    | (intro n x hn; have : Dev.canonical n := hn; try lift_lets -underBinder)
    | with_reducible first | apply Dev.each_keeps | apply Dev.put_keeps | apply Dev.modBsn_keeps | apply Dev.dispatchOne_keeps
    | with_reducible first | apply Dev.keep_ite | apply Dev.keep_mk

theorem Dev.capParam_keeps {m : Dev} (b : Nat) (off : Nat) (v : Nat) (hk : m.canonical) : (Dev.capParam m b off v).canonical := by
  unfold Dev.capParam
  repeat first
    | with_reducible first | assumption | apply Dev.put_keeps | apply Dev.writeFields_keeps | apply Dev.keep_ite

theorem Dev.setupWrite_keeps {m : Dev} (b : Nat) (e : Nat × Nat) (hk : m.canonical) : (Dev.setupWrite m b e).canonical := by
  unfold Dev.setupWrite
  try lift_lets -underBinder
  repeat first
    | with_reducible first | assumption | apply Dev.modDeck_keeps | apply Dev.userDeliver_keeps | apply Dev.writeFields_keeps
    | with_reducible first | apply Dev.capFields_keeps | apply Dev.stagePair_keeps | apply Dev.capParam_keeps | apply Dev.keep_ite
    | (split <;> try lift_lets -underBinder)
    | with_reducible apply Dev.keep_mk

theorem Dev.deliver_keeps {m : Dev} (b : Nat) (ecc : Ecc) (hk : m.canonical) : (Dev.deliver m b ecc).canonical := by
  unfold Dev.deliver
  try lift_lets -underBinder
  repeat first
    | with_reducible assumption
    | (intro n x hn; have : Dev.canonical n := hn; try lift_lets -underBinder)
    | with_reducible first | apply Dev.each_keeps | apply Dev.readUnit_keeps | apply Dev.dropDeck_keeps | apply Dev.idleCheck_keeps
    | with_reducible first | apply Dev.setupWrite_keeps | apply Dev.takeTiming_keeps | apply Dev.takeDeck_keeps
    | with_reducible first | apply Dev.burstArm_keeps | apply Dev.modDeck_keeps
    | (split <;> try lift_lets -underBinder)
    | with_reducible apply Dev.keep_mk

theorem Dev.enterDeck_keeps {m : Dev} (b : Nat) (hk : m.canonical) : (Dev.enterDeck m b).canonical := by
  unfold Dev.enterDeck
  try lift_lets -underBinder
  repeat first
    | with_reducible assumption
    | (intro n x hn; have : Dev.canonical n := hn; try lift_lets -underBinder)
    | with_reducible first | apply Dev.each_keeps | apply Dev.modPin_keeps | apply Dev.setDelta_keeps | apply Dev.put_keeps
    | with_reducible apply Dev.modDeck_keeps
    | (split <;> try lift_lets -underBinder)
    | with_reducible apply Dev.keep_mk

theorem Dev.prime_keeps {m : Dev} (b : Nat) (t : Instant) (hk : m.canonical) : (Dev.prime m b t).canonical := by
  unfold Dev.prime
  try lift_lets -underBinder
  repeat first
    | with_reducible first | assumption | apply Dev.modDeck_keeps | apply Dev.keep_ite
    | (split <;> try lift_lets -underBinder)
    | with_reducible apply Dev.keep_mk

theorem Dev.seePrimed_keeps {m : Dev} (hk : m.canonical) : (Dev.seePrimed m).canonical := by
  unfold Dev.seePrimed
  try lift_lets -underBinder
  repeat first
    | with_reducible assumption
    | (intro n x hn; have : Dev.canonical n := hn; try lift_lets -underBinder)
    | with_reducible first | apply Dev.each_keeps | apply Dev.modDeck_keeps | apply Dev.trace_keeps
    | (split <;> try lift_lets -underBinder)
    | with_reducible apply Dev.keep_mk

theorem Dev.tellPrimed_keeps {m : Dev} (hk : m.canonical) : (Dev.tellPrimed m).canonical := by
  unfold Dev.tellPrimed
  try lift_lets -underBinder
  repeat first
    | with_reducible assumption
    | (intro n x hn; have : Dev.canonical n := hn; try lift_lets -underBinder)
    | with_reducible first | apply Dev.each_keeps | apply Dev.modDeck_keeps
    | (split <;> try lift_lets -underBinder)
    | with_reducible apply Dev.keep_mk

theorem Dev.acceptStart_keeps {m : Dev} (b : Nat) (s : Nat) (hk : m.canonical) : (Dev.acceptStart m b s).canonical := by
  unfold Dev.acceptStart
  repeat first
    | with_reducible first | assumption | apply Dev.tellSpan_keeps | apply Dev.modBsn_keeps | apply Dev.modDeck_keeps
    | with_reducible apply Dev.keep_ite

theorem Dev.deferStart_keeps {m : Dev} (b : Nat) (hk : m.canonical) : (Dev.deferStart m b).canonical := by
  unfold Dev.deferStart
  try lift_lets -underBinder
  repeat first
    | with_reducible first | assumption | apply Dev.modDeck_keeps | apply Dev.put_keeps | apply Dev.trace_keeps
    | (split <;> try lift_lets -underBinder)
    | with_reducible apply Dev.keep_mk

theorem Dev.offer_keeps : ∀ (l : List Nat) {m : Dev}, m.canonical → (m.offer l).1.canonical
  | [], _, hk => hk
  | b :: rest, m, hk => by
    unfold Dev.offer
    dsimp only
    split
    · exact Dev.offer_keeps rest (Dev.acceptStart_keeps _ _ hk)
    · exact Dev.foldl_keeps (fun _ _ h => Dev.deferStart_keeps _ h) _ hk

theorem Dev.holdStart_keeps {m : Dev} (b : Nat) (hk : m.canonical) : (Dev.holdStart m b).canonical := by
  unfold Dev.holdStart
  try lift_lets -underBinder
  repeat first
    | with_reducible assumption
    | (intro w; refine Dev.cut (p := Dev.canonical w) ?_ ?_; rotate_left; (intro _; clear_value w); rotate_right)
    | (intro w; refine Dev.cut (p := Dev.canonical w.1) ?_ ?_; rotate_left; (intro _; clear_value w); rotate_right)
    | (intro w; clear_value w)
    | with_reducible first | apply Dev.put_keeps | apply Dev.trace_keeps
    | (split <;> try lift_lets -underBinder)

theorem Dev.decideStarts_keeps {m : Dev} (hk : m.canonical) : (Dev.decideStarts m).canonical := by
  unfold Dev.decideStarts
  try lift_lets -underBinder
  repeat first
    | with_reducible assumption
    | (intro w; refine Dev.cut (p := Dev.canonical w) ?_ ?_; rotate_left; (intro _; clear_value w); rotate_right)
    | (intro w; refine Dev.cut (p := Dev.canonical w.1) ?_ ?_; rotate_left; (intro _; clear_value w); rotate_right)
    | (intro w; clear_value w)
    | (intro n x hn; have : Dev.canonical n := hn; try lift_lets -underBinder)
    | with_reducible first | apply Dev.each_keeps | apply Dev.put_keeps | apply Dev.holdStart_keeps | apply Dev.trace_keeps
    | with_reducible first | apply Dev.deferStart_keeps | apply Dev.report_keeps | apply Dev.offer_keeps | apply Dev.foldl_keeps
    | with_reducible apply Dev.keep_ite_fst
    | (split <;> try lift_lets -underBinder)

theorem Dev.startFromHold_keeps {m : Dev} (b : Nat) (hk : m.canonical) : (Dev.startFromHold m b).canonical := by
  unfold Dev.startFromHold
  try lift_lets -underBinder
  repeat first
    | with_reducible first | assumption | apply Dev.dropDeck_keeps | apply Dev.idleCheck_keeps | apply Dev.startBurst_keeps
    | with_reducible apply Dev.keep_ite
    | (split <;> try lift_lets -underBinder)

theorem Dev.rampStep_keeps {m : Dev} (b : Nat) (hk : m.canonical) : (Dev.rampStep m b).canonical := by
  unfold Dev.rampStep
  try lift_lets -underBinder
  repeat first
    | with_reducible assumption
    | (intro n x hn; have : Dev.canonical n := hn; try lift_lets -underBinder)
    | with_reducible first | apply Dev.each_keeps | apply Dev.checkHold_keeps | apply Dev.playHoldPin_keeps | apply Dev.modPin_keeps
    | with_reducible first | apply Dev.put_keeps | apply Dev.modBsn_keeps
    | (split <;> try lift_lets -underBinder)
    | with_reducible apply Dev.keep_mk

theorem Dev.minBurstExpire_keeps {m : Dev} (b : Nat) (hk : m.canonical) : (Dev.minBurstExpire m b).canonical := by
  unfold Dev.minBurstExpire
  repeat first
    | with_reducible first | assumption | apply Dev.put_keeps | apply Dev.keep_ite

theorem Dev.writeResult_keeps {m : Dev} (b : Nat) (d : Done) (hk : m.canonical) : (Dev.writeResult m b d).canonical := by
  unfold Dev.writeResult
  try lift_lets -underBinder
  repeat first
    | with_reducible first | assumption | apply Dev.setBytes_keeps
    | (split <;> try lift_lets -underBinder)

theorem Dev.postEntry_keeps {m : Dev} (q : Nat) (e : CqEntry) (hk : m.canonical) : (Dev.postEntry m q e).canonical := by
  unfold Dev.postEntry
  try lift_lets -underBinder
  repeat first
    | with_reducible assumption
    | with_reducible first | apply Dev.hostWrite_keeps | apply Dev.put_keeps | apply Dev.bump_keeps | apply Dev.setCtx_keeps
    | with_reducible first | apply Dev.msix_keeps | apply Dev.keep_ite | apply Dev.keep_mk

theorem Dev.postOrWait_keeps {m : Dev} (q : Nat) (e : CqEntry) (hk : m.canonical) : (Dev.postOrWait m q e).canonical := by
  unfold Dev.postOrWait
  repeat first
    | with_reducible first | assumption | apply Dev.postEntry_keeps | apply Dev.modWeir_keeps | apply Dev.put_keeps
    | with_reducible apply Dev.keep_ite

theorem Dev.completeNow_keeps {m : Dev} (b : Nat) (hk : m.canonical) : (Dev.completeNow m b).canonical := by
  unfold Dev.completeNow
  try lift_lets -underBinder
  repeat first
    | with_reducible assumption
    | (intro n x hn; have : Dev.canonical n := hn; try lift_lets -underBinder)
    | with_reducible first | apply Dev.each_keeps | apply Dev.modBsn_keeps | apply Dev.recordComplete_keeps
    | with_reducible first | apply Dev.writeResult_keeps | apply Dev.trace_keeps | apply Dev.complete_keeps
    | with_reducible apply Dev.postOrWait_keeps
    | (split <;> try lift_lets -underBinder)
    | with_reducible apply Dev.keep_mk

theorem Dev.complete_keeps {m : Dev} (b : Nat) (hk : m.canonical) : (Dev.complete m b).canonical := by
  unfold Dev.complete
  try lift_lets -underBinder
  repeat first
    | with_reducible first | assumption | apply Dev.modBsn_keeps | apply Dev.completeNow_keeps | apply Dev.keep_ite
    | (split <;> try lift_lets -underBinder)
    | with_reducible apply Dev.keep_mk

theorem Dev.completionPost_keeps {m : Dev} (q : Nat) (hk : m.canonical) : (Dev.completionPost m q).canonical := by
  unfold Dev.completionPost
  try lift_lets -underBinder
  repeat first
    | with_reducible first | assumption | apply Dev.modWeir_keeps | apply Dev.postEntry_keeps | apply Dev.keep_ite
    | (split <;> try lift_lets -underBinder)
    | with_reducible apply Dev.keep_mk

theorem Dev.timemark_keeps {m : Dev} (hk : m.canonical) : (Dev.timemark m).canonical := by
  unfold Dev.timemark
  repeat first
    | with_reducible first | assumption | apply Dev.traceWord_keeps | apply Dev.keep_ite

theorem Dev.weirProgram_keeps {m : Dev} (fixed : Nat → Bool) (hk : m.canonical) : (Dev.weirProgram m fixed).canonical := by
  unfold Dev.weirProgram
  try lift_lets -underBinder
  repeat first
    | with_reducible assumption
    | with_reducible first | apply Dev.timemark_keeps | apply Dev.takeCancels_keeps | apply Dev.readyAll_keeps
    | with_reducible first | apply Dev.seePrimed_keeps | apply Dev.tellPrimed_keeps | apply Dev.dispatch_keeps
    | with_reducible first | apply Dev.decideStarts_keeps | apply Dev.keep_ite

/-! ## Catchment -/

theorem Dev.writeReasons_keeps {m : Dev} (s : Nat) (l : List Reason) (hk : m.canonical) : (Dev.writeReasons m s l).canonical := by
  unfold Dev.writeReasons
  try lift_lets -underBinder
  repeat first
    | with_reducible assumption
    | (intro n x hn; have : Dev.canonical n := hn; try lift_lets -underBinder)
    | with_reducible first | apply Dev.each_keeps | apply Dev.setMem_keeps | apply Dev.partialCount_keeps

theorem Dev.refuse_keeps {m : Dev} (s : Nat) (l : List Reason) (hk : m.canonical) : (Dev.refuse m s l).canonical := by
  unfold Dev.refuse
  repeat first
    | with_reducible first | assumption | apply Dev.writeReasons_keeps | apply Dev.opEnd_keeps

theorem Dev.catchStart_keeps {m : Dev} (s : Nat) (op : Nat) (irq : Bool) (hk : m.canonical) : (Dev.catchStart m s op irq).1.canonical := by
  unfold Dev.catchStart
  repeat first
    | with_reducible first | assumption | apply Dev.opStart_keeps | apply Dev.writeReasons_keeps | apply Dev.keep_ite_fst
    | with_reducible apply Dev.keep_ite

theorem Dev.catchState_keeps {m : Dev} (v : Nat) (hk : m.canonical) : (Dev.catchState m v).canonical := by
  unfold Dev.catchState
  repeat first
    | with_reducible first | assumption | apply Dev.put_keeps

theorem Dev.catchLoad_keeps {m : Dev} (s : Nat) (irq : Bool) (hk : m.canonical) : (Dev.catchLoad m s irq).canonical := by
  unfold Dev.catchLoad
  try lift_lets -underBinder
  repeat first
    | with_reducible first | assumption | apply Dev.catchStart_keeps | apply Dev.refuse_keeps | apply Dev.catchState_keeps
    | with_reducible apply Dev.keep_ite
    | (split <;> try lift_lets -underBinder)
    | with_reducible apply Dev.keep_mk

theorem Dev.catchCheck_keeps {m : Dev} (s : Nat) (irq : Bool) (hk : m.canonical) : (Dev.catchCheck m s irq).canonical := by
  unfold Dev.catchCheck
  try lift_lets -underBinder
  repeat first
    | with_reducible first | assumption | apply Dev.catchStart_keeps | apply Dev.opEnd_keeps | apply Dev.refuse_keeps
    | with_reducible apply Dev.keep_ite
    | (split <;> try lift_lets -underBinder)

theorem Dev.showLinks_keeps {m : Dev} (hk : m.canonical) : (Dev.showLinks m).canonical := by
  unfold Dev.showLinks
  try lift_lets -underBinder
  repeat first
    | with_reducible assumption
    | (intro n x hn; have : Dev.canonical n := hn; try lift_lets -underBinder)
    | with_reducible first | apply Dev.each_keeps | apply Dev.put_keeps

theorem Dev.setLat_keeps {m : Dev} (b : Nat) (l : Nat) (hk : m.canonical) : (Dev.setLat m b l).canonical := by
  unfold Dev.setLat
  repeat first
    | with_reducible first | assumption | apply Dev.put_keeps

theorem Dev.showBasin_keeps {m : Dev} (b : Nat) (hk : m.canonical) : (Dev.showBasin m b).canonical := by
  unfold Dev.showBasin
  repeat first
    | with_reducible first | assumption | apply Dev.put_keeps | apply Dev.setLat_keeps | apply Dev.modBsn_keeps

theorem Dev.showPin_keeps {m : Dev} (p : Nat) (hk : m.canonical) : (Dev.showPin m p).canonical := by
  unfold Dev.showPin
  repeat first
    | with_reducible first | assumption | apply Dev.put_keeps | apply Dev.keep_ite

theorem Dev.showDelta_keeps {m : Dev} (t : Nat) (hk : m.canonical) : (Dev.showDelta m t).canonical := by
  unfold Dev.showDelta
  try lift_lets -underBinder
  repeat first
    | with_reducible assumption
    | (intro n x hn; have : Dev.canonical n := hn; try lift_lets -underBinder)
    | with_reducible first | apply Dev.each_keeps | apply Dev.setReg_keeps | apply Dev.put_keeps | apply Dev.setDelta_keeps
    | with_reducible apply Dev.keep_ite

theorem Dev.showAudit_keeps {m : Dev} (load : Bool) (t : Nat) (hk : m.canonical) : (Dev.showAudit m load t).canonical := by
  unfold Dev.showAudit
  repeat first
    | with_reducible first | assumption | apply Dev.put_keeps | apply Dev.keep_ite

theorem Dev.showDemand_keeps {m : Dev} (hk : m.canonical) : (Dev.showDemand m).canonical := by
  unfold Dev.showDemand
  repeat first
    | with_reducible first | assumption | apply Dev.put_keeps

theorem Dev.reroute_keeps {m : Dev} (old : List (Nat × Nat)) (hk : m.canonical) : (Dev.reroute m old).canonical := by
  unfold Dev.reroute
  try lift_lets -underBinder
  repeat first
    | with_reducible assumption
    | (intro n x hn; have : Dev.canonical n := hn; try lift_lets -underBinder)
    | with_reducible first | apply Dev.each_keeps | apply Dev.setLevel_keeps

theorem Dev.showImage_keeps {m : Dev} (hk : m.canonical) : (Dev.showImage m).canonical := by
  unfold Dev.showImage
  repeat first
    | with_reducible first | assumption | apply Dev.put_keeps

theorem Dev.catchLoadCommit_keeps {m : Dev} (hk : m.canonical) : (Dev.catchLoadCommit m).canonical := by
  unfold Dev.catchLoadCommit
  try lift_lets -underBinder
  repeat first
    | with_reducible assumption
    | (intro n x hn; have : Dev.canonical n := hn; try lift_lets -underBinder)
    | with_reducible first | apply Dev.each_keeps | apply Dev.catchLoad_keeps | apply Dev.catchState_keeps | apply Dev.bump_keeps
    | with_reducible first | apply Dev.showImage_keeps | apply Dev.showBasin_keeps | apply Dev.setState_keeps | apply Dev.showPin_keeps
    | with_reducible first | apply Dev.showDelta_keeps | apply Dev.showAudit_keeps | apply Dev.put_keeps | apply Dev.showDemand_keeps
    | with_reducible first | apply Dev.showLinks_keeps | apply Dev.reroute_keeps | apply Dev.opEnd_keeps
    | (split <;> try lift_lets -underBinder)
    | with_reducible apply Dev.keep_mk

theorem Dev.catchWithdraw_keeps {m : Dev} (s : Nat) (irq : Bool) (hk : m.canonical) : (Dev.catchWithdraw m s irq).canonical := by
  unfold Dev.catchWithdraw
  try lift_lets -underBinder
  repeat first
    | with_reducible assumption
    | (intro n x hn; have : Dev.canonical n := hn; try lift_lets -underBinder)
    | with_reducible first | apply Dev.each_keeps | apply Dev.catchStart_keeps | apply Dev.refuse_keeps | apply Dev.catchState_keeps
    | with_reducible first | apply Dev.put_keeps | apply Dev.endBurst_keeps | apply Dev.afterEnd_keeps | apply Dev.keep_ite

theorem Dev.dropQueue_keeps {m : Dev} (q : Nat) (hk : m.canonical) : (Dev.dropQueue m q).canonical := by
  unfold Dev.dropQueue
  repeat first
    | with_reducible first | assumption | apply Dev.put_keeps | apply Dev.modWeir_keeps

theorem Dev.dropCapture_keeps {m : Dev} (b : Nat) (hk : m.canonical) : (Dev.dropCapture m b).canonical := by
  unfold Dev.dropCapture
  repeat first
    | with_reducible first | assumption | apply Dev.put_keeps | apply Dev.capShut_keeps | apply Dev.captureShutDone_keeps

theorem Dev.dropScans_keeps {m : Dev} (hk : m.canonical) : (Dev.dropScans m).canonical := by
  unfold Dev.dropScans
  try lift_lets -underBinder
  repeat first
    | with_reducible assumption
    | (intro n x hn; have : Dev.canonical n := hn; try lift_lets -underBinder)
    | with_reducible first | apply Dev.each_keeps | apply Dev.scanShut_keeps | apply Dev.keep_ite

theorem Dev.dropBasin_keeps {m : Dev} (b : Nat) (hk : m.canonical) : (Dev.dropBasin m b).canonical := by
  unfold Dev.dropBasin
  try lift_lets -underBinder
  repeat first
    | with_reducible assumption
    | (intro n x hn; have : Dev.canonical n := hn; try lift_lets -underBinder)
    | with_reducible first | apply Dev.each_keeps | apply Dev.clearDeck_keeps | apply Dev.modBsn_keeps | apply Dev.bulk_keeps
    | with_reducible first | apply Dev.disableUnits_keeps | apply Dev.dropCapture_keeps | apply Dev.completeNow_keeps
    | with_reducible first | apply Dev.safeBasin_keeps | apply Dev.dropQueue_keeps | apply Dev.modWeir_keeps | apply Dev.put_keeps
    | (split <;> try lift_lets -underBinder)
    | with_reducible apply Dev.keep_mk

theorem Dev.withdrawComplete_keeps {m : Dev} (hk : m.canonical) : (Dev.withdrawComplete m).canonical := by
  unfold Dev.withdrawComplete
  try lift_lets -underBinder
  repeat first
    | with_reducible assumption
    | (intro n x hn; have : Dev.canonical n := hn; try lift_lets -underBinder)
    | with_reducible first | apply Dev.each_keeps | apply Dev.catchWithdraw_keeps | apply Dev.dropBasin_keeps | apply Dev.put_keeps
    | with_reducible first | apply Dev.setState_keeps | apply Dev.setBsn_keeps | apply Dev.showPin_keeps | apply Dev.showDelta_keeps
    | with_reducible first | apply Dev.showAudit_keeps | apply Dev.reroute_keeps | apply Dev.dropScans_keeps
    | with_reducible first | apply Dev.showImage_keeps | apply Dev.showDemand_keeps | apply Dev.showLinks_keeps
    | with_reducible first | apply Dev.catchState_keeps | apply Dev.opEnd_keeps
    | (split <;> try lift_lets -underBinder)
    | with_reducible apply Dev.keep_mk

theorem Dev.leaveSafe_keeps {m : Dev} (b : Nat) (hk : m.canonical) : (Dev.leaveSafe m b).canonical := by
  unfold Dev.leaveSafe
  try lift_lets -underBinder
  repeat first
    | with_reducible assumption
    | (intro n x hn; have : Dev.canonical n := hn; try lift_lets -underBinder)
    | with_reducible first | apply Dev.each_keeps | apply Dev.put_keeps | apply Dev.modPin_keeps | apply Dev.modBsn_keeps
    | with_reducible first | apply Dev.startHold_keeps | apply Dev.loadTones_keeps | apply Dev.resumeWalks_keeps | apply Dev.keep_ite
    | with_reducible apply Dev.keep_mk

theorem Dev.enterIdle_keeps {m : Dev} (b : Nat) (hk : m.canonical) : (Dev.enterIdle m b).canonical := by
  unfold Dev.enterIdle
  try lift_lets -underBinder
  repeat first
    | with_reducible assumption
    | (intro n x hn; have : Dev.canonical n := hn; try lift_lets -underBinder)
    | with_reducible first | apply Dev.each_keeps | apply Dev.put_keeps | apply Dev.takeTiming_keeps | apply Dev.modBsn_keeps
    | with_reducible first | apply Dev.forceTiming_keeps | apply Dev.setReg_keeps | apply Dev.leaveHold_keeps | apply Dev.modPin_keeps
    | with_reducible first | apply Dev.setState_keeps | apply Dev.checkHold_keeps | apply Dev.react_keeps | apply Dev.leaveSafe_keeps
    | with_reducible first | apply Dev.keep_ite | apply Dev.keep_mk

theorem Dev.forgetEnable_keeps {m : Dev} (b : Nat) (v : Nat) (hk : m.canonical) : (Dev.forgetEnable m b v).canonical := by
  unfold Dev.forgetEnable
  repeat first
    | with_reducible first | assumption | apply Dev.put_keeps | apply Dev.setState_keeps

theorem Dev.takeHeldEnable_keeps {m : Dev} (b : Nat) (hk : m.canonical) : (Dev.takeHeldEnable m b).canonical := by
  unfold Dev.takeHeldEnable
  repeat first
    | with_reducible first | assumption | apply Dev.forgetEnable_keeps | apply Dev.enterIdle_keeps | apply Dev.keep_ite

theorem Dev.basinEnable_keeps {m : Dev} (b : Nat) (shutAbort : Bool) (hk : m.canonical) : (Dev.basinEnable m b shutAbort).canonical := by
  unfold Dev.basinEnable
  try lift_lets -underBinder
  repeat first
    | with_reducible assumption
    | with_reducible first | apply Dev.put_keeps | apply Dev.modBsn_keeps | apply Dev.enterIdle_keeps | apply Dev.keep_ite
    | with_reducible apply Dev.keep_mk

theorem Dev.basinDisable_keeps {m : Dev} (b : Nat) (shutAbort : Bool) (hk : m.canonical) : (Dev.basinDisable m b shutAbort).canonical := by
  unfold Dev.basinDisable
  try lift_lets -underBinder
  repeat first
    | with_reducible assumption
    | with_reducible first | apply Dev.put_keeps | apply Dev.returnDeck_keeps | apply Dev.setState_keeps | apply Dev.shutPpmus_keeps
    | with_reducible first | apply Dev.endBurst_keeps | apply Dev.afterEnd_keeps | apply Dev.modBsn_keeps | apply Dev.keep_ite
    | with_reducible apply Dev.keep_mk

theorem Dev.basinShutDone_keeps {m : Dev} (b : Nat) (hk : m.canonical) : (Dev.basinShutDone m b).canonical := by
  unfold Dev.basinShutDone
  repeat first
    | with_reducible first | assumption | apply Dev.enterIdle_keeps | apply Dev.stopTones_keeps | apply Dev.safeBasin_keeps
    | with_reducible first | apply Dev.forgetEnable_keeps | apply Dev.keep_ite

theorem Dev.basinRecourse_keeps {m : Dev} (s : Nat) (irq : Bool) (hk : m.canonical) : (Dev.basinRecourse m s irq).canonical := by
  unfold Dev.basinRecourse
  try lift_lets -underBinder
  repeat first
    | with_reducible first | assumption | apply Dev.catchStart_keeps | apply Dev.refuse_keeps | apply Dev.put_keeps
    | with_reducible first | apply Dev.modBsn_keeps | apply Dev.keep_ite
    | (split <;> try lift_lets -underBinder)
    | with_reducible apply Dev.keep_mk

theorem Dev.recourseEnter_keeps {m : Dev} (b : Nat) (hk : m.canonical) : (Dev.recourseEnter m b).canonical := by
  unfold Dev.recourseEnter
  try lift_lets -underBinder
  repeat first
    | with_reducible first | assumption | apply Dev.endBurst_keeps | apply Dev.modBsn_keeps | apply Dev.returnDeck_keeps
    | with_reducible first | apply Dev.stopTones_keeps | apply Dev.setState_keeps | apply Dev.keep_ite
    | (split <;> try lift_lets -underBinder)
    | with_reducible apply Dev.keep_mk

theorem Dev.recourseDrain_keeps {m : Dev} (b : Nat) (hk : m.canonical) : (Dev.recourseDrain m b).canonical := by
  unfold Dev.recourseDrain
  repeat first
    | with_reducible first | assumption | apply Dev.dropCapture_keeps | apply Dev.safeBasin_keeps | apply Dev.modBsn_keeps
    | with_reducible apply Dev.keep_ite

theorem Dev.recourseCommit_keeps {m : Dev} (b : Nat) (hk : m.canonical) : (Dev.recourseCommit m b).canonical := by
  unfold Dev.recourseCommit
  try lift_lets -underBinder
  repeat first
    | with_reducible assumption
    | (intro n x hn; have : Dev.canonical n := hn; try lift_lets -underBinder)
    | (intro w; refine Dev.cut (p := Dev.canonical w) ?_ ?_; rotate_left; (intro _; clear_value w); rotate_right)
    | (intro w; refine Dev.cut (p := Dev.canonical w.1) ?_ ?_; rotate_left; (intro _; clear_value w); rotate_right)
    | (intro w; clear_value w)
    | with_reducible first | apply Dev.each_keeps | apply Dev.dropBasin_keeps | apply Dev.bump_keeps | apply Dev.put_keeps
    | with_reducible first | apply Dev.showImage_keeps | apply Dev.showBasin_keeps | apply Dev.showPin_keeps
    | with_reducible first | apply Dev.showDelta_keeps | apply Dev.showAudit_keeps | apply Dev.showDemand_keeps
    | with_reducible first | apply Dev.showLinks_keeps | apply Dev.reroute_keeps | apply Dev.dropScans_keeps | apply Dev.modBsn_keeps
    | with_reducible first | apply Dev.setState_keeps | apply Dev.enterIdle_keeps | apply Dev.forgetEnable_keeps
    | with_reducible apply Dev.opEnd_keeps
    | (split <;> try lift_lets -underBinder)
    | with_reducible apply Dev.keep_mk

theorem Dev.resumeCourse_keeps {m : Dev} (b : Nat) (was : Nat) (hk : m.canonical) : (Dev.resumeCourse m b was).canonical := by
  unfold Dev.resumeCourse
  repeat first
    | with_reducible first | assumption | apply Dev.setState_keeps | apply Dev.put_keeps | apply Dev.checkHold_keeps
    | with_reducible first | apply Dev.loadTones_keeps | apply Dev.leaveSafe_keeps | apply Dev.shutPpmus_keeps | apply Dev.keep_ite

theorem Dev.recourseAbandon_keeps {m : Dev} (b : Nat) (hk : m.canonical) : (Dev.recourseAbandon m b).canonical := by
  unfold Dev.recourseAbandon
  try lift_lets -underBinder
  repeat first
    | with_reducible assumption
    | with_reducible first | apply Dev.put_keeps | apply Dev.modBsn_keeps | apply Dev.setState_keeps | apply Dev.forgetEnable_keeps
    | with_reducible first | apply Dev.resumeCourse_keeps | apply Dev.takeHeldEnable_keeps | apply Dev.keep_ite | apply Dev.keep_mk

/-! ## Clocks -/

theorem Dev.modClk_keeps {m : Dev} (f : ClkX → ClkX) (hk : m.canonical) : (Dev.modClk m f).canonical := by
  unfold Dev.modClk
  repeat first
    | with_reducible first | assumption | apply Dev.keep_mk

theorem Dev.rebase_keeps {m : Dev} (d : Nat) (hk : m.canonical) : (Dev.rebase m d).canonical := by
  unfold Dev.rebase
  repeat first
    | with_reducible first | assumption | apply Dev.keep_mk

theorem Dev.takeAmps_keeps {m : Dev} (hk : m.canonical) : (Dev.takeAmps m).canonical := by
  unfold Dev.takeAmps
  repeat first
    | with_reducible first | assumption | apply Dev.modClk_keeps

theorem Dev.ckoRun_keeps {m : Dev} (n : Nat) (hk : m.canonical) : (Dev.ckoRun m n).canonical := by
  unfold Dev.ckoRun
  repeat first
    | with_reducible first | assumption | apply Dev.put_keeps | apply Dev.modClk_keeps | apply Dev.keep_ite

theorem Dev.ckoStart_keeps {m : Dev} (n : Nat) (hk : m.canonical) : (Dev.ckoStart m n).canonical := by
  unfold Dev.ckoStart
  repeat first
    | with_reducible first | assumption | apply Dev.put_keeps | apply Dev.ckoRun_keeps | apply Dev.keep_ite

theorem Dev.ckoFields_keeps {m : Dev} (n : Nat) (ctl : Nat) (hk : m.canonical) : (Dev.ckoFields m n ctl).canonical := by
  unfold Dev.ckoFields
  repeat first
    | with_reducible first | assumption | apply Dev.put_keeps | apply Dev.keep_ite

theorem Dev.ckoEnable_keeps {m : Dev} (n : Nat) (ctl : Nat) (hk : m.canonical) : (Dev.ckoEnable m n ctl).canonical := by
  unfold Dev.ckoEnable
  repeat first
    | with_reducible first | assumption | apply Dev.ckoFields_keeps | apply Dev.put_keeps | apply Dev.ckoStart_keeps
    | with_reducible apply Dev.keep_ite

theorem Dev.ckoDisable_keeps {m : Dev} (n : Nat) (ctl : Nat) (hk : m.canonical) : (Dev.ckoDisable m n ctl).canonical := by
  unfold Dev.ckoDisable
  repeat first
    | with_reducible first | assumption | apply Dev.ckoFields_keeps | apply Dev.put_keeps | apply Dev.modClk_keeps | apply Dev.keep_ite

theorem Dev.ckoShutDone_keeps {m : Dev} (n : Nat) (hk : m.canonical) : (Dev.ckoShutDone m n).canonical := by
  unfold Dev.ckoShutDone
  repeat first
    | with_reducible first | assumption | apply Dev.put_keeps | apply Dev.ckoStart_keeps | apply Dev.keep_ite

theorem Dev.ckoPhase_keeps {m : Dev} (n : Nat) (v : Nat) (hk : m.canonical) : (Dev.ckoPhase m n v).canonical := by
  unfold Dev.ckoPhase
  repeat first
    | with_reducible first | assumption | apply Dev.put_keeps | apply Dev.keep_ite

theorem Dev.ckoWalk_keeps {m : Dev} (n : Nat) (hk : m.canonical) : (Dev.ckoWalk m n).canonical := by
  unfold Dev.ckoWalk
  repeat first
    | with_reducible first | assumption | apply Dev.modClk_keeps | apply Dev.put_keeps | apply Dev.keep_ite

theorem Dev.ckoStop_keeps {m : Dev} (hk : m.canonical) : (Dev.ckoStop m).canonical := by
  unfold Dev.ckoStop
  try lift_lets -underBinder
  repeat first
    | with_reducible assumption
    | (intro n x hn; have : Dev.canonical n := hn; try lift_lets -underBinder)
    | with_reducible first | apply Dev.each_keeps | apply Dev.put_keeps

theorem Dev.setLocked_keeps {m : Dev} (hk : m.canonical) : (Dev.setLocked m).canonical := by
  unfold Dev.setLocked
  try lift_lets -underBinder
  repeat first
    | with_reducible assumption
    | (intro n x hn; have : Dev.canonical n := hn; try lift_lets -underBinder)
    | with_reducible first | apply Dev.each_keeps | apply Dev.put_keeps | apply Dev.ckoRun_keeps

theorem Dev.headwaterLock_keeps {m : Dev} (ref10 : Bool) (hk : m.canonical) : (Dev.headwaterLock m ref10).canonical := by
  unfold Dev.headwaterLock
  repeat first
    | with_reducible first | assumption | apply Dev.put_keeps | apply Dev.setLocked_keeps | apply Dev.rebase_keeps
    | with_reducible first | apply Dev.modClk_keeps | apply Dev.setReg_keeps | apply Dev.keep_ite

theorem Dev.refLoss_keeps {m : Dev} (hk : m.canonical) : (Dev.refLoss m).canonical := by
  unfold Dev.refLoss
  repeat first
    | with_reducible first | assumption | apply Dev.put_keeps | apply Dev.modClk_keeps | apply Dev.report_keeps | apply Dev.keep_ite

theorem Dev.refRestore_keeps {m : Dev} (hk : m.canonical) : (Dev.refRestore m).canonical := by
  unfold Dev.refRestore
  repeat first
    | with_reducible first | assumption | apply Dev.setLocked_keeps | apply Dev.put_keeps | apply Dev.keep_ite

theorem Dev.headwaterUnlock_keeps {m : Dev} (hk : m.canonical) : (Dev.headwaterUnlock m).canonical := by
  unfold Dev.headwaterUnlock
  repeat first
    | with_reducible first | assumption | apply Dev.put_keeps | apply Dev.report_keeps | apply Dev.keep_ite

theorem Dev.hdwCtl_keeps {m : Dev} (v : Nat) (hk : m.canonical) : (Dev.hdwCtl m v).canonical := by
  unfold Dev.hdwCtl
  repeat first
    | with_reducible first | assumption | apply Dev.put_keeps | apply Dev.keep_ite

theorem Dev.syncArm_keeps {m : Dev} (ctl : Nat) (hk : m.canonical) : (Dev.syncArm m ctl).canonical := by
  unfold Dev.syncArm
  repeat first
    | with_reducible first | assumption | apply Dev.put_keeps | apply Dev.keep_ite

theorem Dev.syncMeasure_keeps {m : Dev} (a : Instant) (hk : m.canonical) : (Dev.syncMeasure m a).canonical := by
  unfold Dev.syncMeasure
  try lift_lets -underBinder
  repeat first
    | with_reducible first | assumption | apply Dev.report_keeps | apply Dev.put_keeps | apply Dev.bump_keeps | apply Dev.keep_ite
    | (split <;> try lift_lets -underBinder)

theorem Dev.syncPulse_keeps {m : Dev} (a : Instant) (hk : m.canonical) : (Dev.syncPulse m a).canonical := by
  unfold Dev.syncPulse
  repeat first
    | with_reducible first | assumption | apply Dev.put_keeps | apply Dev.draw_keeps | apply Dev.modClk_keeps
    | with_reducible first | apply Dev.syncMeasure_keeps | apply Dev.keep_ite

theorem Dev.syncZero_keeps {m : Dev} (hk : m.canonical) : (Dev.syncZero m).canonical := by
  unfold Dev.syncZero
  try lift_lets -underBinder
  repeat first
    | with_reducible assumption
    | (intro n x hn; have : Dev.canonical n := hn; try lift_lets -underBinder)
    | with_reducible first | apply Dev.each_keeps | apply Dev.setReg_keeps | apply Dev.put_keeps | apply Dev.rebase_keeps
    | with_reducible first | apply Dev.ckoShutDone_keeps | apply Dev.modClk_keeps | apply Dev.keep_ite | apply Dev.keep_mk

theorem Dev.syncTick_keeps {m : Dev} (hk : m.canonical) : (Dev.syncTick m).canonical := by
  unfold Dev.syncTick
  try lift_lets -underBinder
  repeat first
    | with_reducible assumption
    | (intro n x hn; have : Dev.canonical n := hn; try lift_lets -underBinder)
    | with_reducible first | apply Dev.each_keeps | apply Dev.traceWord_keeps | apply Dev.timemark_keeps | apply Dev.put_keeps
    | with_reducible first | apply Dev.modClk_keeps | apply Dev.basinEnable_keeps | apply Dev.keep_ite | apply Dev.keep_mk

theorem Dev.syncRealign_keeps {m : Dev} (hk : m.canonical) : (Dev.syncRealign m).canonical := by
  unfold Dev.syncRealign
  repeat first
    | with_reducible first | assumption | apply Dev.put_keeps | apply Dev.keep_ite

theorem Dev.syncCtl_keeps {m : Dev} (v : Nat) (hk : m.canonical) : (Dev.syncCtl m v).canonical := by
  unfold Dev.syncCtl
  repeat first
    | with_reducible first | assumption | apply Dev.syncArm_keeps | apply Dev.put_keeps | apply Dev.syncRealign_keeps
    | with_reducible apply Dev.keep_ite

theorem Dev.tmbArm_keeps {m : Dev} (hk : m.canonical) : (Dev.tmbArm m).canonical := by
  unfold Dev.tmbArm
  repeat first
    | with_reducible first | assumption | apply Dev.put_keeps | apply Dev.modClk_keeps | apply Dev.keep_ite

theorem Dev.tmbApply_keeps {m : Dev} (hk : m.canonical) : (Dev.tmbApply m).canonical := by
  unfold Dev.tmbApply
  try lift_lets -underBinder
  repeat first
    | with_reducible first | assumption | apply Dev.setReg_keeps | apply Dev.put_keeps | apply Dev.modClk_keeps | apply Dev.keep_ite
    | (split <;> try lift_lets -underBinder)
    | with_reducible apply Dev.keep_mk

theorem Dev.tmbHalf_keeps {m : Dev} (zero : Bool) (hk : m.canonical) : (Dev.tmbHalf m zero).canonical := by
  unfold Dev.tmbHalf
  repeat first
    | with_reducible first | assumption | apply Dev.put_keeps | apply Dev.bump_keeps | apply Dev.keep_ite

theorem Dev.timeTick_keeps {m : Dev} (hk : m.canonical) : (Dev.timeTick m).canonical := by
  unfold Dev.timeTick
  repeat first
    | with_reducible first | assumption | apply Dev.keep_ite | apply Dev.keep_mk

theorem Dev.servoEnd_keeps {m : Dev} (e : Nat) (err : Nat) (hk : m.canonical) : (Dev.servoEnd m e err).canonical := by
  unfold Dev.servoEnd
  try lift_lets -underBinder
  repeat first
    | with_reducible first | assumption | apply Dev.servo_keeps | apply Dev.opEnd_keeps | apply Dev.keep_ite
    | (split <;> try lift_lets -underBinder)

theorem Dev.ethEnable_keeps {m : Dev} (e : Nat) (ctl : Nat) (hk : m.canonical) : (Dev.ethEnable m e ctl).canonical := by
  unfold Dev.ethEnable
  repeat first
    | with_reducible first | assumption | apply Dev.put_keeps | apply Dev.keep_ite

theorem Dev.ethDisable_keeps {m : Dev} (e : Nat) (ctl : Nat) (hk : m.canonical) : (Dev.ethDisable m e ctl).canonical := by
  unfold Dev.ethDisable
  repeat first
    | with_reducible first | assumption | apply Dev.put_keeps | apply Dev.servoEnd_keeps | apply Dev.keep_ite

theorem Dev.ethUp_keeps {m : Dev} (e : Nat) (hk : m.canonical) : (Dev.ethUp m e).canonical := by
  unfold Dev.ethUp
  repeat first
    | with_reducible first | assumption | apply Dev.put_keeps | apply Dev.keep_ite

theorem Dev.ethDown_keeps {m : Dev} (e : Nat) (hk : m.canonical) : (Dev.ethDown m e).canonical := by
  unfold Dev.ethDown
  repeat first
    | with_reducible first | assumption | apply Dev.put_keeps | apply Dev.servoEnd_keeps | apply Dev.keep_ite

theorem Dev.setStamps_keeps {m : Dev} (e : Nat) (l : List Nat) (hk : m.canonical) : (Dev.setStamps m e l).canonical := by
  unfold Dev.setStamps
  repeat first
    | with_reducible first | assumption | apply Dev.modClk_keeps | apply Dev.put_keeps

theorem Dev.pushStamp_keeps {m : Dev} (e : Nat) (entry : Nat) (hk : m.canonical) : (Dev.pushStamp m e entry).canonical := by
  unfold Dev.pushStamp
  repeat first
    | with_reducible first | assumption | apply Dev.setStamps_keeps | apply Dev.count_keeps | apply Dev.report_keeps
    | with_reducible apply Dev.keep_ite

theorem Dev.setLnk_keeps {m : Dev} (l : Nat) (v : Nat) (hk : m.canonical) : (Dev.setLnk m l v).canonical := by
  unfold Dev.setLnk
  repeat first
    | with_reducible first | assumption | apply Dev.put_keeps

theorem Dev.vtlEnable_keeps {m : Dev} (l : Nat) (ctl : Nat) (hk : m.canonical) : (Dev.vtlEnable m l ctl).canonical := by
  unfold Dev.vtlEnable
  repeat first
    | with_reducible first | assumption | apply Dev.put_keeps | apply Dev.setLnk_keeps | apply Dev.setLink_keeps | apply Dev.keep_ite

theorem Dev.vtlDisable_keeps {m : Dev} (l : Nat) (ctl : Nat) (hk : m.canonical) : (Dev.vtlDisable m l ctl).canonical := by
  unfold Dev.vtlDisable
  repeat first
    | with_reducible first | assumption | apply Dev.put_keeps | apply Dev.setLnk_keeps

theorem Dev.vtlLock_keeps {m : Dev} (l : Nat) (hk : m.canonical) : (Dev.vtlLock m l).canonical := by
  unfold Dev.vtlLock
  repeat first
    | with_reducible first | assumption | apply Dev.setLnk_keeps | apply Dev.keep_ite

theorem Dev.vtlCycles_keeps {m : Dev} (l : Nat) (hk : m.canonical) : (Dev.vtlCycles m l).canonical := by
  unfold Dev.vtlCycles
  repeat first
    | with_reducible first | assumption | apply Dev.setLnk_keeps | apply Dev.keep_ite

theorem Dev.vtlUp_keeps {m : Dev} (l : Nat) (delay : Nat) (hk : m.canonical) : (Dev.vtlUp m l delay).canonical := by
  unfold Dev.vtlUp
  repeat first
    | with_reducible first | assumption | apply Dev.put_keeps | apply Dev.setLnk_keeps | apply Dev.keep_ite

theorem Dev.vtlDown_keeps {m : Dev} (l : Nat) (cause : Nat) (hk : m.canonical) : (Dev.vtlDown m l cause).canonical := by
  unfold Dev.vtlDown
  repeat first
    | with_reducible first | assumption | apply Dev.setLnk_keeps | apply Dev.setLink_keeps | apply Dev.report_keeps
    | with_reducible apply Dev.keep_ite

theorem Dev.startAnnounced_keeps {m : Dev} (b : Nat) (s : Nat) (hk : m.canonical) : (Dev.startAnnounced m b s).canonical := by
  unfold Dev.startAnnounced
  repeat first
    | with_reducible first | assumption | apply Dev.modBsn_keeps | apply Dev.modDeck_keeps | apply Dev.keep_ite

theorem Dev.forwarded_keeps {m : Dev} (b : Nat) (e : Nat × Nat) (hk : m.canonical) : (Dev.forwarded m b e).canonical := by
  unfold Dev.forwarded
  repeat first
    | with_reducible first | assumption | apply Dev.registerEvent_keeps | apply Dev.modBsn_keeps | apply Dev.keep_ite

theorem Dev.flowBlock_keeps {m : Dev} (l : Nat) (f : FlowBlock) (hk : m.canonical) : (Dev.flowBlock m l f).canonical := by
  unfold Dev.flowBlock
  try lift_lets -underBinder
  repeat first
    | with_reducible assumption
    | (intro n x hn; have : Dev.canonical n := hn; try lift_lets -underBinder)
    | with_reducible first | apply Dev.each_keeps | apply Dev.modBsn_keeps | apply Dev.tellHorizon_keeps | apply Dev.sendFlow_keeps
    | with_reducible first | apply Dev.forwarded_keeps | apply Dev.startAnnounced_keeps | apply Dev.keep_ite | apply Dev.elim_keeps
    | with_reducible apply Dev.keep_mk
    | intro x

theorem Dev.trigLine_keeps {m : Dev} (l : Nat) (e : Nat × Nat) (hk : m.canonical) : (Dev.trigLine m l e).canonical := by
  unfold Dev.trigLine
  repeat first
    | with_reducible first | assumption | apply Dev.setWire_keeps | apply Dev.drive_keeps | apply Dev.keep_ite

theorem Dev.vtlCycle_keeps {m : Dev} (l : Nat) (c : LinkCycle) (hk : m.canonical) : (Dev.vtlCycle m l c).canonical := by
  unfold Dev.vtlCycle
  try lift_lets -underBinder
  repeat first
    | with_reducible assumption
    | (intro n x hn; have : Dev.canonical n := hn; try lift_lets -underBinder)
    | with_reducible first | apply Dev.each_keeps | apply Dev.setLink_keeps | apply Dev.count_keeps | apply Dev.report_keeps
    | with_reducible first | apply Dev.flowBlock_keeps | apply Dev.trigLine_keeps | apply Dev.keep_ite | apply Dev.keep_mk

theorem Dev.vtlExchange_keeps {m : Dev} (l : Nat) (t : Instant) (hk : m.canonical) : (Dev.vtlExchange m l t).canonical := by
  unfold Dev.vtlExchange
  try lift_lets -underBinder
  repeat first
    | with_reducible assumption
    | with_reducible first | apply Dev.setLink_keeps | apply Dev.keep_ite | apply Dev.keep_mk

theorem Dev.vtlSync_keeps {m : Dev} (l : Nat) (origin : Nat) (corr : Nat) (t : Instant) (hk : m.canonical) : (Dev.vtlSync m l origin corr
    t).canonical := by
  unfold Dev.vtlSync
  repeat first
    | with_reducible first | assumption | apply Dev.setLink_keeps | apply Dev.keep_ite

theorem Dev.vtlDreq_keeps {m : Dev} (l : Nat) (t : Instant) (hk : m.canonical) : (Dev.vtlDreq m l t).canonical := by
  unfold Dev.vtlDreq
  repeat first
    | with_reducible first | assumption | apply Dev.keep_ite | apply Dev.keep_mk

theorem Dev.vtlDresp_keeps {m : Dev} (l : Nat) (receipt : Nat) (hk : m.canonical) : (Dev.vtlDresp m l receipt).canonical := by
  unfold Dev.vtlDresp
  try lift_lets -underBinder
  repeat first
    | with_reducible first | assumption | apply Dev.request_keeps | apply Dev.setLink_keeps | apply Dev.put_keeps
    | with_reducible first | apply Dev.setReg_keeps | apply Dev.report_keeps | apply Dev.keep_ite
    | (split <;> try lift_lets -underBinder)
    | with_reducible apply Dev.keep_mk

theorem Dev.vtlCtrl_keeps {m : Dev} (l : Nat) (c : CtrlMsg) (hk : m.canonical) : (Dev.vtlCtrl m l c).canonical := by
  unfold Dev.vtlCtrl
  try lift_lets -underBinder
  repeat first
    | with_reducible assumption
    | (intro n x hn; have : Dev.canonical n := hn; try lift_lets -underBinder)
    | with_reducible first | apply Dev.each_keeps | apply Dev.put_keeps | apply Dev.setLink_keeps | apply Dev.modBsn_keeps
    | with_reducible first | apply Dev.setLat_keeps | apply Dev.keep_ite | apply Dev.keep_mk

/-! ## SluiceCmd -/

theorem Dev.modSlc_keeps {m : Dev} (f : SlcX → SlcX) (hk : m.canonical) : (Dev.modSlc m f).canonical := by
  unfold Dev.modSlc
  repeat first
    | with_reducible first | assumption | apply Dev.keep_mk

theorem Dev.setRefresh_keeps {m : Dev} (s : Nat) (v : Bool) (hk : m.canonical) : (Dev.setRefresh m s v).canonical := by
  unfold Dev.setRefresh
  repeat first
    | with_reducible first | assumption | apply Dev.put_keeps

theorem Dev.showTraining_keeps {m : Dev} (hk : m.canonical) : (Dev.showTraining m).canonical := by
  unfold Dev.showTraining
  repeat first
    | with_reducible first | assumption | apply Dev.put_keeps

theorem Dev.sampleTemps_keeps {m : Dev} (t0 : Nat) (t1 : Nat) (hk : m.canonical) : (Dev.sampleTemps m t0 t1).canonical := by
  unfold Dev.sampleTemps
  repeat first
    | with_reducible first | assumption | apply Dev.put_keeps | apply Dev.showTraining_keeps | apply Dev.report_keeps
    | with_reducible apply Dev.keep_ite

theorem Dev.refresh_keeps {m : Dev} (s : Nat) (hk : m.canonical) : (Dev.refresh m s).canonical := by
  unfold Dev.refresh
  repeat first
    | with_reducible first | assumption | apply Dev.modSlc_keeps | apply Dev.keep_ite

theorem Dev.scrubFound_keeps {m : Dev} (f : Nat × Ecc) (hk : m.canonical) : (Dev.scrubFound m f).canonical := by
  unfold Dev.scrubFound
  try lift_lets -underBinder
  repeat first
    | with_reducible first | assumption | apply Dev.eccFound_keeps | apply Dev.poisonReport_keeps | apply Dev.modSlc_keeps
    | with_reducible apply Dev.keep_ite
    | (split <;> try lift_lets -underBinder)
    | with_reducible apply Dev.keep_mk

theorem Dev.scrub_keeps {m : Dev} (units : Nat) (found : List (Nat × Ecc)) (hk : m.canonical) : (Dev.scrub m units found).canonical := by
  unfold Dev.scrub
  try lift_lets -underBinder
  repeat first
    | with_reducible assumption
    | (intro n x hn; have : Dev.canonical n := hn; try lift_lets -underBinder)
    | with_reducible first | apply Dev.each_keeps | apply Dev.scrubFound_keeps | apply Dev.put_keeps | apply Dev.bump_keeps
    | with_reducible first | apply Dev.modSlc_keeps | apply Dev.keep_ite | apply Dev.keep_mk

theorem Dev.laneFaulty_keeps {m : Dev} (g : Nat) (hk : m.canonical) : (Dev.laneFaulty m g).canonical := by
  unfold Dev.laneFaulty
  repeat first
    | with_reducible first | assumption | apply Dev.put_keeps | apply Dev.modSlc_keeps

theorem Dev.repairLanes_keeps {m : Dev} (hk : m.canonical) : (Dev.repairLanes m).canonical := by
  unfold Dev.repairLanes
  try lift_lets -underBinder
  repeat first
    | with_reducible assumption
    | (intro n x hn; have : Dev.canonical n := hn; try lift_lets -underBinder)
    | with_reducible first | apply Dev.each_keeps | apply Dev.put_keeps | apply Dev.modSlc_keeps | apply Dev.report_keeps
    | with_reducible apply Dev.keep_mk

theorem Dev.rowRepair_keeps {m : Dev} (row : Nat) (hk : m.canonical) : (Dev.rowRepair m row).canonical := by
  unfold Dev.rowRepair
  repeat first
    | with_reducible first | assumption | apply Dev.modSlc_keeps | apply Dev.report_keeps | apply Dev.count_keeps | apply Dev.put_keeps
    | with_reducible apply Dev.keep_ite

theorem Dev.timingTrack_keeps {m : Dev} (s : Nat) (within : Bool) (hk : m.canonical) : (Dev.timingTrack m s within).canonical := by
  unfold Dev.timingTrack
  repeat first
    | with_reducible first | assumption | apply Dev.put_keeps | apply Dev.report_keeps | apply Dev.keep_ite

theorem Dev.train_keeps {m : Dev} (s : Nat) (irq : Bool) (hk : m.canonical) : (Dev.train m s irq).canonical := by
  unfold Dev.train
  repeat first
    | with_reducible first | assumption | apply Dev.opStart_keeps | apply Dev.opEnd_keeps | apply Dev.put_keeps
    | with_reducible first | apply Dev.modSlc_keeps | apply Dev.keep_ite

theorem Dev.trainPatterns_keeps {m : Dev} (hk : m.canonical) : (Dev.trainPatterns m).canonical := by
  unfold Dev.trainPatterns
  apply Dev.keep_filter
  exact hk

theorem Dev.trainResults_keeps {m : Dev} (mask : Nat) (stored : Bool) (hk : m.canonical) : (Dev.trainResults m mask stored).canonical := by
  unfold Dev.trainResults
  try lift_lets -underBinder
  repeat first
    | with_reducible assumption
    | with_reducible first | apply Dev.repairLanes_keeps | apply Dev.put_keeps | apply Dev.modSlc_keeps | apply Dev.showTraining_keeps
    | with_reducible first | apply Dev.report_keeps | apply Dev.setPair_keeps | apply Dev.keep_ite | apply Dev.keep_mk

theorem Dev.restoreTraining_keeps {m : Dev} (p : Nat) (stored : Bool) (hk : m.canonical) : (Dev.restoreTraining m p stored).canonical := by
  unfold Dev.restoreTraining
  repeat first
    | with_reducible first | assumption | apply Dev.repairLanes_keeps | apply Dev.trainPatterns_keeps | apply Dev.trainResults_keeps
    | with_reducible apply Dev.keep_ite

theorem Dev.trainDone_keeps {m : Dev} (good : Bool) (stored : Bool) (hk : m.canonical) : (Dev.trainDone m good stored).canonical := by
  unfold Dev.trainDone
  try lift_lets -underBinder
  repeat first
    | with_reducible first | assumption | apply Dev.put_keeps | apply Dev.modSlc_keeps | apply Dev.trainPatterns_keeps
    | with_reducible first | apply Dev.opEnd_keeps | apply Dev.trainResults_keeps | apply Dev.keep_ite
    | (split <;> try lift_lets -underBinder)
    | with_reducible apply Dev.keep_mk

theorem Dev.opChange_keeps {m : Dev} (s : Nat) (irq : Bool) (hk : m.canonical) : (Dev.opChange m s irq).canonical := by
  unfold Dev.opChange
  repeat first
    | with_reducible first | assumption | apply Dev.opStart_keeps | apply Dev.opEnd_keeps | apply Dev.put_keeps
    | with_reducible first | apply Dev.modSlc_keeps | apply Dev.keep_ite

theorem Dev.opChangeEnd_keeps {m : Dev} (err : Nat) (hk : m.canonical) : (Dev.opChangeEnd m err).canonical := by
  unfold Dev.opChangeEnd
  repeat first
    | with_reducible first | assumption | apply Dev.put_keeps | apply Dev.modSlc_keeps | apply Dev.opEnd_keeps

theorem Dev.leadTimeout_keeps {m : Dev} (hk : m.canonical) : (Dev.leadTimeout m).canonical := by
  unfold Dev.leadTimeout
  repeat first
    | with_reducible first | assumption | apply Dev.opChangeEnd_keeps | apply Dev.keep_ite

theorem Dev.opChangeCommit_keeps {m : Dev} (hk : m.canonical) : (Dev.opChangeCommit m).canonical := by
  unfold Dev.opChangeCommit
  repeat first
    | with_reducible first | assumption | apply Dev.setSlot_keeps | apply Dev.put_keeps | apply Dev.modSlc_keeps | apply Dev.keep_ite

theorem Dev.opChangeGap_keeps {m : Dev} (hk : m.canonical) : (Dev.opChangeGap m).canonical := by
  unfold Dev.opChangeGap
  repeat first
    | with_reducible first | assumption | apply Dev.put_keeps | apply Dev.modSlc_keeps | apply Dev.repairLanes_keeps
    | with_reducible apply Dev.keep_ite

theorem Dev.opChangeDone_keeps {m : Dev} (hk : m.canonical) : (Dev.opChangeDone m).canonical := by
  unfold Dev.opChangeDone
  repeat first
    | with_reducible first | assumption | apply Dev.put_keeps | apply Dev.opChangeEnd_keeps | apply Dev.keep_ite

theorem Dev.idleEntry_keeps {m : Dev} (s : Nat) (hk : m.canonical) : (Dev.idleEntry m s).canonical := by
  unfold Dev.idleEntry
  repeat first
    | with_reducible first | assumption | apply Dev.setRefresh_keeps | apply Dev.keep_ite

theorem Dev.idleExit_keeps {m : Dev} (s : Nat) (hk : m.canonical) : (Dev.idleExit m s).canonical := by
  unfold Dev.idleExit
  repeat first
    | with_reducible first | assumption | apply Dev.setRefresh_keeps | apply Dev.modSlc_keeps | apply Dev.keep_ite

end Sys2Proof.Machine
end

