-- ==== Sys2Proof/Laws/KeepService.lean ====
section
/-! SUPPORT. Canonical memories are kept by every operation of the machine: Spate, Levee, start-up, firmware, the host interface and the tick. One
lemma for each operation, named after it. -/

set_option maxRecDepth 4000

namespace Sys2Proof.Machine

/-! ## Spate -/

theorem Dev.modSpt_keeps {m : Dev} (f : SptX → SptX) (hk : m.canonical) : (Dev.modSpt m f).canonical := by
  unfold Dev.modSpt
  repeat first
    | with_reducible first | assumption | apply Dev.keep_mk

theorem Dev.showFloor_keeps {m : Dev} (hk : m.canonical) : (Dev.showFloor m).canonical := by
  unfold Dev.showFloor
  repeat first
    | with_reducible first | assumption | apply Dev.put_keeps

theorem Dev.droopTrip_keeps {m : Dev} (k : Nat) (hk : m.canonical) : (Dev.droopTrip m k).canonical := by
  unfold Dev.droopTrip
  repeat first
    | with_reducible first | assumption | apply Dev.modSpt_keeps | apply Dev.showFloor_keeps | apply Dev.bump_keeps
    | with_reducible first | apply Dev.put_keeps | apply Dev.report_keeps | apply Dev.keep_ite

theorem Dev.cclkReturn_keeps {m : Dev} (hk : m.canonical) : (Dev.cclkReturn m).canonical := by
  unfold Dev.cclkReturn
  repeat first
    | with_reducible first | assumption | apply Dev.modSpt_keeps | apply Dev.showFloor_keeps | apply Dev.keep_ite

theorem Dev.droopTick_keeps {m : Dev} (hk : m.canonical) : (Dev.droopTick m).canonical := by
  unfold Dev.droopTick
  repeat first
    | with_reducible first | assumption | apply Dev.count_keeps | apply Dev.modSpt_keeps | apply Dev.keep_ite

theorem Dev.sptCtl_keeps {m : Dev} (v : Nat) (hk : m.canonical) : (Dev.sptCtl m v).canonical := by
  unfold Dev.sptCtl
  repeat first
    | with_reducible first | assumption | apply Dev.put_keeps | apply Dev.showFloor_keeps

theorem Dev.droopWrite_keeps {m : Dev} (v : Nat) (hk : m.canonical) : (Dev.droopWrite m v).canonical := by
  unfold Dev.droopWrite
  repeat first
    | with_reducible first | assumption | apply Dev.put_keeps | apply Dev.keep_ite

theorem Dev.stepLimitWrite_keeps {m : Dev} (v : Nat) (hk : m.canonical) : (Dev.stepLimitWrite m v).canonical := by
  unfold Dev.stepLimitWrite
  repeat first
    | with_reducible first | assumption | apply Dev.put_keeps | apply Dev.report_keeps | apply Dev.keep_ite

theorem Dev.spillList_keeps {m : Dev} (b : Nat) (l : Nat) (hk : m.canonical) : (Dev.spillList m b l).canonical := by
  unfold Dev.spillList
  try lift_lets -underBinder
  repeat first
    | with_reducible assumption
    | (intro n x hn; have : Dev.canonical n := hn; try lift_lets -underBinder)
    | with_reducible first | apply Dev.each_keeps | apply Dev.setCtx_keeps | apply Dev.trace_keeps | apply Dev.modBsn_keeps
    | with_reducible apply Dev.keep_mk

theorem Dev.adcSleep_keeps {m : Dev} (k : Nat) (hk : m.canonical) : (Dev.adcSleep m k).canonical := by
  unfold Dev.adcSleep
  repeat first
    | with_reducible first | assumption | apply Dev.put_keeps | apply Dev.setAdc_keeps

theorem Dev.padcSleep_keeps {m : Dev} (p : Nat) (hk : m.canonical) : (Dev.padcSleep m p).canonical := by
  unfold Dev.padcSleep
  repeat first
    | with_reducible first | assumption | apply Dev.put_keeps | apply Dev.dropSession_keeps

theorem Dev.adcWake_keeps {m : Dev} (k : Nat) (hk : m.canonical) : (Dev.adcWake m k).canonical := by
  unfold Dev.adcWake
  repeat first
    | with_reducible first | assumption | apply Dev.put_keeps | apply Dev.scanEnable_keeps | apply Dev.keep_ite

theorem Dev.padcWake_keeps {m : Dev} (p : Nat) (hk : m.canonical) : (Dev.padcWake m p).canonical := by
  unfold Dev.padcWake
  repeat first
    | with_reducible first | assumption | apply Dev.padcStart_keeps | apply Dev.keep_ite

theorem Dev.linksDown_keeps {m : Dev} (hk : m.canonical) : (Dev.linksDown m).canonical := by
  unfold Dev.linksDown
  try lift_lets -underBinder
  repeat first
    | with_reducible assumption
    | (intro n x hn; have : Dev.canonical n := hn; try lift_lets -underBinder)
    | with_reducible first | apply Dev.each_keeps | apply Dev.ethDown_keeps | apply Dev.setLnk_keeps

theorem Dev.linksUp_keeps {m : Dev} (hk : m.canonical) : (Dev.linksUp m).canonical := by
  unfold Dev.linksUp
  try lift_lets -underBinder
  repeat first
    | with_reducible assumption
    | (intro n x hn; have : Dev.canonical n := hn; try lift_lets -underBinder)
    | with_reducible first | apply Dev.each_keeps | apply Dev.setLnk_keeps | apply Dev.setLink_keeps

theorem Dev.slackEnter_keeps {m : Dev} (s : Nat) (irq : Bool) (hk : m.canonical) : (Dev.slackEnter m s irq).canonical := by
  unfold Dev.slackEnter
  try lift_lets -underBinder
  repeat first
    | with_reducible assumption
    | (intro n x hn; have : Dev.canonical n := hn; try lift_lets -underBinder)
    | with_reducible first | apply Dev.each_keeps | apply Dev.opStart_keeps | apply Dev.opEnd_keeps | apply Dev.put_keeps
    | with_reducible first | apply Dev.modSpt_keeps | apply Dev.spillList_keeps | apply Dev.adcSleep_keeps | apply Dev.padcSleep_keeps
    | with_reducible first | apply Dev.abandonCal_keeps | apply Dev.linksDown_keeps | apply Dev.storeCounters_keeps
    | with_reducible first | apply Dev.keep_ite | apply Dev.keep_mk

theorem Dev.slackAbandon_keeps {m : Dev} (err : Nat) (hk : m.canonical) : (Dev.slackAbandon m err).canonical := by
  unfold Dev.slackAbandon
  try lift_lets -underBinder
  repeat first
    | with_reducible assumption
    | (intro n x hn; have : Dev.canonical n := hn; try lift_lets -underBinder)
    | with_reducible first | apply Dev.each_keeps | apply Dev.put_keeps | apply Dev.modSpt_keeps | apply Dev.adcWake_keeps
    | with_reducible first | apply Dev.padcWake_keeps | apply Dev.linksUp_keeps | apply Dev.opEnd_keeps
    | (split <;> try lift_lets -underBinder)
    | with_reducible apply Dev.keep_mk

theorem Dev.slackCommit_keeps {m : Dev} (hk : m.canonical) : (Dev.slackCommit m).canonical := by
  unfold Dev.slackCommit
  repeat first
    | with_reducible first | assumption | apply Dev.slackAbandon_keeps | apply Dev.put_keeps | apply Dev.ckoStop_keeps
    | with_reducible first | apply Dev.modClk_keeps | apply Dev.keep_ite

theorem Dev.wake_keeps {m : Dev} (hk : m.canonical) : (Dev.wake m).canonical := by
  unfold Dev.wake
  repeat first
    | with_reducible first | assumption | apply Dev.modSpt_keeps | apply Dev.put_keeps | apply Dev.keep_ite

theorem Dev.wakeEvent_keeps {m : Dev} (k : Nat) (hk : m.canonical) : (Dev.wakeEvent m k).canonical := by
  unfold Dev.wakeEvent
  repeat first
    | with_reducible first | assumption | apply Dev.put_keeps | apply Dev.wake_keeps | apply Dev.keep_ite

theorem Dev.hostWake_keeps {m : Dev} (hk : m.canonical) : (Dev.hostWake m).canonical := by
  unfold Dev.hostWake
  repeat first
    | with_reducible first | assumption | apply Dev.put_keeps | apply Dev.wake_keeps | apply Dev.keep_ite

theorem Dev.supplyTrip_keeps {m : Dev} (k : Nat) (t : Instant) (hk : m.canonical) : (Dev.supplyTrip m k t).canonical := by
  unfold Dev.supplyTrip
  repeat first
    | with_reducible first | assumption | apply Dev.put_keeps | apply Dev.modSpt_keeps | apply Dev.wakeEvent_keeps
    | with_reducible first | apply Dev.report_keeps | apply Dev.keep_ite

theorem Dev.wakePin_keeps {m : Dev} (p : Nat) (hk : m.canonical) : (Dev.wakePin m p).canonical := by
  unfold Dev.wakePin
  try lift_lets -underBinder
  repeat first
    | with_reducible assumption
    | (intro n x hn; have : Dev.canonical n := hn; try lift_lets -underBinder)
    | with_reducible first | apply Dev.each_keeps | apply Dev.put_keeps | apply Dev.modPin_keeps | apply Dev.limitOwed_keeps
    | with_reducible first | apply Dev.safePin_keeps | apply Dev.keep_mk

theorem Dev.wakeMemory_keeps {m : Dev} (t0 : Nat) (t1 : Nat) (stored : Bool) (hk : m.canonical) : (Dev.wakeMemory m t0 t1 stored).canonical
    := by
  unfold Dev.wakeMemory
  repeat first
    | with_reducible first | assumption | apply Dev.sampleTemps_keeps | apply Dev.restoreTraining_keeps | apply Dev.put_keeps

theorem Dev.wakeComplete_keeps {m : Dev} (tick : Nat) (edges : Nat) (t0 : Nat) (t1 : Nat) (stored : Bool) (hk : m.canonical) :
    (Dev.wakeComplete m tick edges t0 t1 stored).canonical := by
  unfold Dev.wakeComplete
  try lift_lets -underBinder
  repeat first
    | with_reducible assumption
    | (intro n x hn; have : Dev.canonical n := hn; try lift_lets -underBinder)
    | (intro w; refine Dev.cut (p := Dev.canonical w) ?_ ?_; rotate_left; (intro _; clear_value w); rotate_right)
    | (intro w; refine Dev.cut (p := Dev.canonical w.1) ?_ ?_; rotate_left; (intro _; clear_value w); rotate_right)
    | (intro w; clear_value w)
    | with_reducible first | apply Dev.each_keeps | apply Dev.rebase_keeps | apply Dev.put_keeps | apply Dev.setLocked_keeps
    | with_reducible first | apply Dev.modClk_keeps | apply Dev.wakePin_keeps | apply Dev.adcWake_keeps | apply Dev.padcWake_keeps
    | with_reducible first | apply Dev.wakeMemory_keeps | apply Dev.linksUp_keeps | apply Dev.modSpt_keeps | apply Dev.report_keeps
    | with_reducible first | apply Dev.takeHeldEnable_keeps | apply Dev.opEnd_keeps
    | (split <;> try lift_lets -underBinder)
    | with_reducible apply Dev.keep_mk

/-! ## LeveeCmd -/

theorem Dev.faultReport_keeps {m : Dev} (s : Nat) (inst : Nat) (detail : Nat) (t : Instant) (hk : m.canonical) : (Dev.faultReport m s inst
    detail t).canonical := by
  unfold Dev.faultReport
  repeat first
    | with_reducible first | assumption | apply Dev.put_keeps | apply Dev.report_keeps | apply Dev.keep_ite

theorem Dev.disarm_keeps {m : Dev} (hk : m.canonical) : (Dev.disarm m).canonical := by
  unfold Dev.disarm
  repeat first
    | with_reducible first | assumption | apply Dev.modLev_keeps

theorem Dev.forceSource_keeps {m : Dev} (v : Nat) (hk : m.canonical) : (Dev.forceSource m v).canonical := by
  unfold Dev.forceSource
  repeat first
    | with_reducible first | assumption | apply Dev.disarm_keeps | apply Dev.reportAs_keeps | apply Dev.put_keeps | apply Dev.keep_ite

theorem Dev.levArm_keeps {m : Dev} (v : Nat) (hk : m.canonical) : (Dev.levArm m v).canonical := by
  unfold Dev.levArm
  repeat first
    | with_reducible first | assumption | apply Dev.modLev_keeps | apply Dev.disarm_keeps | apply Dev.keep_ite

theorem Dev.armLapse_keeps {m : Dev} (hk : m.canonical) : (Dev.armLapse m).canonical := by
  unfold Dev.armLapse
  repeat first
    | with_reducible first | assumption | apply Dev.disarm_keeps | apply Dev.keep_ite

theorem Dev.logPop_keeps {m : Dev} (hk : m.canonical) : (Dev.logPop m).canonical := by
  unfold Dev.logPop
  repeat first
    | with_reducible first | assumption | apply Dev.modLev_keeps

theorem Dev.sevWrite_keeps {m : Dev} (s : Nat) (v : Nat) (hk : m.canonical) : (Dev.sevWrite m s v).canonical := by
  unfold Dev.sevWrite
  repeat first
    | with_reducible first | assumption | apply Dev.put_keeps | apply Dev.keep_ite

theorem Dev.deviceClear_keeps {m : Dev} (hk : m.canonical) : (Dev.deviceClear m).canonical := by
  unfold Dev.deviceClear
  repeat first
    | with_reducible first | assumption | apply Dev.put_keeps | apply Dev.modLev_keeps

theorem Dev.dumpAck_keeps {m : Dev} (hk : m.canonical) : (Dev.dumpAck m).canonical := by
  unfold Dev.dumpAck
  repeat first
    | with_reducible first | assumption | apply Dev.modLev_keeps

theorem Dev.dump_keeps {m : Dev} (s : Nat) (irq : Bool) (hk : m.canonical) : (Dev.dump m s irq).canonical := by
  unfold Dev.dump
  repeat first
    | with_reducible first | assumption | apply Dev.opStart_keeps | apply Dev.opEnd_keeps | apply Dev.beginDump_keeps
    | with_reducible first | apply Dev.modLev_keeps | apply Dev.keep_ite

theorem Dev.writeDump_keeps {m : Dev} (d : DumpX) (hk : m.canonical) : (Dev.writeDump m d).canonical := by
  unfold Dev.writeDump
  try lift_lets -underBinder
  repeat first
    | with_reducible assumption
    | (intro n x hn; have : Dev.canonical n := hn; try lift_lets -underBinder)
    | with_reducible first | apply Dev.each_keeps | apply Dev.setBytes_keeps | apply Dev.keep_mk

theorem Dev.storeSummary_keeps {m : Dev} (hk : m.canonical) : (Dev.storeSummary m).canonical := by
  unfold Dev.storeSummary
  try lift_lets -underBinder
  repeat first
    | with_reducible assumption
    | with_reducible first | apply Dev.recWrite_keeps | apply Dev.elim_keeps | apply Dev.keep_mk
    | intro x

theorem Dev.dumpComplete_keeps {m : Dev} (hk : m.canonical) : (Dev.dumpComplete m).canonical := by
  unfold Dev.dumpComplete
  try lift_lets -underBinder
  repeat first
    | with_reducible assumption
    | (intro n x hn; have : Dev.canonical n := hn; try lift_lets -underBinder)
    | with_reducible first | apply Dev.each_keeps | apply Dev.writeDump_keeps | apply Dev.put_keeps | apply Dev.modLev_keeps
    | with_reducible first | apply Dev.storeCounters_keeps | apply Dev.storeSummary_keeps | apply Dev.takeHeldEnable_keeps
    | with_reducible apply Dev.opEnd_keeps
    | (split <;> try lift_lets -underBinder)
    | with_reducible apply Dev.keep_mk

theorem Dev.counterWrite_keeps {m : Dev} (stored : Bool) (hk : m.canonical) : (Dev.counterWrite m stored).canonical := by
  unfold Dev.counterWrite
  repeat first
    | with_reducible first | assumption | apply Dev.storeCounters_keeps | apply Dev.put_keeps | apply Dev.report_keeps
    | with_reducible apply Dev.keep_ite

theorem Dev.setAud_keeps {m : Dev} (t : Nat) (x : AudX) (hk : m.canonical) : (Dev.setAud m t x).canonical := by
  unfold Dev.setAud
  repeat first
    | with_reducible first | assumption | apply Dev.keep_mk

theorem Dev.auditMiss_keeps {m : Dev} (t : Nat) (p : Nat) (mask : Nat) (hk : m.canonical) : (Dev.auditMiss m t p mask).canonical := by
  unfold Dev.auditMiss
  repeat first
    | with_reducible first | assumption | apply Dev.count_keeps | apply Dev.report_keeps

theorem Dev.auditTick_keeps {m : Dev} (t : Nat) (mask : Nat) (hk : m.canonical) : (Dev.auditTick m t mask).canonical := by
  unfold Dev.auditTick
  try lift_lets -underBinder
  repeat first
    | with_reducible first | assumption | apply Dev.put_keeps | apply Dev.bump_keeps | apply Dev.auditMiss_keeps
    | with_reducible first | apply Dev.setAud_keeps | apply Dev.report_keeps | apply Dev.keep_ite
    | (split <;> try lift_lets -underBinder)
    | with_reducible apply Dev.keep_mk

theorem Dev.auditAll_keeps {m : Dev} (found : List (Nat × Nat)) (hk : m.canonical) : (Dev.auditAll m found).canonical := by
  unfold Dev.auditAll
  try lift_lets -underBinder
  repeat first
    | with_reducible assumption
    | (intro n x hn; have : Dev.canonical n := hn; try lift_lets -underBinder)
    | with_reducible first | apply Dev.each_keeps | apply Dev.auditTick_keeps

theorem Dev.copyDone_keeps {m : Dev} (t : Nat) (hk : m.canonical) : (Dev.copyDone m t).canonical := by
  unfold Dev.copyDone
  try lift_lets -underBinder
  repeat first
    | with_reducible first | assumption | apply Dev.copyStore_keeps | apply Dev.put_keeps | apply Dev.keep_ite
    | (split <;> try lift_lets -underBinder)
    | with_reducible apply Dev.keep_mk

theorem Dev.laneOutvoted_keeps {m : Dev} (lane : Nat) (majority : Bool) (hk : m.canonical) : (Dev.laneOutvoted m lane majority).canonical :=
    by
  unfold Dev.laneOutvoted
  repeat first
    | with_reducible first | assumption | apply Dev.rewriteLane_keeps | apply Dev.count_keeps | apply Dev.report_keeps
    | with_reducible apply Dev.keep_ite

/-! ## Boot -/

theorem Dev.clearHold_keeps {m : Dev} (hk : m.canonical) : (Dev.clearHold m).canonical := by
  unfold Dev.clearHold
  try lift_lets -underBinder
  repeat first
    | with_reducible assumption
    | (intro n x hn; have : Dev.canonical n := hn; try lift_lets -underBinder)
    | with_reducible first | apply Dev.each_keeps | apply Dev.react_keeps | apply Dev.clearAll_keeps | apply Dev.abandonCal_keeps

theorem Dev.clrAssert_keeps {m : Dev} (lowNs : Nat) (hk : m.canonical) : (Dev.clrAssert m lowNs).canonical := by
  unfold Dev.clrAssert
  repeat first
    | with_reducible first | assumption | apply Dev.draw_keeps | apply Dev.put_keeps | apply Dev.count_keeps
    | with_reducible first | apply Dev.clearHold_keeps | apply Dev.keep_ite

theorem Dev.clrRelease_keeps {m : Dev} (hk : m.canonical) : (Dev.clrRelease m).canonical := by
  unfold Dev.clrRelease
  repeat first
    | with_reducible first | assumption | apply Dev.put_keeps

theorem Dev.clearCodes_keeps {m : Dev} (hk : m.canonical) : (Dev.clearCodes m).canonical := by
  unfold Dev.clearCodes
  try lift_lets -underBinder
  repeat first
    | with_reducible assumption
    | (intro n x hn; have : Dev.canonical n := hn; try lift_lets -underBinder)
    | with_reducible first | apply Dev.each_keeps | apply Dev.clearLevels_keeps | apply Dev.limitOwed_keeps

theorem Dev.serviceMode_keeps {m : Dev} (hk : m.canonical) : (Dev.serviceMode m).canonical := by
  unfold Dev.serviceMode
  repeat first
    | with_reducible first | assumption | apply Dev.put_keeps | apply Dev.modLev_keeps | apply Dev.keep_ite

theorem Dev.powerOnReset_keeps {m : Dev} (hk : m.canonical) : (Dev.powerOnReset m).canonical := by
  unfold Dev.powerOnReset
  refine Dev.serviceMode_keeps (Dev.keep_parts ?_ (keepRegs_wf _ hk.2.1) rfl)
  dsimp only
  split
  · exact Tbl.wf_filter _ hk.1
  · rfl

theorem Dev.warmReset_keeps {m : Dev} (hk : m.canonical) : (Dev.warmReset m).canonical := by
  unfold Dev.warmReset
  exact Dev.serviceMode_keeps (Dev.clearCodes_keeps (Dev.keep_parts hk.1 (keepRegs_wf _ hk.2.1) rfl))

theorem Dev.warmResetKey_keeps {m : Dev} (v : Nat) (hk : m.canonical) : (Dev.warmResetKey m v).canonical := by
  unfold Dev.warmResetKey
  repeat first
    | with_reducible first | assumption | apply Dev.warmReset_keeps | apply Dev.keep_ite

theorem Dev.powerLoss_keeps {m : Dev} (core : Bool) (hk : m.canonical) : (Dev.powerLoss m core).canonical := by
  unfold Dev.powerLoss
  try lift_lets -underBinder
  repeat first
    | with_reducible assumption
    | (intro n x hn; have : Dev.canonical n := hn; try lift_lets -underBinder)
    | with_reducible first | apply Dev.each_keeps | apply Dev.put_keeps | apply Dev.keep_ite | apply Dev.keep_mk

theorem Dev.powerReturn_keeps {m : Dev} (core : Bool) (hk : m.canonical) : (Dev.powerReturn m core).canonical := by
  unfold Dev.powerReturn
  repeat first
    | with_reducible first | assumption | apply Dev.keep_mk

theorem Dev.bootCode_keeps {m : Dev} (i : BootIn) (hk : m.canonical) : (Dev.bootCode m i).canonical := by
  unfold Dev.bootCode
  repeat first
    | with_reducible first | assumption | apply Dev.put_keeps | apply Dev.setReg_keeps | apply Dev.loadMicrocode_keeps
    | with_reducible apply Dev.keep_ite

theorem Dev.loadReservoir_keeps {m : Dev} (i : BootIn) (hk : m.canonical) : (Dev.loadReservoir m i).canonical := by
  unfold Dev.loadReservoir
  try lift_lets -underBinder
  repeat first
    | with_reducible assumption
    | (intro n x hn; have : Dev.canonical n := hn; try lift_lets -underBinder)
    | with_reducible first | apply Dev.each_keeps | apply Dev.put_keeps | apply Dev.setReg_keeps | apply Dev.report_keeps
    | with_reducible first | apply Dev.modLev_keeps | apply Dev.keep_ite | apply Dev.elim_keeps | apply Dev.keep_mk
    | intro x

theorem Dev.bootMemory_keeps {m : Dev} (i : BootIn) (hk : m.canonical) : (Dev.bootMemory m i).canonical := by
  unfold Dev.bootMemory
  repeat first
    | with_reducible first | assumption | apply Dev.put_keeps | apply Dev.modSlc_keeps | apply Dev.sampleTemps_keeps
    | with_reducible first | apply Dev.restoreTraining_keeps | apply Dev.keep_ite

theorem Dev.loadTrims_keeps {m : Dev} (t : Nat) (hk : m.canonical) : (Dev.loadTrims m t).canonical := by
  unfold Dev.loadTrims
  try lift_lets -underBinder
  repeat first
    | with_reducible assumption
    | (intro n x hn; have : Dev.canonical n := hn; try lift_lets -underBinder)
    | with_reducible first | apply Dev.each_keeps | apply Dev.putCoef_keeps | apply Dev.showSource_keeps | apply Dev.put_keeps
    | with_reducible first | apply Dev.modCal_keeps | apply Dev.showFactory_keeps | apply Dev.keep_ite | apply Dev.keep_mk

theorem Dev.bootRun_keeps {m : Dev} (i : BootIn) (t : Nat) (hk : m.canonical) : (Dev.bootRun m i t).canonical := by
  unfold Dev.bootRun
  repeat first
    | with_reducible first | assumption | apply Dev.makeDue_keeps | apply Dev.put_keeps | apply Dev.kindsDone_keeps
    | with_reducible first | apply Dev.outageClose_keeps | apply Dev.keep_ite

theorem Dev.bootCalibrate_keeps {m : Dev} (i : BootIn) (hk : m.canonical) : (Dev.bootCalibrate m i).canonical := by
  unfold Dev.bootCalibrate
  try lift_lets -underBinder
  repeat first
    | with_reducible assumption
    | (intro n x hn; have : Dev.canonical n := hn; try lift_lets -underBinder)
    | with_reducible first | apply Dev.each_keeps | apply Dev.put_keeps | apply Dev.report_keeps | apply Dev.dropTable_keeps
    | with_reducible first | apply Dev.loadTrims_keeps | apply Dev.bootRun_keeps

theorem Dev.bootReady_keeps {m : Dev} (hk : m.canonical) : (Dev.bootReady m).canonical := by
  unfold Dev.bootReady
  try lift_lets -underBinder
  repeat first
    | with_reducible first | assumption | apply Dev.put_keeps | apply Dev.keep_filter

theorem Dev.bootHalt_keeps {m : Dev} (err : Nat) (hk : m.canonical) : (Dev.bootHalt m err).canonical := by
  unfold Dev.bootHalt
  repeat first
    | with_reducible first | assumption | apply Dev.put_keeps

theorem Dev.startupReady_keeps {m : Dev} (i : BootIn) (hk : m.canonical) : (Dev.startupReady m i).canonical := by
  unfold Dev.startupReady
  repeat first
    | with_reducible first | assumption | apply Dev.put_keeps | apply Dev.bootHalt_keeps | apply Dev.bootCode_keeps
    | with_reducible first | apply Dev.loadReservoir_keeps | apply Dev.bootMemory_keeps | apply Dev.bootCalibrate_keeps
    | with_reducible first | apply Dev.bootReady_keeps | apply Dev.keep_ite

/-! ## Firmware -/

theorem Dev.modFirm_keeps {m : Dev} (f : FirmX → FirmX) (hk : m.canonical) : (Dev.modFirm m f).canonical := by
  unfold Dev.modFirm
  repeat first
    | with_reducible first | assumption | apply Dev.keep_mk

theorem Dev.withdrawDrop_keeps {m : Dev} (hk : m.canonical) : (Dev.withdrawDrop m).canonical := by
  unfold Dev.withdrawDrop
  repeat first
    | with_reducible first | assumption | apply Dev.catchState_keeps | apply Dev.put_keeps

theorem Dev.dropOp_keeps {m : Dev} (s : Nat) (err : Nat) (hard : Bool) (hk : m.canonical) : (Dev.dropOp m s err hard).canonical := by
  unfold Dev.dropOp
  try lift_lets -underBinder
  repeat first
    | with_reducible assumption
    | with_reducible first | apply Dev.catchLoad_keeps | apply Dev.catchState_keeps | apply Dev.opEnd_keeps
    | with_reducible first | apply Dev.catchWithdraw_keeps | apply Dev.withdrawDrop_keeps | apply Dev.recourseAbandon_keeps
    | with_reducible first | apply Dev.put_keeps | apply Dev.modSlc_keeps | apply Dev.opChange_keeps | apply Dev.opChangeEnd_keeps
    | with_reducible first | apply Dev.calRun_keeps | apply Dev.endGathers_keeps | apply Dev.modCal_keeps | apply Dev.dump_keeps
    | with_reducible first | apply Dev.modLev_keeps | apply Dev.slackAbandon_keeps | apply Dev.fwStage_keeps | apply Dev.modFirm_keeps
    | with_reducible first | apply Dev.keep_ite | apply Dev.keep_mk

theorem Dev.mailboxAbort_keeps {m : Dev} (s : Nat) (hk : m.canonical) : (Dev.mailboxAbort m s).canonical := by
  unfold Dev.mailboxAbort
  repeat first
    | with_reducible first | assumption | apply Dev.opEnd_keeps | apply Dev.putStatus_keeps | apply Dev.dropOp_keeps
    | with_reducible apply Dev.keep_ite

theorem Dev.watchdog_keeps {m : Dev} (hk : m.canonical) : (Dev.watchdog m).canonical := by
  unfold Dev.watchdog
  try lift_lets -underBinder
  repeat first
    | with_reducible assumption
    | (intro n x hn; have : Dev.canonical n := hn; try lift_lets -underBinder)
    | with_reducible first | apply Dev.each_keeps | apply Dev.dropOp_keeps | apply Dev.report_keeps

theorem Dev.unknownOp_keeps {m : Dev} (s : Nat) (op : Nat) (irq : Bool) (hk : m.canonical) : (Dev.unknownOp m s op irq).canonical := by
  unfold Dev.unknownOp
  repeat first
    | with_reducible first | assumption | apply Dev.opIssue_keeps | apply Dev.putStatus_keeps | apply Dev.opEnd_keeps
    | with_reducible apply Dev.keep_ite

theorem Dev.servo_keeps {m : Dev} (s : Nat) (irq : Bool) (hk : m.canonical) : (Dev.servo m s irq).canonical := by
  unfold Dev.servo
  repeat first
    | with_reducible first | assumption | apply Dev.opStart_keeps | apply Dev.opEnd_keeps | apply Dev.modFirm_keeps
    | with_reducible apply Dev.keep_ite

theorem Dev.servoNoMaster_keeps {m : Dev} (hk : m.canonical) : (Dev.servoNoMaster m).canonical := by
  unfold Dev.servoNoMaster
  try lift_lets -underBinder
  repeat first
    | with_reducible first | assumption | apply Dev.servo_keeps | apply Dev.opEnd_keeps
    | (split <;> try lift_lets -underBinder)

theorem Dev.servoAdjust_keeps {m : Dev} (e : Nat) (offset : Nat) (inc : Nat) (step : Nat) (hk : m.canonical) : (Dev.servoAdjust m e offset
    inc step).canonical := by
  unfold Dev.servoAdjust
  try lift_lets -underBinder
  repeat first
    | with_reducible first | assumption | apply Dev.servo_keeps | apply Dev.setReg_keeps | apply Dev.put_keeps | apply Dev.modClk_keeps
    | with_reducible first | apply Dev.setPair_keeps | apply Dev.tmbArm_keeps | apply Dev.setMem_keeps | apply Dev.modFirm_keeps
    | with_reducible first | apply Dev.partialCount_keeps | apply Dev.keep_ite
    | (split <;> try lift_lets -underBinder)
    | with_reducible apply Dev.keep_mk

theorem Dev.fwStage_keeps {m : Dev} (s : Nat) (irq : Bool) (verdict : Nat) (hk : m.canonical) : (Dev.fwStage m s irq verdict).canonical :=
    by
  unfold Dev.fwStage
  repeat first
    | with_reducible first | assumption | apply Dev.opStart_keeps | apply Dev.opEnd_keeps | apply Dev.modFirm_keeps
    | with_reducible apply Dev.keep_ite

theorem Dev.prefer_keeps {m : Dev} (k : Nat) (hk : m.canonical) : (Dev.prefer m k).canonical := by
  unfold Dev.prefer
  repeat first
    | with_reducible first | assumption | apply Dev.modFirm_keeps | apply Dev.put_keeps

theorem Dev.fwStageDone_keeps {m : Dev} (good : Bool) (hk : m.canonical) : (Dev.fwStageDone m good).canonical := by
  unfold Dev.fwStageDone
  try lift_lets -underBinder
  repeat first
    | with_reducible first | assumption | apply Dev.modFirm_keeps | apply Dev.opEnd_keeps | apply Dev.prefer_keeps | apply Dev.keep_ite
    | (split <;> try lift_lets -underBinder)
    | with_reducible apply Dev.keep_mk

theorem Dev.fwSelect_keeps {m : Dev} (s : Nat) (irq : Bool) (good : Bool) (hk : m.canonical) : (Dev.fwSelect m s irq good).canonical := by
  unfold Dev.fwSelect
  repeat first
    | with_reducible first | assumption | apply Dev.opStart_keeps | apply Dev.opEnd_keeps | apply Dev.prefer_keeps | apply Dev.keep_ite

/-! ## Host -/

theorem Dev.modHost_keeps {m : Dev} (f : HostX → HostX) (hk : m.canonical) : (Dev.modHost m f).canonical := by
  unfold Dev.modHost
  repeat first
    | with_reducible first | assumption | apply Dev.keep_mk

theorem Dev.setSnapshot_keeps {m : Dev} (req : Nat) (low : Nat) (l : List (Nat × Nat)) (hk : m.canonical) : (Dev.setSnapshot m req low
    l).canonical := by
  unfold Dev.setSnapshot
  repeat first
    | with_reducible first | assumption | apply Dev.modHost_keeps

theorem Dev.torn_keeps {m : Dev} (off : Nat) (hk : m.canonical) : (Dev.torn m off).canonical := by
  unfold Dev.torn
  repeat first
    | with_reducible first | assumption | apply Dev.put_keeps | apply Dev.count_keeps

theorem Dev.badAccess_keeps {m : Dev} (off : Nat) (hk : m.canonical) : (Dev.badAccess m off).canonical := by
  unfold Dev.badAccess
  repeat first
    | with_reducible first | assumption | apply Dev.put_keeps

theorem Dev.readWord_keeps {m : Dev} (req : Nat) (off : Nat) (hk : m.canonical) : (Dev.readWord m req off).1.canonical := by
  unfold Dev.readWord
  try lift_lets -underBinder
  repeat first
    | with_reducible assumption
    | with_reducible first | apply Dev.torn_keeps | apply Dev.setSnapshot_keeps | apply Dev.keep_ite_fst | apply Dev.keep_ite
    | (intro w; refine Dev.cut (p := Dev.canonical w) ?_ ?_; rotate_left; (intro _; clear_value w); rotate_right)
    | (intro w; refine Dev.cut (p := Dev.canonical w.1) ?_ ?_; rotate_left; (intro _; clear_value w); rotate_right)
    | (intro w; clear_value w)
    | (split <;> try lift_lets -underBinder)

theorem Dev.readEffect_keeps {m : Dev} (off : Nat) (hk : m.canonical) : (Dev.readEffect m off).canonical := by
  unfold Dev.readEffect
  repeat first
    | with_reducible first | assumption | apply Dev.logPop_keeps | apply Dev.setStamps_keeps | apply Dev.fifoPop_keeps
    | with_reducible first | apply Dev.readClear_keeps | apply Dev.keep_ite

theorem Dev.answer_keeps {m : Dev} (v : Nat) (hk : m.canonical) : (Dev.answer m v).canonical := by
  unfold Dev.answer
  repeat first
    | with_reducible first | assumption | apply Dev.keep_mk

theorem Dev.hostRead_keeps {m : Dev} (off : Nat) (hk : m.canonical) : (Dev.hostRead m off).canonical := by
  unfold Dev.hostRead
  repeat first
    | with_reducible first | assumption | apply Dev.readWord_keeps | apply Dev.readEffect_keeps | apply Dev.answer_keeps
    | with_reducible apply Dev.keep_ite

theorem Dev.barRead_keeps {m : Dev} (off : Nat) (len : Nat) (hk : m.canonical) : (Dev.barRead m off len).canonical := by
  unfold Dev.barRead
  try lift_lets -underBinder
  repeat first
    | with_reducible assumption
    | with_reducible first | apply Dev.hostRead_keeps | apply Dev.badAccess_keeps | apply Dev.report_keeps | apply Dev.answer_keeps
    | with_reducible first | apply Dev.keep_ite | apply Dev.keep_mk

theorem Dev.seqWrite_keeps {m : Dev} (q : Nat) (o : Nat) (off : Nat) (v : Nat) (hk : m.canonical) : (Dev.seqWrite m q o off v).canonical :=
    by
  unfold Dev.seqWrite
  repeat first
    | with_reducible first | assumption | apply Dev.tsqEnable_keeps | apply Dev.tsqDisable_keeps | apply Dev.seqRestart_keeps
    | with_reducible first | apply Dev.put_keeps | apply Dev.writeFields_keeps | apply Dev.keep_ite

theorem Dev.pinWrite_keeps {m : Dev} (p : Nat) (off : Nat) (v : Nat) (hk : m.canonical) : (Dev.pinWrite m p off v).canonical := by
  unfold Dev.pinWrite
  repeat first
    | with_reducible first | assumption | apply Dev.writeFields_keeps | apply Dev.put_keeps | apply Dev.windowStart_keeps
    | with_reducible first | apply Dev.userWrite_keeps | apply Dev.settlePin_keeps | apply Dev.clearCode_keeps
    | with_reducible first | apply Dev.ppmuWrite_keeps | apply Dev.ppmuFields_keeps | apply Dev.ppmuShut_keeps | apply Dev.keep_ite

theorem Dev.tribWrite_keeps {m : Dev} (t : Nat) (off : Nat) (v : Nat) (hk : m.canonical) : (Dev.tribWrite m t off v).canonical := by
  unfold Dev.tribWrite
  repeat first
    | with_reducible first | assumption | apply Dev.deltaEnable_keeps | apply Dev.deltaDisable_keeps | apply Dev.writeFields_keeps
    | with_reducible first | apply Dev.deltaClamp_keeps | apply Dev.deltaRate_keeps | apply Dev.keep_ite

theorem Dev.toneWrite_keeps {m : Dev} (b : Nat) (c : Nat) (o : Nat) (off : Nat) (v : Nat) (hk : m.canonical) : (Dev.toneWrite m b c o off
    v).canonical := by
  unfold Dev.toneWrite
  repeat first
    | with_reducible first | assumption | apply Dev.toneEnable_keeps | apply Dev.toneDisable_keeps | apply Dev.ftwCommit_keeps
    | with_reducible first | apply Dev.poffCommit_keeps | apply Dev.writeFields_keeps | apply Dev.keep_ite

theorem Dev.pairWrite_keeps {m : Dev} (b : Nat) (off : Nat) (v : Nat) (hk : m.canonical) : (Dev.pairWrite m b off v).canonical := by
  unfold Dev.pairWrite
  repeat first
    | with_reducible first | assumption | apply Dev.writeFields_keeps | apply Dev.stagePair_keeps | apply Dev.keep_ite

theorem Dev.bsnWrite_keeps {m : Dev} (b : Nat) (off : Nat) (v : Nat) (hk : m.canonical) : (Dev.bsnWrite m b off v).canonical := by
  unfold Dev.bsnWrite
  repeat first
    | with_reducible first | assumption | apply Dev.basinEnable_keeps | apply Dev.basinDisable_keeps | apply Dev.pairWrite_keeps
    | with_reducible first | apply Dev.eventClear_keeps | apply Dev.eventSet_keeps | apply Dev.loadStrobe_keeps
    | with_reducible first | apply Dev.seqWrite_keeps | apply Dev.captureArm_keeps | apply Dev.captureDisarm_keeps
    | with_reducible first | apply Dev.forceTrig_keeps | apply Dev.capParam_keeps | apply Dev.capRd_keeps | apply Dev.toneWrite_keeps
    | with_reducible first | apply Dev.writeFields_keeps | apply Dev.keep_ite

theorem Dev.adcWrite_keeps {m : Dev} (off : Nat) (v : Nat) (hk : m.canonical) : (Dev.adcWrite m off v).canonical := by
  unfold Dev.adcWrite
  repeat first
    | with_reducible first | assumption | apply Dev.adcEnable_keeps | apply Dev.adcDisable_keeps | apply Dev.scanRun_keeps
    | with_reducible first | apply Dev.scanStop_keeps | apply Dev.scanStartHost_keeps | apply Dev.maskCommit_keeps
    | with_reducible first | apply Dev.periodWrite_keeps | apply Dev.writeFields_keeps | apply Dev.setFlag_keeps
    | with_reducible first | apply Dev.padcEnable_keeps | apply Dev.padcDisable_keeps | apply Dev.keep_ite

theorem Dev.winWrite_keeps {m : Dev} (v : Nat) (hk : m.canonical) : (Dev.winWrite m v).canonical := by
  unfold Dev.winWrite
  repeat first
    | with_reducible first | assumption | apply Dev.put_keeps | apply Dev.keep_ite

theorem Dev.traceWrite_keeps {m : Dev} (off : Nat) (v : Nat) (hk : m.canonical) : (Dev.traceWrite m off v).canonical := by
  unfold Dev.traceWrite
  repeat first
    | with_reducible first | assumption | apply Dev.put_keeps | apply Dev.writeFields_keeps | apply Dev.keep_ite

theorem Dev.calDeltaWrite_keeps {m : Dev} (v : Nat) (hk : m.canonical) : (Dev.calDeltaWrite m v).canonical := by
  unfold Dev.calDeltaWrite
  repeat first
    | with_reducible first | assumption | apply Dev.put_keeps | apply Dev.keep_ite

theorem Dev.mbxCommand_keeps {m : Dev} (s : Nat) (v : Nat) (hk : m.canonical) : (Dev.mbxCommand m s v).canonical := by
  unfold Dev.mbxCommand
  repeat first
    | with_reducible first | assumption | apply Dev.sumBit_keeps | apply Dev.opIssue_keeps | apply Dev.mailboxAbort_keeps
    | with_reducible apply Dev.keep_ite

theorem Dev.mbxWrite_keeps {m : Dev} (req : Nat) (off : Nat) (v : Nat) (hk : m.canonical) : (Dev.mbxWrite m req off v).canonical := by
  unfold Dev.mbxWrite
  repeat first
    | with_reducible first | assumption | apply Dev.mbxCommand_keeps | apply Dev.writeFields_keeps | apply Dev.keep_ite

theorem Dev.msixWrite_keeps {m : Dev} (off : Nat) (v : Nat) (hk : m.canonical) : (Dev.msixWrite m off v).canonical := by
  unfold Dev.msixWrite
  repeat first
    | with_reducible first | assumption | apply Dev.writeFields_keeps | apply Dev.setReg_keeps | apply Dev.msix_keeps
    | with_reducible apply Dev.keep_ite

theorem Dev.queueStart_keeps {m : Dev} (q : Nat) (hk : m.canonical) : (Dev.queueStart m q).canonical := by
  unfold Dev.queueStart
  repeat first
    | with_reducible first | assumption | apply Dev.put_keeps | apply Dev.modWeir_keeps | apply Dev.keep_ite

theorem Dev.queueEnable_keeps {m : Dev} (q : Nat) (hk : m.canonical) : (Dev.queueEnable m q).canonical := by
  unfold Dev.queueEnable
  repeat first
    | with_reducible first | assumption | apply Dev.put_keeps | apply Dev.queueStart_keeps | apply Dev.keep_ite

theorem Dev.queueDisable_keeps {m : Dev} (q : Nat) (hk : m.canonical) : (Dev.queueDisable m q).canonical := by
  unfold Dev.queueDisable
  repeat first
    | with_reducible first | assumption | apply Dev.put_keeps | apply Dev.keep_ite

theorem Dev.queueShutDone_keeps {m : Dev} (q : Nat) (hk : m.canonical) : (Dev.queueShutDone m q).canonical := by
  unfold Dev.queueShutDone
  repeat first
    | with_reducible first | assumption | apply Dev.put_keeps | apply Dev.queueStart_keeps | apply Dev.keep_ite

theorem Dev.queueBase_keeps {m : Dev} (q : Nat) (off : Nat) (v : Nat) (hk : m.canonical) : (Dev.queueBase m q off v).canonical := by
  unfold Dev.queueBase
  repeat first
    | with_reducible first | assumption | apply Dev.put_keeps | apply Dev.writeFields_keeps | apply Dev.keep_ite

theorem Dev.sqDoorbell_keeps {m : Dev} (q : Nat) (tail : Nat) (hk : m.canonical) : (Dev.sqDoorbell m q tail).canonical := by
  unfold Dev.sqDoorbell
  repeat first
    | with_reducible first | assumption | apply Dev.put_keeps | apply Dev.modWeir_keeps | apply Dev.keep_ite

theorem Dev.cqDoorbell_keeps {m : Dev} (q : Nat) (head : Nat) (hk : m.canonical) : (Dev.cqDoorbell m q head).canonical := by
  unfold Dev.cqDoorbell
  repeat first
    | with_reducible first | assumption | apply Dev.modWeir_keeps | apply Dev.put_keeps

theorem Dev.fetchFrom_keeps {m : Dev} (q : Nat) (hk : m.canonical) : (Dev.fetchFrom m q).canonical := by
  unfold Dev.fetchFrom
  try lift_lets -underBinder
  repeat first
    | with_reducible assumption
    | with_reducible first | apply Dev.hostRead_keeps | apply Dev.put_keeps | apply Dev.modWeir_keeps | apply Dev.keep_mk

theorem Dev.fetchTurns_keeps : ∀ (n : Nat) (l : List Nat) {m : Dev}, m.canonical → (Dev.fetchTurns n l m).1.canonical
  | 0, _, _, hk => hk
  | n + 1, l, m, hk => by
    unfold Dev.fetchTurns
    split
    · exact hk
    · exact Dev.fetchTurns_keeps n _ (Dev.fetchFrom_keeps _ hk)

theorem Dev.fetchTick_keeps {m : Dev} (hk : m.canonical) : (Dev.fetchTick m).canonical := by
  unfold Dev.fetchTick
  repeat first
    | with_reducible first | assumption | apply Dev.fetchTurns_keeps | apply Dev.modWeir_keeps | apply Dev.keep_ite

theorem Dev.sqLand_keeps {m : Dev} (q : Nat) (data : Block64) (hk : m.canonical) : (Dev.sqLand m q data).canonical := by
  unfold Dev.sqLand
  try lift_lets -underBinder
  repeat first
    | with_reducible first | assumption | apply Dev.setMem_keeps | apply Dev.modWeir_keeps
    | (split <;> try lift_lets -underBinder)
    | with_reducible apply Dev.keep_mk

theorem Dev.setRingTail_keeps {m : Dev} (e : Nat) (r : Nat) (v : Nat) (hk : m.canonical) : (Dev.setRingTail m e r v).canonical := by
  unfold Dev.setRingTail
  repeat first
    | with_reducible first | assumption | apply Dev.modHost_keeps

theorem Dev.ringBusy_keeps {m : Dev} (e : Nat) (r : Nat) (hk : m.canonical) : (Dev.ringBusy m e r).canonical := by
  unfold Dev.ringBusy
  repeat first
    | with_reducible first | assumption | apply Dev.put_keeps

theorem Dev.dmaRun_keeps {m : Dev} (e : Nat) (r : Nat) (hk : m.canonical) : (Dev.dmaRun m e r).canonical := by
  unfold Dev.dmaRun
  repeat first
    | with_reducible first | assumption | apply Dev.put_keeps | apply Dev.ringBusy_keeps | apply Dev.keep_ite

theorem Dev.dmaStop_keeps {m : Dev} (e : Nat) (r : Nat) (hk : m.canonical) : (Dev.dmaStop m e r).canonical := by
  unfold Dev.dmaStop
  repeat first
    | with_reducible first | assumption | apply Dev.put_keeps | apply Dev.setRingTail_keeps | apply Dev.keep_ite

theorem Dev.dmaTail_keeps {m : Dev} (e : Nat) (r : Nat) (tail : Nat) (hk : m.canonical) : (Dev.dmaTail m e r tail).canonical := by
  unfold Dev.dmaTail
  repeat first
    | with_reducible first | assumption | apply Dev.setRingTail_keeps | apply Dev.ringBusy_keeps | apply Dev.keep_ite

theorem Dev.dmaWrite_keeps {m : Dev} (off : Nat) (v : Nat) (hk : m.canonical) : (Dev.dmaWrite m off v).canonical := by
  unfold Dev.dmaWrite
  repeat first
    | with_reducible first | assumption | apply Dev.dmaRun_keeps | apply Dev.dmaStop_keeps | apply Dev.writeFields_keeps
    | with_reducible first | apply Dev.dmaTail_keeps | apply Dev.keep_ite

theorem Dev.queueWrite_keeps {m : Dev} (off : Nat) (v : Nat) (hk : m.canonical) : (Dev.queueWrite m off v).canonical := by
  unfold Dev.queueWrite
  repeat first
    | with_reducible first | assumption | apply Dev.queueEnable_keeps | apply Dev.queueDisable_keeps | apply Dev.queueBase_keeps
    | with_reducible first | apply Dev.writeFields_keeps | apply Dev.keep_ite

theorem Dev.ctrlWrite_keeps {m : Dev} (req : Nat) (off : Nat) (v : Nat) (hk : m.canonical) : (Dev.ctrlWrite m req off v).canonical := by
  unfold Dev.ctrlWrite
  repeat first
    | with_reducible first | assumption | apply Dev.warmResetKey_keeps | apply Dev.winWrite_keeps | apply Dev.mbxWrite_keeps
    | with_reducible first | apply Dev.deviceClear_keeps | apply Dev.writeFields_keeps | apply Dev.forceSource_keeps
    | with_reducible first | apply Dev.levArm_keeps | apply Dev.dumpAck_keeps | apply Dev.sevWrite_keeps | apply Dev.sptCtl_keeps
    | with_reducible first | apply Dev.droopWrite_keeps | apply Dev.stepLimitWrite_keeps | apply Dev.hostWake_keeps
    | with_reducible first | apply Dev.tmbArm_keeps | apply Dev.modClk_keeps | apply Dev.hdwCtl_keeps | apply Dev.syncCtl_keeps
    | with_reducible first | apply Dev.weiCancel_keeps | apply Dev.weiCancelBasin_keeps | apply Dev.traceWrite_keeps
    | with_reducible first | apply Dev.factoryWrite_keeps | apply Dev.calDeltaWrite_keeps | apply Dev.vtlEnable_keeps
    | with_reducible first | apply Dev.vtlDisable_keeps | apply Dev.ethEnable_keeps | apply Dev.ethDisable_keeps | apply Dev.keep_ite

theorem Dev.carryOut_keeps {m : Dev} (req : Nat) (off : Nat) (v : Nat) (hk : m.canonical) : (Dev.carryOut m req off v).canonical := by
  unfold Dev.carryOut
  repeat first
    | with_reducible first | assumption | apply Dev.ckoEnable_keeps | apply Dev.ckoDisable_keeps | apply Dev.ckoPhase_keeps
    | with_reducible first | apply Dev.writeFields_keeps | apply Dev.adcWrite_keeps | apply Dev.ctrlWrite_keeps
    | with_reducible first | apply Dev.pinWrite_keeps | apply Dev.tribWrite_keeps | apply Dev.bsnWrite_keeps | apply Dev.seqWrite_keeps
    | with_reducible first | apply Dev.queueWrite_keeps | apply Dev.sqDoorbell_keeps | apply Dev.cqDoorbell_keeps
    | with_reducible first | apply Dev.msixWrite_keeps | apply Dev.dmaWrite_keeps | apply Dev.keep_ite

theorem Dev.writeWord_keeps {m : Dev} (req : Nat) (off : Nat) (v : Nat) (hk : m.canonical) : (Dev.writeWord m req off v).canonical := by
  unfold Dev.writeWord
  try lift_lets -underBinder
  repeat first
    | with_reducible assumption
    | with_reducible first | apply Dev.carryOut_keeps | apply Dev.keep_ite | apply Dev.keep_mk

theorem Dev.barWrite_keeps {m : Dev} (off : Nat) (v : Nat) (len : Nat) (full : Bool) (hk : m.canonical) : (Dev.barWrite m off v len
    full).canonical := by
  unfold Dev.barWrite
  repeat first
    | with_reducible first | assumption | apply Dev.writeWord_keeps | apply Dev.badAccess_keeps | apply Dev.keep_ite

theorem Dev.deliverEnable_keeps {m : Dev} (e : Nat × Word) (hk : m.canonical) : (Dev.deliverEnable m e).canonical := by
  unfold Dev.deliverEnable
  repeat first
    | with_reducible first | assumption | apply Dev.takeTiming_keeps | apply Dev.modBsn_keeps | apply Dev.keep_ite

theorem Dev.deliverWrite_keeps {m : Dev} (e : Nat × Word) (hk : m.canonical) : (Dev.deliverWrite m e).canonical := by
  unfold Dev.deliverWrite
  try lift_lets -underBinder
  repeat first
    | with_reducible first | assumption | apply Dev.deliverEnable_keeps | apply Dev.userDeliver_keeps | apply Dev.carryOut_keeps
    | with_reducible apply Dev.keep_ite
    | (split <;> try lift_lets -underBinder)
    | with_reducible apply Dev.keep_mk

theorem Dev.carryDelivered_keeps {m : Dev} (hk : m.canonical) : (Dev.carryDelivered m).canonical := by
  unfold Dev.carryDelivered
  try lift_lets -underBinder
  repeat first
    | with_reducible assumption
    | (intro n x hn; have : Dev.canonical n := hn; try lift_lets -underBinder)
    | with_reducible first | apply Dev.each_keeps | apply Dev.carryOut_keeps | apply Dev.keep_mk

/-! ## HostCmd -/

theorem Dev.hostMeets_keeps {m : Dev} (a : Nat) (e : Ecc) (hk : m.canonical) : (Dev.hostMeets m a e).canonical := by
  unfold Dev.hostMeets
  try lift_lets -underBinder
  repeat first
    | with_reducible assumption
    | with_reducible first | apply Dev.touch_keeps | apply Dev.eccFound_keeps | apply Dev.report_keeps | apply Dev.keep_ite
    | with_reducible apply Dev.keep_mk

theorem Dev.windowRead_keeps {m : Dev} (o : Nat) (len : Nat) (ecc : Ecc) (hk : m.canonical) : (Dev.windowRead m o len ecc).canonical := by
  unfold Dev.windowRead
  try lift_lets -underBinder
  repeat first
    | with_reducible assumption
    | with_reducible first | apply Dev.hostMeets_keeps | apply Dev.askHost_keeps | apply Dev.keep_ite | apply Dev.keep_mk

theorem Dev.rmwMeets_keeps {m : Dev} (a : Nat) (e : Ecc) (hk : m.canonical) : (Dev.rmwMeets m a e).canonical := by
  unfold Dev.rmwMeets
  try lift_lets -underBinder
  repeat first
    | with_reducible first | assumption | apply Dev.eccFound_keeps | apply Dev.poisonReport_keeps | apply Dev.keep_ite
    | (split <;> try lift_lets -underBinder)

theorem Dev.putBytes_keeps (skip : Nat → Bool) : ∀ (a : Nat) (l : List Byte) {m : Dev}, m.canonical → (m.putBytes skip a l).canonical
  | _, [], _, hk => hk
  | a, v :: t, _, hk => Dev.putBytes_keeps skip (a + 1) t (Dev.keep_ite (Dev.setByte_keeps hk a v) hk)

theorem Dev.windowWrite_keeps {m : Dev} (o : Nat) (l : List Byte) (ecc : Ecc) (hk : m.canonical) : (Dev.windowWrite m o l ecc).canonical :=
    by
  unfold Dev.windowWrite
  try lift_lets -underBinder
  repeat first
    | with_reducible first | assumption | apply Dev.count_keeps | apply Dev.rmwMeets_keeps | apply Dev.touch_keeps
    | with_reducible first | apply Dev.askHost_keeps | apply Dev.putBytes_keeps | apply Dev.keep_ite
    | (split <;> try lift_lets -underBinder)

theorem Dev.winBaseWrite_keeps {m : Dev} (v : Nat) (size : Nat) (hk : m.canonical) : (Dev.winBaseWrite m v size).canonical := by
  unfold Dev.winBaseWrite
  try lift_lets -underBinder
  repeat first
    | with_reducible assumption
    | (intro n hn; have : Dev.canonical n := hn; try lift_lets -underBinder)
    | with_reducible first | apply Dev.modHost_keeps | apply Dev.hostWrite_keeps | apply Dev.winWrite_keeps

theorem Dev.descDone_keeps {m : Dev} (e : Nat) (r : Nat) (d : Nat) (err : Bool) (poison : Bool) (event : Bool) (stamp : Nat) (hk :
    m.canonical) : (Dev.descDone m e r d err poison event stamp).canonical := by
  unfold Dev.descDone
  try lift_lets -underBinder
  repeat first
    | with_reducible assumption
    | with_reducible first | apply Dev.hostWrite_keeps | apply Dev.put_keeps | apply Dev.ringBusy_keeps | apply Dev.msix_keeps
    | with_reducible first | apply Dev.keep_ite | apply Dev.keep_mk

theorem Dev.copyDesc_keeps {m : Dev} (e : Nat) (d : Nat) (data : List Byte) (ok : Bool) (ecc : Ecc) (hk : m.canonical) : (Dev.copyDesc m e d
    data ok ecc).canonical := by
  unfold Dev.copyDesc
  try lift_lets -underBinder
  repeat first
    | with_reducible assumption
    | with_reducible first | apply Dev.descDone_keeps | apply Dev.hostMeets_keeps | apply Dev.askHost_keeps | apply Dev.hostWrite_keeps
    | with_reducible first | apply Dev.hostRead_keeps | apply Dev.touch_keeps | apply Dev.setBytes_keeps | apply Dev.keep_ite
    | with_reducible apply Dev.keep_mk

theorem Dev.sendDesc_keeps {m : Dev} (p : Nat) (d : Nat) (data : List Byte) (ok : Bool) (t : Instant) (hk : m.canonical) : (Dev.sendDesc m p
    d data ok t).canonical := by
  unfold Dev.sendDesc
  try lift_lets -underBinder
  repeat first
    | with_reducible first | assumption | apply Dev.descDone_keeps | apply Dev.pushStamp_keeps | apply Dev.keep_ite
    | (split <;> try lift_lets -underBinder)
    | with_reducible apply Dev.keep_mk

theorem Dev.descriptor_keeps {m : Dev} (e : Nat) (d : BitVec 256) (data : List Byte) (ok : Bool) (ecc : Ecc) (t : Instant) (hk :
    m.canonical) : (Dev.descriptor m e d data ok ecc t).canonical := by
  unfold Dev.descriptor
  repeat first
    | with_reducible first | assumption | apply Dev.copyDesc_keeps | apply Dev.sendDesc_keeps | apply Dev.keep_ite

theorem Dev.dropFrame_keeps {m : Dev} (e : Nat) (hk : m.canonical) : (Dev.dropFrame m e).canonical := by
  unfold Dev.dropFrame
  repeat first
    | with_reducible first | assumption | apply Dev.count_keeps

theorem Dev.receive_keeps (e : Nat) (l : List Byte) (t : Instant) :
    ∀ (descs : List (BitVec 256 × Bool)) {m : Dev}, m.canonical → (m.receive e l t descs).canonical
  | [], _, hk => Dev.dropFrame_keeps e hk
  | _ :: rest, _, hk =>
    Dev.keep_ite (Dev.dropFrame_keeps e hk)
      (Dev.keep_ite (Dev.receive_keeps e l t rest (Dev.descDone_keeps _ _ _ _ _ _ _ hk))
        (Dev.keep_ite (Dev.dropFrame_keeps e hk)
          (Dev.keep_ite (Dev.descDone_keeps _ _ _ _ _ _ _ hk)
            (Dev.descDone_keeps _ _ _ _ _ _ _ (Dev.keep_same hk rfl rfl rfl)))))

theorem Dev.frameIn_keeps {m : Dev} (e : Nat) (frame : List Byte) (descs : List (BitVec 256 × Bool)) (t : Instant) (servo : Option (Nat ×
    Nat × Nat)) (hk : m.canonical) : (Dev.frameIn m e frame descs t servo).canonical := by
  unfold Dev.frameIn
  try lift_lets -underBinder
  repeat first
    | with_reducible first | assumption | apply Dev.dropFrame_keeps | apply Dev.receive_keeps | apply Dev.servoAdjust_keeps
    | with_reducible apply Dev.keep_ite
    | (split <;> try lift_lets -underBinder)

theorem Dev.tlpError_keeps {m : Dev} (kind : Nat) (hk : m.canonical) : (Dev.tlpError m kind).canonical := by
  unfold Dev.tlpError
  repeat first
    | with_reducible first | assumption | apply Dev.report_keeps | apply Dev.keep_ite

theorem Dev.requestTimeout_keeps {m : Dev} (hk : m.canonical) : (Dev.requestTimeout m).canonical := by
  unfold Dev.requestTimeout
  repeat first
    | with_reducible first | assumption | apply Dev.report_keeps

theorem Dev.pcieUp_keeps {m : Dev} (speed : Nat) (width : Nat) (hk : m.canonical) : (Dev.pcieUp m speed width).canonical := by
  unfold Dev.pcieUp
  repeat first
    | with_reducible first | assumption | apply Dev.put_keeps | apply Dev.keep_ite

theorem Dev.smbAddr_keeps {m : Dev} (v : Nat) (hk : m.canonical) : (Dev.smbAddr m v).canonical := by
  unfold Dev.smbAddr
  try lift_lets -underBinder
  repeat first
    | with_reducible assumption
    | with_reducible first | apply Dev.modHost_keeps | apply Dev.keep_ite | apply Dev.keep_mk

theorem Dev.smbNext_keeps {m : Dev} (hk : m.canonical) : (Dev.smbNext m).canonical := by
  unfold Dev.smbNext
  repeat first
    | with_reducible first | assumption | apply Dev.modHost_keeps | apply Dev.smbAddr_keeps

theorem Dev.smbRead_keeps {m : Dev} (hk : m.canonical) : (Dev.smbRead m).canonical := by
  unfold Dev.smbRead
  repeat first
    | with_reducible first | assumption | apply Dev.readWord_keeps | apply Dev.smbAddr_keeps | apply Dev.answer_keeps
    | with_reducible apply Dev.smbNext_keeps

theorem Dev.smbWrite_keeps {m : Dev} (v : Nat) (hk : m.canonical) : (Dev.smbWrite m v).canonical := by
  unfold Dev.smbWrite
  repeat first
    | with_reducible first | assumption | apply Dev.smbAddr_keeps | apply Dev.writeWord_keeps | apply Dev.smbNext_keeps
    | with_reducible apply Dev.keep_ite

theorem Dev.smbTemp_keeps {m : Dev} (hk : m.canonical) : (Dev.smbTemp m).canonical := by
  unfold Dev.smbTemp
  repeat first
    | with_reducible first | assumption | apply Dev.answer_keeps

theorem Dev.smbStatus_keeps {m : Dev} (hk : m.canonical) : (Dev.smbStatus m).canonical := by
  unfold Dev.smbStatus
  repeat first
    | with_reducible first | assumption | apply Dev.answer_keeps

theorem Dev.smbUnknown_keeps {m : Dev} (hk : m.canonical) : (Dev.smbUnknown m).canonical := by
  unfold Dev.smbUnknown
  repeat first
    | with_reducible first | assumption | apply Dev.keep_mk

theorem Dev.modJtag_keeps {m : Dev} (f : JtagX → JtagX) (hk : m.canonical) : (Dev.modJtag m f).canonical := by
  unfold Dev.modJtag
  repeat first
    | with_reducible first | assumption | apply Dev.keep_mk

theorem Dev.jtagLoad_keeps {m : Dev} (code : Nat) (hk : m.canonical) : (Dev.jtagLoad m code).canonical := by
  unfold Dev.jtagLoad
  repeat first
    | with_reducible first | assumption | apply Dev.modJtag_keeps | apply Dev.warmReset_keeps | apply Dev.keep_ite

theorem Dev.jtagTest_keeps {m : Dev} (code : Nat) (driven : Bool) (hk : m.canonical) : (Dev.jtagTest m code driven).canonical := by
  unfold Dev.jtagTest
  repeat first
    | with_reducible first | assumption | apply Dev.modJtag_keeps | apply Dev.clearHold_keeps | apply Dev.setReg_keeps

theorem Dev.jtagId_keeps {m : Dev} (hk : m.canonical) : (Dev.jtagId m).canonical := by
  unfold Dev.jtagId
  repeat first
    | with_reducible first | assumption | apply Dev.jtagLoad_keeps | apply Dev.answer_keeps

theorem Dev.jtagSample_keeps {m : Dev} (cells : List Bool) (hk : m.canonical) : (Dev.jtagSample m cells).canonical := by
  unfold Dev.jtagSample
  repeat first
    | with_reducible first | assumption | apply Dev.jtagLoad_keeps | apply Dev.modJtag_keeps

theorem Dev.jtagBypass_keeps {m : Dev} (code : Nat) (hk : m.canonical) : (Dev.jtagBypass m code).canonical := by
  unfold Dev.jtagBypass
  repeat first
    | with_reducible first | assumption | apply Dev.jtagLoad_keeps | apply Dev.keep_ite

/-! ## Tick -/

theorem Dev.senseTrib_keeps {m : Dev} (temps : List Nat) (t : Nat) (hk : m.canonical) : (Dev.senseTrib m temps t).canonical := by
  unfold Dev.senseTrib
  repeat first
    | with_reducible first | assumption | apply Dev.put_keeps | apply Dev.report_keeps | apply Dev.keep_ite

theorem Dev.senseDie_keeps {m : Dev} (hk : m.canonical) : (Dev.senseDie m).canonical := by
  unfold Dev.senseDie
  try lift_lets -underBinder
  repeat first
    | with_reducible assumption
    | (intro n x hn; have : Dev.canonical n := hn; try lift_lets -underBinder)
    | with_reducible first | apply Dev.each_keeps | apply Dev.modLev_keeps | apply Dev.report_keeps | apply Dev.keep_ite
    | with_reducible apply Dev.keep_mk

theorem Dev.senseUse_keeps {m : Dev} (use : List Nat) (hk : m.canonical) : (Dev.senseUse m use).canonical := by
  unfold Dev.senseUse
  try lift_lets -underBinder
  repeat first
    | with_reducible assumption
    | (intro n x hn; have : Dev.canonical n := hn; try lift_lets -underBinder)
    | with_reducible first | apply Dev.each_keeps | apply Dev.modSlc_keeps | apply Dev.put_keeps | apply Dev.keep_mk

theorem Dev.drainTick_keeps {m : Dev} (l : List (Nat × Nat)) (hk : m.canonical) : (Dev.drainTick m l).canonical := by
  unfold Dev.drainTick
  try lift_lets -underBinder
  repeat first
    | with_reducible assumption
    | (intro n x hn; have : Dev.canonical n := hn; try lift_lets -underBinder)
    | with_reducible first | apply Dev.each_keeps | apply Dev.drainUnits_keeps | apply Dev.seeDrained_keeps | apply Dev.put_keeps

theorem Dev.senseBalls_keeps {m : Dev} (hk : m.canonical) : (Dev.senseBalls m).canonical := by
  unfold Dev.senseBalls
  repeat first
    | with_reducible first | assumption | apply Dev.settleBalls_keeps | apply Dev.put_keeps | apply Dev.keep_ite

theorem Dev.runMillrace_keeps {m : Dev} (i : TickIn) (hk : m.canonical) : (Dev.runMillrace m i).canonical := by
  unfold Dev.runMillrace
  try lift_lets -underBinder
  repeat first
    | with_reducible assumption
    | (intro n x hn; have : Dev.canonical n := hn; try lift_lets -underBinder)
    | with_reducible first | apply Dev.each_keeps | apply Dev.upsetCtrl_keeps | apply Dev.readCtrl_keeps | apply Dev.modMrc_keeps
    | with_reducible first | apply Dev.put_keeps | apply Dev.dropRoutines_keeps | apply Dev.runTick_keeps | apply Dev.dropOp_keeps
    | with_reducible first | apply Dev.keep_ite | apply Dev.elim_keeps | apply Dev.keep_mk
    | intro x

theorem Dev.moveBuffers_keeps {m : Dev} (hk : m.canonical) : (Dev.moveBuffers m).canonical := by
  unfold Dev.moveBuffers
  repeat first
    | with_reducible first | assumption | apply Dev.keep_mk

theorem Dev.takePosted_keeps {m : Dev} (hk : m.canonical) : (Dev.takePosted m).canonical := by
  unfold Dev.takePosted
  repeat first
    | with_reducible first | assumption | apply Dev.keep_mk

theorem Dev.newTick_keeps {m : Dev} (hk : m.canonical) : (Dev.newTick m).canonical := by
  unfold Dev.newTick
  repeat first
    | with_reducible first | assumption | apply Dev.keep_mk

theorem Dev.upset_keeps {m : Dev} (l : List (Nat × Nat × Nat)) (hk : m.canonical) : (Dev.upset m l).canonical := by
  unfold Dev.upset
  try lift_lets -underBinder
  repeat first
    | with_reducible assumption
    | (intro n x hn; have : Dev.canonical n := hn; try lift_lets -underBinder)
    | with_reducible first | apply Dev.each_keeps | apply Dev.setFlip_keeps

theorem Dev.tickProgram_keeps {m : Dev} (i : TickIn) (hk : m.canonical) : (Dev.tickProgram m i).canonical := by
  unfold Dev.tickProgram
  repeat first
    | with_reducible first | assumption | apply Dev.takePosted_keeps | apply Dev.runMillrace_keeps | apply Dev.weirProgram_keeps
    | with_reducible first | apply Dev.fetchTick_keeps | apply Dev.keep_ite

theorem Dev.tickBoundary_keeps {m : Dev} (i : TickIn) (hk : m.canonical) : (Dev.tickBoundary m i).canonical := by
  unfold Dev.tickBoundary
  try lift_lets -underBinder
  repeat first
    | with_reducible assumption
    | (intro n x hn; have : Dev.canonical n := hn; try lift_lets -underBinder)
    | with_reducible first | apply Dev.each_keeps | apply Dev.upset_keeps | apply Dev.payHouse_keeps | apply Dev.overflow_keeps
    | with_reducible first | apply Dev.senseUse_keeps | apply Dev.newTick_keeps | apply Dev.drainTick_keeps | apply Dev.progress_keeps
    | with_reducible first | apply Dev.timeTick_keeps | apply Dev.moveBuffers_keeps | apply Dev.syncTick_keeps | apply Dev.put_keeps
    | with_reducible first | apply Dev.takeAmps_keeps | apply Dev.ckoWalk_keeps | apply Dev.playHold_keeps | apply Dev.lookAll_keeps
    | with_reducible first | apply Dev.takeCalIdle_keeps | apply Dev.carryDelivered_keeps | apply Dev.senseTrib_keeps
    | with_reducible first | apply Dev.blockDue_keeps | apply Dev.senseDie_keeps | apply Dev.sampleTemps_keeps
    | with_reducible first | apply Dev.senseBalls_keeps | apply Dev.tableLost_keeps | apply Dev.droopTick_keeps
    | with_reducible first | apply Dev.startWaiting_keeps | apply Dev.takePadc_keeps | apply Dev.sumTemps_keeps | apply Dev.scrub_keeps
    | with_reducible first | apply Dev.laneFaulty_keeps | apply Dev.auditAll_keeps | apply Dev.tickProgram_keeps | apply Dev.keep_ite

theorem Dev.exchange_keeps {m : Dev} (committed : Bool) (hk : m.canonical) : (Dev.exchange m committed).canonical := by
  unfold Dev.exchange
  try lift_lets -underBinder
  repeat first
    | with_reducible assumption
    | (intro n x hn; have : Dev.canonical n := hn; try lift_lets -underBinder)
    | with_reducible first | apply Dev.each_keeps | apply Dev.report_keeps | apply Dev.deliverWrite_keeps | apply Dev.keep_ite
    | with_reducible apply Dev.keep_mk

end Sys2Proof.Machine
end

