-- ==== Sys2Proof/Laws/Reset.lean ====
section
/-! SUPPORT. What the resets make of registers: the bits they keep, and what the clear codes and the service mode leave alone. -/

namespace Sys2Proof.Machine

/-- A bit field written with what it holds changes nothing. -/
theorem setBits_self (n hi lo : Nat) (h : lo ≤ hi) : setBits n hi lo (bitsOf n hi lo) = n := by
  rw [setBits_eq n hi lo _ h]
  have hp : 2 ^ (hi + 1) = 2 ^ lo * 2 ^ (hi + 1 - lo) := by rw [← Nat.pow_add]; congr 1; omega
  unfold bitsOf
  rw [Nat.shiftRight_eq_div_pow, Nat.mod_mod, hp, ← Nat.div_div_eq_div_mul]
  have a := Nat.div_add_mod (n / 2 ^ lo) (2 ^ (hi + 1 - lo))
  have b := Nat.div_add_mod n (2 ^ lo)
  rw [Nat.mul_comm] at a
  rw [a, Nat.mul_comm]
  exact b

/-- What a reset that keeps some bits makes of one register. -/
def keptWord (keeps : Nat → List (Nat × Nat)) (off v : Nat) : Nat :=
  (keeps off).foldl (fun n b => setBits n b.1 b.2 (bitsOf v b.1 b.2)) (resetOf off)

/-- The same, told by whether the register is listed. -/
theorem find_keepRegs_listed (keeps : Nat → List (Nat × Nat)) (off : Nat) : ∀ l : List (Nat × Word), regsWf l = true →
    Tbl.find (BitVec.ofNat 32 (resetOf off)) (keepRegs keeps l) off =
      if l.any (fun e => e.1 == off) then BitVec.ofNat 32 (keptWord keeps off (Tbl.find (BitVec.ofNat 32 (resetOf off)) l off).toNat)
      else BitVec.ofNat 32 (resetOf off) := by
  intro l
  induction l with
  | nil => intro _; rfl
  | cons e t ih =>
    intro hw
    unfold regsWf Tbl.wf at hw
    simp only [Bool.and_eq_true, decide_eq_true_eq] at hw
    obtain ⟨⟨hne, hab⟩, hwt⟩ := hw
    have iht := ih hwt
    have hno : ∀ l : List (Nat × Word), Tbl.wf (fun off => BitVec.ofNat 32 (resetOf off)) l = true → Tbl.above e.1 l = true → l.any (fun q => q.1 == e.1) = false := by
      intro l
      induction l with
      | nil => intros; rfl
      | cons q r ihr =>
        intro h1 h2
        unfold Tbl.wf at h1
        simp only [Bool.and_eq_true, decide_eq_true_eq] at h1
        have h2' : e.1 < q.1 := by simpa [Tbl.above] using h2
        have hr : Tbl.above e.1 r = true := Tbl.above_mono (Nat.le_of_lt h2') h1.1.2
        have := ihr h1.2 hr
        simp only [List.any_cons, this, Bool.or_false, beq_eq_false_iff_ne]
        omega
    show Tbl.find _ (List.filterMap _ (e :: t)) off = _
    rw [List.filterMap_cons]
    by_cases he : e.1 = off
    · subst he
      have hf : Tbl.find (BitVec.ofNat 32 (resetOf e.1)) (keepRegs keeps t) e.1 = BitVec.ofNat 32 (resetOf e.1) := by
        rw [iht, hno t hwt hab]; rfl
      have hs : Tbl.find (BitVec.ofNat 32 (resetOf e.1)) (e :: t) e.1 = e.2 := by simp [Tbl.find]
      rw [hs]
      simp only [List.any_cons, beq_self_eq_true, Bool.true_or, if_true]
      split
      · rename_i hsome
        split at hsome
        · rename_i hv
          show Tbl.find _ (keepRegs keeps t) _ = _
          rw [hf]
          exact hv.symm
        · cases hsome
      · rename_i v hsome
        split at hsome
        · cases hsome
        · cases hsome
          simp [Tbl.find]
          rfl
    · have hs : Tbl.find (BitVec.ofNat 32 (resetOf off)) (e :: t) off = Tbl.find (BitVec.ofNat 32 (resetOf off)) t off := by simp [Tbl.find, he]
      rw [hs]
      have ha : (e :: t).any (fun e => e.1 == off) = t.any (fun e => e.1 == off) := by simp [he]
      rw [ha, ← iht]
      split
      · rfl
      · rename_i v hsome
        have hk : v.1 = e.1 := by
          dsimp only at hsome
          split at hsome
          · cases hsome
          · cases hsome
            rfl
        obtain ⟨k, w⟩ := v
        have hk' : k ≠ off := fun h => he (hk.symm.trans h)
        simp only [Tbl.find, hk', if_false]
        rfl

/-- Kept bits of a register at its reset value are those of the reset value. -/
theorem keptWord_reset (keeps : Nat → List (Nat × Nat)) (off : Nat) (h : ∀ b ∈ keeps off, b.2 ≤ b.1 ∧ b.1 ≤ 31) :
    keptWord keeps off (resetOf off % 2 ^ 32) = resetOf off := by
  unfold keptWord
  generalize keeps off = l at h
  induction l with
  | nil => rfl
  | cons b t ih =>
    have hb := h b (List.mem_cons_self ..)
    have hm : bitsOf (resetOf off % 2 ^ 32) b.1 b.2 = bitsOf (resetOf off) b.1 b.2 := by
      unfold bitsOf
      rw [Nat.shiftRight_eq_div_pow, Nat.shiftRight_eq_div_pow]
      have h32 : 2 ^ 32 = 2 ^ b.2 * (2 ^ (b.1 + 1 - b.2) * 2 ^ (31 - b.1)) := by
        rw [← Nat.pow_add, ← Nat.pow_add]; congr 1; omega
      rw [h32, Nat.mod_mul_right_div_self, Nat.mod_mul_right_mod]
    rw [List.foldl_cons, hm, setBits_self _ _ _ hb.1]
    exact ih fun c hc => h c (List.mem_cons_of_mem _ hc)

/-- What a register reads after a reset that keeps some bits: its reset value with those bits carried over. -/
theorem find_keepRegs (keeps : Nat → List (Nat × Nat)) {l : List (Nat × Word)} (hw : regsWf l = true) (off : Nat)
    (h : ∀ b ∈ keeps off, b.2 ≤ b.1 ∧ b.1 ≤ 31) :
    (Tbl.find (BitVec.ofNat 32 (resetOf off)) (keepRegs keeps l) off).toNat =
      keptWord keeps off (Tbl.find (BitVec.ofNat 32 (resetOf off)) l off).toNat % 2 ^ 32 := by
  rw [find_keepRegs_listed keeps off l hw]
  split
  · exact BitVec.toNat_ofNat _ _
  · rename_i hn
    have : Tbl.find (BitVec.ofNat 32 (resetOf off)) l off = BitVec.ofNat 32 (resetOf off) := by
      clear hw
      induction l with
      | nil => rfl
      | cons e t ih =>
        simp only [List.any_cons, Bool.or_eq_true, beq_iff_eq, not_or] at hn
        simp only [Tbl.find, hn.1, if_false]
        exact ih hn.2
    rw [this, BitVec.toNat_ofNat, keptWord_reset keeps off h]

/-- The bits that a power-on reset keeps lie within a register. -/
theorem powerOnKeeps_bits (off : Nat) : ∀ b ∈ powerOnKeeps off, b.2 ≤ b.1 ∧ b.1 ≤ 31 := by
  unfold powerOnKeeps
  repeat' split
  all_goals decide

/-- A table of rows in which every field lies within its register. -/
def rowsFit (l : List RegRow) : Bool := l.all fun r => r.fields.all fun f => decide (f.lo ≤ f.hi) && decide (f.hi ≤ 31)

/-- A field of a row that such a table gives lies within its register. -/
theorem rowsFit_find {l : List RegRow} (h : rowsFit l = true) {o : Nat} {r : RegRow} (hr : findRow l o = some r) :
    ∀ f ∈ r.fields, f.lo ≤ f.hi ∧ f.hi ≤ 31 := by
  intro f hf
  have hm : r ∈ l := List.mem_of_find?_eq_some hr
  have := List.all_eq_true.mp (List.all_eq_true.mp h r hm) f hf
  simpa using this

/-- Every field of the register map lies within its register. -/
theorem rowOf_fits {off : Nat} {r : RegRow} (h : rowOf off = some r) : ∀ f ∈ r.fields, f.lo ≤ f.hi ∧ f.hi ≤ 31 := by
  unfold rowOf at h
  have g : ∀ {l : List RegRow} {o : Nat}, rowsFit l = true → findRow l o = some r → ∀ f ∈ r.fields, f.lo ≤ f.hi ∧ f.hi ≤ 31 := fun a b => rowsFit_find a b
  have e1 : rowsFit RegMap.glb = true := by decide +kernel
  have e2 : rowsFit RegMap.mbx = true := by decide +kernel
  have e3 : rowsFit RegMap.cko = true := by decide +kernel
  have e4 : rowsFit RegMap.vtl = true := by decide +kernel
  have e5 : rowsFit RegMap.eth = true := by decide +kernel
  have e6 : rowsFit RegMap.adc = true := by decide +kernel
  have e7 : rowsFit RegMap.padc = true := by decide +kernel
  have e8 : rowsFit RegMap.pin = true := by decide +kernel
  have e9 : rowsFit RegMap.trb = true := by decide +kernel
  have e10 : rowsFit RegMap.tsq = true := by decide +kernel
  have e11 : rowsFit RegMap.bsn = true := by decide +kernel
  have e12 : rowsFit RegMap.qp = true := by decide +kernel
  have e13 : rowsFit RegMap.db = true := by decide +kernel
  have e14 : rowsFit RegMap.msix = true := by decide +kernel
  have e15 : rowsFit RegMap.dma = true := by decide +kernel
  have k : ∀ {c : Prop} [Decidable c] {x y : Option RegRow}, (c → x = some r → ∀ f ∈ r.fields, f.lo ≤ f.hi ∧ f.hi ≤ 31) →
      (¬ c → y = some r → ∀ f ∈ r.fields, f.lo ≤ f.hi ∧ f.hi ≤ 31) → (if c then x else y) = some r → ∀ f ∈ r.fields, f.lo ≤ f.hi ∧ f.hi ≤ 31 := by
    intro c _ x y hx hy hc
    split at hc
    · exact hx ‹_› hc
    · exact hy ‹_› hc
  have n : ∀ {p : Prop}, (none : Option RegRow) = some r → p := fun h => nomatch h
  revert h
  dsimp only
  repeat' first
    | with_reducible refine k (fun _ => ?_) (fun _ => ?_)
    | with_reducible exact n
    | with_reducible exact g e1
    | with_reducible exact g e2
    | with_reducible exact g e3
    | with_reducible exact g e4
    | with_reducible exact g e5
    | with_reducible exact g e6
    | with_reducible exact g e7
    | with_reducible exact g e8
    | with_reducible exact g e9
    | with_reducible exact g e10
    | with_reducible exact g e11
    | with_reducible exact g e12
    | with_reducible exact g e13
    | with_reducible exact g e14
    | with_reducible exact g e15

/-- The bits that a warm reset keeps lie within a register. -/
theorem warmKeeps_bits (off : Nat) : ∀ b ∈ warmKeeps off, b.2 ≤ b.1 ∧ b.1 ≤ 31 := by
  unfold warmKeeps
  split
  · decide
  · split
    · decide
    · split
      · decide
      · split
        · decide
        · intro b hb
          rcases List.mem_append.mp hb with h | h
          · exact powerOnKeeps_bits off b h
          · cases hr : rowOf off with
            | none => rw [hr] at h; cases h
            | some r =>
              rw [hr] at h
              obtain ⟨f, hf, he⟩ := List.mem_filterMap.mp h
              split at he
              · cases he
                exact rowOf_fits hr f hf
              · cases he

/-- Clearing the codes of every pin changes registers, and in Levee the reports that are owed, alone. -/
theorem Dev.clearCodes_pres {β : Type} (g : Dev → β) (h : ∀ m o v, g (Dev.setReg m o v) = g m) (h2 : ∀ m f, g (Dev.modLev m f) = g m)
    (m : Dev) : g m.clearCodes = g m := by
  have hput : ∀ (n : Dev) (f : Fld) (v : Nat), g (n.put f v) = g n := fun n f v => h _ _ _
  have hc : ∀ (n : Dev) (p : Nat), g (n.clampFlags p) = g n := by
    intro n p
    unfold Dev.clampFlags
    split <;> dsimp only <;> split <;> simp only [hput]
  have hl : ∀ (n : Dev) (p : Nat), g (n.limitOwed p) = g n := by
    intro n p
    unfold Dev.limitOwed
    dsimp only
    split
    · rw [h2, hc]
    · exact hc n p
  unfold Dev.clearCodes
  refine Dev.each_frame g (fun n p => (hl _ p).trans ?_) _ _
  unfold Dev.clearLevels
  exact Dev.each_frame g (fun n c => (hput _ _ _).trans (hput _ _ _)) _ _

/-- The level codes and clamp flags of a pin lie above the control plane. -/
theorem pinOff_ge (p c : Nat) : 0x0100000 ≤ (F.PIN_LVL_ACT_CODE p c).off ∧ 0x0100000 ≤ (F.PIN_LVL_STG_CODE p c).off ∧ 0x0100000 ≤ (F.PIN_FE_STAT_LVL_CLAMP p).off ∧ 0x0100000 ≤ (F.PIN_FE_STAT_SWING_CLAMP p).off := by
  refine ⟨?_, ?_, ?_, ?_⟩
  · show 0x0100000 ≤ Reg.PIN_LVL_ACT p c; unfold Reg.PIN_LVL_ACT; omega
  · show 0x0100000 ≤ Reg.PIN_LVL_STG p c; unfold Reg.PIN_LVL_STG; omega
  · show 0x0100000 ≤ Reg.PIN_FE_STAT p; unfold Reg.PIN_FE_STAT; omega
  · show 0x0100000 ≤ Reg.PIN_FE_STAT p; unfold Reg.PIN_FE_STAT; omega

/-- Clearing the codes of every pin changes no register below the tributaries' blocks. -/
theorem Dev.clearCodes_reg (m : Dev) (off : Nat) (h : off < 0x0100000) : m.clearCodes.reg off = m.reg off := by
  have hput : ∀ (n : Dev) (f : Fld) (v : Nat), 0x0100000 ≤ f.off → (n.put f v).reg off = n.reg off := by
    intro n f v hf
    unfold Dev.put
    exact Dev.reg_setReg_other _ _ (by omega)
  unfold Dev.clearCodes
  refine Dev.each_frame (fun m => m.reg off) (fun n p => ?_) _ _
  have hl : ∀ n : Dev, (n.limitOwed p).reg off = n.reg off := by
    intro n
    have hc : (n.clampFlags p).reg off = n.reg off := by
      unfold Dev.clampFlags
      split <;> dsimp only <;> split <;> simp only [hput _ _ _ (pinOff_ge p 0).2.2.1, hput _ _ _ (pinOff_ge p 0).2.2.2]
    have hm : ∀ (x : Dev) (f : LevX → LevX), (x.modLev f).reg off = x.reg off := fun _ _ => rfl
    unfold Dev.limitOwed
    dsimp only
    split
    · rw [hm, hc]
    · exact hc
  refine (hl _).trans ?_
  unfold Dev.clearLevels
  exact Dev.each_frame (fun m => m.reg off) (fun n c => (hput _ _ _ (pinOff_ge p c).2.1).trans (hput _ _ _ (pinOff_ge p c).1)) _ _

/-- The service mode changes registers and Levee's ALERT_N alone. -/
theorem Dev.serviceMode_pres {β : Type} (g : Dev → β) (h : ∀ m o v, g (Dev.setReg m o v) = g m) (h2 : ∀ m f, g (Dev.modLev m f) = g m) (m : Dev) : g m.serviceMode = g m := by
  unfold Dev.serviceMode
  split
  · rw [h2]
    unfold Dev.put
    rw [h, h]
  · rfl


end Sys2Proof.Machine
end

