-- ==== Sys2Proof/Tests/Slice0.lean ====
section
/-! SUPPORT. Tests: ill-formed commands that WellFormed refuses, effects worked out by hand from the spec, and for each statement with hypotheses a
state and operands that meet them. -/

namespace Sys2Proof.Tests

set_option Elab.async false
open Sys2Proof.Machine

/-- A small device: power is good, start-up has reached READY, memory is available, the clock is locked. -/
def up : Dev :=
  (((({ power := { core := true, io := true, usable := true }, clk := { locked := true } } : Dev).put F.MRC_BOOT_STAGE 7).put F.SLC_STAT_AVAIL 1).put
    F.HDW_STAT_LOCKED 1).put F.MRC_STAT_RUNNING 1

/-- A state with a device made from the small one, no command waiting. -/
def made (f : Dev → Dev) : State := { dev := f up }

/-- Basin 5 of an image, with pin 3 in the normal role; its stream lies in partition 0. -/
def oneBasin (d : BasinDef) : Image := { basins := [(5, d)], pins := [(3, { basin := 5, role := 1, engine := 3 })], parts := [⟨0x10000000, 0x100000, 0⟩] }

/-- P ADC 3 enabled, settled and calibrated on the reference, with CAL_REF's parameter naming it. -/
def refReady : State := made fun m => (((((m.put (F.P_CTL_ENABLE 3) 1).put (F.P_STAT_SETTLED 3) 1).put (F.P_STAT_UNCAL 3) 0).put (F.P_CTL_SRC 3) 1).put
  (F.P_CTL_BUS_SEL 3) 1).setReg (Reg.MBX_PARAM 1 0) 3

/-- Basin 5 running on pin 3, engine 3, at word 1 of the loop store; timing set 0 has a period of 2 ns. -/
def playing (w : VecWord) (d : BasinDef) (f : Run → Run) : State := made fun m =>
  ((((({ m with image := some (oneBasin d) } : Dev).setState 5 St.running).put (F.PIN_ENG_STAT_ENGINE 3) 3).setForce (Reg.BSN_TS_PER_LO 5 0) 8000).setWord 3 1 w).modPin 3
    (fun x => { x with pc := 1, minPlay := 8000, stack := [7] }) |>.modBsn 5 fun x => { x with run := some (f { ctx := 20480, startTick := 0, start := 0 }) }

/-- Basin 5 running with the Delta unit of tributary 0 on pin 3, which holds the given samples. -/
def dry (l : List Nat) : State := made fun m =>
  (({ m with image := some { oneBasin {} with pins := [(3, { basin := 5, role := 1, engine := 3, delta := true })] } } : Dev).modBsn 5
    (fun x => { x with run := some { ctx := 20480, startTick := 0, start := 0 } })).setDelta 0 { fifo := l, sampling := some 0, div := 1, enabled := true }

/-- A word of kind k. -/
def wordOf (k : Nat) : VecWord := BitVec.ofNat 256 (k * 2 ^ 252)

/-- The word at hand of a state's basin 5 may play. -/
def mayPlay (s : State) (k : Nat) : Bool :=
  match s.start.atHand 5 with
  | some h => wKind h.word == k && (s.start.checkWord 5 h).2 && !h.tail
  | none => false

/-- The word of kind k at hand of a state's basin 5 may play, and no reaction halts it. -/
def playsOn (s : State) (k : Nat) : Bool :=
  match s.start.atHand 5 with
  | some h =>
    let r := (s.start.checkWord 5 h).1.beginWord 5 h 2
    let q := r.1.playWord 5 h ((s.start.bsn 5).tset != wTset h.word) r.2 {} ((wSpan h.word + 1) * passesOf h.word / max 1 (s.start.spv 5 (wTset h.word)))
    mayPlay s k && !(q.bsn 5).run.any (·.halted)
  | none => false

/-- The word of kind k at hand of a state's basin 5 fails its check. -/
def failsNow (s : State) (k : Nat) : Bool :=
  match s.start.atHand 5 with
  | some h => wKind h.word == k && !(s.start.checkWord 5 h).2
  | none => false

/-- The state of a word of kind k at hand whose cell in the loop store holds two flipped bits. -/
def spoilt (k : Nat) : State :=
  let s := playing (wordOf k) {} id
  { s with dev := { s.dev with flips := [(2048 * 3 + 1, 2)] } }

/-- A streamed WAIT in its second repetition, of a course entry that has no word: a further repetition would pass the granules. -/
def waitsOver : State :=
  let s := playing (wordOf 2) {} fun r => { r with waits := 1 }
  { s with dev := s.dev.modPin 3 fun x => { x with pc := streamAddr, cur := some (wordOf 2) } }

/-- Basin 5 whose STREAM_PART has room, with entry 3 of its course asked for by a running burst. -/
def asking : State := made fun m =>
  ({ m with image := some (oneBasin { courseLen := 3, streamPart := 0 }), tick := 9 } : Dev).modBsn 5 fun x =>
    { x with asked := [(3, 4)], run := some { ctx := 20480, startTick := 0, start := 0 } }

/-- Basin 5 with a burst on deck that waits for its first entry. -/
def onDeck5 : State := made fun m =>
  ({ m with image := some (oneBasin { courseLen := 3, streamPart := 0 }), tick := 9 } : Dev).modBsn 5 fun x =>
    { x with deck := some { ctx := 20480, list := 0, tick := 0, onDeck := true, asked := 1 } }

/-- Basin 5 with pin 3's refill pointer on an entry of one word that its window holds. -/
def refilling : State := made fun m =>
  ((({ m with image := some (oneBasin { streamSh := 4, rate := 8, streamPart := 0 }), tick := 9 } : Dev).modBsn 5 fun x =>
    { x with window := [⟨0, 0, (List.replicate 64 0).set 20 1⟩], run := some { ctx := 20480, startTick := 0, start := 0 } }).modPin 3 fun x =>
    { x with rPtr := some ⟨0, 1, 0⟩ }).setForce (Reg.BSN_TS_PER_LO 5 0) 8000

/-- Basin 5 at a boundary whose successor entry was not held. -/
def stalling : State := playing 0 {} fun r => { r with succ := some (1, false) }

/-- Basin 5 in a stall on its hold word, whose lanes need no more words. -/
def stalled : State :=
  let s := playing 0 {} fun r => { r with stall := some ⟨Cause.refill, 0, 0⟩ }
  { s with dev := s.dev.modBsn 5 fun x => { x with hold := some 0 } }

/-- The CRC-32C of 64 bytes of zeros, as a resident block's header holds it. -/
def crcCells : List Host.Cell := [(0x10000008, 103), (0x10000009, 235), (0x1000000A, 200), (0x1000000B, 3)]

/-- Basin 5 with a burst whose resident block, of one word of zeros for word 5 of its one lane, stands good in its STREAM_PART. -/
def blockReady : State := made fun m =>
  (({ m with image := some (oneBasin { streamPart := 0 }), hbm := [(0x10000000, 5), (0x10000002, 1), (0x10000004, 1)] ++ crcCells } : Dev).put
    (F.BSN_RES_LOAD_STATE 5) 1).modBsn 5 fun x => { x with deck := some { ctx := 20480, list := 0, tick := 0 } }

/-- 2 ^ n copies of a list. -/
def doubled (l : List CapSlot) : Nat → List CapSlot
  | 0 => l
  | n + 1 => doubled (l ++ l) n

/-- A captured slot that has ended. -/
def slotDone : CapSlot := { start := 0, stop := 0, vcnt := 0, slot := 0, entry := 0, pass := 0, data := [] }

/-- Basin 5, of one pin, with FORMAT 2 and a closed record of 16,384 slots that fills the pin's 8 KiB of drain space, and one more slot in the open record. -/
def brimful : State := made fun m => ((({ m with image := some (oneBasin {}) } : Dev).put (F.BSN_CAP_CTL_FORMAT 5) 2).put (F.BSN_CAP_POST_POST 5) 1).modBsn 5 fun x =>
  { x with cap := { closed := [{ trigger := 0, tsrc := 0, ctx := 0, seg := 0, post := doubled [slotDone] 14 }],
                    opened := some { trigger := 0, tsrc := 0, ctx := 0, seg := 0, post := [slotDone] } } }

/-- P ADC 2 converts its bus input, and slot 1's parameters name it with a step and a value. -/
def sysReady (step v : Nat) : State := made fun m =>
  (((m.put (F.P_CTL_ENABLE 2) 1).put (F.P_STAT_RUNNING 2) 1).setReg (Reg.MBX_PARAM 1 0) (2 + 256 * step)).setReg (Reg.MBX_PARAM 1 1) v

/-- Basin 5 with a burst of context 20480 in the slot, as given, at tick 9. -/
def decked (d : Deck) : State := made fun m =>
  ({ m with image := some (oneBasin {}), tick := 9 } : Dev).modBsn 5 fun x => { x with deck := some { d with ctx := 20480 } }

/-! ## Commands that WellFormed refuses -/

theorem test_tick_with_late_basin_256 : WellFormed (.tickBoundary { late := [(256, 1)] }) = false := by decide
theorem test_tick_with_one_temperature : WellFormed (.tickBoundary { temps := [440] }) = false := by decide
theorem test_tick_with_wide_monitors : WellFormed (.tickBoundary { mon := 64 }) = false := by decide
theorem test_tick_with_lane_128 : WellFormed (.tickBoundary { lanes := [128] }) = false := by decide
theorem test_tick_with_hot_stack : WellFormed (.tickBoundary { stackTemps := (0, 4096) }) = false := by decide
theorem test_plain_tick : WellFormed (.tickBoundary {}) = true := by decide
theorem test_tick_with_third_error_kind : WellFormed (.tickBoundary { upsets := [(0, 0, 3)] }) = false := by decide
theorem test_tick_with_control_lane_3 : WellFormed (.tickBoundary { ctrlReads := [(3, 0)] }) = false := by decide
theorem test_tick_with_control_word_8192 : WellFormed (.tickBoundary { ctrlUpsets := [(0, 8192, 1)] }) = false := by decide
theorem test_routine_without_commit : WellFormed (.tickBoundary { requests := [(0, { kind := .clrN, id := 1, words := 3, commit := 4 })] }) = false := by decide
theorem test_routine_with_long_tail : WellFormed (.tickBoundary { requests := [(0, { kind := .clrN, id := 1, words := 66, commit := 1 })] }) = false := by decide
theorem test_word_with_pin_1024 : WellFormed (.wordRun 0 { wave := [(1024, 0, 0)] }) = false := by decide
theorem test_wait_with_voltages_out_of_order : WellFormed (.wordWait 0 { wave := [(0, 5, 0), (0, 4, 0)] }) = false := by decide
theorem test_cancel_with_pin_1024 : WellFormed (.cancelRunningEnd 0 1 { wave := [(1024, 0, 0)] }) = false := by decide
theorem test_ring_1_of_engine_5 : WellFormed (.dmaRun 5 1) = false := by decide
theorem test_ring_1_of_engine_5_tail : WellFormed (.dmaTailDoorbell 5 1 3) = false := by decide
theorem test_ring_1_of_engine_6 : WellFormed (.dmaRun 6 1) = true := by decide
theorem test_low_read_of_high_word : WellFormed (.multiWordLowRead 0x0010044) = false := by decide +kernel
theorem test_high_read_of_low_word : WellFormed (.multiWordHighRead 0x0010040) = false := by decide +kernel
theorem test_report_of_reserved_source : WellFormed (.faultReport 0x015 0 0 0) = false := by decide
theorem test_known_operation : WellFormed (.unknownOp 0 0x0101 false) = false := by decide
theorem test_pcie_speed_6 : WellFormed (.pcieLinkUp 6 16) = false := by decide
theorem test_pcie_width_3 : WellFormed (.pcieLinkUp 5 3) = false := by decide
theorem test_bypass_with_extest_code : WellFormed (.jtagBypass 3) = false := by decide
theorem test_short_calibration_buffer : WellFormed (.padcSyscalZero 0 false [1, 2, 3]) = false := by decide

/-! ## Values from the worked examples and tables of the spec -/

/-- Table 1.9 and R51: four compact pins at 8,192 symbols per tick need 172 units, one full-symbol pin 86. -/
theorem test_stream_demand : BasinDef.demand { rate := 8192 } 4 = 172 ∧ BasinDef.demand { rate := 8192, full := true } 1 = 86 := by decide

/-- The basins of chapter 02's worked example: 256, of which 160 declare MIN_BURST 4 and 96 declare 6, with the first n spanning. -/
def site256 (capture spans : Nat) : List (Nat × BasinDef) :=
  (List.range 256).map fun b => (b, { streamSh := 172, captureSh := capture, minBurst := if b < 160 then 4 else 6, span := decide (b < spans) })

/-- Its shares, with CAPTURE_SH 24 and 28. -/
theorem test_shares : shareUnits (site256 24 24) = 51712 ∧ shareUnits (site256 28 24) = 52736 := by decide +kernel

/-- Its dispatch rate and tick program, with 24 and 40 spanning basins. -/
theorem test_rate_and_words : dispatchRate (site256 24 24) = 3670048 ∧ tickWords (site256 24 24) = 376 ∧ tickWords (site256 24 40) = 392 := by decide +kernel

/-- A refused load in slot 0 (chapter 17's worked example): the status word and the result entry. -/
def refused : Dev := (up.opStart 0 Op.catchLoad true 0x70).1.refuse 0 [⟨0x0026, 0, 52736⟩]
theorem test_refused_load : refused.status 0 = 0x000117E800260101 ∧ bitOf (refused.reg Reg.MBX_SUM) 0 = true := by decide +kernel
theorem test_refused_entry : refused.bytes 0x0F000000 8 = [0x26, 0, 0, 0, 0, 0xCE, 0, 0] := by decide +kernel

/-- Table 5.10, step 4: the grid of the COHERENT set. -/
theorem test_coherent_grid : gridUp 0 12812800 10000 = 12820000 := by decide

/-- Table 8.7, steps 1 and 2: the two phases at TT = 5,000,000,512. -/
theorem test_tone_phase :
    ToneX.phaseAt { ftw := 2814749767107, running := true } 5000000512 = 33779197205504 ∧
    ToneX.phaseAt { ftw := 3518437208883, running := true } 5000000512 = 112588990684160 := by decide

/-- Table 13.12, steps 1 and 4: what the interpolation adds. -/
theorem test_interpolation : roundDiv (64 * 52) 160 = 21 ∧ roundDiv (62 * 52) 160 = 20 ∧ roundDiv (64 * 81) 160 = 32 ∧ roundDiv (62 * 81) 160 = 31 := by decide

/-- Table 15.8: the ramp increment of B000. -/
theorem test_ramp_increment : BasinDef.increment { stepCur := 4800, prespin := true, prespinTicks := 8 } = 600 := by decide

/-! ## One step -/

/-- What a command puts out, and a register after it. -/
def after (c : Instr) (s : State) : Option Dev :=
  match step { s with pending := [c] } with
  | .next t => some t.dev
  | _ => none

/-- R478: IDCODE. -/
theorem test_idcode : (after .jtagIdcode (made id)).map Dev.out = some [.data 0x11024967] := by decide +kernel
/-- Table 17.7: an unknown SMBus command is NACKed. -/
theorem test_smbus_nack : (after .smbUnknownCommand (made id)).map Dev.out = some [.nack] := by decide +kernel
/-- R61: a limit below the step of an admitted basin is not taken. -/
theorem test_step_limit_kept :
    (after (.stepLimitWrite 99) (made fun m => { m with image := some (oneBasin { stepCur := 100 }) })).map (Dev.get · F.SPT_STEP_LIMIT_LIMIT) = some 2000 := by
  decide +kernel
/-- R457: a base that is no multiple of the BAR2 size is ignored. -/
theorem test_window_base : (after (.winBaseWrite 3 2) (made id)).map (fun m => (m.get F.GLB_WIN_BASE, m.get F.GLB_WIN_STAT_WIN_BAD)) = some (0, 1) := by
  decide +kernel
/-- R8: writing 1 to a W1C bit clears it, and a field that is RO keeps its value. -/
theorem test_write_one_clears :
    (after (.registerWrite 0x0000014 0xFFFFFFFE 4 true) (made fun m => (m.put F.GLB_WIN_STAT_WIN_BAD 1).put F.GLB_WIN_STAT_OPEN 1)).map
      (fun m => (m.get F.GLB_WIN_STAT_WIN_BAD, m.get F.GLB_WIN_STAT_OPEN)) = some (0, 1) := by decide +kernel


/-- R245: entries of the sine table at 0, 1/8, 1/4 and 3/4 of a turn. -/
theorem test_sine_table : sineAt 0 = 0 ∧ sineAt 2048 = 92681 ∧ sineAt 4096 = 131071 ∧ sineAt 12288 = -131071 := by decide +kernel
/-- Table 16.1: the fields of a control word, and a branch that is taken on COND 63. -/
theorem test_control_word :
    let w : BitVec 128 := BitVec.ofNat 128 (0x1FFF * 2 ^ 115 + 1 * 2 ^ 112 + 63 * 2 ^ 106 + 5 * 2 ^ 93 + 2 ^ 92 + 8 * 2 ^ 88)
    Ctrl.next w = 0x1FFF ∧ Ctrl.cmt w = true ∧ Ctrl.unit w = 8 ∧ Ctrl.ok w = true ∧ Ctrl.ok (w + 2 ^ 88) = false ∧
      Ctrl.follow w (Ctrl.taken w []).1 [] = ⟨some 5, [], false⟩ := by decide +kernel
/-- R435: a CALL with eight entries on the stack ends the routine as a fault. -/
theorem test_ninth_call : Ctrl.follow (BitVec.ofNat 128 (2 * 2 ^ 112)) true [1, 2, 3, 4, 5, 6, 7, 8] = ⟨none, [1, 2, 3, 4, 5, 6, 7, 8], true⟩ := by decide +kernel

/-- A state and operands that meet the hypotheses of StepRunsTheFrontCommandOrIdles. -/
theorem witness_StepRunsTheFrontCommandOrIdles :
  (made id).pending = [] ∧ ({ made id with pending := [Instr.warmReset] } : State).pending = Instr.warmReset :: [] := by decide +kernel

/-- A state and operands that meet the hypotheses of EveryStepKeepsMemoriesCanonical. -/
theorem witness_EveryStepKeepsMemoriesCanonical :
  ({ made id with pending := [Instr.warmReset] } : State).dev.canonical ∧ State.reset.dev.canonical := by unfold Dev.canonical; decide +kernel

/-- A state and operands that meet the hypotheses of WithoutPowerOnlyPowerCommandsAct. -/
theorem witness_WithoutPowerOnlyPowerCommandsAct :
  ((made fun m => { m with power := { core := true, io := false, usable := false } }).dev.power.usable = false ∧ Instr.warmReset ≠ Instr.powerOnReset ∧
    (∀ core, Instr.warmReset ≠ .powerGoodLoss core) ∧ (∀ core, Instr.warmReset ≠ .powerGoodReturn core)) ∧
  (∃ t : State, exec .powerOnReset (made fun m => { m with power := { core := true, io := true, usable := false } }) = .next t ∧
    (made fun m => { m with power := { core := true, io := true, usable := false } }).dev.power.usable = false ∧ t.dev.power.usable = true) := by
  refine ⟨⟨rfl, ?_, ?_, ?_⟩, _, rfl, rfl, rfl⟩ <;> intros <;> intro h <;> cases h

/-- A state and operands that meet the hypotheses of UndefinedBasinsReadZeroAndIgnoreWrites. -/
theorem witness_UndefinedBasinsReadZeroAndIgnoreWrites :
  ((made id).acts ∧ (made id).dev.inTest = false ∧ (made id).dev.defined (255 : Basin).val = false ∧
    0x0500000 + (255 : Basin).val * 0x1000 ≤ (0x05FF60C : Bar0).toNat ∧ (0x05FF60C : Bar0).toNat < 0x0501000 + (255 : Basin).val * 0x1000 ∧
    (0x05FF60C : Bar0).toNat % 4 = 0 ∧ (made id).dev.readable (0x05FF60C : Bar0).toNat = true ∧
    groupLow (0x05FF60C : Bar0).toNat = none) := by decide +kernel

/-- A state and operands that meet the hypotheses of MemoryChangesOnlyWhereItIsWritten. -/
theorem witness_MemoryChangesOnlyWhereItIsWritten :
  ((made id).acts ∧ (made id).dev.inTest = false ∧ (made id).dev.canonical ∧ (made id).dev.on F.SLC_STAT_AVAIL = true ∧
    (made id).dev.on F.LEV_STAT_SEALED = false ∧ (made id).dev.hostMay ((made id).dev.windowAddr 0x0C00FFFF + 0) = true ∧
    (made id).dev.hostMay ((made id).dev.windowAddr 0x0BFFFFFF + 0) = false) ∧
  (∀ n w, ((made fun m => m.modPin 3 fun x => { x with window := some (false, 2047, 7) }).dev.pin 3).window = some (false, n, w) →
    (made fun m => m.modPin 3 fun x => { x with window := some (false, 2047, 7) }).dev.flip
      ((made fun m => m.modPin 3 fun x => { x with window := some (false, 2047, 7) }).start.engineOf 3) n ≠ 1) ∧
  ((made fun m => m.modPin 3 fun x => { x with window := some (true, 2047, 7) }).acts ∧
    (made fun m => m.modPin 3 fun x => { x with window := some (true, 2047, 7) }).dev.canonical ∧
    ((made fun m => m.modPin 3 fun x => { x with window := some (true, 2047, 7) }).dev.pin 3).window = some (true, 2047, 7)) := by
  exact ⟨by unfold Dev.canonical; decide +kernel, fun _ _ _ => Nat.zero_ne_one, by unfold Dev.canonical; decide +kernel⟩

/-- A state and operands that meet the hypotheses of SecondCatchmentOperationIsRefusedBusy. -/
theorem witness_SecondCatchmentOperationIsRefusedBusy :
  ((made fun m => (m.opStart 1 Op.catchLoad true 0x70).1).takes (Reg.MBX_CMD 2) ∧ (made fun m => (m.opStart 1 Op.catchLoad true 0x70).1).dev.canonical ∧
    (made fun m => (m.opStart 1 Op.catchLoad true 0x70).1).dev.isReady = true ∧
    (made fun m => (m.opStart 1 Op.catchLoad true 0x70).1).dev.slotState 1 = Slot.running ∧
    ((made fun m => (m.opStart 1 Op.catchLoad true 0x70).1).dev.slot 1).op / 256 = 1 ∧
    (made fun m => (m.opStart 1 Op.catchLoad true 0x70).1).dev.slotActive 2 = false) ∧
  ((made fun m => ((m.opStart 1 Op.catchLoad true 0x70).1.opIssue 2 Op.recourse false).1).dev.slotState 2 = Slot.queued ∧
    ((made fun m => ((m.opStart 1 Op.catchLoad true 0x70).1.opIssue 2 Op.recourse false).1).dev.slot 2).op = Op.recourse ∧
    (made fun m => ((m.opStart 1 Op.catchLoad true 0x70).1.opIssue 2 Op.recourse false).1).dev.slotState 1 = Slot.running) := by
  unfold Dev.canonical; decide +kernel

/-- A state and operands that meet the hypotheses of PowerOnResetLeavesResetValues. -/
theorem witness_PowerOnResetLeavesResetValues :
  (made id).dev.canonical ∧ (made id).dev.on F.LEV_STAT_SEALED = false := by unfold Dev.canonical; decide +kernel

/-- A state and operands that meet the hypotheses of WarmResetKeepsWhatTableSays. -/
theorem witness_WarmResetKeepsWhatTableSays :
  (made id).acts ∧ (made id).dev.canonical ∧ (made id).dev.on F.LEV_STAT_SEALED = false ∧ (made id).takes Reg.GLB_RESET ∧
    bitsOf (0x57A1#32 : Word).toNat 15 0 = 0x57A1 ∧ bitsOf (0x57A0#32 : Word).toNat 15 0 ≠ 0x57A1 := by
  unfold Dev.canonical; decide +kernel

/-- A state and operands that meet the hypotheses of PowerAndClearPinsAct. -/
theorem witness_PowerAndClearPinsAct :
  (made id).acts ∧ (made id).start.on F.GLB_CLR_STAT_LEVEL = false := by decide +kernel

/-- A state and operands that meet the hypotheses of StartUpReachesReadyOrHalts. -/
theorem witness_StartUpReachesReadyOrHalts :
  ((made fun m => m.put F.MRC_BOOT_STAGE 1).acts ∧ (made fun m => m.put F.MRC_BOOT_STAGE 1).start.get F.MRC_BOOT_STAGE < 7 ∧
    ({ err := 1 } : BootIn).err = 1) ∧
  ((made fun m => m.put F.MRC_BOOT_STAGE 1).start.slotGood { slotA := { firm := false }, slotB := { signed := false } } 0 = false ∧
    (made fun m => m.put F.MRC_BOOT_STAGE 1).start.slotGood { slotA := { firm := false }, slotB := { signed := false } } 1 = false) ∧
  ((made fun m => m.put F.MRC_BOOT_STAGE 1).start.slotGood {} 1 = true ∧ ({ err := 5 } : BootIn).err ≠ 1) ∧
  7 ≤ (made id).start.get F.MRC_BOOT_STAGE := by decide +kernel

/-- A state and operands that meet the hypotheses of TicksAndExchangesRun. -/
theorem witness_TicksAndExchangesRun :
  ((made id).acts ∧ (made id).dev.asleep = false ∧ (made id).dev.clk.locked = true) ∧ (made fun m => m.put F.SPT_SLACK_STATE 2).dev.asleep = true ∧
  (made fun m => { m with clk := {} }).dev.clk.locked = false := by decide +kernel

/-- A state and operands that meet the hypotheses of CatchmentOperationsAdmitAndWithdraw. -/
theorem witness_CatchmentOperationsAdmitAndWithdraw :
  ((made id).takes (Reg.MBX_CMD 0) ∧ ((made id).start.catchStart 0 Op.catchLoad false).2 = true ∧ ((made id).start.catchStart 0 Op.catchLoad false).1.image = none) ∧
  ((made id).start.catchStart 3 Op.catchCheck true).2 = true ∧
  (((made fun m => { m with image := some (oneBasin {}) }).start.catchStart 3 Op.catchWithdraw true).2 = true ∧
    bitOf (((((made fun m => { m with image := some (oneBasin {}) }).start.catchStart 3 Op.catchWithdraw true).1.catchState 3).put F.WEI_STAT_DISPATCHING 0).param 3 0) 0 = false) ∧
  (((made fun m => { m with image := some (oneBasin {}) }).start.catchStart 3 Op.recourse true).2 = true ∧ recourseScope 0 (oneBasin {}) (oneBasin {}) = true) ∧
  ((made fun m => ({ m with staged := some (oneBasin {}) } : Dev).opStart 0 Op.catchLoad false 0x70 |>.1).start.opSlot Op.catchLoad = some 0) ∧
  ((made fun m => (({ m with image := some (oneBasin {}) } : Dev).opStart 0 Op.catchWithdraw false 0x70).1.catchState 3).start.opSlot Op.catchWithdraw = some 0 ∧
    (made fun m => (({ m with image := some (oneBasin {}) } : Dev).opStart 0 Op.catchWithdraw false 0x70).1.catchState 3).start.get F.GLB_CATCH_STATE_STATE = 3) := by decide +kernel

/-- A state and operands that meet the hypotheses of BasinsEnableAndShutDown. -/
theorem witness_BasinsEnableAndShutDown :
  ((made fun m => ({ m with image := some (oneBasin {}) } : Dev).setState 5 St.held).takesIn 5 (Reg.BSN_CTL 5) ∧
    (made fun m => ({ m with image := some (oneBasin {}) } : Dev).setState 5 St.held).start.clrHeld = false ∧
    (made fun m => ({ m with image := some (oneBasin {}) } : Dev).setState 5 St.held).start.on F.LEV_STAT_SEALED = false ∧
    ((made fun m => ({ m with image := some (oneBasin {}) } : Dev).setState 5 St.held).start.put (F.BSN_CTL_SHUT_ABORT 5) 1).enableWaits 5 = false ∧
    ((made fun m => ({ m with image := some (oneBasin {}) } : Dev).setState 5 St.held).start.put (F.BSN_CTL_SHUT_ABORT 5) 1).bstate 5 = St.held) ∧
  ((made fun m => ({ m with image := some (oneBasin {}) } : Dev).setState 5 St.shutting).start.put (F.BSN_CTL_SHUT_ABORT 5) 1).enableWaits 5 = true ∧
  (made fun m => ({ m with image := some (oneBasin {}) } : Dev).put F.GLB_CLR_STAT_LEVEL 1).dev.clrHeld = true ∧
  ((made fun m => ({ m with image := some (oneBasin {}) } : Dev).setState 5 St.idle).start.bsn 5).run = none ∧
  ((made fun m => (({ m with image := some (oneBasin {}) } : Dev).setState 5 St.running).modBsn 5 fun x => { x with run := some { ctx := 0, startTick := 0, start := 0 } }).start.bsn 5).run.isSome = true ∧
  (made fun m => ({ m with image := some (oneBasin {}) } : Dev).setState 5 St.shutting).start.bstate 5 = St.shutting := by decide +kernel

/-- A state and operands that meet the hypotheses of RecoursesRunThroughTheirSteps. -/
theorem witness_RecoursesRunThroughTheirSteps :
  ((made fun m => ((({ m with image := some (oneBasin {}) } : Dev).opStart 0 Op.recourse false 0x70).1.setState 5 St.idle).modBsn 5 fun x => { x with recourseState := 1 }).acts ∧
    (made fun m => ((({ m with image := some (oneBasin {}) } : Dev).opStart 0 Op.recourse false 0x70).1.setState 5 St.idle).modBsn 5 fun x => { x with recourseState := 1 }).start.opSlot Op.recourse = some 0) ∧
  ((made fun m => m.modBsn 5 fun x => { x with recourseState := 2 }).start.bsn 5).recourseState = 2 ∧
  ((mergeImage 5 (oneBasin {}) (oneBasin {})).basins.lookup 5).isSome = true ∧
  ((made fun m => m.modBsn 5 fun x => { x with recourseState := 3, heldAfter := true }).start.bsn 5).heldAfter = true := by decide +kernel

/-- A state and operands that meet the hypotheses of PlayingWordsPlayAndGoOn. -/
theorem witness_PlayingWordsPlayAndGoOn :
  ([0, 1, 3, 4, 5, 6].all fun k => playsOn (playing (wordOf k) {} id) k) = true ∧ (playing (wordOf 0) {} id).acts ∧
  ((match (playing (wordOf 0) {} id).start.atHand 5 with
    | some h => ((playing (wordOf 0) {} id).start.checkWord 5 { h with tail := true }).2
    | none => true) = false) ∧
  ([0, 1, 3, 4, 5, 6].all fun k => failsNow (spoilt k) k) = true := by decide +kernel

/-- A state and operands that meet the hypotheses of WaitsAndSilentWordsAct. -/
theorem witness_WaitsAndSilentWordsAct :
  ([2, 7, 8, 9].all fun k => failsNow (spoilt k) k) = true ∧ waitsOver.acts ∧
  (waitsOver.start.atHand 5).any (fun h => wKind h.word == Kind.wait && !h.run.timeoutDue && h.run.waits != 0 &&
    (waitsOver.start.courseCodes 5 h.entry h.run h.word h.streamed h.tail (h.run.waits + 1)).contains 0x06) = true ∧
  ([2, 7, 8, 9].all fun k => mayPlay (playing (wordOf k) {} id) k) = true ∧ (playing (wordOf 2) {} id).acts ∧
  ((playing (wordOf 2) {} fun r => { r with timeoutDue := true, waits := 3 }).start.atHand 5).any (fun h => h.run.timeoutDue) = true := by decide +kernel

/-- A state and operands that meet the hypotheses of FlowVerdictsAndEventsAct. -/
theorem witness_FlowVerdictsAndEventsAct :
  ((made fun m => m.modBsn 5 fun x => { x with sync := some (7, false) }).acts ∧ ((made fun m => m.modBsn 5 fun x => { x with sync := some (7, false) }).start.bsn 5).sync = some (7, false)) ∧
  (((playing 0 { span := true, leader := 1 } id).start.bdef 5).span = true ∧ ((playing 0 { span := true, leader := 1 } id).start.bdef 5).leader ≠ (playing 0 { span := true, leader := 1 } id).start.deviceIndex ∧
    ((playing 0 { span := true, leader := 1 } id).start.bsn 5).run.isSome = true) ∧
  (playing 0 {} id).takesIn 5 (Reg.BSN_EVENT 5) := by decide +kernel

/-- A state and operands that meet the hypotheses of LoopStoreIsAccessed. -/
theorem witness_LoopStoreIsAccessed :
  ((made id).takes (Reg.PIN_LS_CTL 1023) ∧ (made fun m => m.put (F.PIN_LS_CTL_BUSY 3) 1).start.windowRefused 3 true = true ∧
    (made fun m => m.put (F.PIN_ENG_STAT_ENGINE 1023) 1023).start.windowRefused 1023 true = false ∧ (made fun m => m.put (F.PIN_ENG_STAT_ENGINE 0) 0).start.windowRefused 0 false = false) ∧
  ((made fun m => m.modPin 3 fun x => { x with window := some (true, 2047, 5) }).acts ∧
    ((made fun m => m.modPin 3 fun x => { x with window := some (true, 2047, 5) }).start.pin 3).window = some (true, 2047, 5)) := by decide +kernel

/-- A state and operands that meet the hypotheses of CoursesFetchRefillAndStall. -/
theorem witness_CoursesFetchRefillAndStall :
  ((playing 0 {} fun r => { r with atBoundary := true }).acts ∧ ((playing 0 {} fun r => { r with atBoundary := true }).start.curEntry 5).isSome = true ∧
    ((playing 0 {} fun r => { r with atBoundary := true }).start.curEntry 5).all (fun e => (((playing 0 {} fun r => { r with atBoundary := true }).start.bsn 5).run.all
      fun r => ((playing 0 {} fun r => { r with atBoundary := true }).start.jumpSlot 5 e r 0).isNone))) ∧
  (made fun m => m.put (F.BSN_CRS_POS_STATE 5) Crs.landing).start.get (F.BSN_CRS_POS_STATE 5) = Crs.landing ∧
  (asking.acts ∧ asking.start.defined 5 = true ∧ (3 : Nat) ≤ (asking.start.bdef 5).courseLen ∧ asking.start.houseLeft 5 ≠ 0 ∧ (asking.start.bsn 5).deck = none ∧
    (asking.start.bsn 5).asked = [(3, 4)] ∧ asking.start.recordWaits 5 4 = false ∧
    (((asking.start.modBsn 5 fun x => { x with house := x.house + 1 }).readUnit 5 Cls.house (asking.start.entryAddr 5 3) .good).2 = true)) ∧
  (onDeck5.acts ∧ ((onDeck5.start.bsn 5).deck.any fun d => d.onDeck && d.first.isNone && onDeck5.start.desc d.ctx 8 2 == 0 && !onDeck5.start.fetchWaits 5 d.asked &&
    !onDeck5.start.recordWaits 5 d.asked) = true ∧ (onDeck5.start.bsn 5).asked = [] ∧ (onDeck5.start.bsn 5).run = none) ∧
  (refilling.start.mayRefill 5 (3, false) = true ∧ (match (refilling.start.countUnit 5 (3, false)).refillOf 5 false ((refilling.start.countUnit 5 (3, false)).pin 3).rPtr none with
    | some (.running _) => true
    | _ => false) = true) ∧
  (stalling.start.bsn 5).run.any (fun r => !r.halted && r.stall.isNone && r.succ.isSome) = true ∧
  (stalled.start.bsn 5).run.any (fun r => !r.halted && r.stall.isSome && stalled.start.stallMayEnd 5 r (0 + 1 * stalled.start.period 5 (stalled.start.holdSet 5))) = true ∧
  (stalled.start.bsn 5).hold = some 0 := by decide +kernel

/-- A state and operands that meet the hypotheses of ResidentBlocksAndSamplesAct. -/
theorem witness_ResidentBlocksAndSamplesAct :
  ((made fun m => (({ m with image := some (oneBasin {}) } : Dev).put (F.BSN_RES_LOAD_STATE 5) 1).modBsn 5 fun x => { x with deck := some { ctx := 20480, list := 0, tick := 0 } }).acts ∧
    ((made fun m => (({ m with image := some (oneBasin {}) } : Dev).put (F.BSN_RES_LOAD_STATE 5) 1).modBsn 5 fun x => { x with deck := some { ctx := 20480, list := 0, tick := 0 } }).start.bsn 5).deck.isSome = true ∧
    (made fun m => (({ m with image := some (oneBasin {}) } : Dev).put (F.BSN_RES_LOAD_STATE 5) 1).modBsn 5 fun x => { x with deck := some { ctx := 20480, list := 0, tick := 0 } }).start.resOk 5 20480 = false ∧
    blockReady.acts ∧ (blockReady.start.bsn 5).deck.isSome = true ∧ blockReady.start.get (F.BSN_RES_LOAD_STATE 5) = 1 ∧ blockReady.start.resOk 5 20480 = true) ∧
  ((dry []).start.deltaOwner 0 = some 5 ∧ (((dry []).start.playSamples 0 9999).bsn 5).run.isSome = true ∧ (((dry []).start.playSamples 0 9999).delta 0).fifo = [] ∧
    (((dry []).start.playSamples 0 9999).delta 0).due 10000 ≠ 0 ∧ (((dry []).start.playSamples 0 9999).delta 0).dryAt = none) ∧
  ((made fun m => (dry [1, 2, 3, 4, 5]).dev.setDelta 0 { (dry [1, 2, 3, 4, 5]).dev.delta 0 with dryAt := some 5 }).start.delta 0).dryAt.isSome = true := by decide +kernel

/-- A state and operands that meet the hypotheses of DeskewLevelsAndClearCodesAct. -/
theorem witness_DeskewLevelsAndClearCodesAct :
  ((made id).takes (Reg.PIN_DSK_DRV 3) ∧ ((made id).start.put (F.PIN_DSK_CMP_USER 3) 7).pinRuns 3 = false ∧
    ((made fun m => ({ m with image := some (oneBasin {}) } : Dev).setState 5 St.running).start.put (F.PIN_DSK_CMP_USER 3) 7).pinRuns 3 = true) ∧
  ((made fun m => { m with image := some (oneBasin {}) }).takesIn 5 (Reg.BSN_LVL_LOAD 5) ∧ (made fun m => { m with image := some (oneBasin {}) }).start.allSafe 5 = true ∧
    (made fun m => ({ m with image := some (oneBasin {}) } : Dev).put (F.PIN_FE_STAT_SAFE 3) 0).start.allSafe 5 = false) ∧
  (((made fun m => (({ m with image := some (oneBasin {}) } : Dev).put (F.PIN_FE_STAT_SAFE 3) 0).loadStrobe 5 100).start.bsn 5).strobes = [⟨100, 60000, none⟩] ∧
    (((made fun m => (({ m with image := some (oneBasin {}) } : Dev).loadStrobe 5 100).modBsn 5 fun x => { x with strobes := [⟨100, 60000, none⟩] })).start.bsn 5).strobes = [⟨100, 60000, none⟩] ∧
    ((made fun m => (({ m with image := some (oneBasin {}) } : Dev).put (F.PIN_FE_STAT_SAFE 3) 0).loadStrobe 5 100).start.modBsn 5 fun x => { x with strobes := [] }).allSafe 5 = false) ∧
  ((made id).takes (Reg.PIN_LVL_CLR 3 2) ∧ (made id).start.clrHeld = false ∧
    (((made id).start.put (F.PIN_LVL_CLR_CODE 3 2) 9).on (F.PIN_FE_STAT_SAFE 3) && !(((made id).start.put (F.PIN_LVL_CLR_CODE 3 2) 9).pin 3).applied) = true ∧
    (((made fun m => m.put (F.PIN_FE_STAT_SAFE 3) 0).start.put (F.PIN_LVL_CLR_CODE 3 2) 9).on (F.PIN_FE_STAT_SAFE 3)) = false ∧
    (made fun m => m.put F.GLB_CLR_STAT_LEVEL 1).start.clrHeld = true) := by decide +kernel

/-- A state and operands that meet the hypotheses of PpmuConnectsChangesAndShuts. -/
theorem witness_PpmuConnectsChangesAndShuts :
  ((made id).takes (Reg.PIN_PMU_CTL 3) ∧ (made id).start.get (F.TRB_CAL_STAT_STATE 0) ≠ 3 ∧ (made id).start.clrHeld = false ∧
    (made fun m => m.put (F.TRB_CAL_STAT_STATE 0) 3).start.get (F.TRB_CAL_STAT_STATE 0) = 3 ∧ (made fun m => m.put F.GLB_CLR_STAT_LEVEL 1).start.clrHeld = true ∧
    ((made fun m => m.put (F.PIN_PMU_STAT_SHUTTING 3) 1).start.ppmuFields 3 2).on (F.PIN_PMU_STAT_SHUTTING 3) = true ∧
    ((made id).start.ppmuFields 3 2).on (F.PIN_PMU_STAT_SHUTTING 3) = false ∧ ((made id).start.ppmuFields 3 2).on (F.PIN_PMU_STAT_CONNECTED 3) = false ∧
    ((made id).start.ppmuFields 3 2).ppmuRefused 3 = true ∧
    ((made fun m => ({ m with image := some (oneBasin {}) } : Dev).setState 5 St.running).start.ppmuFields 3 2).ppmuRefused 3 = false) ∧
  (((made fun m => m.put (F.PIN_PMU_STAT_CONNECTED 3) 1).start.ppmuFields 3 0x28).on (F.PIN_PMU_STAT_CONNECTED 3) = true ∧
    5 ≤ ((made fun m => m.put (F.PIN_PMU_STAT_CONNECTED 3) 1).start.ppmuFields 3 0x28).get (F.PIN_PMU_CTL_RANGE 3) ∧
    ¬ 5 ≤ ((made fun m => m.put (F.PIN_PMU_STAT_CONNECTED 3) 1).start.ppmuFields 3 0x18).get (F.PIN_PMU_CTL_RANGE 3) ∧
    ((made fun m => m.put (F.PIN_PMU_STAT_CONNECTED 3) 1).start.ppmuFields 3 0x18).get (F.PIN_PMU_CTL_RANGE 3) ≠
      ((made fun m => m.put (F.PIN_PMU_STAT_CONNECTED 3) 1).start.ppmuFields 3 0x18).get (F.PIN_PMU_STAT_RANGE_NOW 3)) ∧
  ((made fun m => m.put (F.PIN_PMU_STAT_RANGE_CHG 3) 1).start.on (F.PIN_PMU_STAT_RANGE_CHG 3) = true ∧
    ((made fun m => m.put (F.PIN_PMU_STAT_RANGE_CHG 3) 1).start.pin 3).forceNext = none ∧
    ((made fun m => m.modPin 3 fun x => { x with forceNext := some 7 }).start.pin 3).forceNext = some 7) ∧
  ((made fun m => m.put (F.PIN_PMU_STAT_SHUTTING 3) 1).start.on (F.PIN_PMU_STAT_SHUTTING 3) = true) := by decide +kernel

/-- A state and operands that meet the hypotheses of EdgesAndSequencersMove. -/
theorem witness_EdgesAndSequencersMove :
  ((made id).acts ∧ (((made id).start.image.map (·.routes)).getD []).any (fun r => r.1 == 0x1003) = false ∧
    ((((made fun m => { m with image := some { routes := [(0x1003, 0x0300)] } }).start.image.map (·.routes)).getD []).any (fun r => r.1 == 0x1003) = true)) ∧
  ((made fun m => (m.put (F.TSQ_STAT_RUNNING 256) 1).put (F.TSQ_COND_SEL 256 0) 1).start.hitAt 256 = some eclk ∨
    ((made fun m => (m.put (F.TSQ_STAT_RUNNING 256) 1).put (F.TSQ_COND_SEL 256 0) 1).start.hitAt 256).isSome = true) ∧
  (((made fun m => m.put (F.TSQ_TIMER_TIMER 256 0) 5).start.expireAt 256).isSome = true ∧ (made fun m => m.put (F.TSQ_TIMER_TIMER 256 0) 5).start.hitAt 256 = none) ∧
  ((made id).takes (Reg.TSQ_CTL 256) ∧ (256 ≤ (256 : Seq).val || (made id).dev.defined (256 : Seq)) = true ∧ (made id).start.seqEnabled 256 = false ∧
    (made id).start.seqBad 256 = none ∧ (made fun m => m.put (F.TSQ_COND_SEL 256 3) 2).start.seqBad 256 = some 3 ∧
    (made fun m => { m with image := some (oneBasin {}) }).takes (Reg.TSQ_CTL 5) ∧ (made fun m => { m with image := some (oneBasin {}) }).dev.defined 5 = true ∧
    ((made fun m => { m with image := some (oneBasin {}) }).start.bsn 5).run.isSome = false ∧
    (made fun m => m.put (F.TSQ_CTL_ENABLE 256) 1).start.seqEnabled 256 = true ∧ (made fun m => m.put (F.TSQ_STAT_SHUTTING 256) 1).start.on (F.TSQ_STAT_SHUTTING 256) = true) ∧
  (((made fun m => (m.put (F.TSQ_STAT_SHUTTING 256) 1).put (F.TSQ_STAT_PENDING 256) 1).start.put (F.TSQ_STAT_SHUTTING 256) 0).freezeSeq 256
    (made fun m => (m.put (F.TSQ_STAT_SHUTTING 256) 1).put (F.TSQ_STAT_PENDING 256) 1).start.now).on (F.TSQ_STAT_PENDING 256) = true ∧
  (made id).takes (Reg.GAU_TSQ_RESTART 256) := by decide +kernel

/-- A state and operands that meet the hypotheses of CaptureArmsReleasesAndShutsDown. -/
theorem witness_CaptureArmsReleasesAndShutsDown :
  ((made fun m => { m with image := some (oneBasin { capturePart := 0 }) }).takesIn 5 (Reg.BSN_CAP_CTL 5) ∧
    ((made fun m => { m with image := some (oneBasin {}) }).start.capFields 5 1).armCode 5 ≠ 0 ∧
    ((made fun m => (({ m with image := some (oneBasin { capturePart := 0 }) } : Dev).put (F.BSN_CAP_SEG_SEG_LOG2 5) 12).put (F.BSN_CAP_POST_POST 5) 1).start.capFields 5 1).armCode 5 = 0 ∧
    ((made fun m => ({ m with image := some (oneBasin {}) } : Dev).put (F.BSN_CAP_STAT_SHUTTING 5) 1).start.capFields 5 1).on (F.BSN_CAP_STAT_SHUTTING 5) = true ∧
    (((made fun m => ({ m with image := some (oneBasin {}) } : Dev).put (F.BSN_CAP_STAT_ARMED 5) 1).start.capFields 5 0).put (F.BSN_CAP_CTL_ARM 5) 0).on (F.BSN_CAP_STAT_ARMED 5) = true ∧
    ((made fun m => { m with image := some (oneBasin {}) }).start.bsn 5).run.isNone = true ∧ ((dry []).takesIn 5 (Reg.BSN_CAP_CTL 5) ∧ ((dry []).start.bsn 5).run.isNone = false)) ∧
  ((made fun m => { m with image := some (oneBasin {}) }).takesIn 5 (Reg.BSN_CAP_RD 5) ∧
    (((made fun m => ({ m with image := some (oneBasin {}) } : Dev).put (F.BSN_CAP_STAT_ARMED 5) 1).start.on (F.BSN_CAP_STAT_ARMED 5)) = true ∧
      0 < max 1 ((made fun m => ({ m with image := some (oneBasin {}) } : Dev).put (F.BSN_CAP_STAT_ARMED 5) 1).start.get (F.BSN_CAP_NSEG_NSEG 5)) ∧
      (made fun m => ({ m with image := some (oneBasin {}) } : Dev).put (F.BSN_CAP_STAT_ARMED 5) 1).start.heldSegs 5 = 0) ∧
    (made fun m => { m with image := some (oneBasin {}) }).start.on (F.BSN_CAP_STAT_ARMED 5) = false) ∧
  ((made fun m => (m.put (F.BSN_CAP_STAT_SHUTTING 5) 1).put (F.BSN_CAP_STAT_PENDING 5) 1).start.on (F.BSN_CAP_STAT_SHUTTING 5) = true ∧
    (made fun m => (m.put (F.BSN_CAP_STAT_SHUTTING 5) 1).put (F.BSN_CAP_STAT_PENDING 5) 1).start.on (F.BSN_CAP_STAT_PENDING 5) = true ∧
    ((made fun m => (m.put (F.BSN_CAP_STAT_SHUTTING 5) 1).put (F.BSN_CAP_STAT_PENDING 5) 1).start.bsn 5).cap = {}) := by decide +kernel

/-- A state and operands that meet the hypotheses of RecordsArePlacedClosedAndDrained. -/
theorem witness_RecordsArePlacedClosedAndDrained :
  (((dry []).start.modBsn 5 fun x => { x with triggers := [4000] }).bsn 5).triggers = [4000] ∧
  (((made fun m => (((dry []).dev.put (F.BSN_CAP_STAT_ARMED 5) 1).put (F.BSN_CAP_NSEG_NSEG 5) 9).modBsn 5 fun x => { x with triggers := [4000] }).start.on (F.BSN_CAP_STAT_ARMED 5)) = true ∧
    (made fun m => (((dry []).dev.put (F.BSN_CAP_STAT_ARMED 5) 1).put (F.BSN_CAP_NSEG_NSEG 5) 9).modBsn 5 fun x => { x with triggers := [4000] }).start.freeSegs 5 = 9 ∧
    ((made fun m => (((dry []).dev.put (F.BSN_CAP_STAT_ARMED 5) 1).put (F.BSN_CAP_NSEG_NSEG 5) 9).modBsn 5 fun x => { x with triggers := [4000] }).start.bsn 5).cap.opened = none ∧
    ((made fun m => (((dry []).dev.put (F.BSN_CAP_STAT_ARMED 5) 1).put (F.BSN_CAP_NSEG_NSEG 5) 9).modBsn 5 fun x =>
      { x with triggers := [4000], cap := { opened := some { trigger := 0, tsrc := 0, ctx := 0, seg := 0 } } }).start.bsn 5).cap.opened.isSome = true ∧ 0 / eclk ≠ 4000 / eclk) ∧
  (((made fun m => m.modBsn 5 fun x => { x with cap := { opened := some { trigger := 0, tsrc := 0, ctx := 0, seg := 0 } } }).start.bsn 5).cap.opened.isSome = true ∧
    (made fun m => m.put (F.BSN_CAP_POST_POST 5) 0).start.capPost 5 = 0) ∧
  (brimful.acts ∧ (brimful.start.bsn 5).cap.opened.any (fun r => r.cut.isNone && brimful.start.overflowOf 5 r 5 == some (0, 0)) = true ∧
    ((brimful.start.overflow 5 (brimful.start.now + tickUnits)).bsn 5).cap.opened.any (fun r => r.post.length == (brimful.start.overflow 5 (brimful.start.now + tickUnits)).capPost 5) = true) ∧
  (made fun m => m.put (F.BSN_CAP_STAT_REARM 5) 1).start.on (F.BSN_CAP_STAT_REARM 5) = true ∧
  (((made fun m => m.modBsn 5 fun x => { x with cap := { closed := [{ trigger := 0, tsrc := 0, ctx := 0, seg := 0 }] } }).start.bsn 5).cap.closed.length = 1 ∧
    (made id).start.get (F.BSN_CAP_RECS_RECORDS 5) = 0 ∧ ((made fun m => (m.put (F.BSN_CAP_RECS_RECORDS 5) 1).put (F.BSN_CAP_STAT_ARMED 5) 1).start.get (F.BSN_CAP_RECS_RECORDS 5) = 1 ∧
      (made fun m => (m.put (F.BSN_CAP_RECS_RECORDS 5) 1).put (F.BSN_CAP_STAT_ARMED 5) 1).start.reg (Reg.BSN_CAP_SEQ 5) + 1 = 1)) := by decide +kernel

/-- A state and operands that meet the hypotheses of TonesEnableChangeAndCross. -/
theorem witness_TonesEnableChangeAndCross :
  ((made fun m => { m with image := some (oneBasin {}) }).takesIn 5 (Reg.TON_CTL 5 1) ∧
    ((made fun m => { m with image := some (oneBasin {}) }).start.toneFields 5 1 1).on (F.TON_STAT_SHUTTING 5 1) = false ∧
    ((made fun m => m.put (F.TON_STAT_SHUTTING 5 1) 1).start.toneFields 5 1 1).on (F.TON_STAT_SHUTTING 5 1) = true ∧
    (((made fun m => { m with image := some (oneBasin {}) }).start.toneFields 5 1 1).tone 5 1).enabled = false ∧
    (((made fun m => m.setTone 5 1 { enabled := true }).start.toneFields 5 1 1).tone 5 1).enabled = true ∧
    ((made fun m => m.setState 5 St.idle).start.toneFields 5 1 1).playsNow 5 = true ∧ ((made fun m => m.setState 5 St.disabled).start.toneFields 5 1 1).playsNow 5 = false) ∧
  (made fun m => m.put (F.TON_STAT_SHUTTING 5 1) 1).start.on (F.TON_STAT_SHUTTING 5 1) = true ∧
  ((made fun m => { m with image := some (oneBasin {}) }).takesIn 5 (Reg.TON_FTW_HI 5 1) ∧ (made fun m => { m with image := some (oneBasin {}) }).takesIn 5 (Reg.TON_POFF_HI 5 1)) ∧
  ((made id).start.toneDue 5 1 0 = none ∧ (made fun m => { m.setTone 5 1 { running := true, nextFtw := some 9 } with tick := 3 }).start.toneDue 5 1 0 = some 3072 ∧
    (((made fun m => { m.setTone 5 1 { running := true, nextFtw := some 9, mode := true } with tick := 3 }).start.lookBasin 5 3072).tone 5 1).mode = true ∧
    (made fun m => { m.setTone 5 1 { running := true, nextFtw := some 9, atLoad := true, loadAt := some 2 } with tick := 3 }).start.toneDue 5 1 (2 * eclk) = some 2 ∧
    ((made fun m => m.setTone 5 0 { running := true, phase := 2 ^ 48 - 1, ftw := 2 }).start.tone 5 0).crossedBy 1 = some 1 ∧
    (made fun m => m.setTone 5 0 { running := true, phase := 2 ^ 48 - 1, ftw := 2 }).start.getForce (F.BSN_FLOW_CTL_TONE 5) = 0) := by decide +kernel

/-- A state and operands that meet the hypotheses of DeltaUnitsEnableAndTakeRates. -/
theorem witness_DeltaUnitsEnableAndTakeRates :
  ((made id).takes (Reg.DLT_CTL 0) ∧ ((made id).start.deltaPin 0).isNone = true ∧ ((dry []).start.deltaPin 0).isNone = false ∧ (dry []).takes (Reg.DLT_CTL 0) ∧
    (((dry []).start.deltaFields 0 1).put (F.DLT_CTL_ENABLE 0) 1).on (F.DLT_STAT_SHUTTING 0) = false ∧
    ((((dry []).start.put (F.DLT_STAT_SHUTTING 0) 1).deltaFields 0 1).put (F.DLT_CTL_ENABLE 0) 1).on (F.DLT_STAT_SHUTTING 0) = true ∧
    ((((dry []).start.deltaFields 0 0).put (F.DLT_CTL_ENABLE 0) 0).delta 0).enabled = true ∧
    ((((made fun m => (dry []).dev.setDelta 0 {}).start.deltaFields 0 0).put (F.DLT_CTL_ENABLE 0) 0).delta 0).enabled = false) ∧
  (made fun m => m.put (F.DLT_STAT_SHUTTING 0) 1).start.on (F.DLT_STAT_SHUTTING 0) = true ∧
  ((dry []).takes (Reg.DLT_RATE 0) ∧ (dry []).start.deltaOwner 0 = some 5 ∧
    ¬ ((dry []).start.put (F.DLT_RATE_DIV 0) 1).streamDemand 5 + ((dry []).start.put (F.DLT_RATE_DIV 0) 1).sampleDemand 5 ≤ ((dry []).start.bdef 5).streamSh ∧
    ((made fun m => { (dry []).dev with image := some { oneBasin { streamSh := 9 } with pins := [(3, { basin := 5, role := 1, engine := 3, delta := true })] } }).start.put
      (F.DLT_RATE_DIV 0) 1).streamDemand 5 + ((made fun m => { (dry []).dev with image := some { oneBasin { streamSh := 9 } with pins := [(3, { basin := 5, role := 1, engine := 3, delta := true })] } }).start.put
      (F.DLT_RATE_DIV 0) 1).sampleDemand 5 ≤ ((made fun m => { (dry []).dev with image := some { oneBasin { streamSh := 9 } with pins := [(3, { basin := 5, role := 1, engine := 3, delta := true })] } }).start.bdef 5).streamSh) := by decide +kernel

/-- A state and operands that meet the hypotheses of AdcsPowerCalibrateAndRetireStages. -/
theorem witness_AdcsPowerCalibrateAndRetireStages :
  ((made id).takes (Reg.ADC_CTL 7) ∧ (((made id).start.scanFields 7 1).put (F.ADC_CTL_ENABLE 7) 1).on (F.ADC_STAT_SHUTTING 7) = false ∧
    (((made fun m => m.put (F.ADC_STAT_SHUTTING 7) 1).start.scanFields 7 1).put (F.ADC_CTL_ENABLE 7) 1).on (F.ADC_STAT_SHUTTING 7) = true ∧
    ((((made id).start.scanFields 7 0).put (F.ADC_CTL_ENABLE 7) 0).on (F.ADC_STAT_SHUTTING 7) || !(((made id).start.scanFields 7 0).put (F.ADC_CTL_ENABLE 7) 0).on (F.ADC_STAT_POWERED 7)) = true ∧
    ((((made fun m => m.put (F.ADC_STAT_POWERED 7) 1).start.scanFields 7 0).put (F.ADC_CTL_ENABLE 7) 0).on (F.ADC_STAT_SHUTTING 7) ||
      !(((made fun m => m.put (F.ADC_STAT_POWERED 7) 1).start.scanFields 7 0).put (F.ADC_CTL_ENABLE 7) 0).on (F.ADC_STAT_POWERED 7)) = false) ∧
  ((made fun m => m.put (F.ADC_STAT_SHUTTING 7) 1).start.on (F.ADC_STAT_SHUTTING 7) = true ∧ (made fun m => m.put (F.ADC_STAT_SHUTTING 7) 1).start.on (F.ADC_STAT_SCANNING 7) = false) ∧
  ((gainOf 2400000 0 0 < 32440) ∧ ¬ (gainOf 2400000 (62914 * 16) 0 < 32440 ∨ 33096 < gainOf 2400000 (62914 * 16) 0) ∧
    (made fun m => m.put (F.ADC_STAT_POWERED 7) 1).start.on (F.ADC_STAT_POWERED 7) = true) ∧
  ((made fun m => (m.put (F.ADC_STAT_READY 7) 1).put (F.ADC_CAL_RETIRED 7) 15).start.on (F.ADC_STAT_READY 7) = true ∧
    (made fun m => (m.put (F.ADC_STAT_READY 7) 1).put (F.ADC_CAL_RETIRED 7) 15).start.get (F.ADC_CAL_RETIRED 7) = 0xF ∧
    (made fun m => m.put (F.ADC_CAL_POS 7) 13).start.get (F.ADC_CAL_POS 7) = 13 ∧ (made id).start.get (F.ADC_CAL_POS 7) ≠ 13 ∧
    3 ≤ ((made fun m => m.setAdc 7 { m.adc 7 with fails := [2] }).start.adc 7).fails.getD 0 0 + 1) := by decide +kernel

/-- A state and operands that meet the hypotheses of ScansStartStopAndConvert. -/
theorem witness_ScansStartStopAndConvert :
  ((made id).takes (Reg.ADC_CTL 7) ∧ ((made id).start.scanFields 7 2).on (F.ADC_STAT_SCAN_SHUTTING 7) = false ∧
    ((made fun m => m.put (F.ADC_STAT_SCAN_SHUTTING 7) 1).start.scanFields 7 2).on (F.ADC_STAT_SCAN_SHUTTING 7) = true ∧
    ((made fun m => m.put (F.ADC_STAT_SCAN_RUN 7) 1).start.scanFields 7 2).on (F.ADC_STAT_SCAN_RUN 7) = true ∧
    ((made id).start.scanFields 7 2).scanCodes 7 = [1] ∧
    ((made fun m => m.setAdc 7 { m.adc 7 with mask := 1 }).start.scanFields 7 2).scanCodes 7 = [] ∧
    ((made fun m => m.setAdc 7 { m.adc 7 with mask := 1 }).start.scanFields 7 0x6).scanCodes 7 = []) ∧
  ((made fun m => m.put (F.ADC_STAT_SCAN_RUN 7) 1).takes (Reg.ADC_CTL 7) ∧ (made fun m => m.put (F.ADC_STAT_SCAN_RUN 7) 1).start.get (F.ADC_CTL_SRC 7) = 0 ∧
    (made fun m => ((m.put (F.ADC_STAT_SCAN_RUN 7) 1).put (F.ADC_CTL_SRC 7) 1).put (F.ADC_PERIOD_PERIOD 7) 3).start.get (F.ADC_CTL_SRC 7) = 1 ∧
    (made fun m => { ((m.put (F.ADC_STAT_SCAN_RUN 7) 1).put (F.ADC_CTL_SRC 7) 1).put (F.ADC_PERIOD_PERIOD 7) 3 with tick := 5 }).start.tick = 5 ∧
    (made fun m => (m.put (F.ADC_STAT_SCAN_RUN 7) 1).put (F.ADC_CTL_SRC 7) 2).start.get (F.ADC_CTL_SRC 7) = 2) ∧
  ((made id).start.on (F.ADC_STAT_SCANNING 7) = false ∧ (made id).start.on (F.ADC_STAT_READY 7) = false ∧
    (made fun m => m.put (F.ADC_STAT_SCANNING 7) 1).start.on (F.ADC_STAT_SCANNING 7) = true ∧ (made id).start.scanSetup 7 ≠ [] ∧
    (made fun m => m.put (F.ADC_STAT_READY 7) 1).start.on (F.ADC_STAT_READY 7) = true ∧ (made fun m => m.setAdc 7 { m.adc 7 with mask := 1 }).start.scanSetup 7 = []) ∧
  (((made fun m => (m.setAdc 7 { m.adc 7 with scan := [2, 3] }).put (F.ADC_STAT_SCANNING 7) 1).start.adc 7).scan = [2, 3] ∧
    (made fun m => (m.setAdc 7 { m.adc 7 with scan := [2, 3] }).put (F.ADC_STAT_SCANNING 7) 1).start.on (F.ADC_STAT_SCANNING 7) = true ∧
    (made fun m => (m.setAdc 7 { m.adc 7 with scan := [2, 3] }).put (F.ADC_STAT_SCANNING 7) 1).start.on (F.ADC_THR_EN 7) = false) := by decide +kernel

/-- A state and operands that meet the hypotheses of PAdcsConvertAndCalibrate. -/
theorem witness_PAdcsConvertAndCalibrate :
  ((made id).takes (Reg.P_CTL 2) ∧ busOk (bitsOf 0x00050000 26 16) = false ∧ busOk (bitsOf 1 26 16) = true ∧ ((made id).start.padcFields 2 1).on (F.P_STAT_RUNNING 2) = false ∧
    ((made fun m => m.put (F.P_STAT_RUNNING 2) 1).start.padcFields 2 1).on (F.P_STAT_RUNNING 2) = true ∧
    ((made fun m => m.put (F.P_STAT_SHUTTING 2) 1).start.padcFields 2 1).on (F.P_STAT_SHUTTING 2) = true) ∧
  (made fun m => m.put (F.P_STAT_SHUTTING 2) 1).start.on (F.P_STAT_SHUTTING 2) = true ∧
  ((made fun m => m.put (F.P_STAT_RUNNING 2) 1).start.on (F.P_STAT_RUNNING 2) = true ∧ (made fun m => m.put (F.P_STAT_RUNNING 2) 1).start.on (F.P_STAT_SHUTTING 2) = false) ∧
  ((sysReady 0 0).takes (Reg.MBX_CMD 1) ∧ ((sysReady 0 0).start.syscalStart 1 false 0).2 = some 2 ∧ ((sysReady 0 0).start.syscalStart 1 false 0).1.syscalStepErr 1 (List.replicate 64 5) = 0 ∧
    ((sysReady 1 0).start.syscalStart 1 false 1).2 = some 2 ∧ ((sysReady 1 0).start.syscalStart 1 false 1).1.syscalStepErr 1 (List.replicate 64 5) = 0) ∧
  (((sysReady 2 0).start.syscalStart 1 false 2).2 = some 2 ∧ (((sysReady 2 0).start.syscalStart 1 false 2).1.padc 2).zero = none ∧
    ((sysReady 3 0).start.syscalStart 1 false 3).2 = some 2 ∧
    ¬ ((2000000 : Int) - 0 < 1500000) ∧ ¬ (syscalGain (0, 0) (429496735, 2000000) < 1063004406 ∨ 1084479242 < syscalGain (0, 0) (429496735, 2000000)) ∧
    ¬ (syscalOffs (0, 0) (syscalGain (0, 0) (429496735, 2000000)) < -16777 ∨ 16777 < syscalOffs (0, 0) (syscalGain (0, 0) (429496735, 2000000)))) ∧
  ((made fun m => { m with tick := 600000000 }).start.padc 2).since + 585937500 ≤ (made fun m => { m with tick := 600000000 }).start.tick ∧
  ¬ ((made id).start.padc 2).since + 585937500 ≤ (made id).start.tick := by decide +kernel

/-- A state and operands that meet the hypotheses of BurstsComeOnDeckAndStart. -/
theorem witness_BurstsComeOnDeckAndStart :
  ((((made fun m => ({ m with image := some (oneBasin {}) } : Dev).modBsn 5 fun x => { x with chains := [[20480], [], [], [], [], [], [], []] }).start.bsn 5).chains.getD 0 []) = [20480] ∧
    (made fun m => ({ m with image := some (oneBasin {}) } : Dev).modBsn 5 fun x => { x with chains := [[20480], [], [], [], [], [], [], []] }).start.entryFree 5 0 = true ∧
    (made fun m => ({ m with image := some (oneBasin {}) } : Dev).modBsn 5 fun x => { x with chains := [[20480], [], [], [], [], [], [], []] }).start.chainsBare = [40]) ∧
  64 ≤ (made fun m => ({ m with weir := { m.weir with returns := 64 }, image := some (oneBasin {}) } : Dev).modBsn 5 fun x =>
    { x with chains := [[20480], [], [], [], [], [], [], []] }).start.weir.returns ∧
  (((decked { ctx := 20480, list := 0, tick := 0 }).start.bsn 5).deck.isSome = true ∧ ¬ (decked { ctx := 20480, list := 0, tick := 0 }).start.tick < 0 + 3 ∧ (decked { ctx := 20480, list := 0, tick := 0 }).start.desc 20480 10 2 = 0 ∧ (decked { ctx := 20480, list := 0, tick := 0 }).start.descFlag 20480 0 = false) ∧
  (((decked { ctx := 20480, list := 0, tick := 0 }).acts ∧ ((decked { ctx := 20480, list := 0, tick := 0, delivered := true }).start.bsn 5).deck.any (fun d => d.delivered && !d.onDeck && decide (¬ 9 < d.tick + 4)) = true) ∧
    ((decked { ctx := 20480, list := 0, tick := 0, primedAt := none }).start.bsn 5).deck.any (fun d => (decked { ctx := 20480, list := 0, tick := 0 }).start.primed 5 d) = false ∧
    (made fun m => ({ m with image := some (oneBasin {}) } : Dev).modBsn 5 fun x =>
      { x with deck := some { ctx := 20480, list := 0, tick := 0, onDeck := true, setupDone := true, first := some ⟨0, 0, List.replicate 64 0⟩ } }).start.primed 5
        { ctx := 20480, list := 0, tick := 0, onDeck := true, setupDone := true, first := some ⟨0, 0, List.replicate 64 0⟩ } = true) ∧
  (((decked { ctx := 20480, list := 0, tick := 0, startTick := some 2 }).start.bsn 5).run = none ∧ 2 ≤ (decked { ctx := 20480, list := 0, tick := 0, startTick := some 2 }).start.tick ∧ (decked { ctx := 20480, list := 0, tick := 0, startTick := some 2 }).start.spanAgrees 5 = true ∧
    (made fun m => ({ m with image := some (oneBasin { span := true }), tick := 9 } : Dev).modBsn 5 fun x =>
      { x with deck := some { ctx := 20480, list := 0, tick := 0, startTick := some 2 }, primedBy := [⟨0, 7, 5, 0, 0⟩] }).start.spanAgrees 5 = false) ∧
  (((made fun m => ({ m with image := some (oneBasin { prespinTicks := 4 }) } : Dev).modBsn 5 fun x => { x with rampStart := some 0, ramp := 1 }).start.bsn 5).rampStart = some 0 ∧
    ¬ (made fun m => ({ m with image := some (oneBasin { prespinTicks := 4 }), tick := 1 } : Dev).modBsn 5 fun x => { x with rampStart := some 0, ramp := 1 }).start.tick < 0 + 1 ∧
    ¬ ((made fun m => { m with image := some (oneBasin { prespinTicks := 4 }) }).start.bdef 5).prespinTicks ≤ 1) ∧
  ((made id).start.minBurstOver 5 0 = true ∧
    (made fun m => ({ m with image := some (oneBasin { minBurst := 9 }) } : Dev).modBsn 5 fun x => { x with lastStart := some 0 }).start.minBurstOver 5 0 = false) := by decide +kernel

/-- A state and operands that meet the hypotheses of CancelsAndTimeoutsEndBursts. -/
theorem witness_CancelsAndTimeoutsEndBursts :
  ((made id).takes Reg.WEI_CANCEL ∧ (made id).takes Reg.WEI_CANCEL_BASIN ∧ ¬ 64 ≤ (made id).start.weir.cancels.length ∧
    64 ≤ (made fun m => { m with weir := { m.weir with cancels := List.replicate 64 (0, false, 0) } }).start.weir.cancels.length) ∧
  (((dry []).start.bsn 5).run.isSome = true ∧ ¬ ((dry []).start.desc 20480 12 4 ≠ 0) ∧
    ((made fun m => { (dry []).dev with tick := 9 }.setMem (ctxAddr 20480 + 12) 4 1).start.desc 20480 12 4 ≠ 0 ∧
      0 + (made fun m => { (dry []).dev with tick := 9 }.setMem (ctxAddr 20480 + 12) 4 1).start.desc 20480 12 4 * tickUnits ≤
        (made fun m => { (dry []).dev with tick := 9 }.setMem (ctxAddr 20480 + 12) 4 1).start.now)) ∧
  (let s := playing (wordOf 1) {} fun r => { r with aborting := some (3, 100) };
    s.acts ∧ (s.start.bsn 5).run.any (fun r => r.aborting.isSome && r.stall.isNone) = true ∧
    ((s.start.playRest 5 1 {}).bsn 5).run.any (fun r => r.halted) = false ∧ ((s.start.playRest 5 0 {}).bsn 5).pos < 100 ∧
    ¬ (((s.start.playRest 5 1 {}).bsn 5).pos < 100 ∨ 0 < 1 ∧ 100 + (s.start.playRest 5 1 {}).period 5 ((s.start.playRest 5 1 {}).bsn 5).tset ≤ ((s.start.playRest 5 1 {}).bsn 5).pos)) ∧
  (let s := stalled;
    let s := { s with dev := s.dev.modRun 5 fun r => { r with aborting := some (3, 0) } };
    (s.start.bsn 5).run.any (fun r => r.aborting.isSome && r.stall.isSome) = true ∧
    ¬ ((s.start.bsn 5).hold.getD (s.start.bsn 5).pos) < 0) := by decide +kernel

/-- A state and operands that meet the hypotheses of CompletionsAreWrittenAndPosted. -/
theorem witness_CompletionsAreWrittenAndPosted :
  (let m := (made fun m => m.modBsn 5 fun x => { x with done := [{ ctx := 20480, status := 0 }] }).start;
    (m.bsn 5).done.length = 1 ∧ ¬ m.houseLeft 5 < 0 ∧ m.houseCost 5 { ctx := 20480, status := 0 } = 0 ∧
    ((m.modBsn 5 fun x => { x with house := x.house + 0 }).bsn 5).done.length = 1 ∧
    (made id).start.on F.LEV_STAT_SEALED = false ∧ (made fun m => m.put F.LEV_STAT_SEALED 1).start.on F.LEV_STAT_SEALED = true ∧
    (Tbl.find [] (made id).start.weir.waiting 20 : List CqEntry).isEmpty = true ∧ (made id).start.cqFull 20 = false) ∧
  (let m := (made fun m => (({ m with image := some (oneBasin { streamPart := 0 }) } : Dev).setMem (ctxAddr 20480 + 6) 1 0x20).modBsn 5 fun x =>
      { x with done := [{ ctx := 20480, status := 0 }], house := 9 }).start;
    m.houseLeft 5 < m.houseCost 5 { ctx := 20480, status := 0 } - 0) ∧
  ((Tbl.find [] (made fun m => m.modWeir fun w => { w with waiting := Tbl.set [] w.waiting 20 [⟨0, 0, 0, 0, 0, false⟩] }).start.weir.waiting 20).length = 1 ∧
    (made fun m => m.put (F.QP_CQ_TAIL_TAIL 20) 1023).start.cqFull 20 = true) := by decide +kernel

/-- A state and operands that meet the hypotheses of RefreshRepairAndSelfRefreshAct. -/
theorem witness_RefreshRepairAndSelfRefreshAct :
  (made id).acts ∧
  ((made fun m => m.modSlc fun x => { x with marked := [0x10000] }).start.slc.marked.contains 0x10000 = true ∧
    (((made fun m => m.modSlc fun x => { x with marked := [0x10000] }).start.slc.repaired.lookup (0x10000 / 2 ^ 24)).any fun t => decide (0 < t + 16)) = false) ∧
  ((made fun m => m.put F.SLC_CTL_ASR_EN 1).start.on F.SLC_CTL_ASR_EN = true ∧
    ((made id).start.definedBasins.all fun b => (made id).start.bstate b == St.disabled || (made id).start.bstate b == St.held) = true ∧
    (made fun m => { m with tick := 2 ^ 33 }).start.slc.lastRequest.getD 1 0 + (made fun m => { m with tick := 2 ^ 33 }).start.get F.SLC_ASR_IDLE ≤ 2 ^ 33 ∧
    (made id).start.slc.step ≠ 3 ∧ (made id).start.inRefresh 1 = false ∧ (made fun m => m.put F.SLC_CTL_ASR_EN 0).start.on F.SLC_CTL_ASR_EN = false ∧
    (made fun m => m.put F.SLC_STAT_SR 2).start.inRefresh 1 = true) := by decide +kernel

/-- A state and operands that meet the hypotheses of TrainingAndOperatingPointsChange. -/
theorem witness_TrainingAndOperatingPointsChange :
  ((made id).takes (Reg.MBX_CMD 1) ∧ ((made id).start.opStart 1 Op.slcTrain false 5).2 = true ∧ ((made id).start.opStart 1 Op.slcTrain false 5).1.sluiceBusy 1 = false ∧
    bitsOf (((made id).start.opStart 1 Op.slcTrain false 5).1.param 1 0) 3 0 = 0 ∧
    bitsOf (((made fun m => m.setReg (Reg.MBX_PARAM 1 0) 3).start.opStart 1 Op.slcTrain false 5).1.param 1 0) 3 0 = 3 ∧
    ((made fun m => { m with image := some {} }).start.opStart 1 Op.slcTrain false 5).1.image.isSome = true) ∧
  (((made fun m => m.modSlc fun x => { x with training := some (1, 3) }).start.slc.training = some (1, 3))) ∧
  (((made id).start.opStart 1 Op.opChange false 5).2 = true ∧ 2 < bitsOf (((made fun m => m.setReg (Reg.MBX_PARAM 1 0) 3).start.opStart 1 Op.opChange false 5).1.param 1 0) 3 0 ∧
    ((made id).start.opStart 1 Op.opChange false 5).1.get F.SLC_STAT_OP ≠ 1 ∧ (!bitOf 1 8 && decide (16 * opCapacity 1 < (made id).start.get F.SLC_CAP_DEMAND)) = false ∧
    (!bitOf 1 8 && decide (16 * opCapacity 1 < (made fun m => m.put F.SLC_CAP_DEMAND 0xFFFF).start.get F.SLC_CAP_DEMAND)) = true ∧
    (!bitOf ((made id).start.get F.SLC_TRAIN_VALID) 1 || !bitOf ((made id).start.get F.SLC_TRAIN_INBAND) 1) = true ∧
    (!bitOf ((made fun m => (m.put F.SLC_TRAIN_VALID 7).put F.SLC_TRAIN_INBAND 7).start.get F.SLC_TRAIN_VALID) 1 ||
      !bitOf ((made fun m => (m.put F.SLC_TRAIN_VALID 7).put F.SLC_TRAIN_INBAND 7).start.get F.SLC_TRAIN_INBAND) 1) = false) ∧
  ((made fun m => ({ m with tick := 70 } : Dev).modSlc fun x => { x with step := 2 }).start.slc.since + 64 ≤ 70 ∧ (made fun m => ({ m with tick := 70 } : Dev).modSlc fun x => { x with step := 2 }).start.slc.since < 70 ∧ (made id).start.leadHolds = true ∧
    (made fun m => m.modSlc fun x => { x with step := 2, force := true }).start.slc.force = true ∧
    (made fun m => m.put (F.TRB_GAU_DRAIN_LEVEL 3) 9).start.leadHolds = false ∧
    (made fun m => m.modSlc fun x => { x with step := 3 }).start.slc.step = 3 ∧ (made fun m => m.modSlc fun x => { x with step := 4 }).start.slc.step = 4) := by decide +kernel

/-- A state and operands that meet the hypotheses of HeadwaterLocksHoldsAndUnlocks. -/
theorem witness_HeadwaterLocksHoldsAndUnlocks :
  ((made id).start.on F.HDW_STAT_LOCKED = true ∧ (made fun m => m.put F.HDW_STAT_LOCKED 0).start.on F.HDW_STAT_LOCKED = false ∧
    ¬ 2 ≤ (made fun m => m.put F.HDW_STAT_LOCKED 0).start.get F.SPT_SLACK_STATE ∧
    ((made fun m => m.modClk fun c => { c with locked := false }).start.put F.HDW_STAT_REF_10M 1).clk.locked = false ∧
    ((made fun m => m.modClk fun c => { c with locked := true }).start.put F.HDW_STAT_REF_10M 1).clk.locked = true) ∧
  (2 ≤ ((((made fun m => m.put F.SPT_SLACK_STATE 2).start.put F.HDW_STAT_REF_OK 0).put F.TMB_STAT_REF_LOST 1).put F.HDW_STAT_ALIGNED 0).get F.SPT_SLACK_STATE ∧
    ((((made id).start.put F.HDW_STAT_REF_OK 0).put F.TMB_STAT_REF_LOST 1).put F.HDW_STAT_ALIGNED 0).on F.HDW_STAT_LOCKED = true) ∧
  ((made fun m => m.put F.HDW_STAT_HOLDOVER 1).start.on F.HDW_STAT_HOLDOVER = true ∧ (made id).start.on F.HDW_STAT_HOLDOVER = false ∧
    ((made fun m => m.put F.HDW_STAT_REF_OK 1).start.on F.HDW_STAT_LOCKED && (made fun m => m.put F.HDW_STAT_REF_OK 1).start.on F.HDW_STAT_REF_OK) = true) := by decide +kernel

/-- A state and operands that meet the hypotheses of ClockOutputsRunAndStop. -/
theorem witness_ClockOutputsRunAndStop :
  ((made id).takes (Reg.HDW_CKO_CTL 2) ∧ ((made id).start.ckoFields 2 0x2801).on (F.HDW_CKO_STAT_SHUTTING 2) = false ∧
    ((made fun m => m.put (F.HDW_CKO_STAT_SHUTTING 2) 1).start.ckoFields 2 0x2801).on (F.HDW_CKO_STAT_SHUTTING 2) = true ∧
    ((made id).start.ckoFields 2 0x2801).on (F.HDW_CKO_CTL_ENABLE 2) = false ∧
    (decide (((made id).start.ckoFields 2 0x2801).ckoDiv 2 < 2) || decide (((made id).start.ckoFields 2 0x2801).ckoDiv 2 < ckoLeast (((made id).start.ckoFields 2 0x2801).get (F.HDW_CKO_CTL_FMT 2)))) = false ∧
    (decide (((made id).start.ckoFields 2 0x101).ckoDiv 2 < 2) || decide (((made id).start.ckoFields 2 0x101).ckoDiv 2 < ckoLeast (((made id).start.ckoFields 2 0x101).get (F.HDW_CKO_CTL_FMT 2)))) = true ∧
    ((((made id).start.ckoFields 2 0x2801).put (F.HDW_CKO_CTL_ENABLE 2) 1).on F.HDW_STAT_LOCKED && (((made id).start.ckoFields 2 0x2801).put (F.HDW_CKO_CTL_ENABLE 2) 1).on (F.HDW_CKO_CTL_ENABLE 2)) = true) ∧
  (made fun m => m.put (F.HDW_CKO_STAT_SHUTTING 2) 1).start.on (F.HDW_CKO_STAT_SHUTTING 2) = true := by decide +kernel

/-- A state and operands that meet the hypotheses of SyncAlignsTheDevice. -/
theorem witness_SyncAlignsTheDevice :
  ((made id).takes Reg.HDW_SYNC_CTL ∧ ((made id).start.put F.HDW_SYNC_CTL_MONITOR 0).anyActive = false ∧
    ((made fun m => ({ m with image := some (oneBasin {}) } : Dev).setState 5 St.idle).start.put F.HDW_SYNC_CTL_MONITOR 0).anyActive = true ∧
    (made fun m => ({ m with image := some (oneBasin {}) } : Dev).setState 5 St.idle).start.anyActive = true ∧ (made id).start.anyActive = false) ∧
  ((made fun m => m.put F.HDW_SYNC_CTL_ARM 1).start.on F.HDW_SYNC_CTL_ARM = true ∧ (made id).start.clk.event = 0 ∧ (made id).start.on F.HDW_SYNC_CTL_ARM = false ∧
    (made fun m => m.put F.HDW_SYNC_CTL_MONITOR 1).start.on F.HDW_SYNC_CTL_MONITOR = true) ∧
  ((made fun m => m.modClk fun c => { c with event := 1 }).start.clk.event = 1 ∧ (made fun m => m.put F.TMB_CTL_SYNC_LOAD 1).start.on F.TMB_CTL_SYNC_LOAD = true) := by decide +kernel

/-- A state and operands that meet the hypotheses of TimeBaseAndEthernetPortsAct. -/
theorem witness_TimeBaseAndEthernetPortsAct :
  ((made id).takes Reg.TMB_CTL ∧ (made id).start.pair Reg.TMB_APPLY_LO Reg.TMB_APPLY_HI ≤ (made id).start.tick + 1 ∧
    ¬ (made fun m => m.setReg Reg.TMB_APPLY_LO 9).start.pair Reg.TMB_APPLY_LO Reg.TMB_APPLY_HI ≤ (made fun m => m.setReg Reg.TMB_APPLY_LO 9).start.tick + 1) ∧
  ((made fun m => m.modClk fun c => { c with applyAt := some 0 }).start.clk.applyAt = some 0 ∧ (made fun m => m.put F.HDW_STAT_REF_OK 1).start.on F.HDW_STAT_REF_OK = true ∧ ¬ (made id).start.tick < 0 ∧
    (made fun m => m.modClk fun c => { c with inc := 5 }).start.nominalInc < 1000 * (((made fun m => m.modClk fun c => { c with inc := 5 }).start.clk.inc : Int) - (made id).start.nominalInc).natAbs ∧
    ¬ (made fun m => m.modClk fun c => { c with inc := 0x0A000000 }).start.nominalInc <
      1000 * (((made fun m => m.modClk fun c => { c with inc := 0x0A000000 }).start.clk.inc : Int) - (made fun m => m.modClk fun c => { c with inc := 0x0A000000 }).start.nominalInc).natAbs) ∧
  ((made id).takes (Reg.ETH_CTL 1) ∧ (made id).start.on (F.ETH_CTL_ENABLE 1) = false ∧ (made fun m => m.put (F.ETH_CTL_ENABLE 1) 1).start.on (F.ETH_CTL_ENABLE 1) = true ∧
    (made fun m => m.put (F.ETH_STAT_LINK 1) 1).start.on (F.ETH_STAT_LINK 1) = true ∧ (made id).start.on (F.ETH_STAT_LINK 1) = false) := by decide +kernel

/-- A state and operands that meet the hypotheses of LinksTrainAndCarryCycles. -/
theorem witness_LinksTrainAndCarryCycles :
  ((made id).takes (Reg.VTL_CTL 1) ∧ ((made id).start.put (F.VTL_CTL_TRIG_TX 1) 0).on (F.VTL_CTL_ENABLE 1) = false ∧
    ((made fun m => m.put (F.VTL_CTL_ENABLE 1) 1).start.put (F.VTL_CTL_TRIG_TX 1) 0).on (F.VTL_CTL_ENABLE 1) = true) ∧
  ((made fun m => m.put (F.VTL_STAT_STATE 1) 1).start.lnkState 1 = Lnk.locking ∧ (made fun m => m.put (F.VTL_STAT_STATE 1) 2).start.lnkState 1 = Lnk.waitAlign ∧
    (made fun m => m.put F.HDW_STAT_ALIGNED 1).start.on F.HDW_STAT_ALIGNED = true ∧ (made fun m => m.put (F.VTL_STAT_STATE 1) 3).start.lnkState 1 = Lnk.measuring ∧
    (decide ((made fun m => m.put (F.VTL_STAT_STATE 1) 4).start.lnkState 1 ≤ Lnk.locking) || ((0 : Nat) == 1 && decide (((made fun m => m.put (F.VTL_STAT_STATE 1) 4).start.link 1).misses < 3))) = false) ∧
  (¬ (made fun m => m.put (F.VTL_STAT_STATE 1) 4).start.lnkState 1 < Lnk.measuring ∧
    ((made fun m => m.put (F.VTL_STAT_STATE 1) 4).start.setLink 1 { (made fun m => m.put (F.VTL_STAT_STATE 1) 4).start.link 1 with misses := 0 }).lnkState 1 = Lnk.up ∧
    ((made fun m => m.put (F.VTL_STAT_STATE 1) 3).start.setLink 1 { (made fun m => m.put (F.VTL_STAT_STATE 1) 3).start.link 1 with misses := 0 }).lnkState 1 ≠ Lnk.up ∧
    ((made fun m => m.put (F.VTL_STAT_STATE 1) 4).start.link 1).exchanged = none ∧ (made id).start.lnkState 1 ≠ Lnk.up) ∧
  (((made fun m => m.setLink 1 { m.link 1 with origin := some 0, request := some 0 }).start.link 1).origin = some 0 ∧
    ((made fun m => m.setLink 1 { m.link 1 with origin := some 0, request := some 0 }).start.link 1).request = some 0) := by decide +kernel

/-- A state and operands that meet the hypotheses of CalibrationRunsThroughItsSteps. -/
theorem witness_CalibrationRunsThroughItsSteps :
  ((made fun m => m.modCal fun x => { x with count := 1024 }).acts ∧ 1024 ≤ (made fun m => m.modCal fun x => { x with count := 1024 }).dev.cal.count) ∧
  ((made fun m => m.put (F.TRB_CAL_STAT_STATE 63) 1).acts ∧ (made fun m => m.put (F.TRB_CAL_STAT_STATE 63) 1).start.get (F.TRB_CAL_STAT_STATE 63) = 1 ∧
    (made fun m => m.put (F.TRB_CAL_STAT_STATE 63) 1).start.on (F.TRB_FE_STAT_OT 63) = false ∧
    (made fun m => m.put (F.TRB_CAL_STAT_STATE 63) 1).start.stepNow 63 = false ∧ (made fun m => m.put (F.TRB_CAL_STAT_STATE 63) 1).start.cal.notBefore.lookup 63 = none) ∧
  ((made fun m => ({ m with tick := 2000000 }.put (F.TRB_CAL_STAT_STATE 63) 2).modCal fun x => { x with gatherAt := [(63, 1)] }).start.get (F.TRB_CAL_STAT_STATE 63) = 2 ∧
    (made fun m => ({ m with tick := 2000000 }.put (F.TRB_CAL_STAT_STATE 63) 2).modCal fun x => { x with gatherAt := [(63, 1)] }).start.calCommanded 63 = false ∧
    1 + (made fun m => ({ m with tick := 2000000 }.put (F.TRB_CAL_STAT_STATE 63) 2).modCal fun x => { x with gatherAt := [(63, 1)] }).start.gatherTicks ≤ 2000000) ∧
  ((made fun m => (m.put (F.TRB_CAL_STAT_STATE 63) 2).put (F.ADC_STAT_POWERED 31) 1).start.outageReady 63 = true ∧
    (made fun m => (m.put (F.TRB_CAL_STAT_STATE 63) 2).put (F.ADC_STAT_POWERED 31) 1).start.get (F.TRB_CAL_STAT_STATE 62) ≠ 3 ∧
    (made fun m => (m.put (F.TRB_CAL_STAT_STATE 63) 2).put (F.ADC_STAT_POWERED 31) 1).start.outageReady 62 = false) ∧
  ((made fun m => m.put (F.TRB_CAL_STAT_STATE 63) 3).start.get (F.TRB_CAL_STAT_STATE 63) = 3) ∧
  ((made fun m => (m.put (F.TRB_CAL_STAT_STATE 63) 3).modCal fun x => { x with done := [63] }).dev.cal.done.contains 63 = true ∧
    (made fun m => m.modCal fun x => { x with stepAt := [(63, 0)] }).start.stepNow 63 = true) := by decide +kernel

/-- A state and operands that meet the hypotheses of CalibrationCommandsAct. -/
theorem witness_CalibrationCommandsAct :
  ((made fun m => (m.setReg (Reg.MBX_PARAM 0 0) 1).setReg (Reg.MBX_PARAM 0 2) 7).takes (Reg.MBX_CMD 0) ∧
    ((made fun m => (m.setReg (Reg.MBX_PARAM 0 0) 1).setReg (Reg.MBX_PARAM 0 2) 7).start.opStart 0 Op.calRun true 0x02).2 = true ∧
    onesOf 32 (((made fun m => (m.setReg (Reg.MBX_PARAM 0 0) 1).setReg (Reg.MBX_PARAM 0 2) 7).start.opStart 0 Op.calRun true 0x02).1.param 0 0) = [0] ∧
    onesOf 3 (((made fun m => (m.setReg (Reg.MBX_PARAM 0 0) 1).setReg (Reg.MBX_PARAM 0 2) 7).start.opStart 0 Op.calRun true 0x02).1.param 0 2) = [0, 1, 2]) ∧
  (((refReady.start.opStart 1 Op.calRef false 0x02).2 = true ∧ bitsOf ((refReady.start.opStart 1 Op.calRef false 0x02).1.param 1 0) 3 0 = 3 ∧
    (refReady.start.opStart 1 Op.calRef false 0x02).1.on (F.P_CTL_ENABLE 3) = true ∧ (refReady.start.opStart 1 Op.calRef false 0x02).1.on (F.P_STAT_SETTLED 3) = true ∧
    (refReady.start.opStart 1 Op.calRef false 0x02).1.on (F.P_STAT_UNCAL 3) = false ∧ (refReady.start.opStart 1 Op.calRef false 0x02).1.on (F.P_CTL_SRC 3) = true ∧
    (refReady.start.opStart 1 Op.calRef false 0x02).1.get (F.P_CTL_BUS_SEL 3) = 1)) ∧
  (64 * (List.replicate 64 (4026532 : Int)).foldl (fun n x => n + x * x) 0 - sumOf (List.replicate 64 4026532) * sumOf (List.replicate 64 4026532) ≤ 67 * 67 * 4096 ∧
    1198000 ≤ roundDiv (sumOf (List.replicate 64 4026532) * 2500000) (64 * 8388608) ∧
    roundDiv (sumOf (List.replicate 64 4026532) * 2500000) (64 * 8388608) ≤ 1202000) ∧
  (((made id).start.opStart 1 Op.calRun false 0x02).2 = true ∧ onesOf 3 (((made id).start.opStart 1 Op.calRun false 0x02).1.param 1 2) = []) ∧
  (3 < bitsOf (((made fun m => m.setReg (Reg.MBX_PARAM 1 0) 4).start.opStart 1 Op.calRef false 0x02).1.param 1 0) 3 0 ∧
    ((made id).start.opStart 1 Op.calRef false 0x02).2 = true ∧ ((made id).start.opStart 1 Op.calRef false 0x02).1.on (F.P_CTL_ENABLE 0) = false ∧
    decide (64 * ([8000000, 0] : List Int).foldl (fun n x => n + x * x) 0 - sumOf [8000000, 0] * sumOf [8000000, 0] ≤ 67 * 67 * 4096) = false ∧
    roundDiv (sumOf (List.replicate 64 0) * 2500000) (64 * 8388608) < 1198000) := by decide +kernel

/-- A state and operands that meet the hypotheses of SpateActs. -/
theorem witness_SpateActs :
  ((made id).acts ∧ (made id).dev.spt.episode = false) ∧
  ((made fun m => m.modSpt fun x => { x with episode := true, clean := 2 }).acts ∧ (made fun m => m.modSpt fun x => { x with episode := true, clean := 2 }).dev.spt.episode = true) ∧
  ((made id).start.get F.SPT_SLACK_STATE < Slack.slack ∧ Slack.slack ≤ (made fun m => m.put F.SPT_SLACK_STATE 2).start.get F.SPT_SLACK_STATE) ∧
  ((made fun m => { m with image := some (oneBasin { stepCur := 100 }) }).takes Reg.SPT_STEP_LIMIT ∧
    (∀ b ∈ (made fun m => { m with image := some (oneBasin { stepCur := 100 }) }).start.definedBasins, b = 5 ∧
      ((made fun m => { m with image := some (oneBasin { stepCur := 100 }) }).start.bdef b).stepCur = 100)) := by decide +kernel

/-- A state and operands that meet the hypotheses of SlackIsEnteredAndLeft. -/
theorem witness_SlackIsEnteredAndLeft :
  ((made id).takes (Reg.MBX_CMD 0) ∧ ((made id).start.opStart 0 Op.slack false 0x02).2 = true ∧
    ((made id).start.opStart 0 Op.slack false 0x02).1.anyActive = false ∧ ((made id).start.opStart 0 Op.slack false 0x02).1.lev.writing = none ∧
    (∀ g ∈ [1, 2, 4, 5], ((made id).start.opStart 0 Op.slack false 0x02).1.groupSlot g 0 = none)) ∧
  ((made fun m => m.put F.SPT_SLACK_STATE 1).acts ∧ (made fun m => m.put F.SPT_SLACK_STATE 1).start.get F.SPT_SLACK_STATE = Slack.entering ∧
    (made fun m => m.put F.SPT_SLACK_STATE 1).start.anyActive = false ∧
    (made fun m => { (m.put F.SPT_SLACK_STATE 1).setState 5 St.idle with image := some (oneBasin {}) }).start.anyActive = true ∧
    (made fun m => (m.put F.SPT_SLACK_STATE 1).modSpt fun x => { x with woken := true }).start.spt.woken = true ∧
    (([1, 2, 4, 5].any fun g => ((made id).start.groupSlot g 0).isSome) || (made fun m => { m with lev := { m.lev with writing := some ⟨1, [], 0, 0, 0, 0, 0, 0, 0, false, none⟩ } }).start.lev.writing.isSome) = true) ∧
  ((made fun m => m.put F.SPT_SLACK_STATE 2).takes Reg.SPT_SLACK ∧ (made fun m => m.put F.SPT_SLACK_STATE 2).start.wakeArmed 4 = true ∧
    (made fun m => m.put F.SPT_SLACK_STATE 2).start.get F.SPT_SLACK_STATE ≠ Slack.run) ∧
  ((made fun m => (m.put F.SPT_SLACK_STATE 3).put F.HDW_STAT_REF_OK 1).start.get F.SPT_SLACK_STATE = Slack.waking ∧
    (made fun m => (m.put F.SPT_SLACK_STATE 3).put F.HDW_STAT_REF_OK 1).start.on F.HDW_STAT_REF_OK = true) := by decide +kernel

/-- A state and operands that meet the hypotheses of MailboxOperationsBegin. -/
theorem witness_MailboxOperationsBegin :
  up.canonical ∧ up.on F.LEV_STAT_SEALED = false ∧ up.slotActive 7 = false ∧ up.isReady = true ∧ up.groupSlot (Op.fwSelect / 256) 7 = none ∧
  Op.fwSelect < 65536 := by unfold Dev.canonical; decide +kernel

/-- A state and operands that meet the hypotheses of FirmwareOperationsRunAndEnd. -/
theorem witness_FirmwareOperationsRunAndEnd :
  ((made fun m => ((m.put (F.ETH_CTL_ENABLE 1) 1).put (F.ETH_STAT_LINK 1) 1).setReg (Reg.MBX_PARAM 0 0) 1).takes (Reg.MBX_CMD 0) ∧
    ((made fun m => ((m.put (F.ETH_CTL_ENABLE 1) 1).put (F.ETH_STAT_LINK 1) 1).setReg (Reg.MBX_PARAM 0 0) 1).start.opStart 0 Op.servo false Err.busy).2 = true) ∧
  ((made fun m => (m.opStart 7 Op.servo false Err.busy).1).acts ∧ (made fun m => (m.opStart 7 Op.servo false Err.busy).1).start.opSlot Op.servo = some 7) ∧
  (((made id).start.opStart 2 Op.fwStage true Err.busy).2 = true ∧ ((made id).start.opStart 2 Op.fwStage true Err.busy).1.param 2 0 ≤ 31 * 0x100000) ∧
  ((made fun m => m.modFirm fun f => { f with staging := some (2, true) }).acts ∧
    (made fun m => m.modFirm fun f => { f with staging := some (2, true) }).dev.firm.staging = some (2, true)) ∧
  (((made id).start.opStart 2 Op.fwSelect true Err.busy).2 = true ∧
    ((made id).start.opStart 2 Op.fwSelect true Err.busy).1.firm.invalid.contains (((made id).start.opStart 2 Op.fwSelect true Err.busy).1.param 2 0 % 2) = false) ∧
  (31 * 0x100000 < ((made fun m => m.setReg (Reg.MBX_PARAM 2 0) 0x2000000).start.opStart 2 Op.fwStage true Err.busy).1.param 2 0 ∧
    ((made fun m => m.modFirm fun f => { f with invalid := [0] }).start.opStart 2 Op.fwSelect true Err.busy).2 = true ∧
    ((made fun m => m.modFirm fun f => { f with invalid := [0] }).start.opStart 2 Op.fwSelect true Err.busy).1.firm.invalid.contains
      (((made fun m => m.modFirm fun f => { f with invalid := [0] }).start.opStart 2 Op.fwSelect true Err.busy).1.param 2 0 % 2) = true) ∧
  (knownOps.contains 0x0901 = false ∧ ((made id).start.opIssue 2 0x0901 true).2 = true) ∧
  ((made fun m => (m.opStart 7 Op.servo false Err.busy).1).takes (Reg.MBX_CMD 7) ∧
    (made fun m => (m.opStart 7 Op.servo false Err.busy).1).start.slotState 7 = Slot.running ∧
    (made fun m => (m.opIssue 7 Op.servo false).1).start.slotState 7 = Slot.queued) := by decide +kernel

/-- A state and operands that meet the hypotheses of ReportsReactBySeverity. -/
theorem witness_ReportsReactBySeverity :
  ((made id).acts ∧ (made id).dev.asleep = false ∧ sourceListed 0x10D = true ∧ (0x10D : Source).val ≠ Src.ppmuClamp ∧ (made id).start.severity 0x10D = 1 ∧
    (made id).start.severity 0x000 = 3 ∧ (made id).start.severity 0x101 = 5) ∧
  ((made fun m => m.put (F.LEV_SEV_SEV 0x002) 0).start.severity 0x002 = 0) ∧ ((made fun m => m.put (F.LEV_SEV_SEV 0x002) 4).start.severity 0x002 = 4) ∧
  ((made fun m => m.put F.SPT_SLACK_STATE 2).dev.asleep = true) ∧ (0x00C : Source).val = Src.ppmuClamp ∧ sourceListed 0x015 = false := by
  decide +kernel

/-- A state and operands that meet the hypotheses of LeveeRegistersAct. -/
theorem witness_LeveeRegistersAct :
  ((made id).takes Reg.LEV_FORCE ∧ (made id).dev.lev.armKeys ≠ 2) ∧
  ((made fun m => m.modLev fun l => { l with armKeys := 2, armSource := some 0x101 }).takes Reg.LEV_FORCE ∧
    (made fun m => m.modLev fun l => { l with armKeys := 2, armSource := some 0x101 }).start.now < 0 + 4000000000) ∧
  (made id).takes Reg.LEV_ARM ∧
  ((made fun m => { m with tick := 1000, lev := { m.lev with armKeys := 2, armAt := 4095999 } }).acts ∧
    (made fun m => { m with tick := 1000, lev := { m.lev with armKeys := 2, armAt := 4095999 } }).dev.lev.armAt + 4000000000 <
      (made fun m => { m with tick := 1000, lev := { m.lev with armKeys := 2, armAt := 4095999 } }).dev.now + tickUnits) ∧
  ((made id).takes (Reg.LEV_SEV 0x10D) ∧ sourceListed 0x10D = true) ∧ (made id).takes Reg.LEV_STAT ∧ (made id).takes Reg.LEV_DUMP := by decide +kernel

/-- A state and operands that meet the hypotheses of DumpsCountersAndEnginesAct. -/
theorem witness_DumpsCountersAndEnginesAct :
  (((made id).start.opStart 4 Op.dump false 0x01).2 = true ∧ ((made id).start.opStart 4 Op.dump false 0x01).1.lev.writing = none ∧
    ((made id).start.opStart 4 Op.dump false 0x01).1.on F.SLC_STAT_AVAIL = true) ∧
  (((made fun m => m.modLev fun l => { l with writing := some { cause := 3 } }).start.opStart 4 Op.dump false 0x01).1.lev.writing.isSome = true ∧
    ((made fun m => m.put F.SLC_STAT_AVAIL 0).start.opStart 4 Op.dump false 0x01).1.on F.SLC_STAT_AVAIL = false ∧
    (((made fun m => m.modLev fun l => { l with held := some { cause := 1 } }).start.opStart 4 Op.dump false 0x01).1.lev.held.any fun d => !d.acked && d.cause != 3) = true ∧
    (made id).start.tick % 2 ^ 20 = 0 ∧ (made fun m => { m with tick := 7 }).start.tick % 2 ^ 20 ≠ 0 ∧
    (((made fun m => m.put (F.TRB_AUD_STAT_COPYING 0) 1).start.servedBy 0).filter fun p => ((made fun m => m.put (F.TRB_AUD_STAT_COPYING 0) 1).start.pinDef p).served) = none) ∧
  ((made fun m => m.modLev fun l => { l with writing := some { cause := 3, slot := some 4 } }).acts ∧
    (made fun m => m.modLev fun l => { l with writing := some { cause := 3, slot := some 4 } }).start.on F.SLC_STAT_AVAIL = true) ∧
  ((made fun m => (({ m with image := some (oneBasin {}) }.put (F.TRB_AUD_STAT_COPYING 0) 1).put (F.TRB_AUD_STAT_FAULTY 0) 3).put (F.PIN_ENG_STAT_ENGINE 3) 3).acts ∧
    (made fun m => (({ m with image := some (oneBasin {}) }.put (F.TRB_AUD_STAT_COPYING 0) 1).put (F.TRB_AUD_STAT_FAULTY 0) 3).put (F.PIN_ENG_STAT_ENGINE 3) 3).start.servedBy 3 = some 3 ∧
    (made fun m => (({ m with image := some (oneBasin {}) }.put (F.TRB_AUD_STAT_COPYING 0) 1).put (F.TRB_AUD_STAT_FAULTY 0) 3).put (F.PIN_ENG_STAT_ENGINE 3) 3).start.on (F.TRB_AUD_STAT_COPYING 0) = true ∧
    ((made fun m => (({ m with image := some (oneBasin {}) }.put (F.TRB_AUD_STAT_COPYING 0) 1).put (F.TRB_AUD_STAT_FAULTY 0) 3).put (F.PIN_ENG_STAT_ENGINE 3) 3).start.pinDef 3).served = true) := by
  decide +kernel

/-- A state and operands that meet the hypotheses of QueuePairsEnableAndDisable. -/
theorem witness_QueuePairsEnableAndDisable :
  ((made fun m => { m with image := some (oneBasin {}) }).takes (Reg.QP_CTL 20) ∧
    (made fun m => { m with image := some (oneBasin {}) }).start.on (F.QP_STAT_SHUTTING 20) = false ∧
    (made fun m => { m with image := some (oneBasin {}) }).start.on (F.QP_STAT_RUNNING 20) = false ∧
    (made fun m => { m with image := some (oneBasin {}) }).start.queueRefused 20 = true) ∧
  ((made fun m => ({ m with image := some (oneBasin {}) }.setReg (Reg.QP_SQ_LO 20) 4096).setReg (Reg.QP_CQ_LO 20) 8192).start.queueRefused 20 = false) ∧
  ((made fun m => m.put (F.QP_STAT_RUNNING 1023) 1).takes (Reg.QP_CTL 1023) ∧ (made fun m => m.put (F.QP_STAT_RUNNING 1023) 1).dev.canonical ∧
    (made fun m => m.put (F.QP_STAT_RUNNING 1023) 1).start.on (F.QP_STAT_RUNNING 1023) = true) ∧
  ((made fun m => m.put (F.QP_STAT_SHUTTING 0) 1).acts ∧ (made fun m => m.put (F.QP_STAT_SHUTTING 0) 1).dev.canonical ∧
    (made fun m => m.put (F.QP_STAT_SHUTTING 0) 1).start.on (F.QP_STAT_SHUTTING 0) = true ∧
    ((made fun m => m.put (F.QP_STAT_SHUTTING 0) 1).start.put (F.QP_STAT_SHUTTING 0) 0).on (F.QP_STAT_PENDING 0) = false ∧
    ((made fun m => (m.put (F.QP_STAT_SHUTTING 0) 1).put (F.QP_STAT_PENDING 0) 1).start.put (F.QP_STAT_SHUTTING 0) 0).on (F.QP_STAT_PENDING 0) = true ∧
    (made id).start.weir.fetching.any (fun e => e.1 == 0) = false ∧ (made id).start.on (F.QP_STAT_SHUTTING 0) = false) ∧
  (made id).takes (Reg.DB_CQ_HEAD 1023) := by unfold Dev.canonical; decide +kernel

/-- A state and operands that meet the hypotheses of SubmissionsAreTakenAndLand. -/
theorem witness_SubmissionsAreTakenAndLand :
  (made id).takes (Reg.DB_SQ_TAIL 1023) ∧
  ((made fun m => m.modWeir fun w => { w with fetching := [(0, 1)] }).acts ∧
    (made fun m => m.modWeir fun w => { w with fetching := [(0, 1)] }).start.weir.fetching.find? (fun e => e.1 == 0) = some (0, 1) ∧
    (made fun m => m.modWeir fun w => { w with fetching := [(0, 1)] }).start.weir.fetching.find? (fun e => e.1 == 1) = none) := by
  decide +kernel

/-- A state and operands that meet the hypotheses of DmaRingsRunStopAndTakeTails. -/
theorem witness_DmaRingsRunStopAndTakeTails :
  ((made fun m => m.put (F.DMA_SIZE_ENTRIES 7 1) 16).takes (Reg.DMA_CTL 7 1) ∧ ringExists 7 1 = true ∧
    (made fun m => m.put (F.DMA_SIZE_ENTRIES 7 1) 16).start.on (F.DMA_CTL_RUN 7 1) = false) ∧
  ((made fun m => m.put (F.DMA_CTL_RUN 0 0) 1).takes (Reg.DMA_CTL 0 0) ∧ ringExists 0 0 = true ∧
    (made fun m => m.put (F.DMA_CTL_RUN 0 0) 1).start.on (F.DMA_CTL_RUN 0 0) = true) ∧
  ((made fun m => m.put (F.DMA_SIZE_ENTRIES 0 0) 4096).takes (Reg.DMA_TAIL 0 0) ∧
    4095 < (made fun m => m.put (F.DMA_SIZE_ENTRIES 0 0) 4096).start.get (F.DMA_SIZE_ENTRIES 0 0) ∧
    (made fun m => m.put (F.DMA_SIZE_ENTRIES 0 0) 4096).start.on (F.DMA_CTL_RUN 0 0) = false) ∧
  ((made fun m => (m.put (F.DMA_SIZE_ENTRIES 0 0) 4096).put (F.DMA_CTL_RUN 0 0) 1).takes (Reg.DMA_TAIL 0 0) ∧
    4095 < (made fun m => (m.put (F.DMA_SIZE_ENTRIES 0 0) 4096).put (F.DMA_CTL_RUN 0 0) 1).start.get (F.DMA_SIZE_ENTRIES 0 0) ∧
    (made fun m => (m.put (F.DMA_SIZE_ENTRIES 0 0) 4096).put (F.DMA_CTL_RUN 0 0) 1).start.on (F.DMA_CTL_RUN 0 0) = true) := by decide +kernel

/-- A state and operands that meet the hypotheses of DescriptorsAndFramesComplete. -/
theorem witness_DescriptorsAndFramesComplete :
  ((made fun m => m.put (F.DMA_STAT_ACTIVE 5 0) 1).acts ∧ (made fun m => m.put (F.DMA_STAT_ACTIVE 5 0) 1).start.on (F.DMA_STAT_ACTIVE 5 0) = true ∧
    descOk 5 0 (0x0D000000 * 2 ^ 64 + 4 * 2 ^ 128) = true ∧ descDir (0x0D000000 * 2 ^ 64 + 4 * 2 ^ 128) = false ∧
    (made fun m => m.put (F.DMA_STAT_ACTIVE 5 0) 1).start.on F.SLC_STAT_AVAIL = true ∧
    (made fun m => m.put (F.DMA_STAT_ACTIVE 5 0) 1).start.on F.LEV_STAT_SEALED = false ∧
    ((List.range (descLen (0x0D000000 * 2 ^ 64 + 4 * 2 ^ 128))).all fun i =>
      (made fun m => m.put (F.DMA_STAT_ACTIVE 5 0) 1).start.hostMay (descHbm (0x0D000000 * 2 ^ 64 + 4 * 2 ^ 128) + i)) = true) ∧
  (descOk 0 0 (2 ^ 160 + 0x0D000000 * 2 ^ 64 + 4 * 2 ^ 128) = true ∧ descDir (2 ^ 160 + 0x0D000000 * 2 ^ 64 + 4 * 2 ^ 128) = true) ∧
  ((made fun m => (m.put (F.DMA_STAT_ACTIVE 7 0) 1).put (F.ETH_STAT_LINK 1) 1).start.on (F.DMA_STAT_ACTIVE 7 0) = true ∧
    descOk 7 0 (60 * 2 ^ 128) = true ∧ eventAt (padTo 60 []) = none ∧
    (made fun m => (m.put (F.DMA_STAT_ACTIVE 7 0) 1).put (F.ETH_STAT_LINK 1) 1).start.on (F.ETH_STAT_LINK 1) = true) ∧
  ((made fun m => ((m.put (F.ETH_STAT_LINK 0) 1).put (F.DMA_CTL_RUN 6 1) 1).modHost fun h => { h with tails := [(13, 1)] }).acts ∧
    (made fun m => ((m.put (F.ETH_STAT_LINK 0) 1).put (F.DMA_CTL_RUN 6 1) 1).modHost fun h => { h with tails := [(13, 1)] }).start.on
      (F.ETH_STAT_LINK 0) = true ∧
    (made fun m => ((m.put (F.ETH_STAT_LINK 0) 1).put (F.DMA_CTL_RUN 6 1) 1).modHost fun h => { h with tails := [(13, 1)] }).start.on
      (F.DMA_CTL_RUN 6 1) = true ∧
    (made fun m => ((m.put (F.ETH_STAT_LINK 0) 1).put (F.DMA_CTL_RUN 6 1) 1).modHost fun h => { h with tails := [(13, 1)] }).start.get
      (F.DMA_HEAD_HEAD 6 1) ≠
    (made fun m => ((m.put (F.ETH_STAT_LINK 0) 1).put (F.DMA_CTL_RUN 6 1) 1).modHost fun h => { h with tails := [(13, 1)] }).start.ringTail 6 1 ∧
    descOk 6 1 (9216 * 2 ^ 128) = true ∧ (List.replicate 60 (0 : Byte)).length ≤ descLen (9216 * 2 ^ 128) ∧
    eventAt (List.replicate 60 (0 : Byte)) = none ∧ (made id).start.on (F.ETH_STAT_LINK 0) = false ∧ fieldAt (List.replicate 64 0) 60 4 ≠ frameCheck (List.replicate 60 0) ∧
    descOk 5 0 0 = false ∧ (made fun m => m.put F.SLC_STAT_AVAIL 0).start.on F.SLC_STAT_AVAIL = false) := by decide +kernel

/-- A state and operands that meet the hypotheses of Bar2ReadsAndWritesHbm. -/
theorem witness_Bar2ReadsAndWritesHbm :
  ((made id).acts ∧ (made id).dev.inTest = false ∧ (made id).start.on F.SLC_STAT_AVAIL = true ∧ (made id).start.on F.LEV_STAT_SEALED = false ∧
    ((List.range [1, 2, 3, 4, 5, 6, 7, (8 : Byte)].length).all fun i => (made id).start.hostMay ((made id).start.windowAddr 0x0EEFFFF8 + i)) = true ∧
    (made id).start.windowAddr 0x0EEFFFF8 % 8 = 0) ∧
  ((made fun m => m.put F.LEV_STAT_SEALED 1).acts ∧ (made fun m => m.put F.LEV_STAT_SEALED 1).dev.inTest = false ∧
    ((made fun m => m.put F.LEV_STAT_SEALED 1).start.on F.SLC_STAT_AVAIL && !(made fun m => m.put F.LEV_STAT_SEALED 1).start.on F.LEV_STAT_SEALED) = false) ∧
  (made id).takes Reg.GLB_WIN := by decide +kernel

/-- A state and operands that meet the hypotheses of RegisterReadsAnswerAndTakeEffect. -/
theorem witness_RegisterReadsAnswerAndTakeEffect :
  ((made id).acts ∧ (made id).dev.inTest = false ∧ (made id).start.readable (Reg.LEV_LOG 0) = true ∧
    ((made id).start.snapshot Req.host (Reg.LEV_LOG 0)).isEmpty = true) ∧
  ((made id).start.readable (Reg.ETH_TSQ_0 1) = true ∧ ((made id).start.snapshot Req.host (Reg.ETH_TSQ_0 1)).isEmpty = true) ∧
  ((made id).start.readable (Reg.ADC_FIFO_LO 31) = true ∧ ((made id).start.snapshot Req.host (Reg.ADC_FIFO_LO 31)).isEmpty = true) ∧
  ((made id).start.readable Reg.WEI_TICK_LO = true ∧ groupLow Reg.WEI_TICK_LO = none ∧ groupSize Reg.WEI_TICK_LO ≠ 0 ∧
    ((made id).start.snapshot Req.host Reg.WEI_TICK_LO).isEmpty = true) ∧
  ((made fun m => m.setSnapshot Req.host Reg.WEI_TICK_LO [(Reg.WEI_TICK_HI, 9)]).acts ∧
    (made fun m => m.setSnapshot Req.host Reg.WEI_TICK_LO [(Reg.WEI_TICK_HI, 9)]).dev.inTest = false ∧
    (made fun m => m.setSnapshot Req.host Reg.WEI_TICK_LO [(Reg.WEI_TICK_HI, 9)]).start.readable Reg.WEI_TICK_HI = true ∧
    groupLow Reg.WEI_TICK_HI = some Reg.WEI_TICK_LO ∧
    ((made fun m => m.setSnapshot Req.host Reg.WEI_TICK_LO [(Reg.WEI_TICK_HI, 9)]).start.snapshot Req.host Reg.WEI_TICK_LO).lookup
      Reg.WEI_TICK_HI = some 9) ∧
  ((made id).start.readable (Reg.MBX_SUM) = true ∧ groupLow Reg.MBX_SUM = none ∧ groupSize Reg.MBX_SUM = 0 ∧
    ((basinAt Reg.MBX_SUM).any fun b => !(made id).start.defined b) = false ∧ Reg.MBX_SUM % 4 = 0) := by decide +kernel

/-- A state and operands that meet the hypotheses of RegisterWritesActAtOnceOrWait. -/
theorem witness_RegisterWritesActAtOnceOrWait :
  ((made id).takes (Reg.TON_CTL 255 3) ∧ (rowOf (Reg.TON_CTL 255 3)).isNone = false ∧ Reg.TON_CTL 255 3 % 4 = 0 ∧ deferred (Reg.TON_CTL 255 3) = true) ∧
  ((made id).takes (Reg.QP_CTL 1023) ∧ (rowOf (Reg.QP_CTL 1023)).isNone = false ∧ Reg.QP_CTL 1023 % 4 = 0 ∧ deferred (Reg.QP_CTL 1023) = false ∧
    atBoundary (Reg.QP_CTL 1023) = true ∧ bitOf 1 0 = true) ∧
  ((made id).takes Reg.LEV_CTL ∧ (rowOf Reg.LEV_CTL).isNone = false ∧ Reg.LEV_CTL % 4 = 0 ∧ deferred Reg.LEV_CTL = false ∧
    (atBoundary Reg.LEV_CTL && bitOf 5 0) = false) ∧
  ((made fun m => m.put F.LEV_STAT_SEALED 1).acts ∧
    ((made fun m => m.put F.LEV_STAT_SEALED 1).start.writable Reg.LEV_CTL && (rowOf Reg.LEV_CTL).isSome) = false) ∧
  (true && ((3 == 4 && Reg.LEV_CTL % 4 == 0) || (3 == 8 && Reg.LEV_CTL % 8 == 0))) = false := by decide +kernel

/-- A state and operands that meet the hypotheses of SmBusCommandsAnswer. -/
theorem witness_SmBusCommandsAnswer :
  ((made id).acts ∧ (0xFFFFFF#32 : Word).toNat < 2 ^ 24) ∧
  ((made fun m => m.modHost fun h => { h with smbAddr := Reg.MBX_SUM }).acts ∧
    (made fun m => m.modHost fun h => { h with smbAddr := Reg.MBX_SUM }).start.readable Reg.MBX_SUM = true ∧ groupLow Reg.MBX_SUM = none ∧
    groupSize Reg.MBX_SUM = 0) ∧
  ((made fun m => m.modHost fun h => { h with smbAddr := 0x00107FC }).acts ∧
    0x0010700 ≤ (made fun m => m.modHost fun h => { h with smbAddr := 0x00107FC }).dev.host.smbAddr ∧
    (made fun m => m.modHost fun h => { h with smbAddr := 0x00107FC }).dev.host.smbAddr < 0x0010800) ∧
  ¬ (0x0010700 ≤ (made fun m => m.modHost fun h => { h with smbAddr := 0x0010800 }).dev.host.smbAddr ∧
    (made fun m => m.modHost fun h => { h with smbAddr := 0x0010800 }).dev.host.smbAddr < 0x0010800) := by decide +kernel

/-- A state and operands that meet the hypotheses of JtagInstructionsAreLoaded. -/
theorem witness_JtagInstructionsAreLoaded :
  ((made id).acts ∧ (made id).dev.inTest = false) ∧
  ((made fun m => m.modJtag fun j => { j with instr := 7 }).acts ∧ (made fun m => m.modJtag fun j => { j with instr := 7 }).dev.inTest = true) := by
  decide +kernel

/-- A state and operands that meet the hypotheses of PcieEventsAreShownAndReported. -/
theorem witness_PcieEventsAreShownAndReported :
  (made id).acts ∧ (made id).dev.inTest = false ∧ (3 : TlpKind).val ≠ 0 := by decide +kernel

end Sys2Proof.Tests
end

section
/-! Every command answers a next state, leaves the queue as it was, and keeps the memories canonical; so does every step, and the memories start
canonical (R7, R9, R80, R447). -/

namespace Sys2Proof.Machine

/-- An answer that takes the block somewhere, leaves the queue as it was, and keeps canonical memories canonical. -/
def State.KeepsCanonical (s : State) (o : Host.Outcome State Fault Refusal) : Prop :=
  ∃ m : Dev, o = s.becomes m ∧ (s.dev.canonical → m.canonical)

namespace State.KeepsCanonical

variable {s : State} {f : Dev → Dev} {b q off : Nat}

theorem always (hf : ∀ m : Dev, m.canonical → (f m).canonical) : s.KeepsCanonical (s.always f) :=
  ⟨_, rfl, fun h => State.always_keeps (s := s) hf h rfl⟩

theorem act (hf : ∀ m : Dev, m.canonical → (f m).canonical) : s.KeepsCanonical (s.act f) :=
  ⟨_, rfl, fun h => State.act_keeps (s := s) hf h rfl⟩

theorem hostAct (hf : ∀ m : Dev, m.canonical → (f m).canonical) : s.KeepsCanonical (s.hostAct off f) :=
  ⟨_, rfl, fun h => State.hostAct_keeps (s := s) hf h rfl⟩

theorem basinAct (hf : ∀ m : Dev, m.canonical → (f m).canonical) : s.KeepsCanonical (s.basinAct b off f) :=
  ⟨_, rfl, fun h => State.basinAct_keeps (s := s) hf h rfl⟩

theorem seqAct (hf : ∀ m : Dev, m.canonical → (f m).canonical) : s.KeepsCanonical (s.seqAct q off f) :=
  ⟨_, rfl, fun h => State.seqAct_keeps (s := s) hf h rfl⟩

end State.KeepsCanonical

/-- Each command acts through one of the five frames, by an operation that keeps the memories canonical. -/
theorem exec_keepsCanonical (c : Instr) (s : State) : s.KeepsCanonical (exec c s) := by
  cases c <;> dsimp only [exec]
  case tickBoundary => exact .act fun _ => Dev.tickBoundary_keeps _
  case exchangePoint => exact .act fun _ => Dev.exchange_keeps _
  case powerOnReset => exact .always fun _ => Dev.powerOnReset_keeps
  case warmReset => exact .act fun _ => Dev.warmReset_keeps
  case warmResetCommand => exact .hostAct fun _ => Dev.warmResetKey_keeps _
  case startupReady => exact .act fun _ => Dev.startupReady_keeps _
  case clrNAssert => exact .act fun _ => Dev.clrAssert_keeps _
  case clrNRelease => exact .act fun _ => Dev.clrRelease_keeps
  case catchLoad => exact .hostAct fun _ => Dev.catchLoad_keeps _ _
  case catchLoadCommit => exact .act fun _ => Dev.catchLoadCommit_keeps
  case catchCheck => exact .hostAct fun _ => Dev.catchCheck_keeps _ _
  case catchWithdraw => exact .hostAct fun _ => Dev.catchWithdraw_keeps _ _
  case withdrawComplete => exact .act fun _ => Dev.withdrawComplete_keeps
  case basinRecourse => exact .hostAct fun _ => Dev.basinRecourse_keeps _ _
  case recourseEnter => exact .act fun _ => Dev.recourseEnter_keeps _
  case recourseDrainEnd => exact .act fun _ => Dev.recourseDrain_keeps _
  case recourseCommit => exact .act fun _ => Dev.recourseCommit_keeps _
  case basinEnable => exact .basinAct fun _ => Dev.basinEnable_keeps _ _
  case basinDisable => exact .basinAct fun _ => Dev.basinDisable_keeps _ _
  case basinShutdownDone => exact .act fun _ => Dev.basinShutDone_keeps _
  case wordRun => exact .act fun _ => Dev.wordRun_keeps _ _
  case wordRepeat => exact .act fun _ => Dev.wordRepeat_keeps _ _
  case wordWait => exact .act fun _ => Dev.wordWait_keeps _ _
  case waitTimeout => exact .act fun _ => Dev.waitTimeout_keeps _
  case wordLoopBegin => exact .act fun _ => Dev.wordLoopBegin_keeps _ _
  case wordLoopEnd => exact .act fun _ => Dev.wordLoopEnd_keeps _ _
  case wordCall => exact .act fun _ => Dev.wordCall_keeps _ _
  case wordReturn => exact .act fun _ => Dev.wordReturn_keeps _ _
  case wordHalt => exact .act fun _ => Dev.wordHalt_keeps _
  case wordPaletteLoad => exact .act fun _ => Dev.wordPalette_keeps _
  case wordLevelStage => exact .act fun _ => Dev.wordLevelStage_keeps _
  case vectorResult => exact .act fun _ => Dev.vectorResult_keeps _
  case flowLinkMiss => exact .act fun _ => Dev.flowMiss_keeps _ _
  case syncptVerdict => exact .act fun _ => Dev.syncVerdict_keeps _ _
  case eventRegister => exact .act fun _ => Dev.eventRegister_keeps _ _ _ _
  case bsnEventSet => exact .basinAct fun _ => Dev.eventSet_keeps _ _
  case bsnEventClear => exact .basinAct fun _ => Dev.eventClear_keeps _ _
  case lsWrite => exact .hostAct fun _ => Dev.windowStart_keeps _ _
  case lsRead => exact .hostAct fun _ => Dev.windowStart_keeps _ _
  case loopStoreAccessDone => exact .act fun _ => Dev.windowDone_keeps _
  case loopStoreScrub => exact .act fun _ => Dev.storeScrub_keeps _
  case passBoundary => exact .act fun _ => Dev.passBoundary_keeps _
  case landingPeriodEnd => exact .act fun _ => Dev.landingEnd_keeps _
  case courseFetchDone => exact .act fun _ => Dev.courseFetch_keeps _ _ _ _
  case refillUnitLand => exact .act fun _ => Dev.refillLand_keeps _ _ _ _
  case streamUnderrun => exact .act fun _ => Dev.streamUnderrun_keeps _
  case stallEnd => exact .act fun _ => Dev.stallEnd_keeps _ _
  case residentBlockLoadDone => exact .act fun _ => Dev.resLoadDone_keeps _ _
  case sampleShortage => exact .act fun _ => Dev.sampleShort_keeps _ _
  case sampleResume => exact .act fun _ => Dev.sampleResume_keeps _ _
  case dskUserWrite => exact .hostAct fun _ => Dev.userWrite_keeps _ _ _
  case bsnLvlLoad => exact .basinAct fun _ => Dev.loadStrobe_keeps _ _
  case loadStrobe => exact .act fun _ => Dev.loadStrobe_keeps _ _
  case levelApply => exact .act fun _ => Dev.levelApply_keeps _
  case clearCodeWrite => exact .hostAct fun _ => Dev.clearCode_keeps _ _ _
  case ppmuEnable => exact .hostAct fun _ => Dev.ppmuWrite_keeps _ _ _
  case ppmuDisable => exact .hostAct fun _ h => Dev.ppmuShut_keeps _ (Dev.ppmuFields_keeps _ _ h)
  case ppmuShutdownDone => exact .act fun _ => Dev.ppmuShutDone_keeps _
  case ppmuRangeChange => exact .hostAct fun _ => Dev.ppmuWrite_keeps _ _ _
  case ppmuRangeChangeEnd => exact .act fun _ => Dev.ppmuRangeEnd_keeps _
  case trigInputEdge => exact .act fun _ => Dev.trigEdge_keeps _ _ _
  case ldacInputEdge => exact .act fun _ => Dev.ldacEdge_keeps _ _ _
  case seqHit => exact .act fun _ => Dev.seqHit_keeps _
  case seqTimerExpire => exact .act fun _ => Dev.seqTime_keeps _
  case tsqEnable => exact .seqAct fun _ => Dev.tsqEnable_keeps _
  case tsqDisable => exact .seqAct fun _ => Dev.tsqDisable_keeps _
  case tsqShutdownDone => exact .act fun _ => Dev.tsqShutDone_keeps _
  case gauTsqRestart => exact .hostAct fun _ => Dev.seqRestart_keeps _
  case captureArm => exact .basinAct fun _ => Dev.captureArm_keeps _ _
  case captureDisarm => exact .basinAct fun _ => Dev.captureDisarm_keeps _ _
  case captureShutdownDone => exact .act fun _ => Dev.captureShutDone_keeps _
  case forceTrig => exact .basinAct fun _ => Dev.forceTrig_keeps _
  case captureTrigger => exact .act fun _ => Dev.captureTrigger_keeps _
  case recordClose => exact .act fun _ => Dev.recordClose_keeps _
  case rearmComplete => exact .act fun _ => Dev.rearmDone_keeps _ _
  case recordComplete => exact .act fun _ => Dev.recordComplete_keeps _
  case capRdWrite => exact .basinAct fun _ => Dev.capRd_keeps _ _
  case toneEnable => exact .basinAct fun _ => Dev.toneEnable_keeps _ _ _
  case toneDisable => exact .basinAct fun _ => Dev.toneDisable_keeps _ _ _
  case toneShutdownDone => exact .act fun _ => Dev.toneShutDone_keeps _ _
  case toneFtwCommit => exact .basinAct fun _ => Dev.ftwCommit_keeps _ _ _
  case tonePoffCommit => exact .basinAct fun _ => Dev.poffCommit_keeps _ _ _
  case toneApply => exact .act fun _ => Dev.toneApply_keeps _ _ _
  case toneZeroCrossing => exact .act fun _ => Dev.toneCross_keeps _ _ _
  case deltaEnable => exact .hostAct fun _ => Dev.deltaEnable_keeps _ _
  case deltaDisable => exact .hostAct fun _ => Dev.deltaDisable_keeps _ _
  case deltaShutdownDone => exact .act fun _ => Dev.deltaShutDone_keeps _
  case deltaRateWrite => exact .hostAct fun _ => Dev.deltaRate_keeps _ _
  case adcEnable => exact .hostAct fun _ => Dev.adcEnable_keeps _ _
  case adcReady => exact .act fun _ => Dev.adcReady_keeps _ _ _
  case adcDisable => exact .hostAct fun _ => Dev.adcDisable_keeps _ _
  case adcPowerDown => exact .act fun _ => Dev.adcPowerDown_keeps _
  case scanRun => exact .hostAct fun _ => Dev.scanRun_keeps _ _
  case scanStop => exact .hostAct fun _ => Dev.scanStop_keeps _ _
  case scanStartHost => exact .hostAct fun _ => Dev.scanStartHost_keeps _
  case scanStartPeriodic => exact .act fun _ => Dev.scanStartPeriodic_keeps _
  case scanStartLoad => exact .act fun _ => Dev.scanStartLoad_keeps _ _
  case adcResult => exact .act fun _ => Dev.adcResult_keeps _ _ _ _
  case adcFifoRead => exact .act fun _ => Dev.hostRead_keeps _
  case adcStageTakeover => exact .act fun _ => Dev.stageTakeover_keeps _ _
  case adcGainRoutine => exact .act fun _ => Dev.gainRoutine_keeps _ _ _
  case pAdcEnable => exact .hostAct fun _ => Dev.padcEnable_keeps _ _
  case pAdcDisable => exact .hostAct fun _ => Dev.padcDisable_keeps _ _
  case pAdcShutdownDone => exact .act fun _ => Dev.padcShutDone_keeps _
  case pAdcResult => exact .act fun _ => Dev.padcResult_keeps _ _ _ _
  case padcSyscalZero => exact .hostAct fun _ => Dev.syscalZero_keeps _ _ _
  case padcSyscalFull => exact .hostAct fun _ => Dev.syscalFull_keeps _ _ _
  case padcSyscalCommit => exact .hostAct fun _ => Dev.syscalCommit_keeps _ _ _
  case padcSyscalDiscard => exact .hostAct fun _ => Dev.syscalDiscard_keeps _ _
  case padcSessionExpire => exact .act fun _ => Dev.sessionExpire_keeps _
  case sqDoorbell => exact .hostAct fun _ => Dev.sqDoorbell_keeps _ _
  case sqEntryLand => exact .act fun _ => Dev.sqLand_keeps _ _
  case unspillLand => exact .act fun _ => Dev.unspill_keeps _ _
  case burstDelivery => exact .act fun _ => Dev.deliver_keeps _ _
  case burstOnDeck => exact .act fun _ => Dev.enterDeck_keeps _
  case burstPrimed => exact .act fun _ => Dev.prime_keeps _ _
  case burstStartFromHold => exact .act fun _ => Dev.startFromHold_keeps _
  case prespinRampStep => exact .act fun _ => Dev.rampStep_keeps _
  case minBurstExpire => exact .act fun _ => Dev.minBurstExpire_keeps _
  case burstCompletion => exact .act fun _ => Dev.complete_keeps _
  case completionPost => exact .act fun _ => Dev.completionPost_keeps _
  case weiCancel => exact .hostAct fun _ => Dev.weiCancel_keeps _ _
  case weiCancelBasin => exact .hostAct fun _ => Dev.weiCancelBasin_keeps _ _
  case cancelRunningEnd => exact .act fun _ => Dev.cancelEnd_keeps _ _ _
  case burstTimeout => exact .act fun _ => Dev.burstTimeout_keeps _
  case bar2Read => exact .act fun _ => Dev.windowRead_keeps _ _ _
  case bar2Write => exact .act fun _ => Dev.windowWrite_keeps _ _ _
  case winBaseWrite => exact .act fun _ => Dev.winBaseWrite_keeps _ _
  case hbmRefresh => exact .act fun _ => Dev.refresh_keeps _
  case rowRepair => exact .act fun _ => Dev.rowRepair_keeps _
  case readTimingTrack => exact .act fun _ => Dev.timingTrack_keeps _ _
  case slcTrain => exact .hostAct fun _ => Dev.train_keeps _ _
  case slcOpchange => exact .hostAct fun _ => Dev.opChange_keeps _ _
  case opchangeLeadTimeout => exact .act fun _ => Dev.leadTimeout_keeps
  case opchangeCommit => exact .act fun _ => Dev.opChangeCommit_keeps
  case opchangeGapEnd => exact .act fun _ => Dev.opChangeGap_keeps
  case opchangeComplete => exact .act fun _ => Dev.opChangeDone_keeps
  case idleSelfRefreshEntry => exact .act fun _ => Dev.idleEntry_keeps _
  case idleSelfRefreshExit => exact .act fun _ => Dev.idleExit_keeps _
  case headwaterLock => exact .act fun _ => Dev.headwaterLock_keeps _
  case refclkLoss => exact .act fun _ => Dev.refLoss_keeps
  case refclkRestore => exact .act fun _ => Dev.refRestore_keeps
  case headwaterUnlock => exact .act fun _ => Dev.headwaterUnlock_keeps
  case clkoutEnable => exact .hostAct fun _ => Dev.ckoEnable_keeps _ _
  case clkoutDisable => exact .hostAct fun _ => Dev.ckoDisable_keeps _ _
  case clkoutShutdownDone => exact .act fun _ => Dev.ckoShutDone_keeps _
  case syncArm => exact .hostAct fun _ => Dev.syncArm_keeps _
  case syncPulse => exact .act fun _ => Dev.syncPulse_keeps _
  case syncTtZero => exact .act fun _ => Dev.syncZero_keeps
  case syncRealign => exact .hostAct fun _ => Dev.syncRealign_keeps
  case tmbApplyArm => exact .hostAct fun _ => Dev.tmbArm_keeps
  case tmbApply => exact .act fun _ => Dev.tmbApply_keeps
  case ethEnable => exact .hostAct fun _ => Dev.ethEnable_keeps _ _
  case ethDisable => exact .hostAct fun _ => Dev.ethDisable_keeps _ _
  case ethTsqRead => exact .act fun _ => Dev.hostRead_keeps _
  case ethRxFrame => exact .act fun _ => Dev.frameIn_keeps _ _ _ _ _
  case vutilEnable => exact .hostAct fun _ => Dev.vtlEnable_keeps _ _
  case vutilDisable => exact .hostAct fun _ => Dev.vtlDisable_keeps _ _
  case vutilLock => exact .act fun _ => Dev.vtlLock_keeps _
  case vutilCyclesStart => exact .act fun _ => Dev.vtlCycles_keeps _
  case vutilUp => exact .act fun _ => Dev.vtlUp_keeps _ _
  case vutilLinkDown => exact .act fun _ => Dev.vtlDown_keeps _ _
  case vutilCycleReceive => exact .act fun _ => Dev.vtlCycle_keeps _ _
  case vutilSyncMessage => exact .act fun _ => Dev.vtlSync_keeps _ _ _ _
  case vutilDreq => exact .act fun _ => Dev.vtlDreq_keeps _ _
  case vutilDresp => exact .act fun _ => Dev.vtlDresp_keeps _ _
  case vutilCtrl => exact .act fun _ => Dev.vtlCtrl_keeps _ _
  case vutilTimeExchange => exact .act fun _ => Dev.vtlExchange_keeps _ _
  case calTempInterval => exact .act fun _ => Dev.calInterval_keeps
  case calGatherBegin => exact .act fun _ => Dev.gatherBegin_keeps _
  case calGatherTimeout => exact .act fun _ => Dev.gatherTimeout_keeps _
  case calOutageBegin => exact .act fun _ => Dev.outageBegin_keeps _
  case calKindsDone => exact .act fun _ => Dev.kindsDone_keeps _ _ _
  case calOutageEnd => exact .act fun _ => Dev.outageEnd_keeps _
  case calRun => exact .hostAct fun _ => Dev.calRun_keeps _ _
  case calRef => exact .hostAct fun _ => Dev.calRef_keeps _ _ _ _
  case faultReport => exact .act fun _ => Dev.faultReport_keeps _ _ _ _
  case levForce => exact .hostAct fun _ => Dev.forceSource_keeps _
  case levArm => exact .hostAct fun _ => Dev.levArm_keeps _
  case levArmLapse => exact .act fun _ => Dev.armLapse_keeps
  case levLogRead => exact .act fun _ => Dev.hostRead_keeps _
  case levSevWrite => exact .hostAct fun _ => Dev.sevWrite_keeps _ _
  case levDeviceClear => exact .hostAct fun _ => Dev.deviceClear_keeps
  case levDumpAck => exact .hostAct fun _ => Dev.dumpAck_keeps
  case dump => exact .hostAct fun _ => Dev.dump_keeps _ _
  case dumpComplete => exact .act fun _ => Dev.dumpComplete_keeps
  case pcntRecordWrite => exact .act fun _ => Dev.counterWrite_keeps _
  case spareCopyDone => exact .act fun _ => Dev.copyDone_keeps _
  case millraceLaneOutvoted => exact .act fun _ => Dev.laneOutvoted_keeps _ _
  case managementWatchdog => exact .act fun _ => Dev.watchdog_keeps
  case droopTrip => exact .act fun _ => Dev.droopTrip_keeps _
  case cclkReturn => exact .act fun _ => Dev.cclkReturn_keeps
  case supplyMonitorTrip => exact .act fun _ => Dev.supplyTrip_keeps _ _
  case stepLimitWrite => exact .hostAct fun _ => Dev.stepLimitWrite_keeps _
  case slackEnter => exact .hostAct fun _ => Dev.slackEnter_keeps _ _
  case slackCommit => exact .act fun _ => Dev.slackCommit_keeps
  case wakeEvent => exact .act fun _ => Dev.wakeEvent_keeps _
  case hostWake => exact .hostAct fun _ => Dev.hostWake_keeps
  case wakeComplete => exact .act fun _ => Dev.wakeComplete_keeps _ _ _ _ _
  case servo => exact .hostAct fun _ => Dev.servo_keeps _ _
  case servoNoMaster => exact .act fun _ => Dev.servoNoMaster_keeps
  case fwStage => exact .hostAct fun _ => Dev.fwStage_keeps _ _ _
  case fwSelect => exact .hostAct fun _ => Dev.fwSelect_keeps _ _ _
  case unknownOp => exact .hostAct fun _ => Dev.unknownOp_keeps _ _ _
  case mailboxAbort => exact .hostAct fun _ => Dev.mailboxAbort_keeps _
  case qpEnable => exact .hostAct fun _ => Dev.queueEnable_keeps _
  case qpDisable => exact .hostAct fun _ => Dev.queueDisable_keeps _
  case qpShutdownDone => exact .act fun _ => Dev.queueShutDone_keeps _
  case cqHeadDoorbell => exact .hostAct fun _ => Dev.cqDoorbell_keeps _ _
  case dmaRun => exact .hostAct fun _ => Dev.dmaRun_keeps _ _
  case dmaStop => exact .hostAct fun _ => Dev.dmaStop_keeps _ _
  case dmaTailDoorbell => exact .hostAct fun _ => Dev.dmaTail_keeps _ _ _
  case dmaDescriptorDone => exact .act fun _ => Dev.descriptor_keeps _ _ _ _ _ _
  case multiWordLowRead => exact .act fun _ => Dev.hostRead_keeps _
  case multiWordHighRead => exact .act fun _ => Dev.hostRead_keeps _
  case readClear => exact .act fun _ => Dev.barRead_keeps _ _
  case registerWrite => exact .act fun _ => Dev.barWrite_keeps _ _ _ _
  case pcieTlpError => exact .act fun _ => Dev.tlpError_keeps _
  case deviceRequestTimeout => exact .act fun _ => Dev.requestTimeout_keeps
  case smbSetAddr => exact .act fun _ => Dev.smbAddr_keeps _
  case smbReadReg => exact .act fun _ => Dev.smbRead_keeps
  case smbWriteMailbox => exact .act fun _ => Dev.smbWrite_keeps _
  case smbReadTemp => exact .act fun _ => Dev.smbTemp_keeps
  case smbReadStatus => exact .act fun _ => Dev.smbStatus_keeps
  case smbUnknownCommand => exact .act fun _ => Dev.smbUnknown_keeps
  case jtagIdcode => exact .act fun _ => Dev.jtagId_keeps
  case jtagSamplePreload => exact .act fun _ => Dev.jtagSample_keeps _
  case jtagExtest => exact .act fun _ => Dev.jtagTest_keeps _ _
  case jtagExtestPulse => exact .act fun _ => Dev.jtagTest_keeps _ _
  case jtagExtestTrain => exact .act fun _ => Dev.jtagTest_keeps _ _
  case jtagClamp => exact .act fun _ => Dev.jtagTest_keeps _ _
  case jtagHighz => exact .act fun _ => Dev.jtagTest_keeps _ _
  case jtagBypass => exact .act fun _ => Dev.jtagBypass_keeps _
  case jtagTestLogicReset => exact .act fun _ => Dev.jtagLoad_keeps _
  case powerGoodLoss => exact .always fun _ => Dev.powerLoss_keeps _
  case powerGoodReturn => exact .always fun _ => Dev.powerReturn_keeps _
  case ethLinkUp => exact .act fun _ => Dev.ethUp_keeps _
  case ethLinkDown => exact .act fun _ => Dev.ethDown_keeps _
  case pcieLinkUp => exact .act fun _ => Dev.pcieUp_keeps _ _
  case timeBaseHalf => exact .act fun _ => Dev.tmbHalf_keeps _
  case slcTrainDone => exact .act fun _ => Dev.trainDone_keeps _ _
  case fwStageDone => exact .act fun _ => Dev.fwStageDone_keeps _

/-- Settles O3, by cases on the queue: an empty one idles, and the front command of another keeps the memories canonical. -/
theorem everyStepKeepsMemoriesCanonical : Obligations.EveryStepKeepsMemoriesCanonical := by
  rintro ⟨pending, dev⟩
  cases pending with
  | nil => exact ⟨_, rfl, rfl, id⟩
  | cons c rest =>
    obtain ⟨m, hm, hk⟩ := exec_keepsCanonical c ⟨rest, dev⟩
    exact ⟨_, hm, rfl, hk⟩

/-- Settles O2: all three tables are empty at reset. -/
theorem resetMemoriesAreCanonical : Obligations.ResetMemoriesAreCanonical :=
  ⟨⟨rfl, rfl, rfl⟩, rfl⟩

end Sys2Proof.Machine
end

section
/-! The resets: what a power-on reset and a warm reset leave in the registers and in the units. -/

namespace Sys2Proof.Machine

/-! ## The sealed latch -/

/-- A condition reads alike in two states whose registers of its field are equal. -/
theorem Dev.on_congr {m n : Dev} {f : Fld} (h : n.reg f.off = m.reg f.off) : n.on f = m.on f := by
  unfold Dev.on Dev.get
  rw [h]

/-- What a register reads where the table holds only the kept bits of another state's. -/
theorem Dev.reg_of_keepRegs {m n : Dev} {keeps : Nat → List (Nat × Nat)} (hc : m.canonical) (hn : n.regs = keepRegs keeps m.regs) {off : Nat}
    (hb : ∀ b ∈ keeps off, b.2 ≤ b.1 ∧ b.1 ≤ 31) : n.reg off = keptWord keeps off (m.reg off) % 2 ^ 32 := by
  unfold Dev.reg
  rw [hn]
  exact find_keepRegs keeps hc.2.1 off hb

/-- A register of which one field alone is kept. -/
theorem keptWord_single {keeps : Nat → List (Nat × Nat)} {off hi lo : Nat} (hk : keeps off = [(hi, lo)]) (v : Nat) :
    keptWord keeps off v = setBits (resetOf off) hi lo (bitsOf v hi lo) := by
  unfold keptWord
  rw [hk]
  rfl

/-- A reset that keeps the sealed latch leaves it clear where it was clear. -/
theorem Dev.unsealed_of_keepRegs {m n : Dev} {keeps : Nat → List (Nat × Nat)} (hc : m.canonical) (hn : n.regs = keepRegs keeps m.regs)
    (hk : keeps Reg.LEV_STAT = [(1, 1)]) (hs : m.on F.LEV_STAT_SEALED = false) : n.on F.LEV_STAT_SEALED = false := by
  have hreg : n.reg Reg.LEV_STAT = setBits (resetOf Reg.LEV_STAT) 1 1 (m.get F.LEV_STAT_SEALED) := by
    rw [Dev.reg_of_keepRegs hc hn (by rw [hk]; decide), keptWord_single hk]
    exact Nat.mod_eq_of_lt (setBits_lt _ _ _ _ (by decide) (by decide) (by decide))
  have hget : n.get F.LEV_STAT_SEALED = m.get F.LEV_STAT_SEALED := by
    show bitsOf (n.reg Reg.LEV_STAT) 1 1 = _
    rw [hreg, bitsOf_setBits_same _ _ _ _ (by decide)]
    exact Nat.mod_eq_of_lt (Nat.mod_lt _ (by decide))
  unfold Dev.on at hs ⊢
  rw [hget, hs]

/-- Without the sealed latch a reset leads to no service mode. -/
theorem Dev.serviceMode_unsealed {m : Dev} (h : m.on F.LEV_STAT_SEALED = false) : m.serviceMode = m := by
  unfold Dev.serviceMode
  rw [h]
  rfl

/-- Settles O8: without the sealed latch the new state of a power-on reset stays as it was built, and its registers are those that
`Dev.reg_of_keepRegs` describes. -/
theorem powerOnResetLeavesResetValues : Obligations.PowerOnResetLeavesResetValues := by
  intro s hc hs
  have hstart : s.start.on F.LEV_STAT_SEALED = false := hs
  refine ⟨s.start.powerOnReset, rfl, ?_⟩
  unfold Dev.powerOnReset
  rw [Dev.serviceMode_unsealed (Dev.unsealed_of_keepRegs (m := s.start) hc rfl rfl hs), hstart]
  exact ⟨fun off => Dev.reg_of_keepRegs (m := s.start) hc rfl (powerOnKeeps_bits off), fun _ => rfl, fun _ _ => rfl,
    rfl, rfl, rfl, rfl, rfl, rfl, rfl, rfl, rfl, rfl, rfl, rfl, rfl, rfl⟩

/-! ## The warm reset -/

/-- Past its new state, a warm reset changes registers and Levee alone: any other part is as the new state has it. -/
theorem Dev.serviceMode_clearCodes_pres {β : Type} (g : Dev → β) {n : Dev} (h : ∀ m o v, g (Dev.setReg m o v) = g m := by intros; rfl)
    (h2 : ∀ m f, g (Dev.modLev m f) = g m := by intros; rfl) : g n.clearCodes.serviceMode = g n :=
  (Dev.serviceMode_pres g h h2 _).trans (Dev.clearCodes_pres g h h2 n)

/-- Of LEV_STAT a warm reset keeps the sealed latch alone. -/
theorem warmKeeps_levStat : warmKeeps Reg.LEV_STAT = [(1, 1)] := by decide +kernel

/-- A register below the tributaries' blocks after a warm reset: its reset value with the kept bits carried over. -/
theorem Dev.warmReset_reg {m : Dev} (hc : m.canonical) (hs : m.on F.LEV_STAT_SEALED = false) {off : Nat} (ho : off < 0x0100000) :
    m.warmReset.reg off = keptWord warmKeeps off (m.reg off) % 2 ^ 32 := by
  obtain ⟨n, hn, hregs⟩ : ∃ n : Dev, m.warmReset = n.clearCodes.serviceMode ∧ n.regs = keepRegs warmKeeps m.regs := ⟨_, rfl, rfl⟩
  have hopen : n.clearCodes.on F.LEV_STAT_SEALED = false :=
    (Dev.on_congr (Dev.clearCodes_reg n _ (by decide))).trans (Dev.unsealed_of_keepRegs hc hregs warmKeeps_levStat hs)
  rw [hn, Dev.serviceMode_unsealed hopen, Dev.clearCodes_reg n off ho]
  exact Dev.reg_of_keepRegs hc hregs (warmKeeps_bits off)

/-- A served write to GLB_RESET is a warm reset where it holds the key (R481). -/
theorem exec_warmResetCommand_key {s : State} {v : Word} (h : s.takes Reg.GLB_RESET) (hv : bitsOf v.toNat 15 0 = 0x57A1) :
    exec (.warmResetCommand v) s = exec .warmReset s := by
  have hkey : s.start.warmResetKey v.toNat = s.start.warmReset := if_pos hv
  calc exec (.warmResetCommand v) s
      = s.becomes (s.start.warmResetKey v.toNat).payOwed := State.hostAct_pays h
    _ = s.becomes s.start.warmReset.payOwed := by rw [hkey]
    _ = exec .warmReset s := (State.act_pays (f := Dev.warmReset) h.1).symm

/-- A served write of any other value to GLB_RESET changes nothing (R481). -/
theorem exec_warmResetCommand_other {s : State} {v : Word} (h : s.takes Reg.GLB_RESET) (hv : bitsOf v.toNat 15 0 ≠ 0x57A1) :
    exec (.warmResetCommand v) s = s.becomes s.start :=
  State.hostAct_eq (f := fun m => m.warmResetKey v.toNat) h (if_neg hv) h.1.2

/-- Settles O9: what a warm reset makes of each part that is no register, of each low register, and what the two kinds of write to GLB_RESET
do. -/
theorem warmResetKeepsWhatTableSays : Obligations.WarmResetKeepsWhatTableSays := by
  refine ⟨fun s h => ⟨s.start.warmReset, State.act_pays h, ?_⟩, fun _ _ => exec_warmResetCommand_key, fun _ _ => exec_warmResetCommand_other⟩
  exact ⟨Dev.serviceMode_clearCodes_pres Dev.image, Dev.serviceMode_clearCodes_pres Dev.staged, Dev.serviceMode_clearCodes_pres Dev.basins,
    Dev.serviceMode_clearCodes_pres Dev.pins, Dev.serviceMode_clearCodes_pres Dev.mbx, Dev.serviceMode_clearCodes_pres Dev.weir,
    Dev.serviceMode_clearCodes_pres Dev.posted, Dev.serviceMode_clearCodes_pres Dev.committing,
    Dev.serviceMode_clearCodes_pres Dev.committed, Dev.serviceMode_clearCodes_pres Dev.delivered,
    Dev.serviceMode_clearCodes_pres Dev.store, Dev.serviceMode_clearCodes_pres Dev.hbm, Dev.serviceMode_clearCodes_pres Dev.tick,
    Dev.serviceMode_clearCodes_pres Dev.timeBase, Dev.serviceMode_clearCodes_pres Dev.jtag, Dev.serviceMode_clearCodes_pres Dev.rsv,
    Dev.serviceMode_clearCodes_pres Dev.power, fun hc hs _ => Dev.warmReset_reg (m := s.start) hc hs⟩

end Sys2Proof.Machine
end

section
/-! Host reads of registers: the words that a read answers, the words that it keeps, and what it takes away (R8, R463). -/

namespace Sys2Proof.Machine

/-! ## The word that a read answers (R463) -/

/-- The other words of a group of n words, as a read of its low word finds them. -/
def Dev.highWords (m : Dev) (off n : Nat) : List (Nat × Nat) :=
  (List.range (n - 1)).map fun k => (off + 4 * (k + 1), m.live (off + 4 * (k + 1)))

section
variable {m : Dev} {req off : Nat} (hr : m.readable off = true)
include hr

/-- A low word answers itself and keeps the group's other words, where no words are left of an earlier read. -/
theorem Dev.readWord_low (hl : groupLow off = none) (hn : groupSize off ≠ 0) (he : (m.snapshot req off).isEmpty = true) :
    m.readWord req off = (m.setSnapshot req off (m.highWords off (groupSize off)), m.live off) := by
  simp [Dev.readWord, Dev.highWords, hr, hl, hn, he]

/-- A high word that is still kept answers as kept, and is used up. -/
theorem Dev.readWord_high {low v : Nat} (hl : groupLow off = some low) (hv : (m.snapshot req low).lookup off = some v) :
    m.readWord req off = (m.setSnapshot req low ((m.snapshot req low).filter fun e => e.1 != off), v) := by
  simp [Dev.readWord, hr, hl, hv]

/-- A register that belongs to no group answers itself. -/
theorem Dev.readWord_single (hl : groupLow off = none) (hn : groupSize off = 0) : m.readWord req off = (m, m.live off) := by
  simp [Dev.readWord, hr, hl, hn]

end

/-! ## What a read takes away (R8, R275, R353, R394) -/

/-- Clearing the RC fields of a register leaves Levee as it was. -/
@[simp] theorem Dev.readClear_lev (m : Dev) (off : Nat) : (m.readClear off).lev = m.lev := by
  unfold Dev.readClear
  split <;> rfl

/-- A read owes no report. -/
@[simp] theorem Dev.readEffect_owed (m : Dev) (off : Nat) : (m.readEffect off).lev.owed = m.lev.owed := by
  unfold Dev.readEffect
  split
  · rfl
  split
  · rfl
  split
  · rfl
  split
  · rfl
  split
  · rfl
  · exact congrArg LevX.owed (Dev.readClear_lev m off)

theorem Dev.readEffect_levLog {m : Dev} (h : m.readable (Reg.LEV_LOG 0) = true) :
    m.readEffect (Reg.LEV_LOG 0) = m.modLev fun l => { l with log := l.log.tail } := by
  unfold Dev.readEffect
  rw [h]
  rfl

theorem Dev.readEffect_ethTsq {m : Dev} {e : Eth} (h : m.readable (Reg.ETH_TSQ_0 e) = true) :
    m.readEffect (Reg.ETH_TSQ_0 e) = m.setStamps e (m.stampsOf e).tail := by
  have hlog : Reg.ETH_TSQ_0 e ≠ 0x0020010 := by unfold Reg.ETH_TSQ_0; omega
  have heth : Reg.ETH_TSQ_0 e = 0x00B0010 ∨ Reg.ETH_TSQ_0 e = 0x00B1010 := by unfold Reg.ETH_TSQ_0; omega
  have hport : (Reg.ETH_TSQ_0 e - 0x00B0010) / 0x1000 = e := by unfold Reg.ETH_TSQ_0; omega
  simp only [Dev.readEffect, h, hlog, heth, hport, Bool.not_true, Bool.false_eq_true, if_true, if_false]

theorem Dev.readEffect_adcFifo {m : Dev} {k : Adc} (h : m.readable (Reg.ADC_FIFO_LO k) = true) :
    m.readEffect (Reg.ADC_FIFO_LO k) = m.fifoPop k := by
  have hlog : Reg.ADC_FIFO_LO k ≠ 0x0020010 := by unfold Reg.ADC_FIFO_LO; omega
  have heth : ¬ (Reg.ADC_FIFO_LO k = 0x00B0010 ∨ Reg.ADC_FIFO_LO k = 0x00B1010) := by unfold Reg.ADC_FIFO_LO; omega
  have hadc : 0x00C1000 ≤ Reg.ADC_FIFO_LO k ∧ Reg.ADC_FIFO_LO k < 0x00C5000 ∧ Reg.ADC_FIFO_LO k % 0x200 = 0x20 := by
    unfold Reg.ADC_FIFO_LO; omega
  have hunit : (Reg.ADC_FIFO_LO k - 0x00C1000) / 0x200 = k := by unfold Reg.ADC_FIFO_LO; omega
  simp only [Dev.readEffect, h, hlog, heth, hadc, hunit, Bool.not_true, Bool.false_eq_true, if_true, if_false, and_self]

/-! ## Host reads as commands -/

/-- A host read takes away what it takes away, and then answers its word. -/
theorem Dev.hostRead_eq {m n : Dev} {off v : Nat} (ht : m.inTest = false) (hw : m.readWord Req.host off = (n, v)) :
    m.hostRead off = (n.readEffect off).answer v := by
  simp [Dev.hostRead, ht, hw]

/-- A read of 4 aligned bytes is a read of their register (R460). -/
theorem Dev.barRead_four {m : Dev} {off : Nat} (ht : m.inTest = false) (ha : off % 4 = 0) : m.barRead off 4 = m.hostRead off := by
  simp [Dev.barRead, ht, ha]

/-- The same as a command that acts. -/
theorem State.hostRead_becomes {s : State} {n : Dev} {off v : Nat} (hs : s.acts) (ht : s.dev.inTest = false) (ho : n.lev.owed = [])
    (hw : s.start.readWord Req.host off = (n, v)) : s.act (fun m => m.hostRead off) = s.becomes ((n.readEffect off).answer v) :=
  State.act_eq hs (Dev.hostRead_eq ht hw) ((n.readEffect_owed off).trans ho)

/-- The read of the low word of a group of k words, where no words are left of an earlier read. -/
theorem State.hostRead_low {s : State} {n : Dev} {off k : Nat} (hs : s.acts) (ht : s.dev.inTest = false) (hr : s.start.readable off = true)
    (hl : groupLow off = none) (hk : groupSize off = k) (hk0 : k ≠ 0) (he : (s.start.snapshot Req.host off).isEmpty = true)
    (hx : (s.start.setSnapshot Req.host off (s.start.highWords off k)).readEffect off = n) :
    s.act (fun m => m.hostRead off) = s.becomes (n.answer (s.start.live off)) := by
  subst hk hx
  exact State.hostRead_becomes hs ht hs.2 (Dev.readWord_low hr hl hk0 he)

/-! ## The groups whose low word removes an entry -/

theorem groupLow_levLog : groupLow (Reg.LEV_LOG 0) = none := by decide +kernel
theorem groupSize_levLog : groupSize (Reg.LEV_LOG 0) = 4 := by decide +kernel
theorem groupLow_ethTsq : ∀ e : Eth, groupLow (Reg.ETH_TSQ_0 e) = none := by decide +kernel
theorem groupSize_ethTsq : ∀ e : Eth, groupSize (Reg.ETH_TSQ_0 e) = 3 := by decide +kernel
theorem groupLow_adcFifo : ∀ k : Adc, groupLow (Reg.ADC_FIFO_LO k) = none := by decide +kernel
theorem groupSize_adcFifo : ∀ k : Adc, groupSize (Reg.ADC_FIFO_LO k) = 2 := by decide +kernel

/-- Settles O56: the three groups that remove an entry, low words, high words, and single registers. -/
theorem registerReadsAnswerAndTakeEffect : Obligations.RegisterReadsAnswerAndTakeEffect :=
  ⟨fun _ hs ht hr he => State.hostRead_low hs ht hr groupLow_levLog groupSize_levLog (by decide) he (Dev.readEffect_levLog hr),
   fun _ e hs ht hr he =>
    State.hostRead_low hs ht hr (groupLow_ethTsq e) (groupSize_ethTsq e) (by decide) he (Dev.readEffect_ethTsq hr),
   fun _ k hs ht hr he =>
    State.hostRead_low hs ht hr (groupLow_adcFifo k) (groupSize_adcFifo k) (by decide) he (Dev.readEffect_adcFifo hr),
   fun _ _ hs ht hr hl hn he => State.hostRead_low hs ht hr hl rfl hn he rfl,
   fun _ _ _ _ hs ht hr hl hv => State.hostRead_becomes hs ht hs.2 (Dev.readWord_high hr hl hv),
   fun s _ hs ht hr hl hn _ ha =>
    have hread := (Dev.barRead_four (m := s.start) ht ha).trans (Dev.hostRead_eq ht (Dev.readWord_single hr hl hn))
    State.act_eq (f := fun m => m.barRead _ 4) hs hread ((s.start.readEffect_owed _).trans hs.2)⟩

end Sys2Proof.Machine
end

section
/-! Ticks and exchange points (R24, R25): what they do while TT runs outside slack, and that they stand still otherwise. -/

namespace Sys2Proof.Machine

section
variable {m : Dev} (i : TickIn) (c : Bool)

/-! ## In slack, or while TT does not run -/

section
variable (h : m.asleep = true ∨ m.clk.locked = false)
include h

/-- A tick boundary changes nothing. -/
theorem Dev.tickBoundary_still : m.tickBoundary i = m := if_pos (by simpa using h)

/-- An exchange point changes nothing. -/
theorem Dev.exchange_still : m.exchange c = m := if_pos (by simpa using h)

end

/-! ## Outside slack, while TT runs -/

/-- Outside slack, while TT runs, the test by which both stand still fails. -/
theorem Dev.ticks_pass (ha : m.asleep = false) (hl : m.clk.locked = true) : ¬ (m.asleep || !m.clk.locked) = true := by
  rw [ha, hl]
  exact Bool.false_ne_true

/-- An exchange point delivers what was committed, in order, where the program has committed and no call-stack fault ended it; else it reports the
deadline. -/
theorem Dev.exchange_running (ha : m.asleep = false) (hl : m.clk.locked = true) :
    m.exchange c = if c = true ∧ m.mrc.faulted = false then ({ m with committed := [] } : Dev).each m.committed Dev.deliverWrite
      else m.report Src.tickDeadline 0 0 m.exchangeNow := by
  unfold Dev.exchange
  rw [if_neg (Dev.ticks_pass ha hl)]
  cases c <;> cases m.mrc.faulted <;> rfl

end

/-! ## As commands -/

section
variable {s : State} (hs : s.acts)
include hs

theorem State.tickBoundary_pays (i : TickIn) : exec (.tickBoundary i) s = s.becomes (s.start.tickBoundary i).payOwed :=
  State.act_pays (f := fun m => m.tickBoundary i) hs

theorem State.exchangePoint_pays (c : Bool) : exec (.exchangePoint c) s = s.becomes (s.start.exchange c).payOwed :=
  State.act_pays (f := fun m => m.exchange c) hs

end

/-- Settles O12: the boundary's steps stand in the definition of `Dev.tickBoundary` as the statement lists them, behind its test that ticks pass. -/
theorem ticksAndExchangesRun : Obligations.TicksAndExchangesRun := by
  refine ⟨?boundary, ?exchange, ?still⟩
  case boundary =>
    rintro s _ i hs rfl ha hl
    rw [State.tickBoundary_pays hs]
    exact congrArg (fun m : Dev => s.becomes m.payOwed) (if_neg (Dev.ticks_pass ha hl))
  case exchange =>
    intro s c hs ha hl
    rw [State.exchangePoint_pays hs, Dev.exchange_running (m := s.start) c ha hl]
    rfl
  case still =>
    intro s i c hs h
    have howed : s.start.payOwed = s.start := Dev.payOwed_nil hs.2
    rw [State.tickBoundary_pays hs, State.exchangePoint_pays hs, Dev.tickBoundary_still (m := s.start) i h,
      Dev.exchange_still (m := s.start) c h, howed]
    exact ⟨rfl, rfl⟩

end Sys2Proof.Machine
end

section
/-! Host writes of registers: which act at once, which wait, and which are dropped (R24, R28, R460, R461). -/

namespace Sys2Proof.Machine

/-! ## A word written -/

section
variable {m : Dev} {req off v : Nat}

/-- A write to a closed region, or to no register, is dropped. -/
theorem Dev.writeWord_dropped (h : (m.writable off && (rowOf off).isSome) = false) : m.writeWord req off v = m := by
  unfold Dev.writeWord
  refine if_pos ?_
  rw [← Option.not_isSome, ← Bool.not_and, h]
  rfl

section
variable (hw : m.writable off = true) (hr : (rowOf off).isNone = false)
include hw hr

/-- A write whose register's home chapter defers it waits for the exchange point. -/
theorem Dev.writeWord_deferred (hd : deferred off = true) :
    m.writeWord req off v = { m with posted := m.posted ++ [(off, BitVec.ofNat 32 v)] } := by
  simp [Dev.writeWord, hw, hr, hd]

/-- A write that is taken at a tick boundary waits for that. -/
theorem Dev.writeWord_atBoundary (hd : deferred off = false) (hb : (atBoundary off && bitOf v 0) = true) :
    m.writeWord req off v = { m with delivered := m.delivered ++ [(off, BitVec.ofNat 32 v)] } := by
  simp [Dev.writeWord, hw, hr, hd, hb]

/-- Any other write acts at once. -/
theorem Dev.writeWord_atOnce (hd : deferred off = false) (hb : (atBoundary off && bitOf v 0) = false) :
    m.writeWord req off v = m.carryOut req off v := by
  simp [Dev.writeWord, hw, hr, hd, hb]

end
end

/-! ## A host write of bytes (R460) -/

/-- A write of 4 aligned bytes with every byte enabled writes its word. -/
theorem Dev.barWrite_four {m : Dev} {off v : Nat} (ht : m.inTest = false) (ha : off % 4 = 0) :
    m.barWrite off v 4 true = m.writeWord Req.host off v := by
  simp [Dev.barWrite, ht, ha]

/-- While a JTAG test instruction is loaded no host write arrives (R479). -/
theorem Dev.barWrite_inTest {m : Dev} {off v len : Nat} {full : Bool} (ht : m.inTest = true) : m.barWrite off v len full = m := if_pos ht

/-- A write of any other length or alignment, or with a byte not enabled, is a refused access. -/
theorem Dev.barWrite_bad {m : Dev} {off v len : Nat} {full : Bool} (ht : m.inTest = false)
    (h : (full && ((len == 4 && off % 4 == 0) || (len == 8 && off % 8 == 0))) = false) : m.barWrite off v len full = m.badAccess off := by
  rw [Bool.and_or_distrib_left, Bool.or_eq_false_iff, ← Bool.and_assoc, ← Bool.and_assoc] at h
  obtain ⟨hfour, height⟩ := h
  simp only [Dev.barWrite, ht, hfour, height, Bool.false_eq_true, if_false]

/-- A write to a closed region, or to no register, is dropped, whether a test instruction is loaded or not. -/
theorem Dev.barWrite_dropped {m : Dev} {off v : Nat} (ha : off % 4 = 0) (h : (m.writable off && (rowOf off).isSome) = false) :
    m.barWrite off v 4 true = m := by
  cases ht : m.inTest
  case true => exact Dev.barWrite_inTest ht
  case false => exact (Dev.barWrite_four ht ha).trans (Dev.writeWord_dropped h)

/-! ## Register writes as commands -/

/-- A register write on a device that acts. -/
theorem State.registerWrite_pays {s : State} (hs : s.acts) (off : Bar0) (v : Long) (len : Nat) (full : Bool) :
    exec (.registerWrite off v len full) s = s.becomes (s.start.barWrite off.toNat v.toNat len full).payOwed :=
  State.act_pays (f := fun m => m.barWrite off.toNat v.toNat len full) hs

/-- The same, where the write is known to take the block to m and no report is owed. -/
theorem State.registerWrite_becomes {s : State} {off : Bar0} {v : Long} {len : Nat} {full : Bool} {m : Dev} (hs : s.acts)
    (hw : s.start.barWrite off.toNat v.toNat len full = m) (ho : m.lev.owed = []) : exec (.registerWrite off v len full) s = s.becomes m := by
  rw [State.registerWrite_pays hs, hw, Dev.payOwed_nil ho]

/-- Settles O57: the three ways of a word that is served, the word that is dropped, and the access that is refused. -/
theorem registerWritesActAtOnceOrWait : Obligations.RegisterWritesActAtOnceOrWait := by
  refine ⟨?posted, ?boundary, ?atOnce, ?dropped, ?refused⟩
  case posted =>
    intro s off v ⟨hs, hw, ht⟩ hr ha hd
    exact State.registerWrite_becomes hs ((Dev.barWrite_four (m := s.start) ht ha).trans (Dev.writeWord_deferred hw hr hd)) hs.2
  case boundary =>
    intro s off v ⟨hs, hw, ht⟩ hr ha hd hb hv
    have htaken : (atBoundary off.toNat && bitOf v.toNat 0) = true := by rw [hb, hv]; rfl
    exact State.registerWrite_becomes hs ((Dev.barWrite_four (m := s.start) ht ha).trans (Dev.writeWord_atBoundary hw hr hd htaken)) hs.2
  case atOnce =>
    intro s off v ⟨hs, hw, ht⟩ hr ha hd hb
    have hnow : s.start.barWrite off.toNat v.toNat 4 true = s.start.carryOut Req.host off.toNat v.toNat :=
      (Dev.barWrite_four (m := s.start) ht ha).trans (Dev.writeWord_atOnce hw hr hd hb)
    rw [State.registerWrite_pays hs, hnow]
  case dropped =>
    intro s off v hs h ha
    exact State.registerWrite_becomes hs (Dev.barWrite_dropped (m := s.start) ha h) hs.2
  case refused =>
    intro s off v len full hs ht h
    exact State.registerWrite_becomes hs (Dev.barWrite_bad (m := s.start) ht h) hs.2

end Sys2Proof.Machine
end

section
/-! The registers of an undefined basin (R77): where a basin's block lies, what its registers read, and that writes to them do nothing. -/

namespace Sys2Proof.Machine

/-! ## The block of a basin -/

/-- The blocks of the basins begin at 0x0500000. -/
theorem le_of_basinAt {b off : Nat} (h : basinAt off = some b) : 0x0500000 ≤ off := by
  unfold basinAt at h
  split at h
  · next hin => exact hin.1
  · cases h

section
variable {b off : Nat} (hb : b < 256) (hlo : 0x0500000 + b * 0x1000 ≤ off) (hhi : off < 0x0501000 + b * 0x1000)
include hb hlo hhi

/-- An offset of basin b's block belongs to basin b. -/
theorem basinAt_block : basinAt off = some b := by
  unfold basinAt
  rw [if_pos (by omega)]
  congr 1
  omega

/-- A write that takes effect in basin b's block goes to that basin. -/
theorem Dev.carryOut_block (m : Dev) (req v : Nat) : m.carryOut req off v = if (rowOf off).isNone then m else m.bsnWrite b off v := by
  have hnum : (off - 0x0500000) / 0x1000 = b := by omega
  simp only [Dev.carryOut, hnum, show ¬ (0x0050100 ≤ off ∧ off < 0x0050180) by omega, show ¬ (0x00C0000 ≤ off ∧ off < 0x00D0000) by omega,
    show ¬ off < 0x0100000 by omega, show ¬ off < 0x0500000 by omega, show off < 0x0600000 by omega, if_true, if_false]

end

/-- Below the block's sequencer, the register at an offset of basin b's block is the one that Table 17.2 gives at that offset of a block. -/
theorem rowOf_block (b : Basin) {o : Nat} (ho : o < 0x300) (ha : o % 4 = 0) : rowOf (0x0500000 + b * 0x1000 + o) = findRow RegMap.bsn o := by
  obtain ⟨b, hb⟩ := b
  have hplace : (0x0500000 + b * 0x1000 + o) % 0x1000 = o := by omega
  unfold rowOf
  rw [if_neg (by dsimp only; omega), if_neg (by dsimp only; omega), if_neg (by dsimp only; omega), if_neg (by dsimp only; omega),
    if_neg (by dsimp only; omega), if_neg (by dsimp only; omega), if_neg (by dsimp only; omega), if_neg (by dsimp only; omega),
    if_neg (by dsimp only; omega), if_neg (by dsimp only; omega), if_pos (by dsimp only; omega)]
  dsimp only
  rw [hplace, if_neg (by omega)]

/-! ## Reads -/

/-- Whether a basin is defined is told by the admitted image alone. -/
theorem Dev.defined_congr {m n : Dev} (h : n.image = m.image) (b : Nat) : n.defined b = m.defined b := by
  unfold Dev.defined Dev.bdef?
  rw [h]

section
variable {m : Dev} {b off : Nat} (hd : m.defined b = false) (hb : basinAt off = some b)
include hd hb

/-- The test by which reads find an undefined basin. -/
theorem Dev.undefinedAt : ((basinAt off).any fun b => !m.defined b) = true := by
  rw [hb]
  simp [hd]

/-- A register of an undefined basin shows 0. -/
theorem Dev.live_undefined : m.live off = 0 := by
  have hblock := le_of_basinAt hb
  unfold Dev.live
  rw [if_neg (by omega), if_neg (by omega), if_pos (Dev.undefinedAt hd hb)]

/-- A read of a register of an undefined basin takes nothing away. -/
theorem Dev.readEffect_undefined : m.readEffect off = m := by
  have hblock := le_of_basinAt hb
  unfold Dev.readEffect
  rw [if_neg (show ¬ off = 0x0020010 by omega), if_neg (show ¬ (off = 0x00B0010 ∨ off = 0x00B1010) by omega),
    if_neg (show ¬ (0x00C1000 ≤ off ∧ off < 0x00C5000 ∧ off % 0x200 = 0x20) by omega), if_pos (Dev.undefinedAt hd hb), ite_self]

end

/-- A field written leaves every other register as it was. -/
theorem Dev.reg_put_other (m : Dev) {f : Fld} {r : Nat} (v : Nat) (h : r ≠ f.off) : (m.put f v).reg r = m.reg r := Dev.reg_setReg_other m _ h

/-- What the look-up of a word leaves as it was: n differs from m in snapshots and in the marks of a torn read alone (R463, R464). -/
structure Dev.ReadMarks (m n : Dev) : Prop where
  image : n.image = m.image
  out : n.out = m.out
  lev : n.lev = m.lev
  reg : ∀ r, r ≠ Reg.GLB_ACC_STAT → r ≠ Reg.GLB_ACC_ADDR → n.reg r = m.reg r

namespace Dev.ReadMarks

variable {m n : Dev}

theorem refl (m : Dev) : m.ReadMarks m := ⟨rfl, rfl, rfl, fun _ _ _ => rfl⟩

theorem torn (m : Dev) (off : Nat) : m.ReadMarks (m.torn off) := by
  refine ⟨rfl, rfl, rfl, fun r hs ha => ?_⟩
  exact (Dev.reg_put_other _ _ ha).trans ((Dev.reg_put_other _ _ hs).trans (Dev.reg_put_other _ _ hs))

theorem setSnapshot (h : m.ReadMarks n) (req low : Nat) (l : List (Nat × Nat)) : m.ReadMarks (n.setSnapshot req low l) :=
  ⟨h.image, h.out, h.lev, h.reg⟩

end Dev.ReadMarks

/-- A word of an undefined basin is looked up as 0, where no word of it is kept from an earlier read. -/
theorem Dev.readWord_undefined {m : Dev} {b req off : Nat} (hd : m.defined b = false) (hb : basinAt off = some b) (hr : m.readable off = true)
    (hs : ∀ low, groupLow off = some low → (m.snapshot req low).lookup off = none) :
    ∃ n : Dev, m.readWord req off = (n, 0) ∧ m.ReadMarks n := by
  have hmark : m.ReadMarks (if req == Req.host then m.torn off else m) := by
    split
    · exact .torn m off
    · exact .refl m
  have hzero : ∀ {n : Dev}, m.ReadMarks n → n.live off = 0 := fun h => Dev.live_undefined ((Dev.defined_congr h.image b).trans hd) hb
  unfold Dev.readWord
  rw [hr]
  cases hg : groupLow off with
  | some low =>
    simp only [hs low hg, Bool.not_true, Bool.false_eq_true, if_false, hzero hmark]
    exact ⟨_, rfl, hmark⟩
  | none =>
    have hfirst : m.ReadMarks (if (m.snapshot req off).isEmpty then m else if req == Req.host then m.torn off else m) := by
      split
      · exact .refl m
      · exact hmark
    simp only [Bool.not_true, Bool.false_eq_true, if_false, hzero hfirst, hzero (.refl m)]
    split
    · exact ⟨_, rfl, .refl m⟩
    · exact ⟨_, rfl, hfirst.setSnapshot _ _ _⟩

/-! ## Writes -/

/-- A write that takes effect in the block of an undefined basin changes nothing. -/
theorem Dev.carryOut_undefined {m : Dev} {b off : Nat} (hd : m.defined b = false) (hb : b < 256) (hlo : 0x0500000 + b * 0x1000 ≤ off)
    (hhi : off < 0x0501000 + b * 0x1000) (req v : Nat) : m.carryOut req off v = m := by
  have hignored : m.bsnWrite b off v = m := by simp [Dev.bsnWrite, hd]
  rw [Dev.carryOut_block hb hlo hhi, hignored, ite_self]

/-- A word written there waits at most for its delivery. -/
theorem Dev.writeWord_undefined {m : Dev} {b off : Nat} (hd : m.defined b = false) (hb : b < 256) (hlo : 0x0500000 + b * 0x1000 ≤ off)
    (hhi : off < 0x0501000 + b * 0x1000) (req v : Nat) : ∃ p d, m.writeWord req off v = { m with posted := p, delivered := d } := by
  unfold Dev.writeWord
  split
  · exact ⟨_, _, rfl⟩
  split
  · exact ⟨_, _, rfl⟩
  split
  · exact ⟨_, _, rfl⟩
  · exact ⟨_, _, Dev.carryOut_undefined hd hb hlo hhi req v⟩

/-- Settles O5: the four registers by the map, a read by its look-up and effect, a write by its effect or its wait, and the commands by the
test of their frames. -/
theorem undefinedBasinsReadZeroAndIgnoreWrites : Obligations.UndefinedBasinsReadZeroAndIgnoreWrites := by
  refine ⟨?map, ?read, ?carried, ?written, ?commands⟩
  case map =>
    intro b
    refine ⟨⟨rfl, ?_, ?_, ?_⟩, ?_, ?_, ?_, ?_⟩
    · unfold Reg.BSN_STATE; omega
    · unfold Reg.BSN_SHARES; omega
    · unfold Reg.BSN_HOUSE; omega
    · exact (congrArg _ (rowOf_block b (o := 0x0) (by decide) rfl)).trans (by decide +kernel)
    · exact (congrArg _ (rowOf_block b (o := 0x4) (by decide) rfl)).trans (by decide +kernel)
    · exact (congrArg _ (rowOf_block b (o := 0x8) (by decide) rfl)).trans (by decide +kernel)
    · exact (congrArg _ (rowOf_block b (o := 0xC) (by decide) rfl)).trans (by decide +kernel)
  case read =>
    intro s b off hs ht hd hlo hhi ha hr hsnap
    have hb := basinAt_block b.isLt hlo hhi
    obtain ⟨n, hn, marks⟩ := Dev.readWord_undefined (m := s.start) hd hb hr hsnap
    have hsame : n.readEffect off.toNat = n := Dev.readEffect_undefined ((Dev.defined_congr marks.image b).trans hd) hb
    have hread : s.start.barRead off.toNat 4 = n.answer 0 := by
      rw [Dev.barRead_four (m := s.start) ht ha, Dev.hostRead_eq (m := s.start) ht hn, hsame]
    refine ⟨n.answer 0, State.act_eq (f := fun m => m.barRead off.toNat 4) hs hread ?_, ?_, marks.reg⟩
    · exact (congrArg LevX.owed marks.lev).trans hs.2
    · exact congrArg (· ++ [Out.data 0]) marks.out
  case carried =>
    intro m b req off v hd hlo hhi
    exact Dev.carryOut_undefined hd b.isLt hlo hhi req v
  case written =>
    intro s b off v hs hd hlo hhi ha
    obtain ⟨p, d, hw⟩ : ∃ p d, s.start.barWrite off.toNat v.toNat 4 true = { s.start with posted := p, delivered := d } := by
      cases ht : s.start.inTest
      case true => exact ⟨_, _, Dev.barWrite_inTest ht⟩
      case false =>
        rw [Dev.barWrite_four ht ha]
        exact Dev.writeWord_undefined (m := s.start) hd b.isLt hlo hhi _ _
    exact ⟨_, State.registerWrite_becomes hs hw hs.2, rfl⟩
  case commands =>
    intro s b on w mask t hs hd
    have hbasin : ∀ off f, s.basinAct b off f = s.becomes s.start := fun _ _ => State.basinAct_undefined hs hd
    have hseq : ∀ off f, s.seqAct b off f = s.becomes s.start := fun _ _ => State.seqAct_undefined hs b.isLt hd
    simp only [List.forall_mem_cons]
    exact ⟨hbasin _ _, hbasin _ _, hbasin _ _, hbasin _ _, hbasin _ _, hbasin _ _, hbasin _ _, hbasin _ _, hbasin _ _, hbasin _ _, hbasin _ _,
      hbasin _ _, hbasin _ _, hseq _ _, hseq _ _, List.forall_mem_nil _⟩

end Sys2Proof.Machine
end

section
/-! Mailbox slots (R448, R472, R473): what an operation's start and end leave alone, and a catchment operation that finds another (R63). -/

namespace Sys2Proof.Machine

/-! ## The status word of a slot (R473) -/

/-- Bits below 64 of a number are those of its remainder by 2^64. -/
theorem bitsOf_mod_two_pow_64 (n : Nat) {hi lo : Nat} (hl : lo ≤ hi) (hh : hi < 64) : bitsOf (n % 2 ^ 64) hi lo = bitsOf n hi lo := by
  unfold bitsOf
  rw [Nat.shiftRight_eq_div_pow, Nat.shiftRight_eq_div_pow]
  have hsplit : 2 ^ 64 = 2 ^ lo * (2 ^ (hi + 1 - lo) * 2 ^ (63 - hi)) := by
    rw [← Nat.pow_add, ← Nat.pow_add]; congr 1; omega
  rw [hsplit, Nat.mod_mul_right_div_self, Nat.mod_mul_right_mod]

section
variable {m : Dev} (hc : m.canonical) (j : Nat)
include hc

/-- A status word reads as it was written. -/
theorem Dev.status_setPair_same (v : Nat) : (m.setPair (Reg.MBX_STAT_LO j) (Reg.MBX_STAT_HI j) v).status j = v % 2 ^ 64 := by
  have hne : Reg.MBX_STAT_LO j ≠ Reg.MBX_STAT_HI j := by unfold Reg.MBX_STAT_LO Reg.MBX_STAT_HI; omega
  unfold Dev.status Dev.pair Dev.setPair
  rw [Dev.reg_setReg_same (Dev.setReg_keeps hc _ _), Dev.reg_setReg_other _ _ hne, Dev.reg_setReg_same hc]
  omega

theorem Dev.status_putStatus_same (hi lo v : Nat) : (m.putStatus j hi lo v).status j = setBits (m.status j) hi lo v % 2 ^ 64 :=
  Dev.status_setPair_same hc j _

/-- A field of the status word reads as it was written. -/
theorem Dev.bitsOf_putStatus_same {hi lo : Nat} (v : Nat) (hl : lo ≤ hi) (hh : hi < 64) :
    bitsOf ((m.putStatus j hi lo v).status j) hi lo = v % 2 ^ (hi + 1 - lo) := by
  rw [Dev.status_putStatus_same hc, bitsOf_mod_two_pow_64 _ hl hh, bitsOf_setBits_same _ _ _ _ hl]

/-- The other fields of the status word keep their values. -/
theorem Dev.bitsOf_putStatus_other {hi lo hi' lo' : Nat} (v : Nat) (hl : lo ≤ hi) (hl' : lo' ≤ hi') (hh : hi' < 64)
    (hd : hi < lo' ∨ hi' < lo) : bitsOf ((m.putStatus j hi lo v).status j) hi' lo' = bitsOf (m.status j) hi' lo' := by
  rw [Dev.status_putStatus_same hc, bitsOf_mod_two_pow_64 _ hl' hh, bitsOf_setBits_other _ _ _ _ _ _ hl hd]

end

/-! ## What the operations on one slot leave alone -/

/-- A bit of MBX_SUM written leaves every other register as it was. -/
theorem Dev.reg_sumBit_other (m : Dev) (j at_ v : Nat) {r : Nat} (h : r ≠ Reg.MBX_SUM) : (m.sumBit j at_ v).reg r = m.reg r :=
  Dev.reg_setReg_other m _ h

/-- A message sent or held back changes registers of the MSI-X table's pending bits alone. -/
theorem Dev.reg_msix_below (m : Dev) (v : Nat) {r : Nat} (h : r < 0x0900000) : (m.msix v).reg r = m.reg r := by
  unfold Dev.msix
  split
  · rfl
  · exact Dev.reg_setReg_other _ _ (by omega)

/-- A message sent or held back changes registers and outputs alone. -/
theorem Dev.msix_pres {β : Type} (g : Dev → β) (m : Dev) (v : Nat) (hreg : ∀ m o v, g (Dev.setReg m o v) = g m := by intros; rfl)
    (hout : ∀ (m : Dev) l, g { m with out := l } = g m := by intros; rfl) : g (m.msix v) = g m := by
  unfold Dev.msix
  split
  · exact hout _ _
  · exact hreg _ _ _

/-- Bytes written change HBM alone. -/
theorem Dev.setMem_pres {β : Type} (g : Dev → β) (m : Dev) (a n v : Nat)
    (hbyte : ∀ m a v, g (Dev.setByte m a v) = g m := by intros; rfl) : g (m.setMem a n v) = g m := by
  have hall : ∀ (l : List Byte) (m : Dev) (a : Nat), g (m.setBytes a l) = g m := by
    intro l
    induction l with
    | nil => intros; rfl
    | cons b t ih => exact fun m a => (ih _ _).trans (hbyte m a b)
  exact hall _ m a

/-- n differs from m at most in slot j: its status word, its record, its bits of MBX_SUM, its first result entry, and the message that its end
sends. -/
structure Dev.OnlySlot (j : Nat) (m n : Dev) : Prop where
  canonical : n.canonical
  image : n.image = m.image
  staged : n.staged = m.staged
  basins : n.basins = m.basins
  pins : n.pins = m.pins
  lev : n.lev = m.lev
  slot : ∀ i, i ≠ j → n.slot i = m.slot i
  reg : ∀ r, r ≠ Reg.MBX_STAT_LO j → r ≠ Reg.MBX_STAT_HI j → r ≠ Reg.MBX_SUM → r < 0x0900000 → n.reg r = m.reg r
  sum : ∀ i, i < 8 → i ≠ j → ∀ d ∈ [0, 8, 16], bitsOf (n.reg Reg.MBX_SUM) (i + d) (i + d) = bitsOf (m.reg Reg.MBX_SUM) (i + d) (i + d)
  byte : ∀ a, a < resultBase j ∨ resultBase j + 8 ≤ a → n.byte a = m.byte a

namespace Dev.OnlySlot

variable {j : Nat} {m n : Dev}

theorem refl (hc : m.canonical) : Dev.OnlySlot j m m :=
  ⟨hc, rfl, rfl, rfl, rfl, rfl, fun _ _ => rfl, fun _ _ _ _ _ => rfl, fun _ _ _ _ _ => rfl, fun _ _ => rfl⟩

/-- The status word of another slot keeps its value. -/
theorem status (h : Dev.OnlySlot j m n) {i : Nat} (hi : i < 8) (hne : i ≠ j) : n.status i = m.status i := by
  have hlo : n.reg (Reg.MBX_STAT_LO i) = m.reg (Reg.MBX_STAT_LO i) := by
    refine h.reg _ ?_ ?_ ?_ ?_ <;> simp only [Reg.MBX_STAT_LO, Reg.MBX_STAT_HI, Reg.MBX_SUM] <;> omega
  have hhi : n.reg (Reg.MBX_STAT_HI i) = m.reg (Reg.MBX_STAT_HI i) := by
    refine h.reg _ ?_ ?_ ?_ ?_ <;> simp only [Reg.MBX_STAT_LO, Reg.MBX_STAT_HI, Reg.MBX_SUM] <;> omega
  unfold Dev.status Dev.pair
  rw [hlo, hhi]

theorem slotState (h : Dev.OnlySlot j m n) {i : Nat} (hi : i < 8) (hne : i ≠ j) : n.slotState i = m.slotState i := by
  unfold Dev.slotState
  rw [h.status hi hne]

theorem setPair (h : Dev.OnlySlot j m n) (v : Nat) : Dev.OnlySlot j m (n.setPair (Reg.MBX_STAT_LO j) (Reg.MBX_STAT_HI j) v) where
  canonical := Dev.setPair_keeps _ _ _ h.canonical
  image := h.image
  staged := h.staged
  basins := h.basins
  pins := h.pins
  lev := h.lev
  slot := h.slot
  reg r hlo hhi hsum hr := by
    unfold Dev.setPair
    rw [Dev.reg_setReg_other _ _ hhi, Dev.reg_setReg_other _ _ hlo, h.reg r hlo hhi hsum hr]
  sum i hi hne d hd := by
    have hlo : Reg.MBX_SUM ≠ Reg.MBX_STAT_LO j := by unfold Reg.MBX_SUM Reg.MBX_STAT_LO; omega
    have hhi : Reg.MBX_SUM ≠ Reg.MBX_STAT_HI j := by unfold Reg.MBX_SUM Reg.MBX_STAT_HI; omega
    unfold Dev.setPair
    rw [Dev.reg_setReg_other _ _ hhi, Dev.reg_setReg_other _ _ hlo, h.sum i hi hne d hd]
  byte := h.byte

theorem putStatus (h : Dev.OnlySlot j m n) (hi lo v : Nat) : Dev.OnlySlot j m (n.putStatus j hi lo v) := h.setPair _

theorem setSlot (h : Dev.OnlySlot j m n) (x : MbxX) : Dev.OnlySlot j m (n.setSlot j x) :=
  ⟨h.canonical, h.image, h.staged, h.basins, h.pins, h.lev, fun i hi => (Tbl.find_set_other _ _ hi n.mbx).trans (h.slot i hi), h.reg, h.sum, h.byte⟩

theorem sumBit (h : Dev.OnlySlot j m n) (hj : j < 8) {d : Nat} (hd : d ∈ [0, 8, 16]) (v : Nat) : Dev.OnlySlot j m (n.sumBit j d v) where
  canonical := Dev.sumBit_keeps _ _ _ h.canonical
  image := h.image
  staged := h.staged
  basins := h.basins
  pins := h.pins
  lev := h.lev
  slot := h.slot
  reg r hlo hhi hsum hr := (n.reg_sumBit_other j d v hsum).trans (h.reg r hlo hhi hsum hr)
  sum i hi hne e he := by
    have hde : (d = 0 ∨ d = 8 ∨ d = 16) ∧ (e = 0 ∨ e = 8 ∨ e = 16) := by simpa using And.intro hd he
    have hother : bitsOf (setBits (n.reg Reg.MBX_SUM) (j + d) (j + d) v) (i + e) (i + e) = bitsOf (n.reg Reg.MBX_SUM) (i + e) (i + e) :=
      bitsOf_setBits_other _ _ _ _ _ _ (Nat.le_refl _) (by omega)
    have hword : (n.sumBit j d v).reg Reg.MBX_SUM = setBits (n.reg Reg.MBX_SUM) (j + d) (j + d) v := by
      unfold Dev.sumBit
      rw [Dev.reg_setReg_same h.canonical]
      exact Nat.mod_eq_of_lt (setBits_lt _ _ _ _ (Nat.le_refl _) (n.reg_lt _) (by omega))
    rw [hword, hother, h.sum i hi hne e he]
  byte := h.byte

theorem msix (h : Dev.OnlySlot j m n) (v : Nat) : Dev.OnlySlot j m (n.msix v) where
  canonical := Dev.msix_keeps v h.canonical
  image := (Dev.msix_pres Dev.image n v).trans h.image
  staged := (Dev.msix_pres Dev.staged n v).trans h.staged
  basins := (Dev.msix_pres Dev.basins n v).trans h.basins
  pins := (Dev.msix_pres Dev.pins n v).trans h.pins
  lev := (Dev.msix_pres Dev.lev n v).trans h.lev
  slot i hi := (Dev.msix_pres (Dev.slot · i) n v).trans (h.slot i hi)
  reg r hlo hhi hsum hr := (n.reg_msix_below v hr).trans (h.reg r hlo hhi hsum hr)
  sum i hi hne d hd := by rw [n.reg_msix_below v (by unfold Reg.MBX_SUM; omega), h.sum i hi hne d hd]
  byte a ha := (Dev.msix_pres (Dev.byte · a) n v).trans (h.byte a ha)

theorem setResult (h : Dev.OnlySlot j m n) (v : Nat) : Dev.OnlySlot j m (n.setMem (resultBase j) 8 v) where
  canonical := Dev.setMem_keeps _ _ _ h.canonical
  image := (Dev.setMem_pres Dev.image n _ _ _).trans h.image
  staged := (Dev.setMem_pres Dev.staged n _ _ _).trans h.staged
  basins := (Dev.setMem_pres Dev.basins n _ _ _).trans h.basins
  pins := (Dev.setMem_pres Dev.pins n _ _ _).trans h.pins
  lev := (Dev.setMem_pres Dev.lev n _ _ _).trans h.lev
  slot i hi := (Dev.setMem_pres (Dev.slot · i) n _ _ _).trans (h.slot i hi)
  reg r hlo hhi hsum hr := (Dev.reg_setMem n _ _ _ r).trans (h.reg r hlo hhi hsum hr)
  sum i hi hne d hd := by rw [Dev.reg_setMem, h.sum i hi hne d hd]
  byte a ha := (n.byte_setMem_other v ha).trans (h.byte a ha)

end Dev.OnlySlot

/-! ## Issue, start and end -/

/-- Reports of bits in MBX_SUM leave the status words as they were. -/
theorem Dev.status_sumBit (m : Dev) (j d v : Nat) : (m.sumBit j d v).status j = m.status j := by
  unfold Dev.status Dev.pair
  rw [m.reg_sumBit_other j d v (by unfold Reg.MBX_STAT_LO Reg.MBX_SUM; omega),
    m.reg_sumBit_other j d v (by unfold Reg.MBX_STAT_HI Reg.MBX_SUM; omega)]

theorem Dev.status_msix (m : Dev) {j : Nat} (hj : j < 8) (v : Nat) : (m.msix v).status j = m.status j := by
  unfold Dev.status Dev.pair
  rw [m.reg_msix_below v (by unfold Reg.MBX_STAT_LO; omega), m.reg_msix_below v (by unfold Reg.MBX_STAT_HI; omega)]

/-- An issue is taken in a slot where no operation is active, while the device is not sealed. -/
theorem Dev.opIssue_taken {m : Dev} {j : Nat} (hc : m.canonical) (hj : j < 8) (op : Nat) (irq : Bool) (hs : m.on F.LEV_STAT_SEALED = false)
    (ha : m.slotActive j = false) : ∃ n, m.opIssue j op irq = (n, true) ∧ m.OnlySlot j n := by
  unfold Dev.opIssue
  rw [hs, ha]
  exact ⟨_, rfl, (((Dev.OnlySlot.refl hc).setPair _).setSlot _).sumBit hj (d := 16) (by decide) 1⟩

/-- An operation that runs and ends with an error is FAILED with its code. -/
theorem Dev.opEnd_failed {m n : Dev} {j err : Nat} (h : m.OnlySlot j n) (hj : j < 8) (hr : n.slotState j = Slot.running) (he : err ≠ 0)
    (hlt : err < 2 ^ 16) :
    m.OnlySlot j (n.opEnd j err) ∧ (n.opEnd j err).slotState j = Slot.failed ∧ bitsOf ((n.opEnd j err).status j) 31 16 = err := by
  have hactive : n.slotActive j = true := by unfold Dev.slotActive; rw [hr]; rfl
  obtain ⟨a, ha⟩ : ∃ a, ((n.putStatus j 31 16 err).putStatus j 41 32 1000).putStatus j 44 42 Slot.failed = a := ⟨_, rfl⟩
  have hopen : m.OnlySlot j a := ha ▸ ((h.putStatus 31 16 err).putStatus 41 32 1000).putStatus 44 42 Slot.failed
  have hend : n.opEnd j err = if (((a.sumBit j 0 1).sumBit j 16 0).slot j).irq then ((a.sumBit j 0 1).sumBit j 16 0).msix (1032 + j)
      else (a.sumBit j 0 1).sumBit j 16 0 := by
    unfold Dev.opEnd
    rw [hactive, ← ha, beq_eq_false_iff_ne.mpr he]
    rfl
  have honly : m.OnlySlot j ((a.sumBit j 0 1).sumBit j 16 0) := (hopen.sumBit hj (d := 0) (by decide) 1).sumBit hj (d := 16) (by decide) 0
  have hstatus : (n.opEnd j err).status j = a.status j := by
    rw [hend]
    split
    · rw [Dev.status_msix _ hj, Dev.status_sumBit, Dev.status_sumBit]
    · rw [Dev.status_sumBit, Dev.status_sumBit]
  have hcode := Dev.putStatus_keeps j 31 16 err h.canonical
  have hpermille := Dev.putStatus_keeps j 41 32 1000 hcode
  refine ⟨?_, ?_, ?_⟩
  · rw [hend]
    split
    · exact honly.msix _
    · exact honly
  · unfold Dev.slotState
    rw [hstatus, ← ha, Dev.bitsOf_putStatus_same hpermille _ _ (by decide) (by decide)]
    rfl
  · rw [hstatus, ← ha, Dev.bitsOf_putStatus_other hpermille _ _ (by decide) (by decide) (by decide) (by decide),
      Dev.bitsOf_putStatus_other hcode _ _ (by decide) (by decide) (by decide) (by decide),
      Dev.bitsOf_putStatus_same h.canonical _ _ (by decide) (by decide)]
    exact Nat.mod_eq_of_lt hlt

/-- One reason listed: it takes the first entry of the result buffer. -/
theorem Dev.writeReasons_singleton (m : Dev) (j : Nat) (r : Reason) :
    m.writeReasons j [r] = (m.setMem (resultBase j) 8 r.word).putStatus j 63 48 1 := by
  simp [Dev.writeReasons, Dev.each, Dev.partialCount]

/-- The conditions under which an operation of id op may start in slot j: nothing is active there, or this operation waits there. -/
def Dev.mayStart (m : Dev) (j op : Nat) : Prop := m.slotActive j = false ∨ (m.slotState j = Slot.queued ∧ (m.slot j).op = op)

section
variable {m : Dev} {j k op : Nat} (hc : m.canonical) (hs : m.on F.LEV_STAT_SEALED = false) (hready : m.isReady = true) (hj : j < 8) (hk : k < 8)
  (hkj : k ≠ j) (hrun : m.slotState k = Slot.running ∨ m.slotState k = Slot.aborting) (hgroup : (m.slot k).op / 256 = op / 256)
  (hmay : m.mayStart j op)
include hc hs hready hj hk hkj hrun hgroup hmay

/-- An operation that finds another of its group running is FAILED with the group's BUSY code. -/
theorem Dev.opStart_busy (irq : Bool) {busy : Nat} (hb : busy ≠ 0) (hlt : busy < 2 ^ 16) :
    ∃ n, m.opStart j op irq busy = (n, false) ∧ m.OnlySlot j n ∧ n.slotState j = Slot.failed ∧ bitsOf (n.status j) 31 16 = busy := by
  obtain ⟨a, htaken, ha⟩ : ∃ a, (if (m.slotState j == Slot.queued && (m.slot j).op == op) = true then (m, true) else m.opIssue j op irq) = (a, true) ∧
      m.OnlySlot j a := by
    split
    · exact ⟨m, rfl, .refl hc⟩
    · next hq =>
      refine Dev.opIssue_taken hc hj op irq hs (hmay.resolve_right fun h => hq ?_)
      rw [h.1, h.2]
      simp
  have hx : m.OnlySlot j (a.putStatus j 44 42 Slot.running) := ha.putStatus _ _ _
  have hstate : (a.putStatus j 44 42 Slot.running).slotState j = Slot.running := by
    unfold Dev.slotState
    rw [Dev.bitsOf_putStatus_same ha.canonical _ _ (by decide) (by decide)]
    rfl
  have hstage : (a.putStatus j 44 42 Slot.running).isReady = true := by
    have hboot : (a.putStatus j 44 42 Slot.running).reg F.MRC_BOOT_STAGE.off = m.reg F.MRC_BOOT_STAGE.off :=
      hx.reg Reg.MRC_BOOT (by unfold Reg.MRC_BOOT Reg.MBX_STAT_LO; omega) (by unfold Reg.MRC_BOOT Reg.MBX_STAT_HI; omega) (by decide) (by decide)
    unfold Dev.isReady Dev.get at hready ⊢
    rwa [hboot]
  have hbusy : ((a.putStatus j 44 42 Slot.running).groupSlot (op / 256) j).isSome = true := by
    refine List.find?_isSome.mpr ⟨k, List.mem_range.mpr hk, ?_⟩
    rw [hx.slotState hk hkj, hx.slot k hkj, hgroup]
    rcases hrun with h | h <;> simp [hkj, h]
  obtain ⟨honly, hfailed, hcode⟩ := Dev.opEnd_failed hx hj hstate hb hlt
  refine ⟨_, ?_, honly, hfailed, hcode⟩
  unfold Dev.opStart
  rw [htaken]
  simp only [Bool.not_true, Bool.false_eq_true, if_false, hstage, hbusy, if_true]

/-- A catchment operation that finds another running is FAILED with BUSY and lists that reason (R59, R63). -/
theorem Dev.catchStart_busy (irq : Bool) :
    ∃ n, m.catchStart j op irq = (n, false) ∧ m.OnlySlot j n ∧ n.slotState j = Slot.failed ∧ bitsOf (n.status j) 31 16 = 0x70 := by
  obtain ⟨a, hstart, ha, hfailed, hcode⟩ := Dev.opStart_busy hc hs hready hj hk hkj hrun hgroup hmay irq (busy := 0x70) (by decide) (by decide)
  have hidle : m.slotState j ≠ Slot.running ∧ m.slotState j ≠ Slot.aborting := by
    rcases hmay with h | ⟨h, _⟩
    · simp only [Dev.slotActive, Bool.or_eq_false_iff, beq_eq_false_iff_ne] at h
      exact ⟨h.1.2, h.2⟩
    · rw [h]
      decide
  have hlist : m.catchStart j op irq = (a.writeReasons j [contextReason 0x70], false) := by
    unfold Dev.catchStart
    rw [hstart]
    simp [hs, hidle, hcode]
  obtain ⟨r, hr⟩ : ∃ r, a.setMem (resultBase j) 8 (contextReason 0x70).word = r := ⟨_, rfl⟩
  have hresult : m.OnlySlot j r := hr ▸ ha.setResult _
  have hreasons : a.writeReasons j [contextReason 0x70] = r.putStatus j 63 48 1 := hr ▸ Dev.writeReasons_singleton a j _
  have hstatus : r.status j = a.status j := by
    rw [← hr]
    unfold Dev.status Dev.pair
    rw [Dev.reg_setMem, Dev.reg_setMem]
  have hkept : ∀ {hi lo : Nat}, lo ≤ hi → hi < 48 → bitsOf ((r.putStatus j 63 48 1).status j) hi lo = bitsOf (a.status j) hi lo := fun hl hh => by
    rw [Dev.bitsOf_putStatus_other hresult.canonical _ _ (by decide) hl (by omega) (by omega), hstatus]
  refine ⟨_, hlist, ?_, ?_, ?_⟩
  · rw [hreasons]
    exact hresult.putStatus _ _ _
  · rw [hreasons, Dev.slotState, hkept (by decide) (by decide)]
    exact hfailed
  · rw [hreasons, hkept (by decide) (by decide)]
    exact hcode

end

/-- Settles O7: each of the four operations does nothing beyond its start, which fails. -/
theorem secondCatchmentOperationIsRefusedBusy : Obligations.SecondCatchmentOperationIsRefusedBusy := by
  intro s j k irq hs hc hready hkj hrun hgroup c hin hmay
  have hop : (s.dev.slot k).op / 256 = c.2 / 256 := by
    have hids : ∀ a ∈ [Op.catchLoad, Op.catchCheck, Op.catchWithdraw, Op.recourse], a / 256 = 1 := by decide
    exact hgroup.trans (hids c.2 (List.mem_map_of_mem (f := Prod.snd) hin)).symm
  have hopen : s.start.on F.LEV_STAT_SEALED = false := by
    have hw := hs.2.1
    simp only [Dev.writable, Bool.and_eq_true, Bool.not_eq_true'] at hw
    exact hw.1.1
  obtain ⟨n, hstart, honly, hfailed, hcode⟩ := Dev.catchStart_busy (m := s.start) hc hopen hready j.isLt k.isLt (Fin.val_ne_of_ne hkj) hrun hop hmay irq
  have hexec : exec c.1 s = s.becomes n := by
    have hbecomes : ∀ f : Dev → Dev, f s.start = n → s.hostAct (Reg.MBX_CMD j) f = s.becomes n := fun f hf =>
      State.hostAct_eq hs hf ((congrArg LevX.owed honly.lev).trans hs.1.2)
    revert c
    simp only [List.forall_mem_cons]
    refine ⟨fun _ _ h => hbecomes _ ?_, fun _ _ h => hbecomes _ ?_, fun _ _ h => hbecomes _ ?_, fun _ _ h => hbecomes _ ?_, List.forall_mem_nil _⟩
    · simp [Dev.catchLoad, h]
    · simp [Dev.catchCheck, h]
    · simp [Dev.catchWithdraw, h]
    · simp [Dev.basinRecourse, h]
  exact ⟨n, hexec, hfailed, hcode, honly.status k.isLt (Fin.val_ne_of_ne hkj), honly.slot k (Fin.val_ne_of_ne hkj), honly.image, honly.staged,
    honly.basins, honly.pins, honly.reg, honly.sum k k.isLt (Fin.val_ne_of_ne hkj), honly.byte⟩

end Sys2Proof.Machine
end

section
/-! How a command answers where its effect is known and reports that it owes are then made. -/

namespace Sys2Proof.Machine

section
variable {s : State} {f : Dev → Dev} {m : Dev} {b off : Nat}

/-- A command that acts, where its effect is known to take the block to m. -/
theorem State.act_pays_eq (h : s.acts) (e : f s.start = m) : s.act f = s.becomes m.payOwed := e ▸ State.act_pays h

/-- A host write that acts, likewise. -/
theorem State.hostAct_pays_eq (h : s.takes off) (e : f s.start = m) : s.hostAct off f = s.becomes m.payOwed := e ▸ State.hostAct_pays h

/-- A host write to a register of a defined basin, likewise. -/
theorem State.basinAct_pays_eq (h : s.takesIn b off) (e : f s.start = m) : s.basinAct b off f = s.becomes m.payOwed := e ▸ State.basinAct_pays h

/-- A command whose effect leaves the block as it was. -/
theorem State.act_still (h : s.acts) (e : f s.start = s.start) : s.act f = s.becomes s.start := State.act_eq h e h.2

/-- A host write whose effect leaves the block as it was. -/
theorem State.hostAct_still (h : s.takes off) (e : f s.start = s.start) : s.hostAct off f = s.becomes s.start := State.hostAct_eq h e h.1.2

/-- A host write to a register of a defined basin that leaves the block as it was. -/
theorem State.basinAct_still (h : s.takesIn b off) (e : f s.start = s.start) : s.basinAct b off f = s.becomes s.start :=
  State.basinAct_eq h e h.1.1.2

end

end Sys2Proof.Machine
end

section
/-! Droop, supply monitors and the step limit (R61, R412 to R415, R419): one equation for each case. -/

namespace Sys2Proof.Machine

section
variable {m : Dev}

/-! ## Droop (R412 to R414) -/

theorem Dev.droopTrip_first (h : m.spt.episode = false) (k : Nat) : m.droopTrip k =
    ((((m.modSpt fun x => { x with tripped := true, clean := 0, episode := true }).showFloor.bump F.SPT_STAT_EPISODES).put F.SPT_STAT_SENSOR k).report
      Src.droop k 0 m.now) := by
  unfold Dev.droopTrip
  rw [h]
  rfl

theorem Dev.droopTrip_again (h : m.spt.episode = true) (k : Nat) :
    m.droopTrip k = (m.modSpt fun x => { x with tripped := true, clean := 0, episode := true }).showFloor := by
  unfold Dev.droopTrip
  rw [h]
  rfl

theorem Dev.cclkReturn_clean (h : m.spt.episode = true) (hc : 2 ≤ m.spt.clean) :
    m.cclkReturn = (m.modSpt fun x => { x with episode := false }).showFloor := by
  unfold Dev.cclkReturn
  rw [h, decide_eq_true hc]
  rfl

theorem Dev.cclkReturn_early (h : m.spt.episode = false ∨ m.spt.clean < 2) : m.cclkReturn = m := by
  unfold Dev.cclkReturn
  refine if_neg fun hboth => ?_
  rw [Bool.and_eq_true, decide_eq_true_eq] at hboth
  rcases h with h | h
  · exact Bool.false_ne_true (h.symm.trans hboth.1)
  · omega

/-! ## Supply monitors (R415, R428) -/

theorem Dev.supplyTrip_awake (h : m.get F.SPT_SLACK_STATE < Slack.slack) (k : Nat) (t : Instant) :
    m.supplyTrip k t = (m.put F.SPT_MON_OK (setBits (m.get F.SPT_MON_OK) k k 0)).report Src.supplyFault k 0 t := by
  unfold Dev.supplyTrip
  simp only [decide_eq_false (Nat.not_le.mpr h), Bool.false_and, Bool.false_eq_true, if_false, if_neg (Nat.not_le.mpr h)]

theorem Dev.supplyTrip_slack_ignored (h : Slack.slack ≤ m.get F.SPT_SLACK_STATE) {k : Nat} (hk : 3 ≤ k) (t : Instant) : m.supplyTrip k t = m := by
  unfold Dev.supplyTrip
  simp only [decide_eq_true h, decide_eq_true hk, Bool.and_self, if_true]

theorem Dev.supplyTrip_slack_wakes (h : Slack.slack ≤ m.get F.SPT_SLACK_STATE) {k : Nat} (hk : k < 3) (t : Instant) : m.supplyTrip k t =
    ((m.put F.SPT_MON_OK (setBits (m.get F.SPT_MON_OK) k k 0)).modSpt fun x => { x with supply := x.supply ++ [(k, t)] }).wakeEvent (k + 4) := by
  unfold Dev.supplyTrip
  simp only [decide_eq_false (Nat.not_le.mpr hk), Bool.and_false, Bool.false_eq_true, if_false, if_pos h]

/-! ## The step limit (R61, R419) -/

/-- What a basin needs of the step limit: its current step, or its share of it in each tick of a pre-spin ramp. -/
def BasinDef.stepNeed (d : BasinDef) : Nat := if d.prespin then ceilDiv d.stepCur (max 1 d.prespinTicks) else d.stepCur

theorem Dev.stepLimitWrite_zero {v : Nat} (h : v % 65536 = 0) : m.stepLimitWrite v = m.put F.SPT_STAT_CFG_IGNORED 1 := if_pos h

theorem Dev.stepLimitWrite_refused {v b : Nat} (h : v % 65536 ≠ 0) (hb : b ∈ m.definedBasins) (hn : v % 65536 < (m.bdef b).stepNeed) :
    m.stepLimitWrite v = (m.put F.SPT_STAT_LIMIT_REFUSED 1).report Src.stepLimit 0 0 m.now := by
  have hlow : (m.definedBasins.any fun b => decide (v % 65536 < (m.bdef b).stepNeed)) = true := List.any_eq_true.mpr ⟨b, hb, decide_eq_true hn⟩
  exact (if_neg h).trans (if_pos hlow)

theorem Dev.stepLimitWrite_taken {v : Nat} (h : v % 65536 ≠ 0) (hn : ∀ b ∈ m.definedBasins, (m.bdef b).stepNeed ≤ v % 65536) :
    m.stepLimitWrite v = m.put F.SPT_STEP_LIMIT_LIMIT (v % 65536) := by
  have hfit : ¬ (m.definedBasins.any fun b => decide (v % 65536 < (m.bdef b).stepNeed)) = true := by
    rw [List.any_eq_true]
    rintro ⟨b, hb, hlow⟩
    exact Nat.not_lt.mpr (hn b hb) (of_decide_eq_true hlow)
  exact (if_neg h).trans (if_neg hfit)

end

/-- Settles O44: each command has the effect of its case. -/
theorem spateActs : Obligations.SpateActs :=
  ⟨fun s k hs h => State.act_pays_eq (f := (·.droopTrip k)) hs (Dev.droopTrip_first (m := s.start) h k),
   fun s k hs h => State.act_eq (f := (·.droopTrip k)) hs (Dev.droopTrip_again (m := s.start) h k) hs.2,
   fun s hs h hc => State.act_eq (f := Dev.cclkReturn) hs (Dev.cclkReturn_clean (m := s.start) h hc) hs.2,
   fun _ k t hs h => State.act_pays_eq (f := (·.supplyTrip k t)) hs (Dev.supplyTrip_awake h k t),
   fun s hs h => State.act_still (f := Dev.cclkReturn) hs (Dev.cclkReturn_early (m := s.start) h),
   fun _ k t hs h hk => State.act_still (f := (·.supplyTrip k t)) hs (Dev.supplyTrip_slack_ignored h hk t),
   fun _ k t hs h hk => State.act_pays_eq (f := (·.supplyTrip k t)) hs (Dev.supplyTrip_slack_wakes h hk t),
   fun _ v hs h hn => State.hostAct_eq (f := (·.stepLimitWrite v.toNat)) hs (Dev.stepLimitWrite_taken h hn) hs.1.2,
   fun _ v _ hs h hb hn => State.hostAct_pays_eq (f := (·.stepLimitWrite v.toNat)) hs (Dev.stepLimitWrite_refused h hb hn),
   fun _ v hs h => State.hostAct_eq (f := (·.stepLimitWrite v.toNat)) hs (Dev.stepLimitWrite_zero h) hs.1.2⟩

end Sys2Proof.Machine
end

section
/-! Queue pairs (R73, R466, R468): one equation for each case of enable, disable, the end of a shutdown, and the head doorbell. -/

namespace Sys2Proof.Machine

section
variable {m : Dev} {q : Nat}

theorem Dev.queueStart_refused (h : m.queueRefused q = true) : m.queueStart q = (m.put (F.QP_CTL_ENABLE q) 0).put (F.QP_STAT_REFUSED q) 1 := if_pos h

theorem Dev.queueStart_taken (h : m.queueRefused q = false) : m.queueStart q =
    (((((((m.modWeir fun w => { w with sqTail := Tbl.set 0 w.sqTail q 0, cqHead := Tbl.set 0 w.cqHead q 0 }).put
      (F.QP_CTL_ENABLE q) 1).put (F.QP_STAT_RUNNING q) 1).put (F.QP_STAT_SQ_HEAD q) 0).put (F.QP_CQ_TAIL_TAIL q) 0).put
      (F.QP_CQ_TAIL_PHASE q) 1).put (F.QP_STAT_CQ_FULL q) 0) := if_neg (ne_true_of_eq_false h)

/-- An enable waits for the end of a shutdown. -/
theorem Dev.queueEnable_shutting (h : m.on (F.QP_STAT_SHUTTING q) = true) :
    m.queueEnable q = (m.put (F.QP_CTL_ENABLE q) 1).put (F.QP_STAT_PENDING q) 1 := if_pos h

theorem Dev.queueEnable_running (h : m.on (F.QP_STAT_SHUTTING q) = false) (hr : m.on (F.QP_STAT_RUNNING q) = true) : m.queueEnable q = m :=
  (if_neg (ne_true_of_eq_false h)).trans (if_pos hr)

theorem Dev.queueEnable_stopped (h : m.on (F.QP_STAT_SHUTTING q) = false) (hr : m.on (F.QP_STAT_RUNNING q) = false) :
    m.queueEnable q = m.queueStart q := (if_neg (ne_true_of_eq_false h)).trans (if_neg (ne_true_of_eq_false hr))

/-- ENABLE and PENDING written leave RUNNING as it was, so that a running queue pair begins its shutdown. -/
theorem Dev.queueDisable_running (hc : m.canonical) (h : m.on (F.QP_STAT_RUNNING q) = true) : m.queueDisable q =
    (((m.put (F.QP_CTL_ENABLE q) 0).put (F.QP_STAT_PENDING q) 0).put (F.QP_STAT_RUNNING q) 0).put (F.QP_STAT_SHUTTING q) 1 := by
  have henable : (m.put (F.QP_CTL_ENABLE q) 0).on (F.QP_STAT_RUNNING q) = true := by
    rwa [Dev.on_put_off m 0 (by simp only [F.QP_STAT_RUNNING, F.QP_CTL_ENABLE, Reg.QP_STAT, Reg.QP_CTL]; omega)]
  have hpending := Dev.on_put_apart (f := F.QP_STAT_PENDING q) (g := F.QP_STAT_RUNNING q) (Dev.put_keeps (F.QP_CTL_ENABLE q) 0 hc) 0 rfl rfl rfl
  exact if_pos (hpending.trans henable)

/-- A shutdown waits for the entries of its queue that are on their way. -/
theorem Dev.queueShutDone_waits (h : m.on (F.QP_STAT_SHUTTING q) = false ∨ m.weir.fetching.any (fun e => e.1 == q) = true) : m.queueShutDone q = m := by
  refine if_pos ?_
  rcases h with h | h
  · rw [h]
    rfl
  · rw [h, Bool.or_true]

section
variable (h : m.on (F.QP_STAT_SHUTTING q) = true) (hf : m.weir.fetching.any (fun e => e.1 == q) = false)
include h hf

theorem Dev.queueShutDone_ends : m.queueShutDone q =
    if (m.put (F.QP_STAT_SHUTTING q) 0).on (F.QP_STAT_PENDING q) then ((m.put (F.QP_STAT_SHUTTING q) 0).put (F.QP_STAT_PENDING q) 0).queueStart q
    else m.put (F.QP_STAT_SHUTTING q) 0 := by
  refine if_neg ?_
  rw [h, hf]
  exact Bool.false_ne_true

end

end

/-- Settles O51: each command has the effect of its case. -/
theorem queuePairsEnableAndDisable : Obligations.QueuePairsEnableAndDisable := by
  refine ⟨?taken, ?refused, ?disabled, ?held, ?running, ?shut, ?waits, ?doorbell⟩
  case taken =>
    intro s q hs hshut hrun hok
    exact State.hostAct_eq (f := (·.queueEnable q)) hs ((Dev.queueEnable_stopped hshut hrun).trans (Dev.queueStart_taken hok)) hs.1.2
  case refused =>
    intro s q hs hshut hrun hno
    exact State.hostAct_eq (f := (·.queueEnable q)) hs ((Dev.queueEnable_stopped hshut hrun).trans (Dev.queueStart_refused hno)) hs.1.2
  case disabled =>
    intro s q hs hc hrun
    exact State.hostAct_eq (f := (·.queueDisable q)) hs (Dev.queueDisable_running (m := s.start) hc hrun) hs.1.2
  case held =>
    intro s q hs hshut
    exact State.hostAct_eq (f := (·.queueEnable q)) hs (Dev.queueEnable_shutting hshut) hs.1.2
  case running =>
    intro s q hs hshut hrun
    exact State.hostAct_still (f := (·.queueEnable q)) hs (Dev.queueEnable_running hshut hrun)
  case shut =>
    rintro s _ q hs rfl hshut hnone
    have hends := Dev.queueShutDone_ends hshut hnone
    exact ⟨fun hp => State.act_pays_eq (f := (·.queueShutDone q)) hs (hends.trans (if_neg (ne_true_of_eq_false hp))),
      fun hp => State.act_pays_eq (f := (·.queueShutDone q)) hs (hends.trans (if_pos hp))⟩
  case waits =>
    intro s q hs h
    exact State.act_still (f := (·.queueShutDone q)) hs (Dev.queueShutDone_waits h)
  case doorbell =>
    intro s q head hs
    exact State.hostAct_eq (f := (·.cqDoorbell q head.toNat)) hs rfl hs.1.2

end Sys2Proof.Machine
end

section
/-! Clock outputs (R73, R341, R342): one equation for each case of enable, disable and the end of a shutdown. -/

namespace Sys2Proof.Machine

section
variable {m x y : Dev} {n ctl : Nat}

/-! ## Starting -/

/-- True where the divider of a CLKOUT, or its frequency in its format, is out of range (R342). -/
def Dev.ckoBad (m : Dev) (n : Nat) : Bool := decide (m.ckoDiv n < 2) || decide (m.ckoDiv n < ckoLeast (m.get (F.HDW_CKO_CTL_FMT n)))

theorem Dev.ckoStart_refused (h : m.ckoBad n = true) : m.ckoStart n = (m.put (F.HDW_CKO_CTL_ENABLE n) 0).put (F.HDW_CKO_STAT_REFUSED n) 1 := if_pos h

theorem Dev.ckoStart_taken (h : m.ckoBad n = false) : m.ckoStart n = (m.put (F.HDW_CKO_CTL_ENABLE n) 1).ckoRun n := if_neg (ne_true_of_eq_false h)

/-- A running output as it starts: at the phase written, before its first grid point is known. -/
def Dev.ckoPhased (m : Dev) (n : Nat) : Dev :=
  (m.put (F.HDW_CKO_STAT_RUNNING n) 1).modClk fun c => { c with phases := Tbl.set 0 c.phases n (m.get (F.HDW_CKO_PH_PH n)) }

theorem Dev.ckoRun_runs (h : (m.on F.HDW_STAT_LOCKED && m.on (F.HDW_CKO_CTL_ENABLE n)) = true) : m.ckoRun n =
    (m.ckoPhased n).modClk fun c => { c with ckoFrom := Tbl.set 0 c.ckoFrom n ((m.ckoPhased n).ckoNext n (m.ckoPhased n).now) } := if_pos h

theorem Dev.ckoRun_waits (h : (m.on F.HDW_STAT_LOCKED && m.on (F.HDW_CKO_CTL_ENABLE n)) = false) : m.ckoRun n = m := if_neg (ne_true_of_eq_false h)

/-! ## Enable -/

section
variable (hx : m.ckoFields n ctl = x)
include hx

theorem Dev.ckoEnable_shutting (h : x.on (F.HDW_CKO_STAT_SHUTTING n) = true) :
    m.ckoEnable n ctl = (x.put (F.HDW_CKO_CTL_ENABLE n) 1).put (F.HDW_CKO_STAT_PENDING n) 1 := by
  subst hx
  exact if_pos h

theorem Dev.ckoEnable_enabled (h : x.on (F.HDW_CKO_STAT_SHUTTING n) = false) (he : x.on (F.HDW_CKO_CTL_ENABLE n) = true) : m.ckoEnable n ctl = x := by
  subst hx
  exact (if_neg (ne_true_of_eq_false h)).trans (if_pos he)

theorem Dev.ckoEnable_starts (h : x.on (F.HDW_CKO_STAT_SHUTTING n) = false) (he : x.on (F.HDW_CKO_CTL_ENABLE n) = false) :
    m.ckoEnable n ctl = x.ckoStart n := by
  subst hx
  exact (if_neg (ne_true_of_eq_false h)).trans (if_neg (ne_true_of_eq_false he))

/-! ## Disable -/

/-- ENABLE and a held enable are cleared; a running output goes on up to its next grid point. -/
theorem Dev.ckoDisable_eq (hy : (x.put (F.HDW_CKO_CTL_ENABLE n) 0).put (F.HDW_CKO_STAT_PENDING n) 0 = y) : m.ckoDisable n ctl =
    if y.on (F.HDW_CKO_STAT_RUNNING n) then
      (y.put (F.HDW_CKO_STAT_SHUTTING n) 1).modClk fun c => { c with ckoUntil := Tbl.set 0 c.ckoUntil n (y.ckoNext n (y.now + 1)) }
    else y := by
  subst hx hy
  rfl

end

/-! ## The end of a shutdown -/

theorem Dev.ckoShutDone_eq (h : m.on (F.HDW_CKO_STAT_SHUTTING n) = true)
    (hx : ((m.put (F.HDW_CKO_STAT_SHUTTING n) 0).put (F.HDW_CKO_STAT_RUNNING n) 0).put (F.HDW_CKO_STAT_WALK n) 0 = x) :
    m.ckoShutDone n = if x.on (F.HDW_CKO_STAT_PENDING n) then (x.put (F.HDW_CKO_STAT_PENDING n) 0).ckoStart n else x := by
  subst hx
  unfold Dev.ckoShutDone
  rw [h]
  rfl

end

/-- Settles O38: each command has the effect of its case. -/
theorem clockOutputsRunAndStop : Obligations.ClockOutputsRunAndStop := by
  refine ⟨?written, ?ended⟩
  case written =>
    rintro s _ x n ctl hs rfl hx
    have henable : ∀ {z}, s.start.ckoEnable n ctl.toNat = z → exec (.clkoutEnable n ctl) s = s.becomes z.payOwed :=
      State.hostAct_pays_eq (f := (·.ckoEnable n ctl.toNat)) hs
    have hdisable : ∀ {z}, s.start.ckoDisable n ctl.toNat = z → exec (.clkoutDisable n ctl) s = s.becomes z.payOwed :=
      State.hostAct_pays_eq (f := (·.ckoDisable n ctl.toNat)) hs
    refine ⟨fun h => henable (Dev.ckoEnable_shutting hx h), fun h he => henable (Dev.ckoEnable_enabled hx h he),
      fun h he hbad => henable ((Dev.ckoEnable_starts hx h he).trans (Dev.ckoStart_refused hbad)), ?_, ?_⟩
    · rintro _ h he hok rfl
      have hstart := (Dev.ckoEnable_starts hx h he).trans (Dev.ckoStart_taken hok)
      exact ⟨fun hrun => henable (hstart.trans (Dev.ckoRun_runs hrun)), fun hwait => henable (hstart.trans (Dev.ckoRun_waits hwait))⟩
    · intro y hy
      have hcase := Dev.ckoDisable_eq hx hy
      exact ⟨fun hrun => hdisable (hcase.trans (if_pos hrun)), fun hstill => hdisable (hcase.trans (if_neg (ne_true_of_eq_false hstill)))⟩
  case ended =>
    rintro s _ x n hs rfl h hx
    have hend := Dev.ckoShutDone_eq h hx
    exact ⟨fun hp => State.act_pays_eq (f := (·.ckoShutDone n)) hs (hend.trans (if_pos hp)),
      fun hp => State.act_pays_eq (f := (·.ckoShutDone n)) hs (hend.trans (if_neg (ne_true_of_eq_false hp)))⟩

end Sys2Proof.Machine
end

section
/-! The catchment operations once they have begun (R58, R62 to R68): one equation for each outcome of their checks. -/

namespace Sys2Proof.Machine

section
variable {m n : Dev} {slot : Nat} {irq : Bool}

section
variable {i : Image} {l : List Reason}

/-- A load that passes is staged for its commit. -/
theorem Dev.catchLoad_passes (h : m.catchStart slot Op.catchLoad irq = (n, true)) (hi : m.image = none) (ha : n.admission = (l, some i)) :
    m.catchLoad slot irq = { n with staged := some i }.catchState 1 := by
  unfold Dev.catchLoad
  simp [h, hi, ha]

theorem Dev.catchLoad_fails (h : m.catchStart slot Op.catchLoad irq = (n, true)) (hi : m.image = none) (ha : n.admission = (l, none)) :
    m.catchLoad slot irq = n.refuse slot l := by
  unfold Dev.catchLoad
  simp [h, hi, ha]

theorem Dev.catchCheck_passes (h : m.catchStart slot Op.catchCheck irq = (n, true)) (ha : n.admission = (l, some i)) :
    m.catchCheck slot irq = n.opEnd slot 0 := by
  unfold Dev.catchCheck
  simp [h, ha]

theorem Dev.catchCheck_fails (h : m.catchStart slot Op.catchCheck irq = (n, true)) (ha : n.admission = (l, none)) :
    m.catchCheck slot irq = n.refuse slot l := by
  unfold Dev.catchCheck
  simp [h, ha]

end

/-- A withdrawal that need not end the running bursts stops dispatch. -/
theorem Dev.catchWithdraw_stops (h : m.catchStart slot Op.catchWithdraw irq = (n, true)) (hi : m.image.isSome = true)
    (hb : bitOf (((n.catchState 3).put F.WEI_STAT_DISPATCHING 0).param slot 0) 0 = false) :
    m.catchWithdraw slot irq = (n.catchState 3).put F.WEI_STAT_DISPATCHING 0 := by
  unfold Dev.catchWithdraw
  rw [h, ← Option.not_isSome, hi]
  exact if_neg (ne_true_of_eq_false hb)

/-- A re-course whose image passes, keeps to its basin, and shares no changed partition unless it is forced, is staged for its steps. -/
theorem Dev.basinRecourse_passes {o i : Image} {l : List Reason} (h : m.catchStart slot Op.recourse irq = (n, true)) (hi : n.image = some o)
    (ha : n.admission = (l, some i)) (hs : recourseScope (n.param slot 0 % 256) o i = true)
    (hf : recourseShared (n.param slot 0 % 256) o i = true → bitOf (n.param slot 0) 9 = true) : m.basinRecourse slot irq =
      ((({ n with staged := some i } : Dev).put F.GLB_CATCH_STATE_RECOURSE 1).put F.GLB_CATCH_STATE_RC_BASIN (n.param slot 0 % 256)).modBsn
        (n.param slot 0 % 256) fun x => { x with recourseState := 1, heldAfter := false } := by
  have hforced : (recourseShared (n.param slot 0 % 256) o i && !bitOf (n.param slot 0) 9) = false := by
    rw [Bool.and_eq_false_imp, Bool.not_eq_false']
    exact hf
  unfold Dev.basinRecourse
  simp only [h, hi, ha, hs, hforced, Bool.not_true, Bool.false_eq_true, if_false]

end

/-- Settles O13: each operation by the outcome of its check; the two commits are their definitions' one case that acts. -/
theorem catchmentOperationsAdmitAndWithdraw : Obligations.CatchmentOperationsAdmitAndWithdraw := by
  refine ⟨?load, ?check, ?withdraw, ?recourse, ?commit, ?complete⟩
  case load =>
    intro s slot irq m hs h hi l r ha
    cases r with
    | some i => exact State.hostAct_pays_eq (f := (·.catchLoad slot irq)) hs (Dev.catchLoad_passes h hi ha)
    | none => exact State.hostAct_pays_eq (f := (·.catchLoad slot irq)) hs (Dev.catchLoad_fails h hi ha)
  case check =>
    intro s slot irq m hs h l r ha
    cases r with
    | some i => exact State.hostAct_pays_eq (f := (·.catchCheck slot irq)) hs (Dev.catchCheck_passes h ha)
    | none => exact State.hostAct_pays_eq (f := (·.catchCheck slot irq)) hs (Dev.catchCheck_fails h ha)
  case withdraw =>
    intro s slot irq m hs h hi hb
    exact State.hostAct_pays_eq (f := (·.catchWithdraw slot irq)) hs (Dev.catchWithdraw_stops h hi hb)
  case recourse =>
    intro s slot irq m o n l hs h hi ha hscope hforce
    exact State.hostAct_pays_eq (f := (·.basinRecourse slot irq)) hs (Dev.basinRecourse_passes h hi ha hscope hforce)
  case commit =>
    rintro s _ i k hs rfl hi hk
    refine State.act_pays_eq (f := Dev.catchLoadCommit) hs ?_
    unfold Dev.catchLoadCommit
    rw [hi, hk]
  case complete =>
    rintro s _ k hs rfl hk hst hn
    refine State.act_pays_eq (f := Dev.withdrawComplete) hs ?_
    unfold Dev.withdrawComplete
    rw [hk, hst, hn]
    rfl

end Sys2Proof.Machine
end

section
/-! A basin's enable and shutdown (R73, R77 to R79, R200, R398): one equation for each case. -/

namespace Sys2Proof.Machine

section
variable {m a : Dev} {b : Nat} {ab : Bool}

/-! ## Enable -/

/-- While CLR_N holds the pins, or in the sealed state, an enable is not taken. -/
theorem Dev.basinEnable_barred (h : m.clrHeld = true ∨ m.on F.LEV_STAT_SEALED = true) : m.basinEnable b ab = m := by
  refine if_pos ?_
  rcases h with h | h
  · rw [h, Bool.or_true, Bool.true_or]
  · rw [h, Bool.or_true]

section
variable (hd : m.defined b = true) (hs : m.on F.LEV_STAT_SEALED = false)
include hd hs

/-- Where it is taken, outside a SYNC event, it waits, enters IDLE, or calls a closing off. -/
theorem Dev.basinEnable_taken (hc : m.clrHeld = false) (he : m.clk.event = 0) (ha : m.put (F.BSN_CTL_SHUT_ABORT b) (flag ab) = a) :
    m.basinEnable b ab =
      if a.enableWaits b then
        if a.bstate b == St.shutting || a.bstate b == St.recoursing then
          ((a.put (F.BSN_CTL_ENABLE b) 1).put (F.BSN_STATE_PENDING b) 1).modBsn b fun x => { x with enableTaken := false }
        else (a.put (F.BSN_CTL_ENABLE b) 1).put (F.BSN_STATE_PENDING b) 1
      else if a.bstate b == St.disabled || a.bstate b == St.held then a.enterIdle b
      else (a.put (F.BSN_CTL_ENABLE b) 1).modBsn b fun x => { x with closing := false } := by
  subst ha
  unfold Dev.basinEnable
  rw [hd, hc, hs, he]
  rfl

/-! ## Disable -/

/-- A basin whose ENABLE is cleared, with no enable held, neither PENDING nor by a SYNC event. -/
def Dev.enableCleared (m : Dev) (b : Nat) (ab : Bool) : Dev :=
  (((({ m with clk := { m.clk with enables := m.clk.enables.filter fun (e : Nat × Bool) => e.1 != b } } : Dev).put (F.BSN_CTL_SHUT_ABORT b)
    (flag ab)).put (F.BSN_CTL_ENABLE b) 0).put (F.BSN_STATE_PENDING b) 0)

/-- An idle or running basin shuts down, at once where no burst runs, ending its burst where that is asked, and else at the burst's boundary. -/
theorem Dev.basinDisable_active (ha : m.enableCleared b ab = a) (hst : a.bstate b = St.idle ∨ a.bstate b = St.running) : m.basinDisable b ab =
    if (a.bsn b).run.isNone then ((a.returnDeck b 4).setState b St.shutting).shutPpmus b
    else if ab then (a.endBurst b 0x07 0 (max (a.bsn b).pos a.now)).afterEnd b true (max (a.bsn b).pos a.now)
    else a.modBsn b fun x => { x with closing := true } := by
  have hactive : (a.bstate b != St.idle && a.bstate b != St.running) = false := by
    rcases hst with h | h <;> rw [h] <;> rfl
  subst ha
  unfold Dev.basinDisable
  rw [hd, hs]
  exact if_neg (ne_true_of_eq_false hactive)

end

/-! ## The end of a shutdown -/

theorem Dev.basinShutDone_shutting (h : m.bstate b = St.shutting) : m.basinShutDone b =
    if m.on (F.BSN_STATE_PENDING b) && !m.clrHeld then m.enterIdle b
    else ((m.stopTones b m.now).safeBasin b false m.now).forgetEnable b St.disabled := by
  unfold Dev.basinShutDone
  rw [h]
  rfl

end

/-- Settles O14: each command has the effect of its case. -/
theorem basinsEnableAndShutDown : Obligations.BasinsEnableAndShutDown := by
  refine ⟨?enabled, ?barred, ?disabled, ?ended⟩
  case enabled =>
    rintro s b ab _ a hs rfl ha hc hsealed he
    have hcase := Dev.basinEnable_taken (m := s.start) hs.2 hsealed hc he ha
    have hexec : ∀ {z}, s.start.basinEnable b ab = z → exec (.basinEnable b ab) s = s.becomes z.payOwed :=
      State.basinAct_pays_eq (f := (·.basinEnable b ab)) hs
    refine ⟨fun hw => hexec (hcase.trans (if_pos hw)), fun hw hst => hexec (hcase.trans ((if_neg (ne_true_of_eq_false hw)).trans (if_pos ?_))),
      fun hw hne hne' => hexec (hcase.trans ((if_neg (ne_true_of_eq_false hw)).trans (if_neg ?_)))⟩
    · rcases hst with h | h <;> rw [h] <;> rfl
    · rw [beq_eq_false_iff_ne.mpr hne, beq_eq_false_iff_ne.mpr hne']
      exact Bool.false_ne_true
  case barred =>
    intro s b ab hs h
    exact State.basinAct_still (f := (·.basinEnable b ab)) hs (Dev.basinEnable_barred (m := s.start) h)
  case disabled =>
    rintro s b ab _ a hs rfl hsealed ha hst
    have hcase := Dev.basinDisable_active (m := s.start) hs.2 hsealed ha hst
    have hexec : ∀ {z}, s.start.basinDisable b ab = z → exec (.basinDisable b ab) s = s.becomes z.payOwed :=
      State.basinAct_pays_eq (f := (·.basinDisable b ab)) hs
    refine ⟨fun hn => hexec (hcase.trans (if_pos (by rw [hn]; rfl))), fun hr hab => hexec (hcase.trans ((if_neg ?_).trans (if_pos hab))),
      fun hr hab => hexec (hcase.trans ((if_neg ?_).trans (if_neg (ne_true_of_eq_false hab))))⟩
    all_goals
      rw [← Option.not_isSome, hr]
      exact Bool.false_ne_true
  case ended =>
    intro s b hs h
    exact State.act_pays_eq (f := (·.basinShutDone b)) hs (Dev.basinShutDone_shutting h)

end Sys2Proof.Machine
end

section
/-! The steps of a re-course (R68, R71): it enters, drains and commits. -/

namespace Sys2Proof.Machine

section
variable {m a : Dev} {b k : Nat}

/-- The basin enters RECOURSING, its on-deck burst returned; a burst that is to be aborted has ended. -/
theorem Dev.recourseEnter_enters (hk : m.opSlot Op.recourse = some k) (hst : (m.bsn b).recourseState = 1)
    (hab : (m.bsn b).run.isSome = true → bitOf (m.param k 0) 8 = true)
    (ha : (if (m.bsn b).run.isSome then m.endBurst b 0x08 0 (max (m.bsn b).pos m.now) else m) = a) : m.recourseEnter b =
    (((a.modBsn b fun x => { x with recourse := a.bstate b, recourseState := 2 }).returnDeck b 1).stopTones b a.now).setState b St.recoursing := by
  have hgoes : ((m.bsn b).recourseState != 1 || ((m.bsn b).run.isSome && !bitOf (m.param k 0) 8)) = false := by
    rw [hst, bne_self_eq_false, Bool.false_or, Bool.and_eq_false_imp, Bool.not_eq_false']
    exact hab
  subst ha
  unfold Dev.recourseEnter
  rw [hk]
  exact if_neg (ne_true_of_eq_false hgoes)

theorem Dev.recourseDrain_drains (hst : (m.bsn b).recourseState = 2) :
    m.recourseDrain b = ((m.dropCapture b).safeBasin b false m.now).modBsn b fun x => { x with recourseState := 3 } := by
  unfold Dev.recourseDrain
  rw [hst]
  rfl

end

/-- Settles O15: each step where the one before it has been made; the commit is its definition's one case that acts. -/
theorem recoursesRunThroughTheirSteps : Obligations.RecoursesRunThroughTheirSteps := by
  refine ⟨?enter, ?drain, ?commit⟩
  case enter =>
    rintro s _ a b k hs rfl hk hst hab ha
    exact State.act_pays_eq (f := (·.recourseEnter b)) hs (Dev.recourseEnter_enters hk hst hab ha)
  case drain =>
    intro s b hs hst
    exact State.act_pays_eq (f := (·.recourseDrain b)) hs (Dev.recourseDrain_drains hst)
  case commit =>
    rintro s _ b o n k hs rfl ho hn hk hst
    refine State.act_pays_eq (f := (·.recourseCommit b)) hs ?_
    unfold Dev.recourseCommit
    simp only [ho, hn, hk, hst]
    rfl

end Sys2Proof.Machine
end

section
/-! General ADCs (R73, R271, R272, R276, R279, R280, R371, R372): one equation for each case of enable, disable, power-down, gain routine and stage
takeover. -/

namespace Sys2Proof.Machine

section
variable {m x y : Dev} {k ctl : Nat}

/-! ## Power (R73, R271) -/

section
variable (hx : m.scanFields k ctl = x)
include hx

theorem Dev.adcEnable_shutting (h : (x.put (F.ADC_CTL_ENABLE k) 1).on (F.ADC_STAT_SHUTTING k) = true) :
    m.adcEnable k ctl = (x.put (F.ADC_CTL_ENABLE k) 1).put (F.ADC_STAT_PENDING k) 1 := by
  subst hx
  exact if_pos h

theorem Dev.adcEnable_powers (h : (x.put (F.ADC_CTL_ENABLE k) 1).on (F.ADC_STAT_SHUTTING k) = false) :
    m.adcEnable k ctl = (x.put (F.ADC_CTL_ENABLE k) 1).put (F.ADC_STAT_POWERED k) 1 := by
  subst hx
  exact if_neg (ne_true_of_eq_false h)

theorem Dev.adcDisable_eq (hy : x.put (F.ADC_CTL_ENABLE k) 0 = y) : m.adcDisable k ctl =
    if y.on (F.ADC_STAT_SHUTTING k) || !y.on (F.ADC_STAT_POWERED k) then y.put (F.ADC_STAT_PENDING k) 0
    else (y.scanShut k y.now).put (F.ADC_STAT_SHUTTING k) 1 := by
  subst hx hy
  rfl

end

/-- The shutdown ends once no scan is in progress; a held enable powers the channel again. -/
theorem Dev.adcPowerDown_eq (hs : m.on (F.ADC_STAT_SHUTTING k) = true) (hn : m.on (F.ADC_STAT_SCANNING k) = false)
    (hx : ((m.put (F.ADC_STAT_SHUTTING k) 0).put (F.ADC_STAT_POWERED k) 0).put (F.ADC_STAT_READY k) 0 = x) : m.adcPowerDown k =
    if x.on (F.ADC_STAT_PENDING k) then (x.put (F.ADC_STAT_PENDING k) 0).put (F.ADC_STAT_POWERED k) 1 else x := by
  subst hx
  unfold Dev.adcPowerDown
  rw [hs, hn]
  rfl

/-! ## The gain routine (R276, R371, R372) -/

section
variable {r33 r35 : Nat} {g o : Int} (hg : gainOf (m.reg Reg.ADC_REF_VAL : Nat) r33 r35 = g) (ho : offsOf g r35 = o)
include hg ho

theorem Dev.gainRoutine_implausible (h : g < 32440 ∨ 33096 < g ∨ o < -328 ∨ 328 < o) :
    m.gainRoutine k r33 r35 = m.report Src.calPlausibility (2 * k) 0 m.now := by
  subst hg ho
  exact if_pos h

theorem Dev.gainRoutine_plausible (h : ¬ (g < 32440 ∨ 33096 < g ∨ o < -328 ∨ 328 < o)) :
    m.gainRoutine k r33 r35 = (m.put (F.ADC_GAIN_GAIN k) g.toNat).put (F.ADC_OFFS_OFFS k) (ofSigned 16 o) := by
  subst hg ho
  exact if_neg h

end

/-- The first routine on a powered channel sets READY. -/
theorem Dev.adcReady_first (hp : m.on (F.ADC_STAT_POWERED k) = true) (hs : m.on (F.ADC_STAT_SHUTTING k) = false)
    (hr : m.on (F.ADC_STAT_READY k) = false) (r33 r35 : Nat) : m.adcReady k r33 r35 = (m.gainRoutine k r33 r35).put (F.ADC_STAT_READY k) 1 := by
  unfold Dev.adcReady
  rw [hp, hs, hr]
  rfl

/-! ## Stages (R279, R280) -/

/-- POS moves on to the next stage; past the last one a round has ended. -/
def Dev.stageOn (m : Dev) (k pos : Nat) : Dev :=
  if pos = 13 then (m.put (F.ADC_CAL_POS k) 0).bump (F.ADC_CAL_ROUNDS k) else m.put (F.ADC_CAL_POS k) (pos + 1)

/-- A stage retires: the Reservoir keeps it, and the channel is degraded. -/
def Dev.stageRetire (m : Dev) (k pos : Nat) : Dev :=
  let y := ({ m with rsv := { m.rsv with retired := m.rsv.retired ++ [(k, pos)] } } : Dev).recWrite Rec.stage k 0 (leBytes 4 pos)
  ((y.put (F.ADC_CAL_RETIRED k) pos).put (F.ADC_STAT_DEGRADED k) 1).report Src.adcDegraded k pos y.now

section
variable {pos n : Nat} (hr : m.on (F.ADC_STAT_READY k) = true) (hn : m.get (F.ADC_CAL_RETIRED k) = 0xF) (hp : m.get (F.ADC_CAL_POS k) = pos)
include hr hn hp

theorem Dev.stageTakeover_good : m.stageTakeover k true = (m.setAdc k { m.adc k with fails := (m.adc k).fails.set pos 0 }).stageOn k pos := by
  subst hp
  unfold Dev.stageTakeover
  rw [hr, hn]
  rfl

theorem Dev.stageTakeover_bad (hf : (m.adc k).fails.getD pos 0 + 1 = n)
    (hx : (m.setAdc k { m.adc k with fails := (m.adc k).fails.set pos n }).report Src.adcStage k pos
      (m.setAdc k { m.adc k with fails := (m.adc k).fails.set pos n }).now = x) :
    m.stageTakeover k false = if 3 ≤ n then x.stageRetire k pos else x.stageOn k pos := by
  subst hp hf hx
  unfold Dev.stageTakeover
  rw [hr, hn]
  rfl

end

end

/-- Settles O29: each command has the effect of its case. -/
theorem adcsPowerCalibrateAndRetireStages : Obligations.AdcsPowerCalibrateAndRetireStages := by
  refine ⟨?power, ?down, ?gain, ?stage⟩
  case power =>
    rintro s _ x k ctl hs rfl hx
    have henable : ∀ {z}, s.start.adcEnable k ctl.toNat = z → exec (.adcEnable k ctl) s = s.becomes z.payOwed :=
      State.hostAct_pays_eq (f := (·.adcEnable k ctl.toNat)) hs
    have hdisable : ∀ {z}, s.start.adcDisable k ctl.toNat = z → exec (.adcDisable k ctl) s = s.becomes z.payOwed :=
      State.hostAct_pays_eq (f := (·.adcDisable k ctl.toNat)) hs
    exact ⟨fun h => henable (Dev.adcEnable_shutting hx h), fun h => henable (Dev.adcEnable_powers hx h),
      fun y hy h => hdisable ((Dev.adcDisable_eq hx hy).trans (if_pos h)),
      fun y hy h => hdisable ((Dev.adcDisable_eq hx hy).trans (if_neg (ne_true_of_eq_false h)))⟩
  case down =>
    rintro s _ x k hs rfl hshut hnone hx
    have hend := Dev.adcPowerDown_eq hshut hnone hx
    exact ⟨fun hp => State.act_pays_eq (f := (·.adcPowerDown k)) hs (hend.trans (if_pos hp)),
      fun hp => State.act_pays_eq (f := (·.adcPowerDown k)) hs (hend.trans (if_neg (ne_true_of_eq_false hp)))⟩
  case gain =>
    rintro s _ k r33 r35 g o hs rfl hg ho
    exact ⟨fun h => State.act_pays_eq (f := (·.gainRoutine k r33 r35)) hs (Dev.gainRoutine_implausible hg ho h),
      fun h => State.act_pays_eq (f := (·.gainRoutine k r33 r35)) hs (Dev.gainRoutine_plausible hg ho h),
      fun hp hshut hr => State.act_pays_eq (f := (·.adcReady k r33 r35)) hs (Dev.adcReady_first hp hshut hr r33 r35)⟩
  case stage =>
    rintro s _ x k pos n hs rfl hr hn hp
    have hexec : ∀ {good z}, s.start.stageTakeover k good = z → exec (.adcStageTakeover k good) s = s.becomes z.payOwed := fun {good _} =>
      State.act_pays_eq (f := (·.stageTakeover k good)) hs
    have hgood := Dev.stageTakeover_good hr hn hp
    refine ⟨?_, fun hf hx => ?_⟩
    · rintro rfl
      exact ⟨fun hl => hexec (hgood.trans (if_pos hl)), fun hl => hexec (hgood.trans (if_neg hl))⟩
    · have hbad := Dev.stageTakeover_bad hr hn hp hf hx
      exact ⟨fun h3 => hexec (hbad.trans (if_pos h3)), fun h3 hl => hexec (hbad.trans ((if_neg h3).trans (if_pos hl))),
        fun h3 hl => hexec (hbad.trans ((if_neg h3).trans (if_neg hl)))⟩

end Sys2Proof.Machine
end

section
/-! Scans of the general ADCs (R73, R267, R272 to R277): one equation for each case of run, start, and the result of a dwell. -/

namespace Sys2Proof.Machine

section
variable {m x : Dev} {k ctl : Nat}

/-! ## Run (R272) -/

/-- The lowest code that the setup fails refuses it. -/
theorem Dev.scanEnable_refused {c : Nat} {l : List Nat} (h : m.scanCodes k = c :: l) :
    m.scanEnable k = ((m.scanShut k m.now).put (F.ADC_STAT_REFUSED k) 1).put (F.ADC_STAT_ERR k) c := by
  unfold Dev.scanEnable
  rw [h]
  rfl

theorem Dev.scanEnable_taken {y : Dev} (h : m.scanCodes k = []) (hy : (m.put (F.ADC_CTL_RUN k) 1).put (F.ADC_STAT_SCAN_RUN k) 1 = y) :
    m.scanEnable k = if y.get (F.ADC_CTL_SRC k) = 1 then y.scanStart k y.now none else y := by
  subst hy
  unfold Dev.scanEnable
  simp only [h, beq_iff_eq]

section
variable (hx : m.scanFields k ctl = x)
include hx

theorem Dev.scanRun_shutting (h : x.on (F.ADC_STAT_SCAN_SHUTTING k) = true) :
    m.scanRun k ctl = (x.put (F.ADC_CTL_RUN k) 1).put (F.ADC_STAT_SCAN_PENDING k) 1 := by
  subst hx
  exact if_pos h

theorem Dev.scanRun_running (h : x.on (F.ADC_STAT_SCAN_SHUTTING k) = false) (hr : x.on (F.ADC_STAT_SCAN_RUN k) = true) : m.scanRun k ctl = x := by
  subst hx
  exact (if_neg (ne_true_of_eq_false h)).trans (if_pos hr)

theorem Dev.scanRun_stopped (h : x.on (F.ADC_STAT_SCAN_SHUTTING k) = false) (hr : x.on (F.ADC_STAT_SCAN_RUN k) = false) :
    m.scanRun k ctl = x.scanEnable k := by
  subst hx
  exact (if_neg (ne_true_of_eq_false h)).trans (if_neg (ne_true_of_eq_false hr))

end

/-! ## The three starts (R272) -/

section
variable (hr : m.on (F.ADC_STAT_SCAN_RUN k) = true)
include hr

theorem Dev.scanStartHost_starts (h : m.get (F.ADC_CTL_SRC k) = 0) : m.scanStartHost k = m.scanStart k m.now none := by
  unfold Dev.scanStartHost
  rw [hr, h]
  rfl

theorem Dev.scanStartPeriodic_starts (h : m.get (F.ADC_CTL_SRC k) = 1) (hn : m.get (F.ADC_PERIOD_PERIOD k) ≠ 0)
    (ht : (m.adc k).lastStart + m.get (F.ADC_PERIOD_PERIOD k) ≤ m.tick) : m.scanStartPeriodic k = m.scanStart k m.now none := by
  unfold Dev.scanStartPeriodic
  rw [hr, h]
  simp only [bne_iff_ne.mpr hn, decide_eq_true ht]
  rfl

theorem Dev.scanStartLoad_starts (h : m.get (F.ADC_CTL_SRC k) = 2) (t : Nat) : m.scanStartLoad k t =
    m.scanStart k (ceilDiv (t / eclk * eclk + m.get (F.ADC_DWELL_DELAY k) * eclk) conversion * conversion) none := by
  unfold Dev.scanStartLoad
  rw [hr, h]
  rfl

end

/-! ## The start of a scan (R272, R273) -/

section
variable (t : Instant) (before : Option Nat)

theorem Dev.scanStart_missed (h : m.on (F.ADC_STAT_SCANNING k) = true) : m.scanStart k t before = m.put (F.ADC_STAT_MISSED k) 1 := if_pos h

theorem Dev.scanStart_waits (h : m.on (F.ADC_STAT_SCANNING k) = false) (hr : m.on (F.ADC_STAT_READY k) = false) :
    m.scanStart k t before = m.setAdc k { m.adc k with waiting := true } := by
  unfold Dev.scanStart
  rw [h, hr]
  rfl

section
variable (h : m.on (F.ADC_STAT_SCANNING k) = false) (hr : m.on (F.ADC_STAT_READY k) = true)
include h hr

theorem Dev.scanStart_refused {c : Nat} {l : List Nat} (hc : m.scanSetup k = c :: l) :
    m.scanStart k t before = ((m.scanShut k m.now).put (F.ADC_STAT_REFUSED k) 1).put (F.ADC_STAT_ERR k) c := by
  unfold Dev.scanStart
  rw [h, hr, hc]
  rfl

theorem Dev.scanStart_begins (hc : m.scanSetup k = []) : m.scanStart k t before =
    (m.put (F.ADC_STAT_SCANNING k) 1).setAdc k { m.adc k with
      scan := m.scanInputs k, short := false, dwell := m.dwellOf k, dwellAt := t, before := before, lastStart := m.tick, waiting := false } := by
  unfold Dev.scanStart
  rw [h, hr, hc]
  rfl

end

end

/-! ## The result of a dwell (R267, R273 to R277) -/

/-- The scan goes on after the result of input i, written by the instant `stop`: with the inputs that are left, or by its end. -/
def Dev.scanGoesOn (m : Dev) (k i stop : Nat) (rest : List Nat) : Dev :=
  if m.on (F.ADC_STAT_SCAN_SHUTTING k) && rest.isEmpty then
    let m := (m.put (F.ADC_STAT_SCANNING k) 0).put (F.ADC_STAT_SCAN_SHUTTING k) 0
    let m := if (m.adc k).short then m else m.bump (F.ADC_STAT_SCANS k)
    let m := m.setAdc k { m.adc k with scan := [], before := none }
    if m.on (F.ADC_STAT_SCAN_PENDING k) then (m.put (F.ADC_STAT_SCAN_PENDING k) 0).scanEnable k else m
  else if rest.isEmpty then
    let m := (m.put (F.ADC_STAT_SCANNING k) 0).bump (F.ADC_STAT_SCANS k)
    let m := m.setAdc k { m.adc k with scan := [], before := none }
    if m.get (F.ADC_CTL_SRC k) = 1 ∧ m.get (F.ADC_PERIOD_PERIOD k) = 0 then m.scanStart k stop (some i) else m
  else m.setAdc k { m.adc k with scan := rest, dwellAt := stop, before := some i }

section
variable {i stop : Nat}

theorem Dev.scanGoesOn_next {rest : List Nat} (h : rest ≠ []) :
    m.scanGoesOn k i stop rest = m.setAdc k { m.adc k with scan := rest, dwellAt := stop, before := some i } := by
  unfold Dev.scanGoesOn
  rw [List.isEmpty_eq_false_iff.mpr h, Bool.and_false]
  rfl

theorem Dev.scanGoesOn_ends (h : m.on (F.ADC_STAT_SCAN_SHUTTING k) = false) : m.scanGoesOn k i stop [] =
    (let e := (m.put (F.ADC_STAT_SCANNING k) 0).bump (F.ADC_STAT_SCANS k)
     let e := e.setAdc k { e.adc k with scan := [], before := none }
     if e.get (F.ADC_CTL_SRC k) = 1 ∧ e.get (F.ADC_PERIOD_PERIOD k) = 0 then e.scanStart k stop (some i) else e) := by
  unfold Dev.scanGoesOn
  rw [h]
  rfl

theorem Dev.scanGoesOn_shuts (h : m.on (F.ADC_STAT_SCAN_SHUTTING k) = true) : m.scanGoesOn k i stop [] =
    (let e := (m.put (F.ADC_STAT_SCANNING k) 0).put (F.ADC_STAT_SCAN_SHUTTING k) 0
     let e := if (e.adc k).short then e else e.bump (F.ADC_STAT_SCANS k)
     let e := e.setAdc k { e.adc k with scan := [], before := none }
     if e.on (F.ADC_STAT_SCAN_PENDING k) then (e.put (F.ADC_STAT_SCAN_PENDING k) 0).scanEnable k else e) := by
  unfold Dev.scanGoesOn
  rw [h]
  rfl

end

end

/-- Settles O30: each command has the effect of its case; a result's value is formed as the definition says, and the scan goes on. -/
theorem scansStartStopAndConvert : Obligations.ScansStartStopAndConvert := by
  refine ⟨?run, ?starts, ?begins, ?result⟩
  case run =>
    rintro s _ x k ctl hs rfl hx
    have hexec : ∀ {z}, s.start.scanRun k ctl.toNat = z → exec (.scanRun k ctl) s = s.becomes z.payOwed :=
      State.hostAct_pays_eq (f := (·.scanRun k ctl.toNat)) hs
    refine ⟨fun h => hexec (Dev.scanRun_shutting hx h), fun h hr => hexec (Dev.scanRun_running hx h hr),
      fun c l h hr hc => hexec ((Dev.scanRun_stopped hx h hr).trans (Dev.scanEnable_refused hc)), fun y h hr hc hy => ?_,
      State.hostAct_pays_eq (f := (·.scanStop k ctl.toNat)) hs (congrArg (Dev.scanShut · k s.start.now) hx)⟩
    have htaken := (Dev.scanRun_stopped hx h hr).trans (Dev.scanEnable_taken hc hy)
    exact ⟨fun hp => hexec (htaken.trans (if_pos hp)), fun hp => hexec (htaken.trans (if_neg hp))⟩
  case starts =>
    rintro s _ k t rfl hr
    exact ⟨fun hs h => State.hostAct_pays_eq (f := (·.scanStartHost k)) hs (Dev.scanStartHost_starts hr h),
      fun hs h hn ht => State.act_pays_eq (f := (·.scanStartPeriodic k)) hs (Dev.scanStartPeriodic_starts hr h hn ht),
      fun hs h => State.act_pays_eq (f := (·.scanStartLoad k t)) hs (Dev.scanStartLoad_starts hr h t)⟩
  case begins =>
    rintro s _ k hs rfl hr hsrc
    have hexec : ∀ {z}, s.start.scanStart k s.start.now none = z → exec (.scanStartHost k) s = s.becomes z.payOwed := fun hz =>
      State.hostAct_pays_eq (f := (·.scanStartHost k)) hs ((Dev.scanStartHost_starts hr hsrc).trans hz)
    exact ⟨fun h => hexec (Dev.scanStart_missed _ _ h), fun h hw => hexec (Dev.scanStart_waits _ _ h hw),
      fun c l h hready hc => hexec (Dev.scanStart_refused _ _ h hready hc), fun h hready hc => hexec (Dev.scanStart_begins _ _ h hready hc)⟩
  case result =>
    rintro s _ a p c d k q err raw limit clip x i stop first rest v hs rfl hx hscan hon hstop hfirst ha hraw hv hclip hp hc hd
    have hformed : s.start.adcResult k q err limit = d.scanGoesOn k i stop rest := by
      subst hx hstop hfirst ha hraw hv hclip hp hc hd
      unfold Dev.adcResult
      simp only [hscan, hon]
      simp only [Dev.scanGoesOn, Bool.and_eq_true, beq_iff_eq]
      rfl
    have hexec : ∀ {z}, d.scanGoesOn k i stop rest = z → exec (.adcResult k q err limit) s = s.becomes z.payOwed := fun hz =>
      State.act_pays_eq (f := (·.adcResult k q err limit)) hs (hformed.trans hz)
    refine ⟨fun h => hexec (Dev.scanGoesOn_next h), ?_, ?_⟩
    · rintro rfl h
      exact hexec (Dev.scanGoesOn_ends h)
    · rintro rfl h
      exact hexec (Dev.scanGoesOn_shuts h)

end Sys2Proof.Machine
end

section
/-! Reference-grade ADCs (R73, R277, R281 to R284, R371): one equation for each case of enable, disable, the end of a shutdown, and the steps of a
system calibration. -/

namespace Sys2Proof.Machine

section
variable {m x y : Dev} {p ctl : Nat}

/-! ## Enable and shutdown (R73, R281) -/

section
variable (hx : m.padcFields p ctl = x)
include hx

/-- A running converter starts its shutdown and discards its session; for another a held enable is cleared. -/
theorem Dev.padcDisable_eq (hy : x.put (F.P_CTL_ENABLE p) 0 = y) : m.padcDisable p ctl =
    if y.on (F.P_STAT_RUNNING p) && !y.on (F.P_STAT_SHUTTING p) then ((y.put (F.P_STAT_SHUTTING p) 1).put (F.P_STAT_SETTLED p) 0).dropSession p
    else y.put (F.P_STAT_PENDING p) 0 := by
  subst hx hy
  rfl

section
variable (hb : busOk (bitsOf ctl 26 16) = true)
include hb

theorem Dev.padcEnable_shutting (h : x.on (F.P_STAT_SHUTTING p) = true) :
    m.padcEnable p ctl = (x.put (F.P_CTL_ENABLE p) 1).put (F.P_STAT_PENDING p) 1 := by
  subst hx
  unfold Dev.padcEnable
  rw [hb]
  exact if_pos h

theorem Dev.padcEnable_running (h : x.on (F.P_STAT_SHUTTING p) = false) (hr : x.on (F.P_STAT_RUNNING p) = true) : m.padcEnable p ctl = x := by
  subst hx
  unfold Dev.padcEnable
  rw [hb]
  exact (if_neg (ne_true_of_eq_false h)).trans (if_pos hr)

theorem Dev.padcEnable_starts (h : x.on (F.P_STAT_SHUTTING p) = false) (hr : x.on (F.P_STAT_RUNNING p) = false) :
    m.padcEnable p ctl = x.padcStart p := by
  subst hx
  unfold Dev.padcEnable
  rw [hb]
  exact (if_neg (ne_true_of_eq_false h)).trans (if_neg (ne_true_of_eq_false hr))

end

end

/-- A BUS_SEL that names no source refuses the enable, which then counts as a disable (log 109). -/
theorem Dev.padcEnable_refused (hb : busOk (bitsOf ctl 26 16) = false) (hy : m.padcDisable p ctl = y) :
    m.padcEnable p ctl = y.put (F.P_STAT_REFUSED p) 1 := by
  subst hy
  unfold Dev.padcEnable
  rw [hb]
  rfl

theorem Dev.padcShutDone_eq (h : m.on (F.P_STAT_SHUTTING p) = true) (hx : (m.put (F.P_STAT_SHUTTING p) 0).put (F.P_STAT_RUNNING p) 0 = x) :
    m.padcShutDone p = if x.on (F.P_STAT_PENDING p) then (x.put (F.P_STAT_PENDING p) 0).padcStart p else x := by
  subst hx
  unfold Dev.padcShutDone
  rw [h]
  rfl

/-! ## System calibration (R283, R284, R371) -/

section
variable {a c : Dev} {slot : Nat} {irq stored : Bool}

section
variable {l : List Int} (he : a.syscalStepErr slot l = 0) (hc : (a.syscalBuffer slot l).sessionBegin p = c)
include he hc

/-- A good ZERO step keeps its sum and value in the session. -/
theorem Dev.syscalZero_good (h : m.syscalStart slot irq 0 = (a, some p)) : m.syscalZero slot irq l =
    (c.setPadc p { c.padc p with zero := some (sumOf l, (a.syscalBuffer slot l).syscalValue slot) }).opEnd slot 0 := by
  subst hc
  unfold Dev.syscalZero
  simp only [h, he]
  rfl

/-- A good FULL step likewise. -/
theorem Dev.syscalFull_good (h : m.syscalStart slot irq 1 = (a, some p)) : m.syscalFull slot irq l =
    (c.setPadc p { c.padc p with full := some (sumOf l, (a.syscalBuffer slot l).syscalValue slot) }).opEnd slot 0 := by
  subst hc
  unfold Dev.syscalFull
  simp only [h, he]
  rfl

end

/-- A commit without both steps fails, as lost where a drop lost one. -/
theorem Dev.syscalCommit_incomplete (h : m.syscalStart slot irq 2 = (a, some p)) (hn : (a.padc p).zero = none ∨ (a.padc p).full = none) :
    m.syscalCommit slot irq stored = (a.setPadc p { a.padc p with lost := false }).opEnd slot (if (a.padc p).lost then 0x0A else 0x06) := by
  unfold Dev.syscalCommit
  rcases hn with hn | hn
  · simp only [h, hn]
  · cases hz : (a.padc p).zero <;> simp only [h, hz, hn]

theorem Dev.syscalDiscard_drops (h : m.syscalStart slot irq 3 = (a, some p)) : m.syscalDiscard slot irq = (a.dropSession p).opEnd slot 0 := by
  unfold Dev.syscalDiscard
  rw [h]

end

end

/-- Settles O31: each command has the effect of its case; a result, and the commit that stores its coefficients, are formed as their definitions
say. -/
theorem pAdcsConvertAndCalibrate : Obligations.PAdcsConvertAndCalibrate := by
  refine ⟨?power, ?ended, ?result, ?steps, ?commit, ?expire⟩
  case power =>
    rintro s _ x p ctl hs rfl hx
    have henable : ∀ {z}, s.start.padcEnable p ctl.toNat = z → exec (.pAdcEnable p ctl) s = s.becomes z.payOwed :=
      State.hostAct_pays_eq (f := (·.padcEnable p ctl.toNat)) hs
    have hdisable : ∀ {z}, s.start.padcDisable p ctl.toNat = z → exec (.pAdcDisable p ctl) s = s.becomes z.payOwed :=
      State.hostAct_pays_eq (f := (·.padcDisable p ctl.toNat)) hs
    refine ⟨fun y hb hy => ?_, fun hb h => henable (Dev.padcEnable_shutting hx hb h), fun hb h hr => henable (Dev.padcEnable_running hx hb h hr),
      fun y hb h hr hy => henable ((Dev.padcEnable_starts hx hb h hr).trans (hy ▸ rfl)),
      fun y hy h => hdisable ((Dev.padcDisable_eq hx hy).trans (if_pos h)),
      fun y hy h => hdisable ((Dev.padcDisable_eq hx hy).trans (if_neg (ne_true_of_eq_false h)))⟩
    have hdown := Dev.padcDisable_eq hx hy
    exact ⟨fun h => henable (Dev.padcEnable_refused hb (hdown.trans (if_pos h))),
      fun h => henable (Dev.padcEnable_refused hb (hdown.trans (if_neg (ne_true_of_eq_false h))))⟩
  case ended =>
    rintro s _ x p hs rfl h hx
    have hend := Dev.padcShutDone_eq h hx
    exact ⟨fun hp => State.act_pays_eq (f := (·.padcShutDone p)) hs (hend.trans (if_pos hp)),
      fun hp => State.act_pays_eq (f := (·.padcShutDone p)) hs (hend.trans (if_neg (ne_true_of_eq_false hp)))⟩
  case result =>
    rintro s _ a c d p q err t v w hs rfl hr hshut hv hw ha hc hd
    have hformed : s.start.padcResult p q err t = if d.on (F.P_CTL_THR_EN p) then
        d.setFlag (32 + p) (decide (w < toSigned 24 (d.get (F.P_THR_LO_LO p))) || decide (toSigned 24 (d.get (F.P_THR_HI_HI p)) < w)) t
        else d := by
      subst hv hw ha hc hd
      unfold Dev.padcResult
      rw [hr, hshut]
      rfl
    exact ⟨fun h => State.act_pays_eq (f := (·.padcResult p q err t)) hs (hformed.trans (if_neg (ne_true_of_eq_false h))),
      fun h => State.act_pays_eq (f := (·.padcResult p q err t)) hs (hformed.trans (if_pos h))⟩
  case steps =>
    rintro s _ a c slot irq l p hs rfl he hc
    exact ⟨fun h => State.hostAct_pays_eq (f := (·.syscalZero slot irq l)) hs (Dev.syscalZero_good he hc h),
      fun h => State.hostAct_pays_eq (f := (·.syscalFull slot irq l)) hs (Dev.syscalFull_good he hc h)⟩
  case commit =>
    rintro s _ a slot irq stored p hs rfl
    refine ⟨fun h hn => State.hostAct_pays_eq (f := (·.syscalCommit slot irq stored)) hs (Dev.syscalCommit_incomplete h hn), ?_,
      fun h => State.hostAct_pays_eq (f := (·.syscalDiscard slot irq)) hs (Dev.syscalDiscard_drops h)⟩
    intro z f g o c d h hstored hz hf hspan hg ho hgood hgood' hc hd
    refine State.hostAct_pays_eq (f := (·.syscalCommit slot irq stored)) hs ?_
    subst hg ho hc hd hstored
    unfold Dev.syscalCommit
    simp only [h, hz, hf, if_neg hspan, if_neg hgood, if_neg hgood']
    rfl
  case expire =>
    rintro s _ p hs rfl
    exact ⟨fun h => State.act_pays_eq (f := (·.sessionExpire p)) hs (if_pos h),
      fun h => State.act_still (f := (·.sessionExpire p)) hs (if_neg h)⟩

end Sys2Proof.Machine
end

section
/-! Cancels and timeouts (R78, R306 to R308): one equation for each case. -/

namespace Sys2Proof.Machine

section
variable {m : Dev} {b : Nat}

/-! ## Cancels wait for the tick program (R306, R307) -/

theorem Dev.weiCancel_lost (h : 64 ≤ m.weir.cancels.length) (c : Nat) (abort : Bool) : m.weiCancel c abort = m.put F.WEI_STAT_CANCEL_LOST 1 := if_pos h

theorem Dev.weiCancel_waits (h : ¬ 64 ≤ m.weir.cancels.length) (c : Nat) (abort : Bool) :
    m.weiCancel c abort = (m.modWeir fun w => { w with cancels := w.cancels ++ [(c, abort, m.tick)] }).cancelShow := if_neg h

/-! ## Timeouts (R308) -/

/-- A running burst whose MAX_TICKS have passed becomes aborting, unless it is already. -/
theorem Dev.burstTimeout_eq {r : Run} (hr : (m.bsn b).run = some r) : m.burstTimeout b =
    if m.desc r.ctx 12 4 ≠ 0 ∧ r.start + m.desc r.ctx 12 4 * tickUnits ≤ m.now then
      m.modRun b fun r => { r with aborting := r.aborting.or (some (0x06, m.exchangeNow)) }
    else m := by
  unfold Dev.burstTimeout
  rw [hr]

/-! ## The end of an aborting burst (R306, R308) -/

/-- The block once k vectors of the word at hand, or k hold vectors of a stall, have been played. -/
def Dev.playedOn (m : Dev) (b k : Nat) (stalled : Bool) : Dev :=
  if stalled then m.modBsn b fun x => { x with pos := (x.hold.getD x.pos) + k * m.period b (m.holdSet b) } else m

/-- It plays on and ends at the first boundary at or after its exchange point; where its engines halted it stops there, and a number of vectors that
leads to another boundary has no effect. -/
theorem Dev.cancelEnd_eq {a e : Dev} {r : Run} {k vector status : Nat} {seen : Seen} {point : Instant} (hr : (m.bsn b).run = some r)
    (hp : r.aborting = some (status, point)) (ha : m.playRest b k seen = a) (he : a.playedOn b k r.stall.isSome = e)
    (hv : e.period b (if r.stall.isSome then e.holdSet b else (e.bsn b).tset) = vector) : m.cancelEnd b k seen =
    if (a.bsn b).run.any (·.halted) then a
    else if (e.bsn b).pos < point ∨ 0 < k ∧ point + vector ≤ (e.bsn b).pos then m
    else (e.endBurst b status 0 (e.bsn b).pos).afterEnd b (e.bsn b).closing (e.bsn b).pos := by
  subst ha he hv
  unfold Dev.cancelEnd
  simp only [hr, hp, Dev.playedOn, Bool.or_eq_true, Bool.and_eq_true, decide_eq_true_eq]
  rfl

end

/-- Settles O33: each command has the effect of its case. -/
theorem cancelsAndTimeoutsEndBursts : Obligations.CancelsAndTimeoutsEndBursts := by
  refine ⟨?cancels, ?timeout, ?ends⟩
  case cancels =>
    rintro s _ c b abort rfl
    exact ⟨fun hs h => State.hostAct_pays_eq (f := (·.weiCancel c abort)) hs (Dev.weiCancel_lost h c abort),
      fun hs h => State.hostAct_pays_eq (f := (·.weiCancel c abort)) hs (Dev.weiCancel_waits h c abort),
      fun hs => State.hostAct_pays_eq (f := (·.weiCancelBasin b abort)) hs rfl⟩
  case timeout =>
    rintro s _ b r hs rfl hr
    have htimeout := Dev.burstTimeout_eq hr
    exact ⟨fun h => State.act_pays_eq (f := (·.burstTimeout b)) hs (htimeout.trans (if_pos h)),
      fun h => State.act_still (f := (·.burstTimeout b)) hs (htimeout.trans (if_neg h))⟩
  case ends =>
    rintro s _ a e b r k vector seen status point hs rfl hr hp ha he hv
    have hend := Dev.cancelEnd_eq hr hp ha he hv
    exact ⟨fun hh => State.act_pays_eq (f := (·.cancelEnd b k seen)) hs (hend.trans (if_pos hh)),
      fun hh hno => State.act_still (f := (·.cancelEnd b k seen)) hs (hend.trans ((if_neg (ne_true_of_eq_false hh)).trans (if_pos hno))),
      fun hh hat => State.act_pays_eq (f := (·.cancelEnd b k seen)) hs (hend.trans ((if_neg (ne_true_of_eq_false hh)).trans (if_neg hat)))⟩

end Sys2Proof.Machine
end

section
/-! Bursts come on deck and start (R53, R72, R292, R296 to R301, R420, R421): one equation for each step of a burst's way. -/

namespace Sys2Proof.Machine

section
variable {m : Dev} {b : Nat}

/-! ## Unspill (R296) -/

/-- True where the head of a chain may not join its list in this tick. -/
def Dev.unspillHeld (m : Dev) (b l : Nat) : Bool :=
  !m.entryFree b l || decide (64 ≤ m.weir.returns) ||
    !(m.chainsBare.contains (8 * b + l) || (m.chainsBare.isEmpty && m.chainTurn == some (8 * b + l)))

/-- The head of a chain joins its list, or nothing changes. -/
theorem Dev.unspill_eq {l c : Nat} {r : List Nat} (hc : (m.bsn b).chains.getD l [] = c :: r) : m.unspill b l =
    if m.unspillHeld b l then m
    else ((((m.modWeir fun w => { w with
          returns := w.returns + 1
          lastChain := if m.chainsBare.contains (8 * b + l) then w.lastChain else 8 * b + l }).modBsn b fun x =>
        { x with chains := x.chains.set l r, lists := x.lists.modify l (· ++ [c]) }).setCtx c Ctx.ready).trace Trace.unspill l b c) := by
  unfold Dev.unspill
  simp only [hc]
  rfl

/-! ## Delivery (R292, R299) -/

/-- ARM is tried where the descriptor asks it, and the burst stands delivered with ARM's code. -/
def Dev.endDelivery (m : Dev) (b c : Nat) : Dev :=
  let q := if m.descFlag c 0 then m.burstArm b c else (m, 0)
  q.1.modDeck b fun k => { k with delivered := true, setupDone := true, armCode := q.2 }

theorem Dev.endDelivery_armed {c : Nat} (h : m.descFlag c 0 = true) : m.endDelivery b c =
    (m.burstArm b c).1.modDeck b fun k => { k with delivered := true, setupDone := true, armCode := (m.burstArm b c).2 } := by
  unfold Dev.endDelivery
  rw [if_pos h]

theorem Dev.endDelivery_unarmed {c : Nat} (h : m.descFlag c 0 = false) : m.endDelivery b c =
    m.modDeck b fun k => { k with delivered := true, setupDone := true, armCode := 0 } := by
  unfold Dev.endDelivery
  rw [if_neg (ne_true_of_eq_false h)]

/-- A delivery that is due and whose setup list l was read intact drops the burst where an entry may not be written, and otherwise applies
every entry and takes the timing and deskew values. -/
theorem Dev.deliver_eq {x y z : Dev} {d : Deck} {ecc : Ecc} {a : Nat} {l : List (Nat × Nat)} (hd : (m.bsn b).deck = some d)
    (hnew : d.delivered = false) (hdue : ¬ m.tick < d.tick + 3) (ha : (m.part (m.bdef b).coursePart).base + m.desc d.ctx 16 8 = a)
    (hl : ((List.range (m.desc d.ctx 10 2)).map fun i => (m.mem (a + 8 * i) 4, m.mem (a + 8 * i + 4) 4)) = l)
    (hx : (if m.desc d.ctx 10 2 = 0 then (m, true) else m.readUnit b Cls.house a ecc) = (x, true))
    (hy : (x.each l fun m e => m.setupWrite b e).takeTiming b = y)
    (hz : (y.each (y.allPins b) fun m p => (m.takeDeck (Reg.PIN_DSK_DRV p)).takeDeck (Reg.PIN_DSK_CMP p)) = z) : m.deliver b ecc =
    if l.any fun e => !m.setupOk b e.1 then (x.dropDeck b 0x0F 0x07).idleCheck b else z.endDelivery b d.ctx := by
  subst ha hl hy hz
  unfold Dev.deliver
  simp only [hd, hnew, hdue, hx, decide_false, Bool.or_self, Bool.not_true, Bool.false_eq_true, if_false]
  rfl

/-! ## On deck, primed and started (R298, R299, R300) -/

/-- A delivered burst whose tick has come enters the slot. -/
theorem Dev.enterDeck_eq {x y z : Dev} {d : Deck} (hd : (m.bsn b).deck = some d) (hdel : d.delivered = true) (hoff : d.onDeck = false)
    (hdue : ¬ m.tick < d.tick + 4)
    (hx : (m.each (m.lanes b) fun n p => n.modPin p fun x => { x with rDeck := n.seek b false 64 (m.desc d.ctx 8 2) }) = x)
    (hy : (x.each (x.deltasOf b) fun n k => n.setDelta k { n.delta k with deckPtr := n.seek b true 64 (m.desc d.ctx 8 2) }) = y)
    (hz : y.put (F.BSN_RES_LOAD_STATE b) (flag (m.descFlag d.ctx 3)) = z) : m.enterDeck b = z.modDeck b fun k => { k with
      onDeck := true, asked := z.tick
      lockFirst := if m.descFlag d.ctx 3 then z.mem (m.resBlock b d.ctx) 2 % 2048 else 0
      lockCount := if m.descFlag d.ctx 3 then z.mem (m.resBlock b d.ctx + 2) 2 else 0 } := by
  subst hx hy hz
  unfold Dev.enterDeck
  simp only [hd, hdel, hoff, hdue, decide_false, Bool.or_self, Bool.not_true, Bool.false_eq_true, if_false]

/-- The burst in the slot becomes primed where it was not and holds all it needs. -/
theorem Dev.prime_eq {d : Deck} (hd : (m.bsn b).deck = some d) (t : Instant) : m.prime b t =
    if d.primedAt.isNone && m.primed b d then m.modDeck b fun d => { d with primedAt := some t } else m := by
  unfold Dev.prime
  rw [hd]

/-- A start whose tick has come starts the burst, or drops it where the devices of its span disagree. -/
theorem Dev.startFromHold_eq {d : Deck} {n : Nat} (hd : (m.bsn b).deck = some d) (hr : (m.bsn b).run = none) (hn : d.startTick = some n)
    (hdue : n ≤ m.tick) : m.startFromHold b =
    if m.spanAgrees b then m.startBurst b false m.now else (m.dropDeck b 0x0D 0).idleCheck b := by
  unfold Dev.startFromHold
  simp only [hd, hr, hn, hdue, Option.isSome_none, Option.any_some, decide_true, Bool.not_true, Bool.or_self, Bool.false_eq_true, if_false]
  cases m.spanAgrees b <;> rfl

/-! ## The pre-spin ramp (R420, R421) -/

/-- Lane i of basin b passes to the pre-spin word. -/
def Dev.rampPin (m : Dev) (b i : Nat) (lanes : List Nat) (addr : Nat) : Dev :=
  let p := lanes.getD i 0
  let h := if (m.bsn b).hold.isSome then m.playHoldPin b m.now p else m
  ((h.modPin p fun x => { x with ramped := some h.now, holdAt := h.now, holdFresh := true }).put (F.PIN_ENG_STAT_STATE p) 5).put
    (F.PIN_ENG_PC_ADDR p) addr

/-- A ramp step that is due, whose pre-spin word passed its check at the ramp's beginning, moves the pins of its share. -/
theorem Dev.rampStep_eq {a : Dev} {n k : Nat} (hn : (m.bsn b).rampStart = some n) (hk : (m.bsn b).ramp = k) (hdue : ¬ m.tick < n + k)
    (hleft : ¬ (m.bdef b).prespinTicks ≤ k) (ha : (if k = 0 then m.checkHold b (m.bdef b).prespinAddr m.now else (m, true)) = (a, true)) :
    m.rampStep b =
    (a.each ((List.range (a.lanes b).length).filter fun i => i * (m.bdef b).prespinTicks / max 1 (a.lanes b).length == k) fun m' i =>
      m'.rampPin b i (a.lanes b) (m.bdef b).prespinAddr).modBsn b fun x => { x with ramp := k + 1 } := by
  subst hk
  unfold Dev.rampStep
  simp only [hn, hdue, hleft, ha, decide_false, Bool.or_self, Bool.not_true, Bool.false_eq_true, if_false]
  rfl

end

/-- Settles O32: each command has the effect of its case. -/
theorem burstsComeOnDeckAndStart : Obligations.BurstsComeOnDeckAndStart := by
  refine ⟨?unspills, ?delivers, ?enters, ?primes, ?starts, ?ramps, ?pads⟩
  case unspills =>
    rintro s _ b l c r hs rfl hc
    have hunspill := Dev.unspill_eq hc
    exact ⟨fun h => State.act_pays_eq (f := (·.unspill b l)) hs (hunspill.trans (if_neg (ne_true_of_eq_false h))),
      fun h => State.act_still (f := (·.unspill b l)) hs (hunspill.trans (if_pos h))⟩
  case delivers =>
    rintro s _ x b d ecc a l hs rfl hd hnew hdue ha hl hx
    have hdeliver := Dev.deliver_eq hd hnew hdue ha hl hx rfl rfl
    refine ⟨fun h => State.act_pays_eq (f := (·.deliver b ecc)) hs (hdeliver.trans (if_pos h)), ?_⟩
    rintro _ _ h rfl rfl
    have happlied := hdeliver.trans (if_neg (ne_true_of_eq_false h))
    exact ⟨fun harm => State.act_pays_eq (f := (·.deliver b ecc)) hs (happlied.trans (Dev.endDelivery_armed harm)),
      fun harm => State.act_pays_eq (f := (·.deliver b ecc)) hs (happlied.trans (Dev.endDelivery_unarmed harm))⟩
  case enters =>
    rintro s _ x y z b d hs rfl hd hdel hoff hdue hx hy hz
    exact State.act_pays_eq (f := (·.enterDeck b)) hs (Dev.enterDeck_eq hd hdel hoff hdue hx hy hz)
  case primes =>
    rintro s _ b d t hs rfl hd
    have hprime := Dev.prime_eq (m := s.start) hd t
    refine ⟨fun hnone hprimed => State.act_pays_eq (f := (·.prime b t)) hs (hprime.trans (if_pos ?_)),
      fun hno => State.act_still (f := (·.prime b t)) hs (hprime.trans (if_neg ?_))⟩
    · rw [hnone, hprimed]
      rfl
    · rw [hno, Bool.and_false]
      exact Bool.false_ne_true
  case starts =>
    rintro s _ b d n hs rfl hd hr hn hdue
    have hstart := Dev.startFromHold_eq hd hr hn hdue
    exact ⟨fun h => State.act_pays_eq (f := (·.startFromHold b)) hs (hstart.trans (if_neg (ne_true_of_eq_false h))),
      fun h => State.act_pays_eq (f := (·.startFromHold b)) hs (hstart.trans (if_pos h))⟩
  case ramps =>
    rintro s _ a b n k hs rfl hn hk hdue hleft ha
    exact State.act_pays_eq (f := (·.rampStep b)) hs (Dev.rampStep_eq hn hk hdue hleft ha)
  case pads =>
    rintro s _ b hs rfl
    exact ⟨fun h => State.act_pays_eq (f := (·.minBurstExpire b)) hs (if_pos h),
      fun h => State.act_still (f := (·.minBurstExpire b)) hs (if_neg (ne_true_of_eq_false h))⟩

end Sys2Proof.Machine
end

section
/-! Playing words (R92, R94, R96 to R98, R107, R121): what a whole playing word comes to, and the six commands that play one. -/

namespace Sys2Proof.Machine

section
variable {m c q : Dev} {b k : Nat} {seen : Seen} {after : Dev → AtHand → Dev} {h : AtHand} (ha : m.atHand b = some h) (hk : wKind h.word = k)
include ha hk

/-- A word that fails its checks has the effect of the check alone. -/
theorem Dev.runWord_fails (hc : m.checkWord b h = (c, false)) : m.runWord b k seen after = c := by
  subst hk
  unfold Dev.runWord
  simp only [ha, hc, bne_self_eq_false, Bool.not_false, Bool.false_eq_true, if_true, if_false]

/-- A word that passes its checks begins and plays; unless its engines were halted, it then completes. -/
theorem Dev.runWord_plays (hc : m.checkWord b h = (c, true))
    (hq : (c.beginWord b h 2).1.playWord b h ((m.bsn b).tset != wTset h.word) (c.beginWord b h 2).2 seen
      ((wSpan h.word + 1) * passesOf h.word / max 1 (m.spv b (wTset h.word))) = q) :
    m.runWord b k seen after = if (q.bsn b).run.any (·.halted) then q else after q h := by
  subst hk hq
  unfold Dev.runWord
  simp only [ha, hc, bne_self_eq_false, Bool.not_true, Bool.false_eq_true, if_false]

end

/-- How a RUN word completes (R96): a tail word ends the pass, another goes to ALT on its decision and else to NEXT. -/
def Dev.endRun (m : Dev) (b : Nat) (h : AtHand) : Dev :=
  if h.tail then m.endWord b h 3 toNext
  else if (m.takeDecision b (wCond h.word)).2 then (m.takeDecision b (wCond h.word)).1.endWord b h 2 toAddr2
  else (m.takeDecision b (wCond h.word)).1.endWord b h 1 toNext

theorem Dev.endRun_tail {m : Dev} {b : Nat} {h : AtHand} (ht : h.tail = true) : m.endRun b h = m.endWord b h 3 toNext := if_pos ht

theorem Dev.endRun_inner {m : Dev} {b : Nat} {h : AtHand} (ht : h.tail = false) : m.endRun b h =
    if (m.takeDecision b (wCond h.word)).2 then (m.takeDecision b (wCond h.word)).1.endWord b h 2 toAddr2
    else (m.takeDecision b (wCond h.word)).1.endWord b h 1 toNext := if_neg (ne_true_of_eq_false ht)

/-- A RUN word is of no reserved kind, and plays as a whole word does (R96, R103). -/
theorem Dev.wordRun_eq {m : Dev} {b : Nat} {seen : Seen} {h : AtHand} (ha : m.atHand b = some h) (hk : wKind h.word = Kind.run) :
    m.wordRun b seen = m.runWord b Kind.run seen (·.endRun b ·) := by
  have hplain : ¬ 10 ≤ wKind h.word := by rw [hk]; decide
  unfold Dev.wordRun
  simp only [ha]
  exact if_neg hplain

/-! ## As commands -/

section
variable {s : State} {f : Dev → Dev} {c q : Dev} {b k : Nat} {seen : Seen} {after : Dev → AtHand → Dev} {h : AtHand}
  (hs : s.acts) (hf : f s.start = s.start.runWord b k seen after)
include hs hf

theorem State.playing_fails (ha : s.start.atHand b = some h) (hc : s.start.checkWord b h = (c, false)) (hk : wKind h.word = k) :
    s.act f = s.becomes c.payOwed :=
  State.act_pays_eq hs (hf.trans (Dev.runWord_fails ha hk hc))

section
variable (hplays : s.start.runWord b k seen after = if (q.bsn b).run.any (·.halted) then q else after q h)
include hplays

theorem State.playing_halts (hh : (q.bsn b).run.any (·.halted) = true) : s.act f = s.becomes q.payOwed :=
  State.act_pays_eq hs (hf.trans (hplays.trans (if_pos hh)))

theorem State.playing_completes (hh : (q.bsn b).run.any (·.halted) = false) : s.act f = s.becomes (after q h).payOwed :=
  State.act_pays_eq hs (hf.trans (hplays.trans (if_neg (ne_true_of_eq_false hh))))

end

end

/-- Settles O16: each of the six commands plays the word at hand as a whole word, with a completion of its own. -/
theorem playingWordsPlayAndGoOn : Obligations.PlayingWordsPlayAndGoOn := by
  refine ⟨?plays, ?fails⟩
  case plays =>
    rintro s _ c q b seen h hs rfl ha hc hq
    have hplays : ∀ {k after}, wKind h.word = k → s.start.runWord b k seen after = if (q.bsn b).run.any (·.halted) then q else after q h :=
      fun hk => Dev.runWord_plays ha hk hc hq
    refine ⟨fun hh => ?completes, fun hh => ?halts⟩
    case completes =>
      refine ⟨fun hk ht => Dev.endRun_tail (m := q) (b := b) ht ▸ ?tail, fun hk ht => Dev.endRun_inner (m := q) (b := b) ht ▸ ?inner,
        fun hk => State.playing_completes (f := (·.wordRepeat b seen)) hs rfl (hplays hk) hh,
        fun hk => State.playing_completes (f := (·.wordLoopBegin b seen)) hs rfl (hplays hk) hh,
        fun hk => State.playing_completes (f := (·.wordLoopEnd b seen)) hs rfl (hplays hk) hh,
        fun hk => State.playing_completes (f := (·.wordCall b seen)) hs rfl (hplays hk) hh,
        fun hk => State.playing_completes (f := (·.wordReturn b seen)) hs rfl (hplays hk) hh⟩
      all_goals exact State.playing_completes (f := (·.wordRun b seen)) hs (Dev.wordRun_eq ha hk) (hplays hk) hh
    case halts =>
      exact ⟨fun hk => State.playing_halts (f := (·.wordRun b seen)) hs (Dev.wordRun_eq ha hk) (hplays hk) hh,
        fun hk => State.playing_halts (f := (·.wordRepeat b seen)) hs rfl (hplays hk) hh,
        fun hk => State.playing_halts (f := (·.wordLoopBegin b seen)) hs rfl (hplays hk) hh,
        fun hk => State.playing_halts (f := (·.wordLoopEnd b seen)) hs rfl (hplays hk) hh,
        fun hk => State.playing_halts (f := (·.wordCall b seen)) hs rfl (hplays hk) hh,
        fun hk => State.playing_halts (f := (·.wordReturn b seen)) hs rfl (hplays hk) hh⟩
  case fails =>
    rintro s _ c b seen h hs rfl ha hc
    exact ⟨fun hk => State.playing_fails (f := (·.wordRun b seen)) hs (Dev.wordRun_eq ha hk) ha hc hk,
      State.playing_fails (f := (·.wordRepeat b seen)) hs rfl ha hc, State.playing_fails (f := (·.wordLoopBegin b seen)) hs rfl ha hc,
      State.playing_fails (f := (·.wordLoopEnd b seen)) hs rfl ha hc, State.playing_fails (f := (·.wordCall b seen)) hs rfl ha hc,
      State.playing_fails (f := (·.wordReturn b seen)) hs rfl ha hc⟩

end Sys2Proof.Machine
end

section
/-! Waits and the words that do not play (R92, R95, R99 to R102): one equation for each case. -/

namespace Sys2Proof.Machine

section
variable {m c : Dev} {b : Nat} {h : AtHand} (ha : m.atHand b = some h)
include ha

/-! ## WAIT (R95) -/

section
variable {seen : Seen} (hk : wKind h.word = Kind.wait) (hd : h.run.timeoutDue = false)
include hk hd

theorem Dev.wordWait_fails (hw : h.run.waits = 0) (hc : m.checkWord b h = (c, false)) : m.wordWait b seen = c := by
  unfold Dev.wordWait
  simp only [ha, hk, hd, hw, hc, bne_self_eq_false, Bool.or_self, beq_self_eq_true, Bool.not_false, Bool.false_eq_true, if_true, if_false]

/-- A later repetition that would carry a streamed pass past its granules plays no further (R129). -/
theorem Dev.wordWait_past (hw : h.run.waits ≠ 0)
    (hp : (m.courseCodes b h.entry h.run h.word h.streamed h.tail (h.run.waits + 1)).contains 0x06 = true) :
    m.wordWait b seen = m.courseFault b 0x06 h.run.entry (m.bsn b).pos := by
  have hlater : (h.run.waits == 0) = false := beq_eq_false_iff_ne.mpr hw
  unfold Dev.wordWait
  simp only [ha, hk, hd, hlater, hp, bne_self_eq_false, Bool.or_self, Bool.not_false, Bool.not_true, Bool.and_self, Bool.false_eq_true, if_true,
    if_false]

/-- A repetition, which begins the word where it is the first, plays one vector. -/
theorem Dev.wordWait_plays {r : Dev × Instant} (hc : (if h.run.waits = 0 then m.checkWord b h else (m, true)) = (c, true))
    (hp : h.run.waits ≠ 0 → (m.courseCodes b h.entry h.run h.word h.streamed h.tail (h.run.waits + 1)).contains 0x06 = false)
    (hr : (if h.run.waits = 0 then c.beginWord b h 3 else (m, (m.bsn b).pos)) = r) : m.wordWait b seen =
    (((r.1.put (F.BSN_FLOW_STAT_WAITING b) 1).modRun b fun x =>
      { x with waits := x.waits + 1, waitStart := if h.run.waits = 0 then r.2 else x.waitStart }).playWord b h ((m.bsn b).tset != wTset h.word)
      r.2 seen 1).waitBoundary b h (if h.run.waits = 0 then r.2 else h.run.waitStart) := by
  have hwithin : (!(h.run.waits == 0) &&
      (m.courseCodes b h.entry h.run h.word h.streamed h.tail (h.run.waits + 1)).contains 0x06) = false := by
    rw [Bool.and_eq_false_imp, Bool.not_eq_true', beq_eq_false_iff_ne]
    exact hp
  subst hr
  unfold Dev.wordWait
  simp only [ha, hk, hd, hwithin, beq_iff_eq, hc, bne_self_eq_false, Bool.or_self, Bool.not_true, Bool.false_eq_true, if_false]

end

/-- The timeout of a WAIT that is due it. -/
theorem Dev.waitTimeout_due {a : Dev} (hd : h.run.timeoutDue = true)
    (hx : (m.put (F.BSN_FLOW_STAT_TIMEOUT b) 1).put (F.BSN_FLOW_STAT_WAITING b) 0 = a) : m.waitTimeout b =
    (if a.getForce (F.BSN_FLOW_CTL_TO_EVENT_EN b) = 1 then
      a.registerEvent b (a.getForce (F.BSN_FLOW_CTL_TO_EVENT b)) ((a.bsn b).pos - a.flowLat b) else a).endWord b h 1 toNext := by
  subst hx
  unfold Dev.waitTimeout
  simp only [ha, hd, beq_iff_eq, Bool.not_true, Bool.false_eq_true, if_false]

/-! ## Words that do not play (R92, R99, R102) -/

section
variable {k : Nat} {act : Dev → Nat × VecWord → Dev} (hk : wKind h.word = k)
include hk

theorem Dev.runSilent_fails (hc : m.checkWord b h = (c, false)) : m.runSilent b k act = c := by
  subst hk
  unfold Dev.runSilent
  simp only [ha, hc, bne_self_eq_false, Bool.not_false, Bool.false_eq_true, if_true, if_false]

theorem Dev.runSilent_acts (hc : m.checkWord b h = (c, true)) : m.runSilent b k act =
    ((((c.decode h).signWords h.words).each h.words act).each h.words fun m q => m.modPin q.1 fun x => { x with nonPlay := x.nonPlay + 1 }).endWord
      b h 1 toNext := by
  subst hk
  unfold Dev.runSilent
  simp only [ha, hc, bne_self_eq_false, Bool.not_true, Bool.false_eq_true, if_false]

end

section
variable (hk : wKind h.word = Kind.halt)
include hk

theorem Dev.wordHalt_fails (hc : m.checkWord b h = (c, false)) : m.wordHalt b = c := by
  unfold Dev.wordHalt
  simp only [ha, hk, hc, bne_self_eq_false, Bool.not_false, Bool.false_eq_true, if_true, if_false]

theorem Dev.wordHalt_ends (hc : m.checkWord b h = (c, true)) : m.wordHalt b =
    (((c.decode h).signWords h.words).each h.words fun m q => m.modPin q.1 fun x => { x with nonPlay := x.nonPlay + 1 }).endNormally
      b 0x02 (m.bsn b).pos := by
  unfold Dev.wordHalt
  simp only [ha, hk, hc, bne_self_eq_false, Bool.not_true, Bool.false_eq_true, if_false]

end

end

/-- What follows a repetition (R95): nothing more where the engines were halted; else the wait ends on its decision, is due its timeout after the
COUNT-th repetition, or goes on. -/
theorem Dev.waitBoundary_eq (m : Dev) (b : Nat) (h : AtHand) (start : Instant) : m.waitBoundary b h start =
    if (m.bsn b).run.any (·.halted) = true then m
    else if (m.takeDecision b (wCond h.word)).2 = true ∧ (wCond h.word ≠ 13 ∨ start + m.flowLat b ≤ (m.bsn b).pos) then
      ((m.takeDecision b (wCond h.word)).1.endWord b h 1 toNext).put (F.BSN_FLOW_STAT_WAITING b) 0
    else if wCount h.word ≠ 0 ∧ wCount h.word ≤ h.run.waits + 1 then m.modRun b fun x => { x with timeoutDue := true }
    else m := by
  unfold Dev.waitBoundary
  simp only [Bool.and_eq_true, Bool.or_eq_true, bne_iff_ne, decide_eq_true_eq]

/-- Settles O17: each command has the effect of its case. -/
theorem waitsAndSilentWordsAct : Obligations.WaitsAndSilentWordsAct := by
  refine ⟨?repeats, ?past, ?fails, ?timeout, ?silent⟩
  case repeats =>
    rintro s _ c b seen h hs rfl ha hk hd hc hp
    exact State.act_pays_eq (f := (·.wordWait b seen)) hs ((Dev.wordWait_plays ha hk hd hc hp rfl).trans (Dev.waitBoundary_eq _ _ _ _))
  case past =>
    rintro s _ b seen h hs rfl ha hk hd hw hp
    exact State.act_pays_eq (f := (·.wordWait b seen)) hs (Dev.wordWait_past ha hk hd hw hp)
  case fails =>
    rintro s _ c b seen h hs rfl ha hc
    exact ⟨fun hk hd hw => State.act_pays_eq (f := (·.wordWait b seen)) hs (Dev.wordWait_fails ha hk hd hw hc),
      fun hk => State.act_pays_eq (f := (·.wordHalt b)) hs (Dev.wordHalt_fails ha hk hc),
      fun hk => State.act_pays_eq (f := (·.wordPalette b)) hs (Dev.runSilent_fails ha hk hc),
      fun hk => State.act_pays_eq (f := (·.wordLevelStage b)) hs (Dev.runSilent_fails ha hk hc)⟩
  case timeout =>
    rintro s _ b h hs rfl ha hd
    exact State.act_pays_eq (f := (·.waitTimeout b)) hs (Dev.waitTimeout_due ha hd rfl)
  case silent =>
    rintro s _ c b h hs rfl ha hc
    exact ⟨fun hk => State.act_pays_eq (f := (·.wordHalt b)) hs (Dev.wordHalt_ends ha hk hc),
      fun hk => State.act_pays_eq (f := (·.wordPalette b)) hs (Dev.runSilent_acts ha hk hc),
      fun hk => State.act_pays_eq (f := (·.wordLevelStage b)) hs (Dev.runSilent_acts ha hk hc)⟩

end Sys2Proof.Machine
end

section
/-! Vector results, sync points, link misses and basin events (R105, R106, R110, R113): one equation for each case. -/

namespace Sys2Proof.Machine

section
variable {m : Dev} {b : Nat} {t : Instant}

/-- The oldest result that waits is registered (R105, R106). -/
theorem Dev.vectorResult_oldest {a : Dev} {code : Nat} {rest : List (Instant × Nat)} (h : (m.bsn b).waiting = (t, code) :: rest)
    (ha : ((m.modBsn b fun x => { x with waiting := rest, results := timed x.results (t, code) }).put (F.BSN_FLOW_STAT_MATCH_PASS b)
      (flag (code % 4 == 1))).put (F.BSN_FLOW_STAT_MATCH_FAIL b) (flag (bitOf code 1)) = a) : m.vectorResult b =
    (if code % 4 == 1 then a.tellLeader b 11 t else if bitOf code 1 then a.tellLeader b 12 t else a).vectorOccurs b code t := by
  subst ha
  unfold Dev.vectorResult
  simp only [h]

/-- A sync point ends; it is diverged unless the engines agree here and, in a span, on the other devices (R113). -/
theorem Dev.syncVerdict_eq {agree others : Bool} (h : (m.bsn b).sync = some (t, agree)) : m.syncVerdict b others =
    if agree = true ∧ (others = true ∨ (m.bdef b).span = false) then m.modBsn b fun x => { x with sync := none }
    else ((m.modBsn b fun x => { x with sync := none }).put (F.BSN_FLOW_STAT_DIVERGED b) 1).report Src.flowDivergence b 0 t := by
  unfold Dev.syncVerdict
  simp only [h, Bool.and_eq_true, Bool.or_eq_true, Bool.not_eq_true']
  rfl

/-- A running basin of a span that this device does not lead reports the decision that it lacks (R110). -/
theorem Dev.flowMiss_reports (hspan : (m.bdef b).span = true) (hled : (m.bdef b).leader ≠ m.deviceIndex) (hrun : (m.bsn b).run.isSome = true) :
    m.flowMiss b t = m.report Src.flowLink b 0 t := by
  unfold Dev.flowMiss
  rw [hspan, bne_iff_ne.mpr hled, hrun]
  rfl

section
variable (hd : m.defined b = true)
include hd

/-- An edge sets the level of its line; a rising one takes effect (R105). -/
theorem Dev.eventRegister_eq (line : Nat) (rise : Bool) : m.eventRegister b line rise t =
    if rise then (m.setLevel rise (if line < 8 then 0x1100 + 8 * b + line else 0x1900 + b, t)).edgeAt
      (if line < 8 then 0x1100 + 8 * b + line else 0x1900 + b, t)
    else m.setLevel rise (if line < 8 then 0x1100 + 8 * b + line else 0x1900 + b, t) := by
  unfold Dev.eventRegister Dev.lineEdge
  rw [hd]
  rfl

theorem Dev.eventSet_eq (mask : Nat) :
    m.eventSet b mask = m.each (onesOf 8 mask) fun m e => m.registerEvent b e m.exchangeNow := if_pos hd

end

end

/-- Settles O18: each command has the effect of its case. -/
theorem flowVerdictsAndEventsAct : Obligations.FlowVerdictsAndEventsAct := by
  refine ⟨?result, ?verdict, ?miss, ?edge, ?written⟩
  case result =>
    intro s b t code rest hs h
    exact State.act_pays_eq (f := (·.vectorResult b)) hs (Dev.vectorResult_oldest h rfl)
  case verdict =>
    intro s b t agree others hs h
    exact State.act_pays_eq (f := (·.syncVerdict b others)) hs (Dev.syncVerdict_eq h)
  case miss =>
    intro s b t hs hspan hled hrun
    exact State.act_pays_eq (f := (·.flowMiss b t)) hs (Dev.flowMiss_reports hspan hled hrun)
  case edge =>
    intro s b l t hs hd
    exact ⟨State.act_pays_eq (f := (·.eventRegister b l true t)) hs (Dev.eventRegister_eq hd l true),
      State.act_pays_eq (f := (·.eventRegister b l false t)) hs (Dev.eventRegister_eq hd l false)⟩
  case written =>
    intro s b mask hs
    exact ⟨State.basinAct_pays_eq (f := (·.eventSet b mask.toNat)) hs (Dev.eventSet_eq (m := s.start) hs.2 mask.toNat),
      State.basinAct_eq (f := (·.eventClear b mask.toNat)) hs rfl hs.1.1.2⟩

end Sys2Proof.Machine
end

section
/-! The loop-store window (R81, R123): how an access starts and completes, and what a scrub does. -/

namespace Sys2Proof.Machine

section
variable {m a : Dev} {p : Nat} {write : Bool}

/-! ## The start of an access -/

theorem Dev.windowStart_refused (h : m.windowRefused p write = true) : m.windowStart p write = m.put (F.PIN_LS_CTL_REFUSED p) 1 := if_pos h

theorem Dev.windowStart_taken (h : m.windowRefused p write = false) (ha : m.put (F.PIN_LS_CTL_BUSY p) 1 = a) :
    m.windowStart p write = a.modPin p fun x => { x with window := some (write, a.get (F.PIN_LS_ADDR_ADDR p), a.windowData p) } := by
  subst ha
  exact if_neg (ne_true_of_eq_false h)

/-! ## Its completion -/

/-- The block once the access of a pin is no longer under way. -/
def Dev.windowClosed (m : Dev) (p : Nat) : Dev := (m.put (F.PIN_LS_CTL_BUSY p) 0).modPin p fun x => { x with window := none }

/-- The address of a window moves on after an access, where that is asked. -/
def Dev.windowStep (m : Dev) (p : Nat) : Dev :=
  if m.on (F.PIN_LS_ADDR_AUTOINC p) then m.put (F.PIN_LS_ADDR_ADDR p) (m.get (F.PIN_LS_ADDR_ADDR p) + 1) else m

section
variable {n : Nat} {w : VecWord}

theorem Dev.windowDone_writes (h : (m.pin p).window = some (true, n, w)) :
    m.windowDone p = ((m.windowClosed p).setWord (m.engineOf p) n w).windowStep p := by
  unfold Dev.windowDone
  rw [h]
  rfl

theorem Dev.windowDone_reads (h : (m.pin p).window = some (false, n, w)) :
    m.windowDone p = ((m.windowClosed p).storeRead p (m.engineOf p) n).windowStep p := by
  unfold Dev.windowDone
  rw [h]
  rfl

end

/-! ## The word that a read brings (R81) -/

/-- PIN_LS_DATA takes a word of a store. -/
def Dev.showWord (m : Dev) (p e n : Nat) : Dev :=
  m.each (List.range 8) fun x k => x.setReg (Reg.PIN_LS_DATA p k) (bitsOf (x.word e n).toNat (32 * k + 31) (32 * k))

section
variable {e n : Nat}

/-- What a word with two flipped bits reads as is free. -/
theorem Dev.storeRead_free (h : m.flip e n = 2) : m.storeRead p e n =
    { m.each (List.range 8) (fun x k => x.setReg (Reg.PIN_LS_DATA p k) (Config.freeValue 32 (x.drawn + k)).toNat) with drawn := m.drawn + 8 } := by
  unfold Dev.storeRead
  rw [h]
  rfl

/-- A single flipped bit is corrected and reported. -/
theorem Dev.storeRead_corrects (h : m.flip e n = 1) : m.storeRead p e n = (m.report Src.storeCorrected p 0 m.now).showWord p e n := by
  unfold Dev.storeRead
  rw [h]
  rfl

theorem Dev.storeRead_clean (hfree : m.flip e n ≠ 2) (hsingle : m.flip e n ≠ 1) : m.storeRead p e n = m.showWord p e n := by
  unfold Dev.storeRead
  rw [beq_eq_false_iff_ne.mpr hfree, beq_eq_false_iff_ne.mpr hsingle]
  rfl

/-- What a read brings, by the flipped bits of its word. -/
theorem Dev.storeRead_eq : m.storeRead p e n =
    if m.flip e n = 2 then
      { m.each (List.range 8) (fun x k => x.setReg (Reg.PIN_LS_DATA p k) (Config.freeValue 32 (x.drawn + k)).toNat) with drawn := m.drawn + 8 }
    else if m.flip e n = 1 then (m.report Src.storeCorrected p 0 m.now).showWord p e n
    else m.showWord p e n := by
  split
  · next hfree => exact Dev.storeRead_free hfree
  · next hfree =>
    split
    · next hsingle => exact Dev.storeRead_corrects hsingle
    · next hsingle => exact Dev.storeRead_clean hfree hsingle

end

end

/-- Settles O19: each command has the effect of its case. -/
theorem loopStoreIsAccessed : Obligations.LoopStoreIsAccessed := by
  refine ⟨?refused, ?write, ?read, ?written, ?answered, ?scrub⟩
  case refused =>
    intro s p hs h
    exact State.hostAct_eq (f := (·.windowStart p true)) hs (Dev.windowStart_refused h) hs.1.2
  case write =>
    intro s p hs h
    exact State.hostAct_eq (f := (·.windowStart p true)) hs (Dev.windowStart_taken h rfl) hs.1.2
  case read =>
    intro s p hs h
    exact State.hostAct_eq (f := (·.windowStart p false)) hs (Dev.windowStart_taken h rfl) hs.1.2
  case written =>
    rintro s _ _ p n w hs rfl h rfl
    exact State.act_pays_eq (f := (·.windowDone p)) hs (Dev.windowDone_writes h)
  case answered =>
    rintro s _ _ p n w hs rfl h rfl
    exact State.act_pays_eq (f := (·.windowDone p)) hs
      ((Dev.windowDone_reads h).trans (congrArg (·.windowStep p) Dev.storeRead_eq))
  case scrub =>
    intro s e hs
    exact State.act_pays_eq (f := (·.storeScrub e)) hs rfl

end Sys2Proof.Machine
end

section
/-! What writes through BAR2, landing entries and loop-store accesses leave alone (R123, R315, R457, R467). -/

namespace Sys2Proof.Machine

/-! ## Bytes written where the host may write -/

/-- What a byte written leaves as it was, a list of bytes written does. -/
theorem Dev.putBytes_pres {β : Type} (g : Dev → β) (skip : Nat → Bool) (l : List Byte) (m : Dev) (a : Nat)
    (hbyte : ∀ m k v, g (Dev.setByte m k v) = g m := by intros; rfl) : g (m.putBytes skip a l) = g m := by
  induction l generalizing m a with
  | nil => rfl
  | cons v t ih =>
    refine (ih _ (a + 1)).trans ?_
    split
    · exact hbyte m a v
    · rfl

section
variable {skip : Nat → Bool}

theorem Dev.byte_putBytes_other {k : Nat} (l : List Byte) (m : Dev) (a : Nat) (h : k < a ∨ a + l.length ≤ k) :
    (m.putBytes skip a l).byte k = m.byte k := by
  induction l generalizing m a with
  | nil => rfl
  | cons v t ih =>
    rw [List.length_cons] at h
    refine (ih _ (a + 1) (by omega)).trans ?_
    split
    · exact Dev.byte_setByte_other m v (by omega)
    · rfl

/-- The byte at each address holds what was written to it where the host may write there and it is not skipped. -/
theorem Dev.byte_putBytes (l : List Byte) {m : Dev} (hc : m.canonical) (a i : Nat) (h : i < l.length) :
    (m.putBytes skip a l).byte (a + i) = if m.hostMay (a + i) && !skip (a + i) then l[i] else m.byte (a + i) := by
  induction l generalizing m a i with
  | nil => exact absurd h (Nat.not_lt_zero i)
  | cons v t ih =>
    cases i with
    | zero =>
      refine (Dev.byte_putBytes_other t _ (a + 1) (Or.inl (Nat.lt_succ_self a))).trans ?_
      rw [Nat.add_zero, List.getElem_cons_zero]
      split
      · exact Dev.byte_setByte_same hc a v
      · rfl
    | succ i =>
      obtain ⟨n, hn⟩ : ∃ n, n = if m.hostMay a && !skip a then m.setByte a v else m := ⟨_, rfl⟩
      have hrest : n.canonical ∧ n.hostMay (a + 1 + i) = m.hostMay (a + 1 + i) ∧ n.byte (a + 1 + i) = m.byte (a + 1 + i) := by
        rw [hn]
        split
        · exact ⟨Dev.setByte_keeps hc a v, rfl, Dev.byte_setByte_other m v (by omega)⟩
        · exact ⟨hc, rfl, rfl⟩
      obtain ⟨hcanon, hmay, hbyte⟩ := hrest
      have htail := ih hcanon (a + 1) i (Nat.lt_of_succ_lt_succ h)
      rw [hmay, hbyte] at htail
      rw [Nat.add_right_comm, Nat.add_assoc] at htail
      unfold Dev.putBytes
      rw [← hn, List.getElem_cons_succ]
      exact htail

end

/-! ## Writes through BAR2 (R315, R457) -/

/-- n differs from m in the bytes of l, written from address a on where the host may write while HBM is open, in Sluice's account of requests, and in
GLB_WIN_STAT. -/
structure Dev.WindowWritten (m n : Dev) (a : Nat) (l : List Byte) : Prop where
  outside : ∀ k, k < a ∨ a + l.length ≤ k → n.byte k = m.byte k
  inside : ∀ i (h : i < l.length), n.byte (a + i) =
    if m.on F.SLC_STAT_AVAIL = true ∧ m.on F.LEV_STAT_SEALED = false ∧ m.hostMay (a + i) = true then l[i] else m.byte (a + i)
  reg : ∀ r, r ≠ Reg.GLB_WIN_STAT → n.reg r = m.reg r
  store : n.store = m.store
  out : n.out = m.out
  lev : n.lev = m.lev

section
variable {m n : Dev} {a : Nat} {l : List Byte}

/-- A count in GLB_WIN_STAT changes none of that. -/
theorem Dev.WindowWritten.count (h : m.WindowWritten n a l) (v : Nat) : m.WindowWritten (n.count F.GLB_WIN_STAT_DROPPED v) a l :=
  ⟨h.outside, h.inside, fun r hr => (Dev.reg_setReg_other n _ hr).trans (h.reg r hr), h.store, h.out, h.lev⟩

/-- While HBM is closed nothing is written. -/
theorem Dev.WindowWritten.closed (h : (m.on F.SLC_STAT_AVAIL && !m.on F.LEV_STAT_SEALED) = false) : m.WindowWritten m a l := by
  refine ⟨fun _ _ => rfl, fun i hi => ?_, fun _ _ => rfl, rfl, rfl, rfl⟩
  rw [if_neg]
  rintro ⟨havail, hsealed, -⟩
  rw [havail, hsealed] at h
  exact Bool.false_ne_true h.symm

/-- While it is open, the bytes are written. -/
theorem Dev.WindowWritten.opened (hc : m.canonical) (h : (m.on F.SLC_STAT_AVAIL && !m.on F.LEV_STAT_SEALED) = true) {skip : Nat → Bool}
    (hskip : ∀ k, skip k = false) (k : Nat) : m.WindowWritten (((m.touch a).askHost k).putBytes skip a l) a l := by
  rw [Bool.and_eq_true, Bool.not_eq_true'] at h
  refine ⟨fun _ => Dev.byte_putBytes_other l _ a, fun i hi => ?_, fun r _ => Dev.putBytes_pres (Dev.reg · r) skip l _ a,
    Dev.putBytes_pres Dev.store skip l _ a, Dev.putBytes_pres Dev.out skip l _ a, Dev.putBytes_pres Dev.lev skip l _ a⟩
  refine (Dev.byte_putBytes l (Dev.askHost_keeps k (Dev.touch_keeps a hc)) a i hi).trans ?_
  simp only [hskip, h, Bool.not_false, Bool.and_true, true_and]
  rfl

end

/-- Where a partial word reads clean, an open window stores the bytes, and counts a write with bytes elsewhere. -/
theorem Dev.windowWrite_open {m y : Dev} {o : Nat} {l : List Byte} (ht : m.inTest = false)
    (h : (m.on F.SLC_STAT_AVAIL && !m.on F.LEV_STAT_SEALED) = true)
    (hy : ((m.touch (m.windowAddr o)).askHost (writeUnits (m.windowAddr o) l.length)).putBytes (keptOut (m.windowAddr o) l.length .good)
      (m.windowAddr o) l = y) : m.windowWrite o l .good =
    if (List.range l.length).all fun i => m.hostMay (m.windowAddr o + i) then y else y.count F.GLB_WIN_STAT_DROPPED 1 := by
  have hclean : ∀ w, (if m.hostMay w then m.rmwMeets w .good else m) = m := fun _ => ite_self m
  subst hy
  unfold Dev.windowWrite
  cases hp : partWord (m.windowAddr o) l.length <;> simp only [ht, h, hp, hclean, Bool.not_true, Bool.false_eq_true, if_false]

theorem Dev.windowWrite_closed {m : Dev} {o : Nat} {l : List Byte} {ecc : Ecc} (ht : m.inTest = false)
    (h : (m.on F.SLC_STAT_AVAIL && !m.on F.LEV_STAT_SEALED) = false) : m.windowWrite o l ecc = m.count F.GLB_WIN_STAT_DROPPED 1 := by
  unfold Dev.windowWrite
  simp only [ht, h, Bool.not_false, Bool.false_eq_true, if_true, if_false]

theorem Dev.windowWrite_written {m : Dev} (hc : m.canonical) (ht : m.inTest = false) (o : Nat) (l : List Byte) :
    m.WindowWritten (m.windowWrite o l .good) (m.windowAddr o) l := by
  cases hopen : m.on F.SLC_STAT_AVAIL && !m.on F.LEV_STAT_SEALED with
  | false =>
    rw [Dev.windowWrite_closed ht hopen]
    exact (Dev.WindowWritten.closed hopen).count 1
  | true =>
    have hwritten := Dev.WindowWritten.opened (a := m.windowAddr o) (l := l) (skip := keptOut (m.windowAddr o) l.length .good) hc hopen
      (fun _ => rfl) (writeUnits (m.windowAddr o) l.length)
    rw [Dev.windowWrite_open ht hopen rfl]
    split
    · exact hwritten
    · exact hwritten.count 1

/-! ## An entry that lands (R467) -/

section
variable {m : Dev} {q : Nat} {data : Block64}

theorem Dev.sqLand_none (h : m.weir.fetching.find? (fun e => e.1 == q) = none) : m.sqLand q data = m := by
  unfold Dev.sqLand
  rw [h]

theorem Dev.sqLand_oldest {n : Dev} {e : Nat × Nat} (h : m.weir.fetching.find? (fun e => e.1 == q) = some e)
    (hn : m.setMem (ctxAddr (q * 1024 + e.2)) 64 (data.toNat % 2 ^ 384) = n) : m.sqLand q data =
    n.modWeir fun w => { w with fetching := w.fetching.erase e, landed := w.landed ++ [⟨q * 1024 + e.2, data.toNat / 2 ^ 384 == 0⟩] } := by
  subst hn
  unfold Dev.sqLand
  rw [h]

end

/-! ## Loop-store accesses (R81, R123) -/

section
variable {m : Dev} {p : Nat}

/-- What register writes leave as it was, the address of a window that moves on does. -/
theorem Dev.windowStep_pres {β : Type} (g : Dev → β) (hreg : ∀ m o v, g (Dev.setReg m o v) = g m := by intros; rfl) :
    g (m.windowStep p) = g m := by
  unfold Dev.windowStep
  split
  · exact hreg _ _ _
  · rfl

/-- What register writes and drawn values leave as it was, a read that has nothing to report does. -/
theorem Dev.storeRead_pres {β : Type} (g : Dev → β) {e n : Nat} (h : m.flip e n ≠ 1)
    (hreg : ∀ m o v, g (Dev.setReg m o v) = g m := by intros; rfl)
    (hdrawn : ∀ (m : Dev) (v : Nat), g { m with drawn := v } = g m := by intros; rfl) : g (m.storeRead p e n) = g m := by
  by_cases hfree : m.flip e n = 2
  · rw [Dev.storeRead_free hfree]
    exact (hdrawn _ _).trans (Dev.each_frame g (fun x k => hreg x _ _) _ m)
  · rw [Dev.storeRead_clean hfree h]
    exact Dev.each_frame g (fun x k => hreg x _ _) _ m

theorem Dev.windowDone_none (h : (m.pin p).window = none) : m.windowDone p = m := by
  unfold Dev.windowDone
  rw [h]

/-- What register writes, drawn values and the closing of the window leave as it was, an access that stores no word and has nothing to report
does. -/
theorem Dev.windowDone_pres {β : Type} (g : Dev → β) (hwrite : ∀ n w, (m.pin p).window ≠ some (true, n, w))
    (hflip : ∀ n w, (m.pin p).window = some (false, n, w) → m.flip (m.engineOf p) n ≠ 1)
    (hreg : ∀ m o v, g (Dev.setReg m o v) = g m := by intros; rfl) (hpin : ∀ m q x, g (Dev.setPin m q x) = g m := by intros; rfl)
    (hdrawn : ∀ (m : Dev) (v : Nat), g { m with drawn := v } = g m := by intros; rfl) : g (m.windowDone p) = g m := by
  rcases h : (m.pin p).window with _ | ⟨_ | _, n, w⟩
  · rw [Dev.windowDone_none h]
  · rw [Dev.windowDone_reads h]
    have hread : (m.windowClosed p).flip (m.engineOf p) n ≠ 1 := hflip n w h
    exact (Dev.windowStep_pres g hreg).trans ((Dev.storeRead_pres g hread hreg hdrawn).trans ((hpin _ _ _).trans (hreg _ _ _)))
  · exact absurd h (hwrite n w)

/-- A write stores its word, and leaves what is no word of a store as it was. -/
theorem Dev.windowDone_stores {n : Nat} {w : VecWord} (h : (m.pin p).window = some (true, n, w)) :
    (m.windowDone p).store = (m.setWord (m.engineOf p) n w).store ∧ (m.windowDone p).hbm = m.hbm ∧ (m.windowDone p).lev = m.lev := by
  rw [Dev.windowDone_writes h]
  exact ⟨Dev.windowStep_pres Dev.store, Dev.windowStep_pres Dev.hbm, Dev.windowStep_pres Dev.lev⟩

end

theorem Dev.byte_congr {m n : Dev} (h : n.hbm = m.hbm) (a : Nat) : n.byte a = m.byte a := congrArg (Tbl.find 0 · a) h

theorem Dev.word_congr {m n : Dev} (h : n.store = m.store) (e a : Nat) : n.word e a = m.word e a := congrArg (Tbl.find 0 · (2048 * e + a)) h

/-- Settles O6: a write through BAR2 by `Dev.windowWrite_written`, an entry that lands by the rules of memory, and a loop-store access by whether it
stores a word. -/
theorem memoryChangesOnlyWhereItIsWritten : Obligations.MemoryChangesOnlyWhereItIsWritten := by
  refine ⟨?window, ?entry, ?access⟩
  case window =>
    intro s o data hs ht hc
    have hwritten := Dev.windowWrite_written (m := s.start) hc ht o data
    exact ⟨_, State.act_eq (f := (·.windowWrite o data .good)) hs rfl ((congrArg LevX.owed hwritten.lev).trans hs.2),
      hwritten.outside, hwritten.inside, hwritten.reg, hwritten.store, hwritten.out⟩
  case entry =>
    intro s q data hs
    cases hq : s.dev.weir.fetching.find? fun e => e.1 == q.val with
    | none =>
      refine ⟨s.start, State.act_still (f := (·.sqLand q data)) hs (Dev.sqLand_none hq), ?_, fun _ => rfl, fun _ => rfl, rfl, rfl⟩
      rintro _ _ ⟨⟩
    | some e =>
      obtain ⟨n, hn⟩ : ∃ n, s.start.setMem (ctxAddr (q * 1024 + e.2)) 64 (data.toNat % 2 ^ 384) = n := ⟨_, rfl⟩
      have hlev : n.lev = s.start.lev := hn ▸ Dev.setMem_lev _ _ _ _
      refine ⟨_, State.act_eq (f := (·.sqLand q data)) hs (Dev.sqLand_oldest hq hn) ((congrArg LevX.owed hlev).trans hs.2), ?_, nofun,
        fun r => (hn ▸ Dev.reg_setMem _ _ _ _ r : n.reg r = s.start.reg r), (hn ▸ Dev.setMem_store _ _ _ _ : n.store = s.start.store),
        (hn ▸ Dev.setMem_out _ _ _ _ : n.out = s.start.out)⟩
      rintro _ a ⟨⟩ hout
      exact (hn ▸ Dev.byte_setMem_other _ _ hout : n.byte a = s.start.byte a)
  case access =>
    intro s p hs hflip
    have hbecomes : (s.start.windowDone p).lev = s.start.lev → exec (.loopStoreAccessDone p) s = s.becomes (s.start.windowDone p) :=
      fun hlev => State.act_eq (f := (·.windowDone p)) hs rfl ((congrArg LevX.owed hlev).trans hs.2)
    by_cases hwrite : ∃ n w, (s.start.pin p).window = some (true, n, w)
    · obtain ⟨n, w, h⟩ := hwrite
      obtain ⟨hstore, hhbm, hlev⟩ := Dev.windowDone_stores h
      refine ⟨_, hbecomes hlev, Dev.byte_congr hhbm, fun e a hother => ?_, ?_⟩
      · exact (Dev.word_congr hstore e a).trans (Dev.word_setWord_other s.start w (hother n w h))
      · rintro n' w' hc h'
        cases h.symm.trans h'
        exact (Dev.word_congr hstore _ _).trans (Dev.word_setWord_same (m := s.start) hc _ _ _)
    · have hnone : ∀ n w, (s.start.pin p).window ≠ some (true, n, w) := fun n w h => hwrite ⟨n, w, h⟩
      refine ⟨_, hbecomes (Dev.windowDone_pres Dev.lev hnone hflip), Dev.byte_congr (Dev.windowDone_pres Dev.hbm hnone hflip),
        fun e a _ => Dev.word_congr (Dev.windowDone_pres Dev.store hnone hflip) e a, fun n w _ h => absurd h (hnone n w)⟩

end Sys2Proof.Machine
end

section
/-! Tones (R73, R105, R248 to R252): one equation for each case of enable, disable, the end of a shutdown, apply and zero crossing. -/

namespace Sys2Proof.Machine

section
variable {m x y : Dev} {b c ctl : Nat}

/-! ## Enable and shutdown (R73, R252) -/

/-- A tone that becomes enabled is loaded where its basin lets it run (R248). -/
theorem Dev.toneStart_eq (hy : (m.put (F.TON_CTL_ENABLE b c) 1).setTone b c { m.tone b c with enabled := true } = y) :
    m.toneStart b c = if y.playsNow b then y.loadTone b c (y.tick * 1024) else y := by
  subst hy
  rfl

section
variable (hx : m.toneFields b c ctl = x)
include hx

theorem Dev.toneEnable_shutting (h : x.on (F.TON_STAT_SHUTTING b c) = true) :
    m.toneEnable b c ctl = (x.put (F.TON_CTL_ENABLE b c) 1).put (F.TON_STAT_PENDING b c) 1 := by
  subst hx
  exact if_pos h

section
variable (h : x.on (F.TON_STAT_SHUTTING b c) = false)
include h

theorem Dev.toneEnable_enabled (he : (x.tone b c).enabled = true) : m.toneEnable b c ctl = x := by
  subst hx
  exact (if_neg (ne_true_of_eq_false h)).trans (if_pos he)

theorem Dev.toneEnable_starts (he : (x.tone b c).enabled = false) : m.toneEnable b c ctl = x.toneStart b c := by
  subst hx
  exact (if_neg (ne_true_of_eq_false h)).trans (if_neg (ne_true_of_eq_false he))

end

section
variable (hy : x.put (F.TON_CTL_ENABLE b c) 0 = y)
include hy

theorem Dev.toneDisable_eq : m.toneDisable b c ctl =
    if (y.tone b c).enabled then
      ((y.stopTone b c (y.tick * 1024)).put (F.TON_STAT_SHUTTING b c) 1).setTone b c
        { ((y.stopTone b c (y.tick * 1024)).put (F.TON_STAT_SHUTTING b c) 1).tone b c with enabled := false }
    else y.put (F.TON_STAT_PENDING b c) 0 := by
  subst hx hy
  rfl

end

end

theorem Dev.toneShutDone_eq (h : m.on (F.TON_STAT_SHUTTING b c) = true) (hx : m.put (F.TON_STAT_SHUTTING b c) 0 = x) :
    m.toneShutDone b c = if x.on (F.TON_STAT_PENDING b c) then (x.put (F.TON_STAT_PENDING b c) 0).toneStart b c else x := by
  subst hx
  unfold Dev.toneShutDone
  rw [h]
  rfl

/-! ## The apply point of a committed change (R249, R250) -/

section
variable {t : Instant}

theorem Dev.toneApply_none (h : m.toneDue b c t = none) : m.toneApply b c t = m := by
  unfold Dev.toneApply
  rw [h]

theorem Dev.toneApply_due {tt : Nat} (h : m.toneDue b c t = some tt) (hx : m.lookBasin b tt = x) :
    m.toneApply b c t = if (x.tone b c).mode then x.loadTone b c tt else x.shiftTone b c tt := by
  subst hx
  unfold Dev.toneApply
  rw [h]

section
variable {x : ToneX} (hx : m.tone b c = x) (hr : x.running = true) (hn : (x.nextFtw.isSome || x.nextPoff.isSome) = true)
include hx hr hn

/-- Where its tone runs, a committed change is due at a tick boundary or at a LOAD strobe. -/
theorem Dev.toneDue_running : m.toneDue b c t =
    if x.atLoad then x.loadAt.filter fun n => decide (n * eclk ≤ t) else if x.commitTick < m.tick then some (m.tick * 1024) else none := by
  have hstaged : (!x.running || (x.nextFtw.isNone && x.nextPoff.isNone)) = false := by
    rw [hr, ← Option.not_isSome, ← Option.not_isSome, ← Bool.not_or, hn]
    rfl
  subst hx
  exact if_neg (ne_true_of_eq_false hstaged)

theorem Dev.toneDue_atTick (h : x.atLoad = false) : m.toneDue b c t = if x.commitTick < m.tick then some (m.tick * 1024) else none :=
  (Dev.toneDue_running hx hr hn).trans (if_neg (ne_true_of_eq_false h))

theorem Dev.toneDue_atLoad {n : Nat} (h : x.atLoad = true) (hl : x.loadAt = some n) :
    m.toneDue b c t = if n * eclk ≤ t then some n else none := by
  have hfilter : (x.loadAt.filter fun n => decide (n * eclk ≤ t)) = if n * eclk ≤ t then some n else none := by
    simp only [hl, Option.filter_some, decide_eq_true_eq]
  exact ((Dev.toneDue_running hx hr hn).trans (if_pos h)).trans hfilter

end

end

end

/-- Settles O27: each command has the effect of its case; a change is due where its tone runs. -/
theorem tonesEnableChangeAndCross : Obligations.TonesEnableChangeAndCross := by
  refine ⟨?written, ?ended, ?committed, ?applied, ?due⟩
  case written =>
    rintro s _ x b c ctl hs rfl hx
    have henable : ∀ {z}, s.start.toneEnable b c ctl.toNat = z → exec (.toneEnable b c ctl) s = s.becomes z.payOwed :=
      State.basinAct_pays_eq (f := (·.toneEnable b c ctl.toNat)) hs
    have hdisable : ∀ {z}, s.start.toneDisable b c ctl.toNat = z → exec (.toneDisable b c ctl) s = s.becomes z.payOwed :=
      State.basinAct_pays_eq (f := (·.toneDisable b c ctl.toNat)) hs
    refine ⟨fun h => henable (Dev.toneEnable_shutting hx h), fun h he => henable (Dev.toneEnable_enabled hx h he), fun y h he hy => ?_, ?_,
      fun y hy he => hdisable ((Dev.toneDisable_eq hx hy).trans (if_neg (ne_true_of_eq_false he)))⟩
    · have hstart := (Dev.toneEnable_starts hx h he).trans (Dev.toneStart_eq hy)
      exact ⟨fun hp => henable (hstart.trans (if_pos hp)), fun hp => henable (hstart.trans (if_neg (ne_true_of_eq_false hp)))⟩
    · rintro y _ hy he rfl
      exact hdisable ((Dev.toneDisable_eq hx hy).trans (if_pos he))
  case ended =>
    rintro s _ x b c hs rfl h hx
    have hend := Dev.toneShutDone_eq h hx
    exact ⟨fun hp => State.act_pays_eq (f := (·.toneShutDone b c)) hs (hend.trans (if_pos hp)),
      fun hp => State.act_pays_eq (f := (·.toneShutDone b c)) hs (hend.trans (if_neg (ne_true_of_eq_false hp)))⟩
  case committed =>
    rintro s _ x b c value rfl
    refine ⟨?_, ?_⟩
    · rintro hs rfl
      exact State.basinAct_pays_eq (f := (·.ftwCommit b c value.toNat)) hs rfl
    · rintro hs rfl
      exact State.basinAct_pays_eq (f := (·.poffCommit b c value.toNat)) hs rfl
  case applied =>
    rintro s _ b c t hs rfl
    refine ⟨fun h => State.act_still (f := (·.toneApply b c t)) hs (Dev.toneApply_none h), fun tt a h ha => ?_,
      fun h => State.act_pays_eq (f := (·.toneCross b c t)) hs (if_pos h),
      fun h => State.act_still (f := (·.toneCross b c t)) hs (if_neg (ne_true_of_eq_false h))⟩
    have hdue := Dev.toneApply_due h ha
    exact ⟨fun hmode => State.act_pays_eq (f := (·.toneApply b c t)) hs (hdue.trans (if_pos hmode)),
      fun hmode => State.act_pays_eq (f := (·.toneApply b c t)) hs (hdue.trans (if_neg (ne_true_of_eq_false hmode)))⟩
  case due =>
    intro x m b c t hx hr hn
    exact ⟨Dev.toneDue_atTick hx hr hn, fun n => Dev.toneDue_atLoad hx hr hn⟩

end Sys2Proof.Machine
end

section
/-! Vutil links (R109, R301, R355 to R359): one equation for each case of training, cycles and time messages. -/

namespace Sys2Proof.Machine

section
variable {m x : Dev} {l : Nat}

/-! ## Enable, training and loss (R355 to R357) -/

section
variable {ctl : Nat} (hx : m.put (F.VTL_CTL_TRIG_TX l) (bitsOf ctl 31 16) = x)
include hx

theorem Dev.vtlEnable_eq : m.vtlEnable l ctl =
    if x.on (F.VTL_CTL_ENABLE l) then x else ((x.put (F.VTL_CTL_ENABLE l) 1).put (F.VTL_STAT_STATE l) Lnk.locking).setLink l {} := by
  subst hx
  rfl

theorem Dev.vtlDisable_eq : m.vtlDisable l ctl = (x.put (F.VTL_CTL_ENABLE l) 0).put (F.VTL_STAT_STATE l) Lnk.down := by
  subst hx
  rfl

end

theorem Dev.vtlLock_locks (h : m.lnkState l = Lnk.locking) : m.vtlLock l = m.put (F.VTL_STAT_STATE l) Lnk.waitAlign := if_pos (beq_iff_eq.mpr h)

theorem Dev.vtlCycles_starts (h : m.lnkState l = Lnk.waitAlign) (ha : m.on F.HDW_STAT_ALIGNED = true) :
    m.vtlCycles l = m.put (F.VTL_STAT_STATE l) Lnk.measuring := by
  unfold Dev.vtlCycles
  rw [h, ha]
  rfl

theorem Dev.vtlUp_measured (h : m.lnkState l = Lnk.measuring) (delay : Nat) :
    m.vtlUp l delay = (m.put (F.VTL_LAT_D l) (ceilDiv (delay + 32000) 32000 * 8)).put (F.VTL_STAT_STATE l) Lnk.up := if_pos (beq_iff_eq.mpr h)

section
variable {cause : Nat}

theorem Dev.vtlDown_retrains (h : (decide (m.lnkState l ≤ Lnk.locking) || (cause == 1 && decide ((m.link l).misses < 3))) = false) :
    m.vtlDown l cause = ((m.put (F.VTL_STAT_STATE l) Lnk.locking).setLink l {}).report Src.linkDown l 0 m.now := if_neg (ne_true_of_eq_false h)

theorem Dev.vtlDown_ignored (h : (decide (m.lnkState l ≤ Lnk.locking) || (cause == 1 && decide ((m.link l).misses < 3))) = true) :
    m.vtlDown l cause = m := if_pos h

end

/-! ## Cycles and messages of a link that measures or is up (R109, R301, R355, R358, R359) -/

section
variable (hm : ¬ m.lnkState l < Lnk.measuring)
include hm

/-- A cycle whose check fails counts and reports. -/
theorem Dev.vtlCycle_bad {c : LinkCycle} (h : c.ok = false) : m.vtlCycle l c =
    ((m.setLink l { m.link l with misses := (m.link l).misses + 1 }).count (F.VTL_ERR_CYCLES l) 1).report Src.linkError l 0 m.now := by
  unfold Dev.vtlCycle
  rw [if_neg hm, h]
  rfl

/-- A good cycle releases its blocks on a link that is up. -/
theorem Dev.vtlCycle_good {c : LinkCycle} (h : c.ok = true) (hx : m.setLink l { m.link l with misses := 0 } = x) : m.vtlCycle l c =
    if x.lnkState l = Lnk.up then (x.each c.flow fun m f => m.flowBlock l f).each c.trig fun m e => m.trigLine l e else x := by
  subst hx
  unfold Dev.vtlCycle
  rw [if_neg hm, h]
  simp only [Bool.not_true, Bool.false_eq_true, if_false, bne_iff_ne, ite_not]

theorem Dev.vtlSync_stamps (origin corr : Nat) (t : Instant) : m.vtlSync l origin corr t =
    m.setLink l { m.link l with origin := some ((origin + corr) % 2 ^ 56), receipt := (m.stampFull t + 2 ^ 56 - m.ingress l) % 2 ^ 56 } := if_neg hm

theorem Dev.vtlDreq_answers (t : Instant) : m.vtlDreq l t =
    { m with out := m.out ++ [.service l 2 [(m.stampFull t + 2 ^ 56 - m.ingress l) % 2 ^ 56]] } := if_neg hm

end

/-- Before its link measures, SYNC and DREQ do nothing. -/
theorem Dev.vtlSync_early (h : m.lnkState l < Lnk.measuring) (origin corr : Nat) (t : Instant) : m.vtlSync l origin corr t = m := if_pos h

theorem Dev.vtlDreq_early (h : m.lnkState l < Lnk.measuring) (t : Instant) : m.vtlDreq l t = m := if_pos h

/-! ## An exchange (R358, R359) -/

section
variable {t : Instant}

theorem Dev.vtlExchange_waits
    (h : (m.lnkState l != Lnk.up || (m.link l).exchanged.any (fun n => decide (m.tick < n + 2 ^ m.get F.VTL_SYNC_N))) = true) :
    m.vtlExchange l t = m := if_pos h

theorem Dev.vtlExchange_begins (h : m.lnkState l = Lnk.up)
    (hn : (m.link l).exchanged.any (fun n => decide (m.tick < n + 2 ^ m.get F.VTL_SYNC_N)) = false)
    (hx : m.setLink l { m.link l with request := some ((m.stampFull t + m.egress l) % 2 ^ 56), exchanged := some m.tick } = x) :
    m.vtlExchange l t = { x with out := x.out ++ [.service l 0 [m.stampFull t, x.egress l], .service l 1 []] } := by
  subst hx
  unfold Dev.vtlExchange
  rw [h, hn]
  rfl

end

/-- DRESP completes an exchange: its delay and offset are shown, and an offset beyond the limit reports. -/
theorem Dev.vtlDresp_completes {receipt o r : Nat} {there back : Int} (ho : (m.link l).origin = some o) (hr : (m.link l).request = some r)
    (hthere : timeDiff (m.link l).receipt o = there) (hback : timeDiff receipt r = back)
    (hx : ((m.setLink l { m.link l with origin := none, request := none }).put (F.VTL_DLY_DLY l) (ofSigned 24 ((there + back) / 2 ^ 17))).setReg
      (Reg.VTL_OFFS l) (ofSigned 32 ((there - back) / 2 ^ 17)) = x) : m.vtlDresp l receipt =
    if x.get F.VTL_SYNC_LIMIT < ((there - back) / 2 ^ 17).natAbs then x.report Src.linkOffset l 0 x.now else x := by
  subst hthere hback hx
  unfold Dev.vtlDresp
  simp only [ho, hr]

/-- A control message's identity, PRIMED reports and latencies are kept. -/
theorem Dev.vtlCtrl_keptBy {y : Dev} (hm : ¬ m.lnkState l < Lnk.measuring) {c : CtrlMsg}
    (hx : (m.put (F.VTL_STAT_PEER l) c.peer).setLink l { m.link l with beyond := c.beyond, far := c.far } = x)
    (hy : (x.each c.primed fun m b =>
      if (m.bdef b.1).span && (m.bsn b.1).deck.isSome then m.modBsn b.1 fun x => { x with primedBy := x.primedBy ++ [b.2] } else m) = y) :
    m.vtlCtrl l c = y.each c.lats fun m e =>
      if (m.bdef e.1).span && (m.bdef e.1).leader != m.deviceIndex && (m.bsn e.1).run.isNone then
        m.setLat e.1 (min 480 (ceilDiv e.2 8 * 8)) else m := by
  subst hx hy
  exact if_neg hm

end

/-- Settles O41: each command has the effect of its case. -/
theorem linksTrainAndCarryCycles : Obligations.LinksTrainAndCarryCycles := by
  refine ⟨?written, ?trained, ?cycles, ?exchange, ?completed, ?control⟩
  case written =>
    rintro s _ x l ctl hs rfl hx
    have henable := Dev.vtlEnable_eq hx
    exact ⟨fun h => State.hostAct_pays_eq (f := (·.vtlEnable l ctl.toNat)) hs (henable.trans (if_pos h)),
      fun h => State.hostAct_pays_eq (f := (·.vtlEnable l ctl.toNat)) hs (henable.trans (if_neg (ne_true_of_eq_false h))),
      State.hostAct_pays_eq (f := (·.vtlDisable l ctl.toNat)) hs (Dev.vtlDisable_eq hx)⟩
  case trained =>
    rintro s _ l delay cause hs rfl
    exact ⟨fun h => State.act_pays_eq (f := (·.vtlLock l)) hs (Dev.vtlLock_locks h),
      fun h ha => State.act_pays_eq (f := (·.vtlCycles l)) hs (Dev.vtlCycles_starts h ha),
      fun h => State.act_pays_eq (f := (·.vtlUp l delay)) hs (Dev.vtlUp_measured h delay),
      fun h => State.act_pays_eq (f := (·.vtlDown l cause)) hs (Dev.vtlDown_retrains h),
      fun h => State.act_still (f := (·.vtlDown l cause)) hs (Dev.vtlDown_ignored h)⟩
  case cycles =>
    rintro s _ l c hs rfl hm
    refine ⟨fun h => State.act_pays_eq (f := (·.vtlCycle l c)) hs (Dev.vtlCycle_bad hm h), fun x h hx => ?_⟩
    have hgood := Dev.vtlCycle_good hm h hx
    exact ⟨fun hdown => State.act_pays_eq (f := (·.vtlCycle l c)) hs (hgood.trans (if_neg hdown)),
      fun hup => State.act_pays_eq (f := (·.vtlCycle l c)) hs (hgood.trans (if_pos hup))⟩
  case exchange =>
    rintro s _ l origin corr t hs rfl
    exact ⟨fun hm => State.act_pays_eq (f := (·.vtlSync l origin corr t)) hs (Dev.vtlSync_stamps hm origin corr t),
      fun hm => State.act_pays_eq (f := (·.vtlDreq l t)) hs (Dev.vtlDreq_answers hm t),
      fun h => ⟨State.act_still (f := (·.vtlSync l origin corr t)) hs (Dev.vtlSync_early h origin corr t),
        State.act_still (f := (·.vtlDreq l t)) hs (Dev.vtlDreq_early h t)⟩,
      fun x h hn hx => State.act_pays_eq (f := (·.vtlExchange l t)) hs (Dev.vtlExchange_begins h hn hx),
      fun h => State.act_still (f := (·.vtlExchange l t)) hs (Dev.vtlExchange_waits h)⟩
  case completed =>
    rintro s _ x l receipt o r there back hs rfl ho hr hthere hback hx
    have hend := Dev.vtlDresp_completes ho hr hthere hback hx
    exact ⟨fun h => State.act_pays_eq (f := (·.vtlDresp l receipt)) hs (hend.trans (if_pos h)),
      fun h => State.act_pays_eq (f := (·.vtlDresp l receipt)) hs (hend.trans (if_neg h))⟩
  case control =>
    rintro s _ x y l c hs rfl hm hx hy
    exact State.act_pays_eq (f := (·.vtlCtrl l c)) hs (Dev.vtlCtrl_keptBy hm hx hy)

end Sys2Proof.Machine
end

section
/-! Courses and streaming (R132, R137, R143, R144, R146, R150, R151, R154): one equation for each case of a pass boundary, a fetch, a refill, a stall
and its end. -/

namespace Sys2Proof.Machine

section
variable {m a : Dev} {b : Nat}

/-! ## Pass boundaries (R132, R137, R143) -/

section
variable {e : Entry} {r : Run} {t : Instant}

/-- Where no jump is taken at a boundary, the entry repeats, or the course ends, breaks its landing period, or goes to NEXT. -/
def Dev.endPass (m : Dev) (b : Nat) (e : Entry) (r : Run) (t : Instant) : Dev :=
  if r.pass ≤ e.again then
    ((m.passSamples b r.entry r.pass false).beginPass b r.entry (r.pass + 1) t).put (F.BSN_CRS_POS_STATE b) (r.courseState t)
  else if e.last then m.endNormally b 0x01 t
  else if r.landing t then m.courseFault b 0x0A r.entry t
  else m.takeNext b e r t

theorem Dev.endPass_repeats (h : r.pass ≤ e.again) : m.endPass b e r t =
    ((m.passSamples b r.entry r.pass false).beginPass b r.entry (r.pass + 1) t).put (F.BSN_CRS_POS_STATE b) (r.courseState t) := if_pos h

section
variable (h : e.again < r.pass)
include h

theorem Dev.endPass_ends (hl : e.last = true) : m.endPass b e r t = m.endNormally b 0x01 t :=
  (if_neg (Nat.not_le.mpr h)).trans (if_pos hl)

variable (hl : e.last = false)
include hl

theorem Dev.endPass_leaves : m.endPass b e r t = if r.landing t then m.courseFault b 0x0A r.entry t else m.takeNext b e r t :=
  (if_neg (Nat.not_le.mpr h)).trans (if_neg (ne_true_of_eq_false hl))

theorem Dev.endPass_faults (hland : r.landing t = true) : m.endPass b e r t = m.courseFault b 0x0A r.entry t :=
  (Dev.endPass_leaves h hl).trans (if_pos hland)

theorem Dev.endPass_next (hland : r.landing t = false) : m.endPass b e r t = m.takeNext b e r t :=
  (Dev.endPass_leaves h hl).trans (if_neg (ne_true_of_eq_false hland))

end

/-- A boundary that comes late enough is told to the span, and is a jump or the end of a pass by its jump slot. -/
theorem Dev.passBoundary_eq (hr : (m.bsn b).run = some r) (he : m.curEntry b = some e) (hh : r.halted = false) (hb : r.atBoundary = true)
    (hstall : r.stall = none) (hsucc : r.succ = none) (hlate : r.passStart + max (256 * eclk) (m.horizon b) ≤ (m.bsn b).pos)
    (ha : (if e.jmask = 0 then m else
      m.tellSpan { basin := b, succs := [((m.bsn b).pos, (m.jumpSlot b e r (m.bsn b).pos).elim 0 (· + 1))] }) = a) :
    m.passBoundary b = (m.jumpSlot b e r (m.bsn b).pos).elim (a.endPass b e r (m.bsn b).pos)
      fun k => a.takeJump b k (e.jumps.getD k 0) e r (m.bsn b).pos := by
  subst ha
  unfold Dev.passBoundary
  simp only [hr, he, hh, hb, hstall, hsucc, Nat.not_lt.mpr hlate, Option.isSome_none, Bool.not_true, Bool.or_self, Bool.false_eq_true, if_false]
  cases m.jumpSlot b e r (m.bsn b).pos <;> rfl

end

theorem Dev.landingEnd_plays (h : m.get (F.BSN_CRS_POS_STATE b) = Crs.landing) : m.landingEnd b = m.put (F.BSN_CRS_POS_STATE b) Crs.play :=
  if_pos (beq_iff_eq.mpr h)

/-! ## Fetches (R144, R145, R298) -/

section
variable {w : Dev} {i k : Nat} {t : Instant} {ecc : Ecc} (hdef : m.defined b = true) (hi : i ≤ (m.bdef b).courseLen) (hhouse : m.houseLeft b ≠ 0)
  (hread : (m.modBsn b fun x => { x with house := x.house + 1 }).readUnit b Cls.house (m.entryAddr b i) ecc = (a, true))
include hdef hi hhouse hread

/-- The entry that was requested first joins the window of the running burst, which asks for the next. -/
theorem Dev.courseFetch_window {r : Run} {rest : List (Nat × Nat)} (hdeck : (m.bsn b).deck = none) (hasked : (m.bsn b).asked = (i, k) :: rest)
    (hwait : m.recordWaits b k = false)
    (hw : (a.modBsn b fun x => { x with window := x.window ++ [⟨i, t, m.bytes (m.entryAddr b i) 64⟩], asked := x.asked.drop 1 }) = w)
    (hr : (w.bsn b).run = some r) : m.courseFetch b i t ecc =
    (w.put (F.BSN_CRS_WIN_HELD b) (w.windowHeld b ((r.succ.map (·.1)).getD r.entry))).request b ((r.succ.map (·.1)).getD r.entry) := by
  subst hw
  unfold Dev.courseFetch
  simp only [hdef, Nat.not_lt.mpr hi, beq_eq_false_iff_ne.mpr hhouse, hread, hdeck, hasked, hwait, hr, Option.filter_none, Option.any_none,
    Option.any_some, List.head?_cons, beq_self_eq_true, decide_false, Bool.not_true, Bool.not_false, Bool.and_self, Bool.or_self, Bool.or_true,
    Bool.false_eq_true, if_false, if_true]

/-- The entry that the burst in the slot begins with lands for it. -/
theorem Dev.courseFetch_deck {d : Deck} (hdeck : (m.bsn b).deck = some d) (hon : d.onDeck = true) (hfirst : d.first = none)
    (hentry : m.desc d.ctx 8 2 = i) (hfetch : m.fetchWaits b d.asked = false) (hrecord : m.recordWaits b d.asked = false)
    (hasked : (m.bsn b).asked = []) (hw : (a.modDeck b fun d => { d with first := some ⟨i, t, m.bytes (m.entryAddr b i) 64⟩ }) = w)
    (hr : (w.bsn b).run = none) : m.courseFetch b i t ecc = w := by
  have hawaits : (d.onDeck && d.first.isNone) = true := by rw [hon, hfirst]; rfl
  subst hw
  unfold Dev.courseFetch
  simp only [hdef, Nat.not_lt.mpr hi, beq_eq_false_iff_ne.mpr hhouse, hread, hdeck, hawaits, hentry, hfetch, hrecord, hasked, hr,
    Option.filter_some, Option.any_some, Option.any_none, List.head?_nil, beq_self_eq_true, decide_false, Bool.not_true, Bool.not_false,
    Bool.and_self, Bool.or_self, Bool.or_false, Bool.false_eq_true, if_false, if_true]

end

/-! ## Refill (R146, R147) -/

/-- A unit of the running burst that was read intact joins its lane's FIFO. -/
theorem Dev.refillWords_running {p : Nat} {q : Ptr} {t : Instant} {ecc : Ecc}
    (hq : m.refillOf b false (m.pin p).rPtr (m.pin p).rDeck = some (.running q))
    (hread : m.readUnit b Cls.stream (m.unitAddr b false q ((m.lanes b).idxOf p)) ecc = (a, true)) : m.refillWords b p t ecc =
    a.modPin p fun x => { x with fifo := x.fifo ++ (m.unitWords b q ((m.lanes b).idxOf p)).map (t, ·), rPtr := m.nextUnit b false q } := by
  unfold Dev.refillWords
  simp only [hq, hread, Bool.not_true, Bool.false_eq_true, if_false]

/-- A vector lane that is offered a unit counts it and takes it. -/
theorem Dev.refillLand_offered {p : Nat} (hb : m.basinOf p = some b) (hlane : (m.lanes b).contains p = true) (hmay : m.mayRefill b (p, false) = true)
    (t : Instant) (ecc : Ecc) : m.refillLand p false t ecc = ((m.countUnit b (p, false)).refillWords b p t ecc).tellHorizon b := by
  unfold Dev.refillLand
  simp only [hb, hlane, hmay, Bool.and_self, Bool.false_eq_true, if_false, if_true]

/-! ## Stalls (R148, R150, R151, R154) -/

/-- Counting a stall leaves the definitions of the basins. -/
theorem Dev.stallLast_count_bdef (f : Fld) (n cause : Nat) (t : Instant) (k : Nat) : ((m.count f n).stallLast b cause t).bdef k = m.bdef k := rfl

/-- A streamed word or an entry that is due and missing aborts the basin by its policy, or makes it stall on its hold word. -/
theorem Dev.streamUnderrun_eq {r : Run} {cause word : Nat} (hr : (m.bsn b).run = some r) (hh : r.halted = false) (hstall : r.stall = none)
    (hmiss : r.succ.isSome = true ∨
      (r.atBoundary = false ∧ ((m.master b).any fun p => m.streamed p && (m.pin p).cur.isNone && !m.beyond b r) = true))
    (hcause : (if r.succ.isSome then Cause.course else Cause.refill) = cause) (hword : (if r.succ.isSome then 0 else r.passWords) = word)
    (ha : (m.count (F.BSN_STALL_CNT_STALLS b) 1).stallLast b cause (m.bsn b).pos = a) : m.streamUnderrun b =
    if (m.bdef b).abort then (a.addStall b cause word (m.bsn b).pos 0).underrunAbort b (m.bsn b).pos
    else (((((a.modRun b fun x => { x with stall := some ⟨cause, (m.bsn b).pos, word⟩, underrun := true }).capStall b (m.bsn b).pos).followMarks
      b 0 (m.bsn b).pos (m.bsn b).pos).put (F.BSN_CRS_POS_STATE b) Crs.stall).enterHold b (m.bsn b).pos 4).report Src.streamUnderrun b 0
      (m.bsn b).pos := by
  have hdue : (r.succ.isSome ||
      (!r.atBoundary && (m.master b).any fun p => m.streamed p && (m.pin p).cur.isNone && !m.beyond b r)) = true := by
    obtain hsucc | ⟨hinner, hmissing⟩ := hmiss
    · rw [hsucc, Bool.true_or]
    · rw [hinner, hmissing, Bool.not_false, Bool.and_self, Bool.or_true]
  subst hcause hword ha
  unfold Dev.streamUnderrun
  simp only [hr, hh, hstall, hdue, Dev.stallLast_count_bdef, Option.isSome_none, Bool.not_true, Bool.or_self, Bool.false_eq_true, if_false]
  rfl

/-- The successor's first word, or the stalled word, begins when a stall that started at one instant has ended at another. -/
def Dev.resumeRun (m : Dev) (b : Nat) (r : Run) (start t : Instant) : Dev :=
  (match r.succ with
    | some (i, landing) => m.enterEntry b i landing t
    | none => (m.put (F.BSN_CRS_POS_STATE b) (r.courseState t)).engState b 2).modRun b fun r =>
      { r with resumed := true, pauses := (start, t) :: r.pauses }

/-- A stall ends at the first hold boundary at which it may. -/
theorem Dev.stallEnd_eq {holds g : Nat} {t : Instant} {r : Run} {x : Stall} (hr : (m.bsn b).run = some r) (hg : (m.bsn b).hold = some g)
    (hh : r.halted = false) (hstall : r.stall = some x) (hholds : holds ≠ 0) (ht : g + holds * m.period b (m.holdSet b) = t)
    (hmay : m.stallMayEnd b r t = true) (hfirst : 2 ≤ holds → m.stallMayEnd b r (t - m.period b (m.holdSet b)) = false)
    (ha : (((m.closeStall b t).leaveHold b t).modBsn b fun x => { x with pos := t }) = a) : m.stallEnd b holds = a.resumeRun b r x.start t := by
  have hnow : (decide (2 ≤ holds) && m.stallMayEnd b r (t - m.period b (m.holdSet b))) = false := by
    by_cases h : 2 ≤ holds
    · rw [hfirst h, Bool.and_false]
    · rw [decide_eq_false h, Bool.false_and]
  subst ht ha
  unfold Dev.stallEnd
  simp only [hr, hg, hh, hstall, beq_eq_false_iff_ne.mpr hholds, hmay, hnow, Option.isNone_some, Option.map_some, Option.getD_some, Bool.not_true,
    Bool.or_self, Bool.false_eq_true, if_false]
  rfl

end

/-- Settles O20: each command has the effect of its case. -/
theorem coursesFetchRefillAndStall : Obligations.CoursesFetchRefillAndStall := by
  refine ⟨?boundary, ?landed, ?window, ?deck, ?refill, ?stall, ?resume⟩
  case boundary =>
    rintro s _ a b r e hs rfl hr he hh hb hstall hsucc hlate ha
    have hpass := Dev.passBoundary_eq hr he hh hb hstall hsucc hlate ha
    refine ⟨fun k hk => State.act_pays_eq (f := (·.passBoundary b)) hs (hpass.trans (congrArg (Option.elim · _ _) hk)), fun hk => ?_⟩
    have hend : s.start.passBoundary b = a.endPass b e r (s.start.bsn b).pos := hpass.trans (congrArg (Option.elim · _ _) hk)
    exact ⟨fun h => State.act_pays_eq (f := (·.passBoundary b)) hs (hend.trans (Dev.endPass_repeats h)),
      fun h hl => State.act_pays_eq (f := (·.passBoundary b)) hs (hend.trans (Dev.endPass_ends h hl)),
      fun h hl hland => State.act_pays_eq (f := (·.passBoundary b)) hs (hend.trans (Dev.endPass_faults h hl hland)),
      fun h hl hland => State.act_pays_eq (f := (·.passBoundary b)) hs (hend.trans (Dev.endPass_next h hl hland))⟩
  case landed =>
    intro s b hs h
    exact State.act_eq (f := (·.landingEnd b)) hs (Dev.landingEnd_plays h) hs.2
  case window =>
    rintro s _ a w b i t k rest r ecc hs rfl hdef hi hhouse hdeck hasked hwait hread hw hr
    exact State.act_pays_eq (f := (·.courseFetch b i t ecc)) hs (Dev.courseFetch_window hdef hi hhouse hread hdeck hasked hwait hw hr)
  case deck =>
    rintro s _ a w b i t d ecc hs rfl hdef hi hhouse hdeck hon hfirst hentry hfetch hrecord hasked hread hw hr
    exact State.act_pays_eq (f := (·.courseFetch b i t ecc)) hs
      (Dev.courseFetch_deck hdef hi hhouse hread hdeck hon hfirst hentry hfetch hrecord hasked hw hr)
  case refill =>
    rintro s _ n a p b t q ecc hs rfl hb hlane hmay rfl hq hread
    exact State.act_pays_eq (f := (·.refillLand p false t ecc)) hs
      ((Dev.refillLand_offered hb hlane hmay t ecc).trans (congrArg (Dev.tellHorizon · b) (Dev.refillWords_running hq hread)))
  case stall =>
    rintro s _ a b r cause word hs rfl hr hh hstall hmiss hcause hword ha
    have hunder := Dev.streamUnderrun_eq hr hh hstall hmiss hcause hword ha
    exact ⟨fun h => State.act_pays_eq (f := (·.streamUnderrun b)) hs (hunder.trans (if_pos h)),
      fun h => State.act_pays_eq (f := (·.streamUnderrun b)) hs (hunder.trans (if_neg (ne_true_of_eq_false h)))⟩
  case resume =>
    rintro s _ a b holds g t r x hs rfl hr hg hh hstall hholds ht hmay hfirst ha
    exact State.act_pays_eq (f := (·.stallEnd b holds)) hs (Dev.stallEnd_eq hr hg hh hstall hholds ht hmay hfirst ha)

end Sys2Proof.Machine
end

section
/-! Resident blocks and sample FIFOs (R134, R135, R159, R331): one equation for each case of a load, a shortage and a resume. -/

namespace Sys2Proof.Machine

section
variable {m a : Dev} {b t : Nat}

/-! ## Resident blocks (R134, R135) -/

/-- Every word of a resident block at an address goes to the loop stores of the engines of basin b's lanes. -/
def Dev.loadLanes (m : Dev) (b addr : Nat) : Dev :=
  m.each (List.range (m.lanes b).length) fun x k =>
    x.loadLane addr (x.mem addr 2) (x.mem (addr + 2) 2) (m.lanes b).length k (x.engineOf ((m.lanes b).getD k 0))

theorem Dev.resLoadDone_eq {d : Deck} {ecc : Ecc} {ok : Bool} (hd : (m.bsn b).deck = some d) (hload : m.get (F.BSN_RES_LOAD_STATE b) = 1)
    (hread : m.readUnit b (if ecc = .poisoned then Cls.house else Cls.stream) (m.resBlock b d.ctx) ecc = (a, ok)) : m.resLoadDone b ecc =
    if !ok then a.put (F.BSN_RES_LOAD_STATE b) 3
    else if !m.resOk b d.ctx then ((a.put (F.BSN_RES_LOAD_STATE b) 3).dropDeck b 0x0E 0).idleCheck b
    else ((a.loadLanes b (m.resBlock b d.ctx)).put (F.BSN_RES_LOAD_STATE b) 2).modDeck b fun d => { d with loaded := true } := by
  unfold Dev.resLoadDone
  simp only [hd, hload, hread, bne_self_eq_false, Bool.false_eq_true, if_false]
  rfl

/-! ## Sample FIFOs (R159) -/

/-- A unit of basin b that runs dry at an instant underruns its burst, or aborts its basin. -/
theorem Dev.sampleShort_eq {x : Dev} {i : Nat} (hb : m.deltaOwner t = some b) (ha : m.playSamples t (i - 1) = a)
    (hrun : (a.bsn b).run.isSome = true) (hdry : (a.delta t).dryAt = none) (hempty : (a.delta t).fifo = []) (hdue : (a.delta t).due i ≠ 0)
    (hx : (((a.count (F.BSN_STALL_CNT_SAMPLE b) 1).stallLast b Cause.sample i).addStall b Cause.sample 0 i t).capUnder b i = x) :
    m.sampleShort t i =
    if (x.bdef b).abort then x.underrunAbort b i
    else ((x.setDelta t { a.delta t with dryAt := some i }).put (F.DLT_STAT_DRY t) 1).report Src.streamUnderrun b 0 i := by
  have hruns : (a.bsn b).run.isNone = false := Option.isNone_eq_false_iff.mpr hrun
  subst ha hx
  unfold Dev.sampleShort
  simp only [hb, hruns, hdry, hempty, beq_eq_false_iff_ne.mpr hdue, Option.isSome_none, List.isEmpty_nil, Bool.not_true, Bool.or_self,
    Bool.false_eq_true, if_false]

/-- A dry unit that holds what is due resumes with it. -/
theorem Dev.sampleResume_eq {i : Nat} (hb : m.deltaOwner t = some b) (hdry : (m.delta t).dryAt.isSome = true)
    (hdue : (m.delta t).due i ≤ (m.delta t).fifo.length) : m.sampleResume t i = (m.closeDry b t i).playSamplesN t ((m.delta t).due i) := by
  have hheld : (m.delta t).dryAt.isNone = false := Option.isNone_eq_false_iff.mpr hdry
  unfold Dev.sampleResume
  simp only [hb, hheld, Nat.not_lt.mpr hdue, decide_false, Bool.or_self, Bool.false_eq_true, if_false]

end

/-- Settles O21: each command has the effect of its case. -/
theorem residentBlocksAndSamplesAct : Obligations.ResidentBlocksAndSamplesAct := by
  refine ⟨?intact, ?poisoned, ?short, ?resume⟩
  case intact =>
    rintro s _ a b d ecc hs rfl hd hload hread
    have hmet := (Dev.resLoadDone_eq hd hload hread).trans (if_neg Bool.false_ne_true)
    refine ⟨fun hok => State.act_pays_eq (f := (·.resLoadDone b ecc)) hs (hmet.trans (if_neg ?_)),
      fun hok => State.act_pays_eq (f := (·.resLoadDone b ecc)) hs (hmet.trans (if_pos ?_))⟩
    · rw [hok]
      exact Bool.false_ne_true
    · rw [hok]
      rfl
  case poisoned =>
    rintro s _ a b d ecc hs rfl hd hload hread
    exact State.act_pays_eq (f := (·.resLoadDone b ecc)) hs ((Dev.resLoadDone_eq hd hload hread).trans (if_pos rfl))
  case short =>
    rintro s _ a t b i hs rfl hb ha hrun hdry hempty hdue
    exact State.act_pays_eq (f := (·.sampleShort t i)) hs (Dev.sampleShort_eq hb ha hrun hdry hempty hdue rfl)
  case resume =>
    rintro s _ t b i hs rfl hb hdry hdue
    exact State.act_pays_eq (f := (·.sampleResume t i)) hs (Dev.sampleResume_eq hb hdry hdue)

end Sys2Proof.Machine
end

section
/-! Delta units (R73, R157, R158, R253, R254, R259, R260): one equation for each case of enable, disable, the end of a shutdown, and a rate write. -/

namespace Sys2Proof.Machine

section
variable {m x : Dev} {t ctl : Nat}

/-! ## Without a Delta pin (R253) -/

section
variable (hnone : (m.deltaPin t).isNone = true)
include hnone

theorem Dev.deltaEnable_pinless : m.deltaEnable t ctl = m := if_pos hnone

theorem Dev.deltaDisable_pinless : m.deltaDisable t ctl = m := if_pos hnone

end

/-! ## Enable and shutdown (R73, R260) -/

section
variable (hpin : (m.deltaPin t).isNone = false)
include hpin

theorem Dev.deltaEnable_eq (hx : (m.deltaFields t ctl).put (F.DLT_CTL_ENABLE t) 1 = x) : m.deltaEnable t ctl =
    if x.on (F.DLT_STAT_SHUTTING t) then x.put (F.DLT_STAT_PENDING t) 1
    else (x.setDelta t { x.delta t with enabled := true }).deltaClamp t := by
  subst hx
  exact if_neg (ne_true_of_eq_false hpin)

theorem Dev.deltaDisable_eq (hx : (m.deltaFields t ctl).put (F.DLT_CTL_ENABLE t) 0 = x) : m.deltaDisable t ctl =
    if (x.delta t).enabled then ((x.setDelta t { x.delta t with enabled := false }).put (F.DLT_STAT_SHUTTING t) 1).deltaClamp t
    else x.put (F.DLT_STAT_PENDING t) 0 := by
  subst hx
  exact if_neg (ne_true_of_eq_false hpin)

end

theorem Dev.deltaShutDone_eq (h : m.on (F.DLT_STAT_SHUTTING t) = true) (hx : m.put (F.DLT_STAT_SHUTTING t) 0 = x) : m.deltaShutDone t =
    if x.on (F.DLT_STAT_PENDING t) then ((x.put (F.DLT_STAT_PENDING t) 0).setDelta t { x.delta t with enabled := true }).deltaClamp t
    else x := by
  subst hx
  unfold Dev.deltaShutDone
  rw [h]
  rfl

/-! ## Rates (R158, R259) -/

theorem Dev.deltaRate_eq {b v : Nat} (hb : m.deltaOwner t = some b) (hx : m.put (F.DLT_RATE_DIV t) v = x) : m.deltaRate t v =
    if x.streamDemand b + x.sampleDemand b ≤ (m.bdef b).streamSh then x.setDelta t { x.delta t with nextDiv := some (v % 65536) }
    else (m.put (F.DLT_STAT_RATE_REFUSED t) 1).report Src.deltaRate t 0 m.now := by
  subst hx
  unfold Dev.deltaRate
  rw [hb]

end

/-- Settles O28: each command has the effect of its case. -/
theorem deltaUnitsEnableAndTakeRates : Obligations.DeltaUnitsEnableAndTakeRates := by
  refine ⟨?written, ?ended, ?rated⟩
  case written =>
    rintro s _ t ctl hs rfl
    refine ⟨fun hnone => ⟨State.hostAct_still (f := (·.deltaEnable t ctl.toNat)) hs (Dev.deltaEnable_pinless hnone),
      State.hostAct_still (f := (·.deltaDisable t ctl.toNat)) hs (Dev.deltaDisable_pinless hnone)⟩, fun x hpin hx => ?_, fun x hpin hx => ?_⟩
    · have henable := Dev.deltaEnable_eq hpin hx
      exact ⟨fun h => State.hostAct_pays_eq (f := (·.deltaEnable t ctl.toNat)) hs (henable.trans (if_pos h)),
        fun h => State.hostAct_pays_eq (f := (·.deltaEnable t ctl.toNat)) hs (henable.trans (if_neg (ne_true_of_eq_false h)))⟩
    · have hdisable := Dev.deltaDisable_eq hpin hx
      exact ⟨fun h => State.hostAct_pays_eq (f := (·.deltaDisable t ctl.toNat)) hs (hdisable.trans (if_pos h)),
        fun h => State.hostAct_pays_eq (f := (·.deltaDisable t ctl.toNat)) hs (hdisable.trans (if_neg (ne_true_of_eq_false h)))⟩
  case ended =>
    rintro s _ x t hs rfl h hx
    have hend := Dev.deltaShutDone_eq h hx
    exact ⟨fun hp => State.act_pays_eq (f := (·.deltaShutDone t)) hs (hend.trans (if_pos hp)),
      fun hp => State.act_pays_eq (f := (·.deltaShutDone t)) hs (hend.trans (if_neg (ne_true_of_eq_false hp)))⟩
  case rated =>
    rintro s _ x t b value hs rfl hb hx
    have hrate := Dev.deltaRate_eq hb hx
    exact ⟨fun h => State.hostAct_pays_eq (f := (·.deltaRate t value.toNat)) hs (hrate.trans (if_pos h)),
      fun h => State.hostAct_pays_eq (f := (·.deltaRate t value.toNat)) hs (hrate.trans (if_neg h))⟩

end Sys2Proof.Machine
end

section
/-! Deskew writes, LOAD strobes and clear codes (R178 to R180, R193 to R196, R200, R206, R208): one equation for each case. -/

namespace Sys2Proof.Machine

section
variable {m x : Dev} {b p c code user : Nat} {t : Instant} {cmp : Bool}

/-! ## Deskew USER writes (R179) -/

theorem Dev.userWrite_running (h : (m.userField p cmp user).pinRuns p = true) : m.userWrite p cmp user = m.userField p cmp user := if_pos h

/-- Without a running burst the value written is in force at once, for a burst already delivered too. -/
theorem Dev.userWrite_idle (h : (m.userField p cmp user).pinRuns p = false) : m.userWrite p cmp user =
    (((m.userField p cmp user).takeForce (if cmp then Reg.PIN_DSK_CMP p else Reg.PIN_DSK_DRV p)).takeDeck
      (if cmp then Reg.PIN_DSK_CMP p else Reg.PIN_DSK_DRV p)).retarget p cmp := if_neg (ne_true_of_eq_false h)

/-! ## LOAD strobes (R194, R195, R249) -/

/-- The strobe that waits once basin b is strobed at an instant: the later one of an edge stands for both. -/
def Dev.waitingStrobe (m : Dev) (b : Nat) (t : Instant) : Strobe :=
  match (m.bsn b).strobes.find? fun q => q.edge == strobeEdge t with
  | some q => if q.at_ ≤ t then ⟨t, q.edge, none⟩ else q
  | none => ⟨t, strobeEdge t, none⟩

/-- The changes of basin b's tones that wait for a LOAD strobe are due at an instant. -/
def Dev.tonesDue (m : Dev) (b : Nat) (t : Instant) : Dev :=
  m.each (List.range 4) fun m c =>
    let x := m.tone b c
    if x.running && x.atLoad && m.on (F.TON_STAT_STAGED b c) && x.loadAt.isNone && decide (x.commitTick * tickUnits + 16 * eclk ≤ t) then
      m.setTone b c { x with loadAt := some (ceilDiv t eclk) }
    else m

theorem Dev.loadStrobe_ignored (h : m.allSafe b = true) : m.loadStrobe b t = m.put (F.BSN_LVL_STAT_IGNORED b) 1 := if_pos h

theorem Dev.loadStrobe_waits (h : m.allSafe b = false) : m.loadStrobe b t =
    (m.tonesDue b t).modBsn b fun x => { x with
      strobes := insertBy (fun a c => decide (a.edge ≤ c.edge)) (m.waitingStrobe b t)
        (x.strobes.filter fun q => q.edge != (m.waitingStrobe b t).edge) } := if_neg (ne_true_of_eq_false h)

/-! ## The edge of a strobe (R194, R195) -/

theorem Dev.levelApply_eq {q : Strobe} {l : List Strobe} (hq : (m.bsn b).strobes = q :: l) (hx : (m.modBsn b fun y => { y with strobes := l }) = x) :
    m.levelApply b =
    if x.allSafe b then x
    else (((x.bump (F.BSN_LVL_STAT_LOAD_CNT b)).putStamp (F.BSN_LVL_LAST_LO_NS b) (F.BSN_LVL_LAST_HI_FRAC b) q.edge).modBsn b
      fun y => { y with strobeAt := some q.edge }).each (q.codes.getD (m.stagedCodes b)) fun m e => m.applyPin q.edge e := by
  subst hx
  unfold Dev.levelApply
  rw [hq]

theorem Dev.applyPin_safe {l : List Nat} (h : m.on (F.PIN_FE_STAT_SAFE p) = true) : m.applyPin t (p, l) = m := if_pos h

/-! ## Clear codes (R196, R200) -/

theorem Dev.clearCode_held (h : m.clrHeld = true) : m.clearCode p c code = m := if_pos h

/-- A clear code that is taken moves the codes of a pin that is cleared. -/
theorem Dev.clearCode_taken (h : m.clrHeld = false) (hx : m.put (F.PIN_LVL_CLR_CODE p c) code = x) : m.clearCode p c code =
    if x.on (F.PIN_FE_STAT_SAFE p) && !(x.pin p).applied then
      let y := (x.put (F.PIN_LVL_ACT_CODE p c) code).put (F.PIN_LVL_STG_CODE p c) code
      (y.modPin p fun z => { z with levelAt := some y.now }).limitLevels p y.now
    else x := by
  subst hx
  exact if_neg (ne_true_of_eq_false h)

end

/-- Settles O22: each command has the effect of its case; a strobe that waits and the tones it makes due are formed as the definitions say. -/
theorem deskewLevelsAndClearCodesAct : Obligations.DeskewLevelsAndClearCodesAct := by
  refine ⟨?deskew, ?strobe, ?applied, fun _ _ _ _ => Dev.applyPin_safe, ?lost, ?cleared⟩
  case deskew =>
    rintro s _ p cmp user hs rfl
    exact ⟨fun h => State.hostAct_pays_eq (f := (·.userWrite p cmp user.toNat)) hs (Dev.userWrite_running h),
      fun h => State.hostAct_pays_eq (f := (·.userWrite p cmp user.toNat)) hs (Dev.userWrite_idle h)⟩
  case strobe =>
    rintro s _ b t rfl
    refine ⟨fun h => ⟨fun hs => State.act_pays_eq (f := (·.loadStrobe b t)) hs (Dev.loadStrobe_ignored h),
      fun hs => State.basinAct_pays_eq (f := fun m => m.loadStrobe b m.now) hs (Dev.loadStrobe_ignored h)⟩,
      fun h => ⟨fun hs => State.act_pays_eq (f := (·.loadStrobe b t)) hs (Dev.loadStrobe_waits h),
      fun hs => State.basinAct_pays (f := fun m => m.loadStrobe b m.now) hs⟩⟩
  case applied =>
    rintro s _ b q l hs rfl hq h
    exact State.act_pays_eq (f := (·.levelApply b)) hs ((Dev.levelApply_eq hq rfl).trans (if_neg (ne_true_of_eq_false h)))
  case lost =>
    rintro s _ b q l hs rfl hq h
    exact State.act_pays_eq (f := (·.levelApply b)) hs ((Dev.levelApply_eq hq rfl).trans (if_pos h))
  case cleared =>
    rintro s _ p c code hs rfl
    refine ⟨fun h => State.hostAct_still (f := (·.clearCode p c code.toNat)) hs (Dev.clearCode_held h), fun h hmoves => ?_, fun h hstays => ?_⟩
    · exact State.hostAct_pays_eq (f := (·.clearCode p c code.toNat)) hs ((Dev.clearCode_taken h rfl).trans (if_pos hmoves))
    · exact State.hostAct_pays_eq (f := (·.clearCode p c code.toNat)) hs
        ((Dev.clearCode_taken h rfl).trans (if_neg (ne_true_of_eq_false hstays)))

end Sys2Proof.Machine
end

section
/-! CLR_N and the supplies (R200, R399, R488, R499): which low pulses of CLR_N are taken, and what they do. -/

namespace Sys2Proof.Machine

section
variable {m : Dev} {ns : Nat}

/-! ## Pulses of CLR_N (R200) -/

/-- From 50 ns on no free value is drawn; COUNT is 16 bits wide, so that it stops at 0xFFFF (R214). -/
theorem Dev.clrAssert_long (hns : 50 ≤ ns) : m.clrAssert ns =
    if m.on F.GLB_CLR_STAT_LEVEL then m
    else (((m.put F.GLB_CLR_STAT_LEVEL 1).put F.GLB_CLR_STAT_HIT 1).count F.GLB_CLR_STAT_COUNT 1).clearHold := by
  unfold Dev.clrAssert
  rw [if_neg (show ¬ ns < 20 by omega), if_pos hns, if_neg (show ¬ (20 ≤ ns ∧ ns < 50) by omega)]
  rfl

theorem Dev.clrAssert_short (hns : ns < 20) : m.clrAssert ns = m := by
  unfold Dev.clrAssert
  rw [if_pos hns, if_neg (show ¬ (20 ≤ ns ∧ ns < 50) by omega)]
  rfl

/-- Between the limits a free value says whether the pulse counts (log 48); it is drawn where CLR_N is low already, too. -/
theorem Dev.clrAssert_between {x : Dev} (hlow : 20 ≤ ns) (hhigh : ns < 50) (hx : m.draw = x) : m.clrAssert ns =
    if m.free 1 = 1 ∧ x.on F.GLB_CLR_STAT_LEVEL = false then
      (((x.put F.GLB_CLR_STAT_LEVEL 1).put F.GLB_CLR_STAT_HIT 1).count F.GLB_CLR_STAT_COUNT 1).clearHold
    else x := by
  subst hx
  unfold Dev.clrAssert
  rw [if_neg (Nat.not_lt.mpr hlow), if_neg (Nat.not_le.mpr hhigh)]
  simp only [if_pos (And.intro hlow hhigh)]
  by_cases hcounts : m.free 1 = 1 ∧ m.draw.on F.GLB_CLR_STAT_LEVEL = false
  · rw [if_pos hcounts]
    exact if_neg (by rw [hcounts.1, hcounts.2]; decide)
  · rw [if_neg hcounts]
    refine if_pos ?_
    cases hlevel : m.draw.on F.GLB_CLR_STAT_LEVEL with
    | true => exact Bool.or_true _
    | false =>
      have hfree : ¬ m.free 1 = 1 := fun h => hcounts ⟨h, hlevel⟩
      rw [beq_eq_false_iff_ne.mpr hfree]
      rfl

end

/-- Settles O10: the supplies' commands have their effects with or without power, and a pulse of CLR_N has that of its length. -/
theorem powerAndClearPinsAct : Obligations.PowerAndClearPinsAct := by
  refine ⟨?lost, fun _ _ => rfl, ?taken, ?ignored, ?drawn, ?released⟩
  case lost =>
    rintro s _ core rfl
    rfl
  case taken =>
    rintro s _ ns hs rfl hns h
    exact State.act_pays_eq (f := (·.clrAssert ns)) hs ((Dev.clrAssert_long hns).trans (if_neg (ne_true_of_eq_false h)))
  case ignored =>
    rintro s ns hs (hns | ⟨hns, h⟩)
    · exact State.act_still (f := (·.clrAssert ns)) hs (Dev.clrAssert_short hns)
    · exact State.act_still (f := (·.clrAssert ns)) hs ((Dev.clrAssert_long hns).trans (if_pos h))
  case drawn =>
    rintro s m ns hs hm hlow hhigh
    exact State.act_pays_eq (f := (·.clrAssert ns)) hs (Dev.clrAssert_between hlow hhigh hm)
  case released =>
    intro s hs
    exact State.act_eq (f := (·.clrRelease)) hs rfl hs.2

end Sys2Proof.Machine
end

section
/-! Input edges and trigger sequencers (R73, R221 to R227): one equation for each case of an edge, a transition, an enable, a disable, the end of
a shutdown and a restart. -/

namespace Sys2Proof.Machine

/-- A host write to a sequencer's register that is taken, where its effect is known to take the block to m. -/
theorem State.seqAct_pays_eq {s : State} {f : Dev → Dev} {m : Dev} {q off : Nat} (h : s.takes off) (hq : (256 ≤ q || s.dev.defined q) = true)
    (e : f s.start = m) : s.seqAct q off f = s.becomes m.payOwed := e ▸ State.seqAct_pays h hq

section
variable {m a : Dev} {q : Nat} {t : Instant}

/-! ## Edges on the TRIG and LDAC balls (R222) -/

/-- A ball that a route drives is no input. -/
theorem Dev.trigEdge_routed {k : Nat} (h : ((m.image.map (·.routes)).getD []).any (fun r => r.1 == 0x1000 + k) = true) (rise : Bool) :
    m.trigEdge k rise t = m := if_pos h

theorem Dev.trigEdge_input {k : Nat} (h : ((m.image.map (·.routes)).getD []).any (fun r => r.1 == 0x1000 + k) = false) (rise : Bool) :
    m.trigEdge k rise t = (m.setWire (0x0500 + k) (flag rise)).drive (0x0500 + k) t rise := if_neg (ne_true_of_eq_false h)

/-! ## Transitions (R224, R225) -/

section
variable (hrun : m.on (F.TSQ_STAT_RUNNING q) = true)
include hrun

theorem Dev.seqHit_taken (ht : m.hitAt q = some t) :
    m.seqHit q = m.enterState q (m.get (F.TSQ_COND_NEXT_HIT q (m.get (F.TSQ_STAT_STATE q)))) t := by
  unfold Dev.seqHit
  rw [ht]
  exact if_pos hrun

/-- The time transition is taken where no hit has come by its ECLK. -/
theorem Dev.seqTime_taken (ht : m.expireAt q = some t) (hno : ∀ h, m.hitAt q = some h → ¬ h / eclk ≤ t / eclk) :
    m.seqTime q = m.enterState q (m.get (F.TSQ_COND_NEXT_TIME q (m.get (F.TSQ_STAT_STATE q)))) t := by
  have hfirst : ((m.hitAt q).any fun h => decide (h / eclk ≤ t / eclk)) = false := (Option.any_eq_false _ _).mpr fun h hh => decide_eq_false (hno h hh)
  unfold Dev.seqTime
  rw [ht]
  exact if_pos (by rw [hrun, hfirst]; rfl)

end

/-! ## Enable and shutdown (R73, R226, R227) -/

theorem Dev.seqStart_refused {x : Nat} (hbad : m.seqBad q = some x) :
    m.seqStart q = ((m.put (F.TSQ_CTL_ENABLE q) 0).put (F.TSQ_STAT_REFUSED q) 1).put (F.TSQ_STAT_ERR_STATE q) x := by
  unfold Dev.seqStart
  rw [hbad]

/-- A sequencer that is enabled runs at once where it is global or a burst runs. -/
theorem Dev.seqStart_good (hgood : m.seqBad q = none) (ha : m.put (F.TSQ_CTL_ENABLE q) 1 = a) : m.seqStart q =
    if (256 ≤ q || (a.bsn q).run.isSome) = true then (a.put (F.TSQ_STAT_RUNNING q) 1).enterState q 0 a.now else a := by
  subst ha
  unfold Dev.seqStart
  rw [hgood]

theorem Dev.tsqEnable_shutting (h : m.on (F.TSQ_STAT_SHUTTING q) = true) :
    m.tsqEnable q = (m.put (F.TSQ_CTL_ENABLE q) 1).put (F.TSQ_STAT_PENDING q) 1 := if_pos h

theorem Dev.tsqEnable_starts (h : m.on (F.TSQ_STAT_SHUTTING q) = false) (he : m.seqEnabled q = false) : m.tsqEnable q = m.seqStart q :=
  (if_neg (ne_true_of_eq_false h)).trans (if_neg (ne_true_of_eq_false he))

theorem Dev.tsqDisable_eq : m.tsqDisable q =
    if m.seqEnabled q then (m.put (F.TSQ_CTL_ENABLE q) 0).put (F.TSQ_STAT_SHUTTING q) 1
    else (m.put (F.TSQ_CTL_ENABLE q) 0).put (F.TSQ_STAT_PENDING q) 0 := rfl

theorem Dev.tsqShutDone_eq (h : m.on (F.TSQ_STAT_SHUTTING q) = true) (ha : (m.put (F.TSQ_STAT_SHUTTING q) 0).freezeSeq q m.now = a) :
    m.tsqShutDone q = if a.on (F.TSQ_STAT_PENDING q) then (a.put (F.TSQ_STAT_PENDING q) 0).seqStart q else a := by
  subst ha
  unfold Dev.tsqShutDone
  rw [h]
  rfl

end

/-- Settles O24: each command has the effect of its case. -/
theorem edgesAndSequencersMove : Obligations.EdgesAndSequencersMove := by
  refine ⟨?edges, ?transitions, ?written, ?ended, ?restarted⟩
  case edges =>
    rintro s _ k l rise fall t hs rfl
    exact ⟨fun h => State.act_still (f := (·.trigEdge k rise t)) hs (Dev.trigEdge_routed h rise),
      fun h => State.act_pays_eq (f := (·.trigEdge k rise t)) hs (Dev.trigEdge_input h rise),
      State.act_pays (f := (·.ldacEdge l fall t)) hs⟩
  case transitions =>
    rintro s _ q t hs rfl hrun
    exact ⟨fun ht => State.act_pays_eq (f := (·.seqHit q)) hs (Dev.seqHit_taken hrun ht),
      fun ht hno => State.act_pays_eq (f := (·.seqTime q)) hs (Dev.seqTime_taken hrun ht hno)⟩
  case written =>
    rintro s _ q hs hq rfl
    have henable : ∀ {z}, s.start.tsqEnable q = z → exec (.tsqEnable q) s = s.becomes z.payOwed :=
      State.seqAct_pays_eq (f := (·.tsqEnable q)) hs hq
    have hdisable : ∀ {z}, s.start.tsqDisable q = z → exec (.tsqDisable q) s = s.becomes z.payOwed :=
      State.seqAct_pays_eq (f := (·.tsqDisable q)) hs hq
    refine ⟨fun h => henable (Dev.tsqEnable_shutting h), fun h he => ?_, fun he => hdisable (Dev.tsqDisable_eq.trans (if_pos he)),
      fun he => hdisable (Dev.tsqDisable_eq.trans (if_neg (ne_true_of_eq_false he)))⟩
    have hstarts := Dev.tsqEnable_starts h he
    refine ⟨fun x hbad => henable (hstarts.trans (Dev.seqStart_refused hbad)), fun a hgood ha => ?_⟩
    have hgoes := hstarts.trans (Dev.seqStart_good hgood ha)
    exact ⟨fun hr => henable (hgoes.trans (if_pos hr)), fun hr => henable (hgoes.trans (if_neg (ne_true_of_eq_false hr)))⟩
  case ended =>
    rintro s _ a q hs rfl h ha
    have hend := Dev.tsqShutDone_eq h ha
    exact ⟨fun hp => State.act_pays_eq (f := (·.tsqShutDone q)) hs (hend.trans (if_pos hp)),
      fun hp => State.act_pays_eq (f := (·.tsqShutDone q)) hs (hend.trans (if_neg (ne_true_of_eq_false hp)))⟩
  case restarted =>
    rintro s _ g hs rfl
    exact ⟨fun he => State.hostAct_pays_eq (f := (·.seqRestart g)) hs (if_pos he),
      fun he => State.hostAct_still (f := (·.seqRestart g)) hs (if_neg (ne_true_of_eq_false he))⟩

end Sys2Proof.Machine
end

section
/-! Capture's control (R73, R230 to R239): one equation for each case of an arm, a disarm, a forced trigger, a release and the end of a shutdown. -/

namespace Sys2Proof.Machine

section
variable {m x : Dev} {b : Nat}

/-! ## Arm and disarm (R73, R232) -/

theorem Dev.tryArm_good (h : m.armCode b = 0) : m.tryArm b = (m.capStart b, 0) := if_pos (beq_iff_eq.mpr h)

theorem Dev.tryArm_refused (h : m.armCode b ≠ 0) : m.tryArm b =
    (((m.put (F.BSN_CAP_CTL_ARM b) 0).put (F.BSN_CAP_STAT_REFUSED b) 1).put (F.BSN_CAP_STAT_ARM_ERR b) (m.armCode b), m.armCode b) :=
  if_neg (mt beq_iff_eq.mp h)

section
variable {ctl : Nat} (hd : m.defined b = true) (hx : m.capFields b ctl = x)
include hd hx

/-- The control write's fields are taken, or ignored, before its ARM is looked at. -/
theorem Dev.captureArm_eq : m.captureArm b ctl =
    if x.on (F.BSN_CAP_STAT_SHUTTING b) then
      if x.on (F.BSN_CAP_STAT_PENDING b) then x
      else ((x.put (F.BSN_CAP_CTL_ARM b) 1).put (F.BSN_CAP_STAT_PENDING b) 1).modBsn b fun y => { y with cap := { y.cap with burstArm := none } }
    else if x.on (F.BSN_CAP_STAT_ARMED b) then x
    else (x.tryArm b).1 := by
  subst hx
  unfold Dev.captureArm
  rw [hd]
  rfl

theorem Dev.captureArm_shutting (h : x.on (F.BSN_CAP_STAT_SHUTTING b) = true) : m.captureArm b ctl =
    if x.on (F.BSN_CAP_STAT_PENDING b) then x
    else ((x.put (F.BSN_CAP_CTL_ARM b) 1).put (F.BSN_CAP_STAT_PENDING b) 1).modBsn b fun y => { y with cap := { y.cap with burstArm := none } } :=
  (Dev.captureArm_eq hd hx).trans (if_pos h)

theorem Dev.captureArm_settled (h : x.on (F.BSN_CAP_STAT_SHUTTING b) = false) : m.captureArm b ctl =
    if x.on (F.BSN_CAP_STAT_ARMED b) then x else (x.tryArm b).1 :=
  (Dev.captureArm_eq hd hx).trans (if_neg (ne_true_of_eq_false h))

theorem Dev.captureDisarm_eq : m.captureDisarm b ctl = x.capShut b := hx ▸ if_pos hd

end

theorem Dev.capShut_eq (hx : m.put (F.BSN_CAP_CTL_ARM b) 0 = x) : m.capShut b =
    if x.on (F.BSN_CAP_STAT_ARMED b) then ((x.endCapture b x.now).put (F.BSN_CAP_STAT_ARMED b) 0).put (F.BSN_CAP_STAT_SHUTTING b) 1
    else x.put (F.BSN_CAP_STAT_PENDING b) 0 := hx ▸ rfl

/-! ## Forced triggers (R233) and releases (R231) -/

theorem Dev.forceTrig_eq : m.forceTrig b =
    if (m.bsn b).run.isNone then m.put (F.BSN_CAP_STAT_FORCE_IGNORED b) 1 else m.trigger b 1 m.now := rfl

/-- A value of RD is taken within the ring, where no more segments lie between than complete records hold. -/
theorem Dev.capRd_eq {v n d : Nat} (hn : max 1 (m.get (F.BSN_CAP_NSEG_NSEG b)) = n) (hd : (v % 2 ^ 20 + n - m.get (F.BSN_CAP_RD_RD b)) % n = d) :
    m.capRd b v =
    if (m.on (F.BSN_CAP_STAT_ARMED b) || m.on (F.BSN_CAP_STAT_SHUTTING b)) && decide (v % 2 ^ 20 < n) && decide (d ≤ m.heldSegs b) then m.release b d
    else m.put (F.BSN_CAP_STAT_RD_BAD b) 1 := by
  subst hn hd
  rfl

/-! ## The end of a shutdown (R232, log 101) -/

section
variable {a c e : Dev} (h : m.on (F.BSN_CAP_STAT_SHUTTING b) = true) (ha : (m.each (m.bsn b).cap.closed fun m _ => m.recordComplete b) = a)
  (hc : a.put F.GAU_SEG_USED_SEGS (a.get F.GAU_SEG_USED_SEGS - a.get (F.BSN_CAP_NSEG_NSEG b)) = c)
  (he : ((c.each (c.tribs b) fun m t => m.put (F.TRB_GAU_HIST_USED t) (m.get (F.TRB_GAU_HIST_USED t) - m.histUnits b t)).put
    (F.BSN_CAP_STAT_SHUTTING b) 0).put (F.BSN_CAP_STAT_REARM b) 0 = e)
  (hx : (e.modBsn b fun x => { x with cap := { since := x.cap.since, units := x.cap.units, burst := x.cap.burst } }) = x)
include h ha hc he hx

theorem Dev.captureShutDone_free (hp : x.on (F.BSN_CAP_STAT_PENDING b) = false) : m.captureShutDone b = x := by
  subst ha hc he hx
  unfold Dev.captureShutDone
  rw [h]
  exact if_neg (ne_true_of_eq_false hp)

section
variable (hp : x.on (F.BSN_CAP_STAT_PENDING b) = true)
include hp

/-- An ARM that the host wrote in the shutdown is checked. -/
theorem Dev.captureShutDone_armsHost (hk : (e.bsn b).cap.burstArm = none) :
    m.captureShutDone b = ((x.put (F.BSN_CAP_STAT_PENDING b) 0).tryArm b).1 := by
  subst ha hc he hx
  unfold Dev.captureShutDone
  rw [h]
  refine (if_pos hp).trans ?_
  rw [hk]

/-- An ARM from a burst is checked, and its refusal told to the burst. -/
theorem Dev.captureShutDone_armsBurst {k : Nat} (hk : (e.bsn b).cap.burstArm = some k) : m.captureShutDone b =
    let r := (x.put (F.BSN_CAP_STAT_PENDING b) 0).tryArm b
    if r.2 = 0 then r.1 else r.1.tellArm b k r.2 := by
  subst ha hc he hx
  unfold Dev.captureShutDone
  rw [h]
  refine (if_pos hp).trans ?_
  simp only [hk, beq_iff_eq]

end

end

end

/-- Settles O25: each command has the effect of its case. -/
theorem captureArmsReleasesAndShutsDown : Obligations.CaptureArmsReleasesAndShutsDown := by
  refine ⟨?written, ?released, ?ended⟩
  case written =>
    rintro s _ x b ctl hs rfl hd hx
    have harm : ∀ {z}, s.start.captureArm b ctl.toNat = z → exec (.captureArm b ctl) s = s.becomes z.payOwed :=
      State.basinAct_pays_eq (f := (·.captureArm b ctl.toNat)) hs
    have hdisarm : ∀ {z}, s.start.captureDisarm b ctl.toNat = z → exec (.captureDisarm b ctl) s = s.becomes z.payOwed :=
      State.basinAct_pays_eq (f := (·.captureDisarm b ctl.toNat)) hs
    have hforce : ∀ {z}, s.start.forceTrig b = z → exec (.forceTrig b) s = s.becomes z.payOwed :=
      State.basinAct_pays_eq (f := (·.forceTrig b)) hs
    have hshut := (Dev.captureDisarm_eq hd hx).trans (Dev.capShut_eq rfl)
    refine ⟨fun h hp => harm ((Dev.captureArm_shutting hd hx h).trans (if_neg (ne_true_of_eq_false hp))),
      fun h hp => harm ((Dev.captureArm_shutting hd hx h).trans (if_pos hp)), fun h hi => ?_,
      fun h hi => harm ((Dev.captureArm_settled hd hx h).trans (if_pos hi)), fun hi => hdisarm (hshut.trans (if_pos hi)),
      fun hi => hdisarm (hshut.trans (if_neg (ne_true_of_eq_false hi))), fun hr => hforce (Dev.forceTrig_eq.trans (if_pos hr)),
      fun hr => hforce (Dev.forceTrig_eq.trans (if_neg (ne_true_of_eq_false hr)))⟩
    have hchecks := (Dev.captureArm_settled hd hx h).trans (if_neg (ne_true_of_eq_false hi))
    exact ⟨fun hgood => harm (hchecks.trans (congrArg Prod.fst (Dev.tryArm_good hgood))),
      fun hbad => harm (hchecks.trans (congrArg Prod.fst (Dev.tryArm_refused hbad)))⟩
  case released =>
    rintro s _ b value n d hs rfl hn hd
    have hrd := Dev.capRd_eq hn hd
    exact ⟨fun h => State.basinAct_pays_eq (f := (·.capRd b value.toNat)) hs (hrd.trans (if_pos h)),
      fun h => State.basinAct_pays_eq (f := (·.capRd b value.toNat)) hs (hrd.trans (if_neg (ne_true_of_eq_false h)))⟩
  case ended =>
    rintro s _ a c e x b hs rfl h ha hc he hx
    have hdone : ∀ {z}, s.start.captureShutDone b = z → exec (.captureShutdownDone b) s = s.becomes z.payOwed :=
      State.act_pays_eq (f := (·.captureShutDone b)) hs
    refine ⟨fun hp => hdone (Dev.captureShutDone_free h ha hc he hx hp), fun hp => ?_⟩
    exact ⟨fun hk => hdone (Dev.captureShutDone_armsHost h ha hc he hx hp hk), fun k hk => hdone (Dev.captureShutDone_armsBurst h ha hc he hx hp hk)⟩

end Sys2Proof.Machine
end

section
/-! Records of capture (R225, R229 to R239): a trigger is taken or missed, a slot is lost, a record closes, re-arm completes, and a record is in HBM. -/

namespace Sys2Proof.Machine

section
variable {m a : Dev} {b tsrc k : Nat} {t : Instant} {r : CapRec}

/-! ## Triggers (R225, R233, R235) -/

theorem Dev.captureTrigger_eq {l : List Instant} (ht : (m.bsn b).triggers = t :: l) (ha : (m.modBsn b fun x => { x with triggers := l }) = a) :
    m.captureTrigger b = a.trigger b 0 t := by
  subst ha
  unfold Dev.captureTrigger
  rw [ht]

section
variable (hfinished : (m.bsn b).cap.finished = false) (harmed : m.on (F.BSN_CAP_STAT_ARMED b) = true)
include hfinished harmed

/-- A record is open that another ECLK triggered. -/
theorem Dev.trigger_missed (ho : (m.bsn b).cap.opened = some r) (hother : r.trigger / eclk ≠ t / eclk) : m.trigger b tsrc t = m.missTrigger b t := by
  unfold Dev.trigger
  simp [ho, hother, hfinished, harmed]

/-- No record is open, none re-arms, and the ring has room for one more. -/
theorem Dev.trigger_places (ho : (m.bsn b).cap.opened = none) (hrearm : m.on (F.BSN_CAP_STAT_REARM b) = false)
    (hroom : m.get (F.BSN_CAP_GEOM_SEGS_PER_REC b) ≤ m.freeSegs b) : m.trigger b tsrc t = m.placeRecord b tsrc t := by
  unfold Dev.trigger
  simp [ho, hfinished, harmed, hrearm, hroom]

end

/-! ## Slots that are lost (R237) and the close of a record (R234) -/

/-- The first slot that finds its lane's drain space full cuts the open record. -/
theorem Dev.overflow_cuts {at_ : Instant} (ho : (m.bsn b).cap.opened = some r) (hcut : r.cut = none) {trib : Nat}
    (hlost : m.overflowOf b r at_ = some (k, trib)) : m.overflow b at_ =
    (((m.modBsn b fun x => { x with cap := { x.cap with opened := some { r with cut := some k } } }).count (F.TRB_GAU_OVF_COUNT trib) 1).report
      Src.captureOverflow b 0 ((r.post[k]?.map (·.start)).getD m.now)) := by
  unfold Dev.overflow
  simp only [ho, hcut, hlost, Option.isSome_none, Bool.false_eq_true, if_false]
  rfl

/-- The open record, with what overflow cut from it, closes once POST slots have been offered to it. -/
theorem Dev.recordClose_eq (ha : m.overflow b (m.now + tickUnits) = a) (ho : (a.bsn b).cap.opened = some r) :
    m.recordClose b = if r.post.length < a.capPost b then a else a.closeRecord b r (r.post.drop (a.capPost b)) := by
  subst ha
  unfold Dev.recordClose
  simp only [ho]

/-! ## Re-arm (R235) -/

/-- After an OVERFLOW re-arm waits until 496 ECLK after the drain space has emptied. -/
theorem Dev.rearmDone_completes (hrearm : m.on (F.BSN_CAP_STAT_REARM b) = true)
    (hemptied : (m.bsn b).cap.lapsed = true → ((m.bsn b).cap.emptied.any fun e => decide (e + 496 * eclk ≤ t)) = true) : m.rearmDone b t =
    (m.put (F.BSN_CAP_STAT_REARM b) 0).modBsn b fun x =>
      let since := if (m.bsn b).cap.lapsed then max (m.bsn b).cap.since t else (m.bsn b).cap.since
      { x with cap := { x.cap with since := since, rearm := none, lapsed := false, history := x.cap.history.filter fun s => decide (since ≤ s.start) } } := by
  have hready : (!m.on (F.BSN_CAP_STAT_REARM b) ||
      ((m.bsn b).cap.lapsed && !(m.bsn b).cap.emptied.any fun e => decide (e + 496 * eclk ≤ t))) = false := by
    rw [hrearm, Bool.not_true, Bool.false_or, Bool.and_eq_false_imp]
    exact fun hl => congrArg not (hemptied hl)
  exact if_neg (ne_true_of_eq_false hready)

/-! ## Records reach HBM (R236, R238) -/

/-- The lanes' bytes are written, then the header; after RECORDS records capture disarms. -/
theorem Dev.recordComplete_eq {c d e : Dev} {l : List CapRec} {n : Nat} (hclosed : (m.bsn b).cap.closed = r :: l)
    (hn : max 1 (m.get (F.BSN_CAP_NSEG_NSEG b)) = n) (ha : m.writeRecord (m.bsn b).cap n r.seg 64 (m.recordLanes b r).flatten = a)
    (hc : a.writeRecord (m.bsn b).cap n r.seg 0 (m.recordHeader b r (m.reg (Reg.BSN_CAP_SEQ b))) = c)
    (hd : (c.put (F.BSN_CAP_WR_WR b) ((c.get (F.BSN_CAP_WR_WR b) + c.get (F.BSN_CAP_GEOM_SEGS_PER_REC b)) % n)).setReg (Reg.BSN_CAP_SEQ b)
      (m.reg (Reg.BSN_CAP_SEQ b) + 1) = d)
    (he : (d.modBsn b fun x => { x with cap := { x.cap with
        closed := l,
        units := x.cap.units + (m.tribs b).foldl (fun n t => n + (m.get (F.BSN_CAP_UNITS_LANE_UNITS b) - (r.units.lookup t).getD 0)) 1 } }).seeDrained b
      = e) : m.recordComplete b =
    if e.get (F.BSN_CAP_RECS_RECORDS b) ≠ 0 ∧ m.reg (Reg.BSN_CAP_SEQ b) + 1 = e.get (F.BSN_CAP_RECS_RECORDS b) ∧ e.on (F.BSN_CAP_STAT_ARMED b) = true then
      e.capShut b
    else e := by
  subst hn ha hc hd he
  unfold Dev.recordComplete
  simp only [hclosed]

end

/-- Settles O26: each command has the effect of its case; a lost slot is found as overflow's definition says. -/
theorem recordsArePlacedClosedAndDrained : Obligations.RecordsArePlacedClosedAndDrained := by
  refine ⟨?triggered, ?closes, ?lost, ?rearmed, ?drained⟩
  case triggered =>
    rintro s _ a b t l r hs rfl ht ha _ hfinished harmed
    have htrigger : ∀ {z}, a.trigger b 0 t = z → exec (.captureTrigger b) s = s.becomes z.payOwed := fun e =>
      State.act_pays_eq (f := (·.captureTrigger b)) hs ((Dev.captureTrigger_eq ht ha).trans e)
    exact ⟨fun o ho hother => htrigger (Dev.trigger_missed hfinished harmed ho hother),
      fun ho hrearm hroom => htrigger (Dev.trigger_places hfinished harmed ho hrearm hroom)⟩
  case closes =>
    rintro s _ a b r hs rfl ha ho
    have hclose := Dev.recordClose_eq ha ho
    exact ⟨fun h => State.act_pays_eq (f := (·.recordClose b)) hs (hclose.trans (if_pos h)),
      fun h => State.act_pays_eq (f := (·.recordClose b)) hs (hclose.trans (if_neg h))⟩
  case lost =>
    intro m b k t at_ r ho hcut hlost
    exact Dev.overflow_cuts ho hcut hlost
  case rearmed =>
    rintro s _ b t hs rfl hrearm hemptied
    exact State.act_pays_eq (f := (·.rearmDone b t)) hs (Dev.rearmDone_completes hrearm hemptied)
  case drained =>
    rintro s _ a c d e b r l n hs rfl hclosed hn ha hc hd he
    have hdrain := Dev.recordComplete_eq hclosed hn ha hc hd he
    exact ⟨fun hlimit hlast harmed => State.act_pays_eq (f := (·.recordComplete b)) hs (hdrain.trans (if_pos ⟨hlimit, hlast, harmed⟩)),
      fun h => State.act_pays_eq (f := (·.recordComplete b)) hs (hdrain.trans (if_neg h))⟩

end Sys2Proof.Machine
end

section
/-! Completions (R238, R304, R305, R468): one equation for each case of an ended burst's completion and of an entry's way to its queue. -/

namespace Sys2Proof.Machine

section
variable {m : Dev} {b q : Nat} {d : Done} {l : List Done} {e : CqEntry}

/-! ## The HOUSE allowance (R145, R304) -/

/-- The oldest ended burst completes once its units can be spent, and no earlier course fetch comes first. -/
theorem Dev.complete_eq (hd : (m.bsn b).done = d :: l) : m.complete b =
    if decide (m.houseLeft b < m.houseCost b d - (m.bsn b).paid) || (m.houseCost b d - (m.bsn b).paid != 0 && m.fetchWaits b (d.tick + 1)) then m
    else (m.modBsn b fun x => { x with house := x.house + (m.houseCost b d - (m.bsn b).paid) }).completeNow b := by
  unfold Dev.complete
  rw [hd]

/-! ## Completion (R238, R304, R305) -/

section
variable (hd : (m.bsn b).done = d :: l)
include hd

theorem Dev.completeNow_sealed (h : m.on F.LEV_STAT_SEALED = true) : m.completeNow b = m := by
  unfold Dev.completeNow
  rw [hd]
  exact if_pos h

/-- The burst's capture records are in HBM first, then its own record and its stall records, then its entry goes to its queue. -/
theorem Dev.completeNow_completes {x y z : Dev} (h : m.on F.LEV_STAT_SEALED = false) (hx : (m.modBsn b fun x => { x with done := l, paid := 0 }) = x)
    (hy : (x.each ((x.bsn b).cap.closed.filter fun r => r.ctx == d.ctx) fun m _ => m.recordComplete b) = y)
    (hz : (y.writeResult b d).trace Trace.complete d.status b d.ctx = z) : m.completeNow b = z.postOrWait (ctxQueue d.ctx) (z.entryFor d) := by
  subst hx hy hz
  unfold Dev.completeNow
  rw [hd]
  exact if_neg (ne_true_of_eq_false h)

end

/-! ## Completion queues (R468) -/

/-- An entry is posted where none waits before it and its queue has room. -/
theorem Dev.postOrWait_eq : m.postOrWait q e =
    if (Tbl.find [] m.weir.waiting q).isEmpty && !m.cqFull q then m.postEntry q e
    else (m.modWeir fun w => { w with waiting := Tbl.set [] w.waiting q (Tbl.find [] m.weir.waiting q ++ [e]) }).put (F.QP_STAT_CQ_FULL q) 1 := rfl

theorem Dev.completionPost_eq {rest : List CqEntry} (hw : Tbl.find [] m.weir.waiting q = e :: rest) : m.completionPost q =
    if m.cqFull q then m else (m.modWeir fun w => { w with waiting := Tbl.set [] w.waiting q rest }).postEntry q e := by
  unfold Dev.completionPost
  rw [hw]

end

/-- Settles O34: each command has the effect of its case. -/
theorem completionsAreWrittenAndPosted : Obligations.CompletionsAreWrittenAndPosted := by
  refine ⟨?waits, ?completes, ?posted⟩
  case waits =>
    rintro s _ b d l hs rfl hd h
    exact State.act_still (f := (·.complete b)) hs ((Dev.complete_eq hd).trans (if_pos h))
  case completes =>
    rintro s _ n b d l hs rfl hsome hhead h hn hd
    obtain ⟨oldest, rest, hfirst⟩ := List.exists_cons_of_ne_nil hsome
    rw [hfirst] at hhead
    obtain rfl : oldest = d := hhead
    have hspent : s.start.complete b = n.completeNow b := hn ▸ (Dev.complete_eq hfirst).trans (if_neg (ne_true_of_eq_false h))
    have hcompletes : ∀ {z}, n.completeNow b = z → exec (.burstCompletion b) s = s.becomes z.payOwed := fun e =>
      State.act_pays_eq (f := (·.complete b)) hs (hspent.trans e)
    refine ⟨fun hsealed => hcompletes (Dev.completeNow_sealed hd hsealed), fun x y z hopen hx hy hz => ?_⟩
    have hposts := (Dev.completeNow_completes hd hopen hx hy hz).trans Dev.postOrWait_eq
    exact ⟨fun hroom => hcompletes (hposts.trans (if_pos hroom)), fun hfull => hcompletes (hposts.trans (if_neg (ne_true_of_eq_false hfull)))⟩
  case posted =>
    rintro s _ q e l hs rfl hw
    have hpost := Dev.completionPost_eq hw
    exact ⟨fun h => State.act_still (f := (·.completionPost q)) hs (hpost.trans (if_pos h)),
      fun h => State.act_pays_eq (f := (·.completionPost q)) hs (hpost.trans (if_neg (ne_true_of_eq_false h)))⟩

end Sys2Proof.Machine
end

section
/-! Submission queues (R290, R291, R467): the doorbell, and Weir's fetch of the next entry. -/

namespace Sys2Proof.Machine

section
variable {m : Dev} {q tail : Nat}

/-- A doorbell is taken where the queue runs and the entries still unfetched, with those that it adds, are fewer than the slots. -/
theorem Dev.sqDoorbell_eq : m.sqDoorbell q tail =
    if m.on (F.QP_STAT_RUNNING q) = true ∧
        (Tbl.find 0 m.weir.sqTail q + 1024 - m.get (F.QP_STAT_SQ_HEAD q)) % 1024 + (tail % 1024 + 1024 - Tbl.find 0 m.weir.sqTail q) % 1024 < 1024
      then m.modWeir fun w => { w with
        sqTail := Tbl.set 0 w.sqTail q (tail % 1024), queues := if w.queues.contains q then w.queues else w.queues ++ [q] }
      else m.put (F.QP_STAT_DB_BAD q) 1 := by
  unfold Dev.sqDoorbell
  cases hrun : m.on (F.QP_STAT_RUNNING q) with
  | false => rfl
  | true => simp only [Bool.not_true, Bool.false_or, decide_eq_true_eq, true_and, ← Nat.not_lt, ite_not]

theorem Dev.fetchFrom_eq {x : Dev} {head : Nat} (hhead : m.get (F.QP_STAT_SQ_HEAD q) = head)
    (hx : { m with out := m.out ++ [Out.hostRead (m.pair (Reg.QP_SQ_LO q) (Reg.QP_SQ_HI q) + 64 * head) 64] } = x) :
    m.fetchFrom q = (x.put (F.QP_STAT_SQ_HEAD q) ((head + 1) % 1024)).modWeir fun w => { w with fetching := w.fetching ++ [(q, head)] } := by
  subst hhead hx
  rfl

end

/-- Settles O52: a doorbell and a fetch have one equation each, and an entry lands by whether one is on its way from its queue. -/
theorem submissionsAreTakenAndLand : Obligations.SubmissionsAreTakenAndLand := by
  refine ⟨?doorbell, fun _ _ _ _ => Dev.fetchFrom_eq, ?lands⟩
  case doorbell =>
    intro s q tail hs
    have howed : (s.start.sqDoorbell q tail.toNat).lev.owed = [] := by
      rw [Dev.sqDoorbell_eq, apply_ite Dev.lev, Dev.modWeir_lev, Dev.put_lev, ite_self]
      exact hs.1.2
    exact (State.hostAct_becomes (f := (·.sqDoorbell q tail.toNat)) hs howed).trans (congrArg s.becomes Dev.sqDoorbell_eq)
  case lands =>
    rintro s _ q data hs rfl
    exact ⟨fun e he => State.act_pays_eq (f := (·.sqLand q data)) hs (Dev.sqLand_oldest he rfl),
      fun hnone => State.act_still (f := (·.sqLand q data)) hs (Dev.sqLand_none hnone)⟩

end Sys2Proof.Machine
end

section
/-! Refresh, read-timing tracking, row repair and idle self-refresh (R323, R328, R329, R332). -/

namespace Sys2Proof.Machine

section
variable {m x y z : Dev} {k row : Nat}

/-! ## Row repair (R332) -/

/-- Past the checks of a repair the row is no longer marked; it takes a spare row where its bank has one left. -/
theorem Dev.rowRepair_eq {spent : Nat} (hmarked : m.slc.marked.contains row = true)
    (hrecent : ((m.slc.repaired.lookup (row / 2 ^ 24)).any fun t => decide (m.tick < t + 16)) = false)
    (hspent : Tbl.find 0 m.slc.spent (row / 2 ^ 16) = spent) (hx : (m.modSlc fun x => { x with marked := x.marked.filter (· != row) }) = x)
    (hy : (x.modSlc fun z => { z with
      spent := Tbl.set 0 z.spent (row / 2 ^ 16) (spent + 1), repaired := z.repaired.filter (fun e => e.1 != row / 2 ^ 24) ++ [(row / 2 ^ 24, x.tick)],
      foundNow := z.foundNow.filter (· != row), foundBefore := z.foundBefore.filter (· != row) }) = y)
    (hz : (y.count F.SLC_REPAIR_ROWS 1).count F.SLC_REPAIR_HARD_PEND 1 = z) : m.rowRepair row =
    if Config.spareRows (row / 2 ^ 16) ≤ spent then x.report Src.hbmExhausted (row / 2 ^ 24) 0 x.now
    else (z.put F.SLC_REPAIR_MIN_SPARE (min (z.get F.SLC_REPAIR_MIN_SPARE)
      (Config.spareRows (row / 2 ^ 16) - spent - 1))).report Src.hbmRowRepair (row / 2 ^ 24) 0 z.now := by
  subst hspent hx hy hz
  refine if_neg ?_
  rw [hmarked, hrecent]
  exact Bool.false_ne_true

/-! ## Idle self-refresh (R329) -/

theorem Dev.idleEntry_enters (hen : m.on F.SLC_CTL_ASR_EN = true)
    (hquiet : (m.definedBasins.all fun b => m.bstate b == St.disabled || m.bstate b == St.held) = true)
    (hdue : m.slc.lastRequest.getD k 0 + m.get F.SLC_ASR_IDLE ≤ m.tick) (hgap : m.slc.step ≠ 3) (hout : m.inRefresh k = false) :
    m.idleEntry k = m.setRefresh k true := by
  unfold Dev.idleEntry
  refine if_pos ?_
  rw [hen, hquiet, decide_eq_true hdue, bne_iff_ne.mpr hgap, hout]
  rfl

theorem Dev.idleEntry_disabled (hen : m.on F.SLC_CTL_ASR_EN = false) : m.idleEntry k = m := by
  unfold Dev.idleEntry
  rw [hen]
  rfl

/-- The exit is itself a request: the idle time starts anew. -/
theorem Dev.idleExit_exits (hin : m.inRefresh k = true) (hgap : m.slc.step ≠ 3) (hx : m.setRefresh k false = x) :
    m.idleExit k = x.modSlc fun y => { y with lastRequest := y.lastRequest.set k x.tick } := by
  subst hx
  unfold Dev.idleExit
  refine if_pos ?_
  rw [hin, bne_iff_ne.mpr hgap]
  rfl

end

/-- Settles O35: a refresh and read-timing tracking are their definitions' one case that acts; a repair and a stack's self-refresh have an equation for
each case. -/
theorem refreshRepairAndSelfRefreshAct : Obligations.RefreshRepairAndSelfRefreshAct := by
  refine ⟨?refresh, ?tracking, ?repair, ?idle⟩
  case refresh =>
    rintro s _ k hs rfl
    exact State.act_pays_eq (f := (·.refresh k)) hs rfl
  case tracking =>
    rintro s _ k hs rfl
    exact ⟨State.act_still (f := (·.timingTrack k true)) hs rfl, State.act_pays_eq (f := (·.timingTrack k false)) hs rfl⟩
  case repair =>
    rintro s _ x row hs rfl hmarked hrecent hx
    exact ⟨fun hnone => State.act_pays_eq (f := (·.rowRepair row)) hs ((Dev.rowRepair_eq hmarked hrecent rfl hx rfl rfl).trans (if_pos hnone)),
      fun _ _ hspare hy hz => State.act_pays_eq (f := (·.rowRepair row)) hs ((Dev.rowRepair_eq hmarked hrecent rfl hx hy hz).trans (if_neg hspare))⟩
  case idle =>
    rintro s _ k hs rfl
    exact ⟨fun hen hquiet hdue hgap hout => State.act_pays_eq (f := (·.idleEntry k)) hs (Dev.idleEntry_enters hen hquiet hdue hgap hout),
      fun hen => State.act_still (f := (·.idleEntry k)) hs (Dev.idleEntry_disabled hen),
      fun hin hgap => State.act_pays_eq (f := (·.idleExit k)) hs (Dev.idleExit_exits hin hgap rfl)⟩

end Sys2Proof.Machine
end

section
/-! Training and changes of the operating point (R324 to R327, R332): one equation for each operation and each step. -/

namespace Sys2Proof.Machine

section
variable {m a c d e x : Dev} {slot k mask t : Nat} {irq good stored : Bool}

/-! ## Training (R327) -/

/-- A training command that starts is judged by its mask first, then by the image. -/
theorem Dev.train_eq (h : m.opStart slot Op.slcTrain irq 0x05 = (a, true)) (hb : a.sluiceBusy slot = false)
    (hmask : bitsOf (a.param slot 0) 3 0 = mask) : m.train slot irq =
    if mask = 0 ∨ 8 ≤ mask then a.opEnd slot 0x01
    else if a.image.isSome then a.opEnd slot 0x06
    else (a.put F.SLC_STAT_OP_BUSY 1).modSlc fun x => { x with training := some (slot, mask) } := by
  subst hmask
  unfold Dev.train
  rw [h]
  exact if_neg (ne_true_of_eq_false hb)

/-- The patterns are left in the training region before the lanes are judged. -/
theorem Dev.trainDone_eq (ht : m.slc.training = some (k, mask))
    (hc : ((m.put F.SLC_STAT_OP_BUSY 0).modSlc fun x => { x with training := none }).trainPatterns = c) : m.trainDone good stored =
    if !good then c.opEnd k 0x07 else (c.trainResults mask stored).opEnd k (if stored then 0 else 0x08) := by
  subst hc
  unfold Dev.trainDone
  rw [ht]

section
variable {join : List (Nat × Nat × Nat) → List (Nat × Nat × Nat)} (he : c.repairLanes.put F.SLC_STAT_RETRAIN 0 = e)
  (hjoin : (fun l : List (Nat × Nat × Nat) => l.filter (fun x => !bitOf mask x.1) ++
    ((List.range 3).filter fun p => bitOf mask p).map fun p => (p, e.get F.SLC_TEMP_T0, e.get F.SLC_TEMP_T1)) = join)
  (hd : (e.modSlc fun x => { x with trained := join x.trained }).showTraining = d)
include he hjoin hd

theorem Dev.trainResults_unstored : c.trainResults mask false = (d.put F.RSV_STAT_WRITE_ERR 1).report Src.reservoirWrite 0 0 d.now := by
  subst he hjoin hd
  rfl

theorem Dev.trainResults_stored (hx : d.setPair Reg.RSV_WRITES_LO Reg.RSV_WRITES_HI (d.pair Reg.RSV_WRITES_LO Reg.RSV_WRITES_HI + 1) = x) :
    c.trainResults mask true = { x with rsv := { x.rsv with trained := join x.rsv.trained } } := by
  subst he hjoin hd hx
  rfl

end

/-! ## Changes of the operating point (R325, Table 11.5) -/

/-- A change that starts is judged by its point, the demand that the point must carry, and the point's training. -/
theorem Dev.opChange_eq (h : m.opStart slot Op.opChange irq 0x05 = (a, true)) (hb : a.sluiceBusy slot = false)
    (ht : bitsOf (a.param slot 0) 3 0 = t) : m.opChange slot irq =
    if 2 < t then a.opEnd slot 0x01
    else if t = a.get F.SLC_STAT_OP then a.opEnd slot 0
    else if !bitOf (a.param slot 0) 8 && decide (16 * opCapacity t < a.get F.SLC_CAP_DEMAND) then a.opEnd slot 0x02
    else if !bitOf (a.get F.SLC_TRAIN_VALID) t || !bitOf (a.get F.SLC_TRAIN_INBAND) t then a.opEnd slot 0x03
    else (a.put F.SLC_STAT_OP_BUSY 1).modSlc fun x => { x with
      step := 2, slot := slot, target := t, since := a.tick, force := bitOf (a.param slot 0) 8 } := by
  subst ht
  unfold Dev.opChange
  rw [h]
  exact if_neg (ne_true_of_eq_false hb)

theorem Dev.leadTimeout_ends (hstep : m.slc.step = 2) (hforce : m.slc.force = false) (hdue : m.slc.since + 64 ≤ m.tick) :
    m.leadTimeout = m.opChangeEnd 0x04 := if_pos ⟨hstep, congrArg (!·) hforce, hdue⟩

theorem Dev.opChangeCommit_commits (hstep : m.slc.step = 2) (hafter : m.slc.since < m.tick) (hlead : (m.slc.force || m.leadHolds) = true) :
    m.opChangeCommit =
      ((m.setSlot m.slc.slot { m.slot m.slc.slot with committed := true }).put F.SLC_STAT_SR 3).modSlc fun x => { x with step := 3 } :=
  if_pos ⟨hstep, hafter, hlead⟩

/-- Nothing commits at the boundary of the issue, or before the lead condition holds. -/
theorem Dev.opChangeCommit_waits (h : m.tick ≤ m.slc.since ∨ (m.slc.force || m.leadHolds) = false) : m.opChangeCommit = m := by
  refine if_neg ?_
  rintro ⟨-, hafter, hlead⟩
  obtain hearly | hopen := h
  · exact Nat.not_le_of_lt hafter hearly
  · exact ne_true_of_eq_false hopen hlead

theorem Dev.opChangeGap_ends (hstep : m.slc.step = 3) (hx : (m.put F.SLC_STAT_SR 0).put F.SLC_STAT_OP m.slc.target = x) :
    m.opChangeGap = (x.modSlc fun y => { y with step := 4, since := x.tick, lastRequest := [x.tick, x.tick] }).repairLanes := by
  subst hx
  exact if_pos hstep

theorem Dev.opChangeDone_ends (hstep : m.slc.step = 4) (hafter : m.slc.since < m.tick)
    (hx : m.put F.SLC_CAP_CAP_UNITS (16 * opCapacity m.slc.target) = x) :
    m.opChangeDone = (x.put F.SLC_STAT_OVER (flag (decide (16 * opCapacity m.slc.target < x.get F.SLC_CAP_DEMAND)))).opChangeEnd 0 := by
  subst hx
  exact if_pos ⟨hstep, hafter⟩

end

/-- Settles O36: each operation and each step by the case of its equation. -/
theorem trainingAndOperatingPointsChange : Obligations.TrainingAndOperatingPointsChange := by
  refine ⟨?train, ?trained, ?change, ?steps⟩
  case train =>
    rintro s _ a slot irq hs rfl h hb
    have htrain := Dev.train_eq h hb rfl
    have hends : ∀ {z}, s.start.train slot irq = z → exec (.slcTrain slot irq) s = s.becomes z.payOwed :=
      State.hostAct_pays_eq (f := (·.train slot irq)) hs
    exact ⟨fun hbad => hends (htrain.trans (if_pos hbad)),
      fun hgood himage => hends ((htrain.trans (if_neg hgood)).trans (if_pos himage)),
      fun hgood hfree => hends ((htrain.trans (if_neg hgood)).trans (if_neg (ne_true_of_eq_false hfree)))⟩
  case trained =>
    rintro s _ a c k mask stored hs rfl ht ha hc
    have hpatterns : ((s.start.put F.SLC_STAT_OP_BUSY 0).modSlc fun x => { x with training := none }).trainPatterns = c := ha ▸ hc
    have hends : ∀ {good st z}, s.start.trainDone good st = z → exec (.slcTrainDone good st) s = s.becomes z.payOwed :=
      fun {good st _} => State.act_pays_eq (f := (·.trainDone good st)) hs
    refine ⟨hends (Dev.trainDone_eq ht hpatterns), fun d e join he hjoin hd => ⟨hends ?_, hends ?_⟩⟩
    · exact (Dev.trainDone_eq ht hpatterns).trans (congrArg (Dev.opEnd · k 0x08) (Dev.trainResults_unstored he hjoin hd))
    · exact (Dev.trainDone_eq ht hpatterns).trans (congrArg (Dev.opEnd · k 0) (Dev.trainResults_stored he hjoin hd rfl))
  case change =>
    rintro s _ a slot irq t hs rfl h hb ht
    have hchange := Dev.opChange_eq h hb ht
    have hends : ∀ {z}, s.start.opChange slot irq = z → exec (.slcOpchange slot irq) s = s.becomes z.payOwed :=
      State.hostAct_pays_eq (f := (·.opChange slot irq)) hs
    refine ⟨fun hbad => hends (hchange.trans (if_pos hbad)), fun hknown hsame => ?_, fun hknown hother hshort => ?_,
      fun hknown hother hcarries => ?_⟩
    · exact hends ((hchange.trans (if_neg hknown)).trans (if_pos hsame))
    · exact hends (((hchange.trans (if_neg hknown)).trans (if_neg hother)).trans (if_pos hshort))
    · have hcarried := ((hchange.trans (if_neg hknown)).trans (if_neg hother)).trans (if_neg (ne_true_of_eq_false hcarries))
      exact ⟨fun huntrained => hends (hcarried.trans (if_pos huntrained)),
        fun htrained => hends (hcarried.trans (if_neg (ne_true_of_eq_false htrained)))⟩
  case steps =>
    rintro s _ hs rfl
    exact ⟨fun hstep hforce hdue => State.act_pays_eq (f := Dev.leadTimeout) hs (Dev.leadTimeout_ends hstep hforce hdue),
      fun hstep hafter hlead => State.act_pays_eq (f := Dev.opChangeCommit) hs (Dev.opChangeCommit_commits hstep hafter hlead),
      fun _ h => State.act_still (f := Dev.opChangeCommit) hs (Dev.opChangeCommit_waits h),
      fun _ hstep hx => State.act_pays_eq (f := Dev.opChangeGap) hs (Dev.opChangeGap_ends hstep hx),
      fun _ hstep hafter hx => State.act_pays_eq (f := Dev.opChangeDone) hs (Dev.opChangeDone_ends hstep hafter hx)⟩

end Sys2Proof.Machine
end

section
/-! BAR2 (R315, R457 to R459): reads of bytes, writes of permitted ones, and the base of its window. -/

namespace Sys2Proof.Machine

section
variable {m : Dev} {o a len : Nat} {l : List Byte} {ecc : Ecc}

/-! ## Reads and writes -/

theorem Dev.windowRead_eq (ht : m.inTest = false) (ha : m.windowAddr o = a) {n : Dev}
    (hn : (m.hostMeets a ecc).askHost (if m.hostSees a then unitsTouched a len else 0) = n) : m.windowRead o len ecc =
    { n with out := n.out ++ .bytes ((List.range len).map fun i => m.windowByte (a + i)) ::
        if ecc = .poisoned ∧ m.hostSees a then [Out.poisoned] else [] } := by
  subst ha hn
  exact if_neg (ne_true_of_eq_false ht)

theorem Dev.windowRead_inTest (ht : m.inTest = true) : m.windowRead o len ecc = m := if_pos ht

theorem Dev.windowWrite_inTest (ht : m.inTest = true) : m.windowWrite o l ecc = m := if_pos ht

/-- An open window reads the word that the request covers in part, stores the bytes, and counts a write with bytes elsewhere. -/
theorem Dev.windowWrite_stores {x y : Dev} (ht : m.inTest = false) (h : (m.on F.SLC_STAT_AVAIL && !m.on F.LEV_STAT_SEALED) = true)
    (ha : m.windowAddr o = a) (hx : ((partWord a l.length).elim m fun w => if m.hostMay w then m.rmwMeets w ecc else m) = x)
    (hy : ((x.touch a).askHost (writeUnits a l.length)).putBytes (keptOut a l.length ecc) a l = y) : m.windowWrite o l ecc =
    if (List.range l.length).all fun i => m.hostMay (a + i) then y else y.count F.GLB_WIN_STAT_DROPPED 1 := by
  subst ha hx hy
  unfold Dev.windowWrite
  cases hpart : partWord (m.windowAddr o) l.length <;>
    simp only [ht, h, hpart, Bool.not_true, Bool.false_eq_true, if_false, Option.elim_none, Option.elim_some]

/-! ## Requests of whole words -/

theorem partWord_whole (ha : a % 8 = 0) (hl : len % 8 = 0) : partWord a len = none := by
  unfold partWord
  rw [ha, hl]
  rfl

/-- A request of whole words has no word that a poisoned one could keep out. -/
theorem keptOut_whole (ha : a % 8 = 0) (hl : len % 8 = 0) (x : Nat) : keptOut a len ecc x = false := by
  unfold keptOut
  rw [partWord_whole ha hl]
  exact Bool.and_false _

/-- Where the host may write every byte and none is kept out, all are written. -/
theorem Dev.putBytes_all {skip : Nat → Bool} (hskip : ∀ x, skip x = false) (hmay : ∀ i < l.length, m.hostMay (a + i) = true) :
    m.putBytes skip a l = m.setBytes a l := by
  induction l generalizing m a with
  | nil => rfl
  | cons v t ih =>
    have hfirst : (m.hostMay a && !skip a) = true := by
      rw [hskip]
      exact (Bool.and_true _).trans (hmay 0 (Nat.zero_lt_succ _))
    have hrest : ∀ i < t.length, (m.setByte a v).hostMay (a + 1 + i) = true := by
      intro i hi
      rw [Nat.add_right_comm]
      exact hmay (i + 1) (Nat.succ_lt_succ hi)
    unfold Dev.putBytes Dev.setBytes
    rw [if_pos hfirst, ih hrest]

theorem Dev.windowWrite_whole (ht : m.inTest = false) (h : (m.on F.SLC_STAT_AVAIL && !m.on F.LEV_STAT_SEALED) = true)
    (hall : ((List.range l.length).all fun i => m.hostMay (m.windowAddr o + i)) = true) (ha : m.windowAddr o % 8 = 0) (hl : l.length % 8 = 0) :
    m.windowWrite o l ecc = ((m.touch (m.windowAddr o)).askHost (writeUnits (m.windowAddr o) l.length)).setBytes (m.windowAddr o) l := by
  have hread : ((partWord (m.windowAddr o) l.length).elim m fun w => if m.hostMay w then m.rmwMeets w ecc else m) = m := by
    rw [partWord_whole ha hl]
    rfl
  have hmay : ∀ i < l.length, m.hostMay (m.windowAddr o + i) = true := fun i hi => List.all_eq_true.mp hall i (List.mem_range.mpr hi)
  rw [Dev.windowWrite_stores ht h rfl hread rfl, if_pos hall]
  exact Dev.putBytes_all (keptOut_whole ha hl) hmay

/-! ## GLB_WIN (R456, R457) -/

/-- The Resizable BAR's size is no part of what opens a register region to writes. -/
theorem Dev.winBaseWrite_eq {v size : Nat} (hw : m.writable Reg.GLB_WIN = true) (ht : m.inTest = false) : m.winBaseWrite v size =
    if bitsOf v 6 0 % 2 ^ size = 0 then (m.modHost fun h => { h with barSize := size }).put F.GLB_WIN_BASE (bitsOf v 6 0)
    else (m.modHost fun h => { h with barSize := size }).put F.GLB_WIN_STAT_WIN_BAD 1 := by
  have hwrite : m.winBaseWrite v size = (m.modHost fun h => { h with barSize := size }).winWrite v :=
    Dev.hostWrite_open (m := m.modHost fun h => { h with barSize := size }) (f := (·.winWrite v)) hw ht
  rw [hwrite]
  exact ite_not ..

end

/-- Settles O55: a read has one equation, a write one for the open window, of which whole words are a case, and one for the closed. -/
theorem bar2ReadsAndWritesHbm : Obligations.Bar2ReadsAndWritesHbm := by
  refine ⟨?read, ?whole, ?stores, ?inTest, ?closed, ?base⟩
  case read =>
    intro s o len ecc hs ht
    exact State.act_pays_eq (f := (·.windowRead o len ecc)) hs (Dev.windowRead_eq (m := s.start) ht rfl rfl)
  case whole =>
    intro s o data ecc hs ht havail hopen hall ha hl
    refine State.act_eq (f := (·.windowWrite o data ecc)) hs (Dev.windowWrite_whole (m := s.start) ht ?_ hall ha hl) ?_
    · rw [havail, hopen]
      rfl
    · rw [Dev.setBytes_lev]
      exact hs.2
  case stores =>
    rintro s _ x y o a data ecc hs rfl ht h ha hx hy
    have hstores := Dev.windowWrite_stores ht h ha hx hy
    exact ⟨fun hall => State.act_pays_eq (f := (·.windowWrite o data ecc)) hs (hstores.trans (if_pos hall)),
      fun hsome => State.act_pays_eq (f := (·.windowWrite o data ecc)) hs (hstores.trans (if_neg (ne_true_of_eq_false hsome)))⟩
  case inTest =>
    intro s o len data ecc hs ht
    exact ⟨State.act_still (f := (·.windowRead o len ecc)) hs (Dev.windowRead_inTest (m := s.start) ht),
      State.act_still (f := (·.windowWrite o data ecc)) hs (Dev.windowWrite_inTest (m := s.start) ht)⟩
  case closed =>
    intro s o data ecc hs ht h
    exact State.act_eq (f := (·.windowWrite o data ecc)) hs (Dev.windowWrite_closed (m := s.start) ht h) hs.2
  case base =>
    rintro s v size ⟨hs, hw, ht⟩
    refine State.act_eq (f := (·.winBaseWrite v.toNat size)) hs (Dev.winBaseWrite_eq (m := s.start) hw ht) ?_
    rw [apply_ite Dev.lev, Dev.put_lev, Dev.put_lev, ite_self]
    exact hs.2

end Sys2Proof.Machine
end

section
/-! Headwater (R337 to R340, R343, R347, R348): one equation for each case of lock, loss, restore and unlock. -/

namespace Sys2Proof.Machine

section
variable {m x : Dev} {ref10 : Bool}

/-! ## Lock (R338, R343, R347, R348) -/

/-- A device that is locked keeps everything. -/
theorem Dev.headwaterLock_locked (h : m.on F.HDW_STAT_LOCKED = true) : m.headwaterLock ref10 = m := by
  unfold Dev.headwaterLock
  rw [h]
  rfl

/-- Outside slack a device that is not locked takes the reference found; the first lock of all starts TT and the time base's increment. -/
theorem Dev.headwaterLock_locks (h : m.on F.HDW_STAT_LOCKED = false) (hs : ¬ 2 ≤ m.get F.SPT_SLACK_STATE)
    (hx : m.put F.HDW_STAT_REF_10M (flag ref10) = x) : m.headwaterLock ref10 =
    if x.clk.locked then x.setLocked
    else (((x.rebase x.now).modClk fun c => { c with locked := true, inc := x.nominalInc }).setReg Reg.TMB_INC x.nominalInc).setLocked := by
  subst hx
  unfold Dev.headwaterLock
  rw [h, decide_eq_false hs]
  rfl

/-! ## Loss of the reference (R339, R347) -/

section
variable (hx : ((m.put F.HDW_STAT_REF_OK 0).put F.TMB_STAT_REF_LOST 1).put F.HDW_STAT_ALIGNED 0 = x)
include hx

/-- In slack the REFCLK count is lost. -/
theorem Dev.refLoss_inSlack (h : 2 ≤ x.get F.SPT_SLACK_STATE) : m.refLoss = x.modClk fun c => { c with slackLost := true } := by
  subst hx
  exact if_pos h

/-- Outside slack the loss is reported, and a locked device holds over. -/
theorem Dev.refLoss_reports (h : ¬ 2 ≤ x.get F.SPT_SLACK_STATE) : m.refLoss =
    (if x.on F.HDW_STAT_LOCKED then x.put F.HDW_STAT_HOLDOVER 1 else x).report Src.refclkLoss 0 0 x.now := by
  subst hx
  exact if_neg h

end

/-! ## Restore and unlock (R339, R340) -/

theorem Dev.refRestore_eq : m.refRestore = if m.on F.HDW_STAT_HOLDOVER then m.setLocked else m.put F.HDW_STAT_REF_OK 1 := rfl

/-- Lock is lost only where there was one, with a valid reference. -/
theorem Dev.headwaterUnlock_eq : m.headwaterUnlock =
    if m.on F.HDW_STAT_LOCKED && m.on F.HDW_STAT_REF_OK then
      ((m.put F.HDW_STAT_ALIGNED 0).put F.HDW_STAT_HOLDOVER 1).report Src.headwaterUnlock 0 0 m.now
    else m := rfl

end

/-- Settles O37: each command has the effect of its case. -/
theorem headwaterLocksHoldsAndUnlocks : Obligations.HeadwaterLocksHoldsAndUnlocks := by
  refine ⟨?lock, ?loss, ?restore⟩
  case lock =>
    rintro s _ ref10 hs rfl
    refine ⟨fun h => State.act_still (f := (·.headwaterLock ref10)) hs (Dev.headwaterLock_locked h), fun x h hslack hx => ?_⟩
    have hlocks := Dev.headwaterLock_locks h hslack hx
    exact ⟨fun hagain => State.act_pays_eq (f := (·.headwaterLock ref10)) hs (hlocks.trans (if_pos hagain)),
      fun hfirst => State.act_pays_eq (f := (·.headwaterLock ref10)) hs (hlocks.trans (if_neg (ne_true_of_eq_false hfirst)))⟩
  case loss =>
    rintro s _ x hs rfl hx
    refine ⟨fun hslack => State.act_pays_eq (f := (·.refLoss)) hs (Dev.refLoss_inSlack hx hslack), fun hslack hlocked => ?_,
      fun hslack hunlocked => ?_⟩
    · have hreports := Dev.refLoss_reports hx hslack
      rw [if_pos hlocked] at hreports
      exact State.act_pays_eq (f := (·.refLoss)) hs hreports
    · have hreports := Dev.refLoss_reports hx hslack
      rw [if_neg (ne_true_of_eq_false hunlocked)] at hreports
      exact State.act_pays_eq (f := (·.refLoss)) hs hreports
  case restore =>
    rintro s _ hs rfl
    exact ⟨fun h => State.act_pays_eq (f := (·.refRestore)) hs (Dev.refRestore_eq.trans (if_pos h)),
      fun h => State.act_pays_eq (f := (·.refRestore)) hs (Dev.refRestore_eq.trans (if_neg (ne_true_of_eq_false h))),
      fun h => State.act_pays_eq (f := (·.headwaterUnlock)) hs (Dev.headwaterUnlock_eq.trans (if_pos h)),
      fun h => State.act_still (f := (·.headwaterUnlock)) hs (Dev.headwaterUnlock_eq.trans (if_neg (ne_true_of_eq_false h)))⟩

end Sys2Proof.Machine
end

section
/-! SYNC (R343, R344, R346, R347, R350): one equation for each case of an arm, a pulse, the zero of TT and a realignment. -/

namespace Sys2Proof.Machine

section
variable {m x y : Dev}

/-! ## Arm and realignment (R343, R346) -/

theorem Dev.syncArm_eq {ctl : Nat} (hx : m.put F.HDW_SYNC_CTL_MONITOR (bitsOf ctl 1 1) = x) :
    m.syncArm ctl = if x.anyActive then x.put F.HDW_STAT_ARM_REFUSED 1 else x.put F.HDW_SYNC_CTL_ARM 1 := by
  subst hx
  rfl

theorem Dev.syncRealign_refused (h : m.anyActive = true) : m.syncRealign = m.put F.HDW_STAT_ARM_REFUSED 1 := if_pos h

/-- The tree walks by the last deviation. -/
theorem Dev.syncRealign_walks (h : m.anyActive = false) : m.syncRealign =
    (m.put F.HDW_PHASE_PHASE (ofSigned 16 ((m.get F.HDW_PHASE_PHASE : Int) + toSigned 16 (m.get F.HDW_SYNC_DEV_DEV)))).put F.HDW_STAT_WALK
      (flag (toSigned 16 (m.get F.HDW_SYNC_DEV_DEV) != 0)) := if_neg (ne_true_of_eq_false h)

/-! ## A pulse (R343, R344, R346) -/

section
variable {a : Instant}

section
variable (harm : m.on F.HDW_SYNC_CTL_ARM = true)
include harm

/-- An armed pulse starts the event. -/
theorem Dev.syncPulse_starts (h : m.clk.event = 0) : m.syncPulse a =
    (((m.put F.HDW_PHASE_PHASE (m.free 16)).draw).put F.HDW_STAT_WALK 1).modClk fun c =>
      { c with event := 1, eventS := a - m.get F.HDW_SYNC_SKEW_SKEW, skew := some (m.get F.HDW_SYNC_SKEW_SKEW) } := by
  unfold Dev.syncPulse
  rw [if_pos harm, h]
  rfl

/-- While an event is in progress a further pulse does nothing. -/
theorem Dev.syncPulse_inEvent (h : m.clk.event ≠ 0) : m.syncPulse a = m := (if_pos harm).trans (if_pos (bne_iff_ne.mpr h))

end

/-- An unarmed pulse is measured where MONITOR is set. -/
theorem Dev.syncPulse_unarmed (harm : m.on F.HDW_SYNC_CTL_ARM = false) :
    m.syncPulse a = if m.on F.HDW_SYNC_CTL_MONITOR then m.syncMeasure a else m := if_neg (ne_true_of_eq_false harm)

end

/-! ## TT = 0 (R344, R347, R350) -/

/-- The time base starts anew at a value, latched as that of tick 0. -/
def Dev.loadTime (m : Dev) (v : Nat) : Dev := { m with timeBase := v, timeRest := 0, latches := [(0, v)] }

/-- The time base is latched before TT is placed anew; it keeps that value, or takes SYNC_LOAD's. -/
theorem Dev.syncZero_places {z v : Nat} (h : m.clk.event = 1) (hz : m.clk.eventS + alignPeriod = z) (hv : m.timeAt z = v)
    (hx : (m.setReg Reg.TMB_SYNC_TS_LO (v / 2 ^ 24)).put F.TMB_SYNC_TS_HI_FRAC v = x)
    (hy : ((x.rebase z).each (List.range 8) Dev.ckoShutDone).modClk
      (fun c => { c with ckoFrom := c.ckoFrom.map fun e => (e.1, Tbl.find 0 c.phases e.1) }) = y) : m.syncZero =
    ((y.loadTime (if y.on F.TMB_CTL_SYNC_LOAD then y.reg Reg.TMB_SYNC_LOAD_LO * 2 ^ 24 + y.get F.TMB_SYNC_LOAD_HI_FRAC else v)).put
      F.HDW_STAT_WALK 0).modClk fun c => { c with event := 2 } := by
  subst hz hv hx hy
  unfold Dev.syncZero
  rw [h]
  rfl

end

/-- Settles O39: each command has the effect of its case. -/
theorem syncAlignsTheDevice : Obligations.SyncAlignsTheDevice := by
  refine ⟨?written, ?pulse, ?zero⟩
  case written =>
    rintro s _ x ctl hs rfl hx
    have harm := Dev.syncArm_eq hx
    exact ⟨fun h => State.hostAct_pays_eq (f := (·.syncArm ctl.toNat)) hs (harm.trans (if_pos h)),
      fun h => State.hostAct_pays_eq (f := (·.syncArm ctl.toNat)) hs (harm.trans (if_neg (ne_true_of_eq_false h))),
      fun h => State.hostAct_pays_eq (f := (·.syncRealign)) hs (Dev.syncRealign_refused h),
      fun h => State.hostAct_pays_eq (f := (·.syncRealign)) hs (Dev.syncRealign_walks h)⟩
  case pulse =>
    rintro s _ a hs rfl
    exact ⟨fun harm h => State.act_pays_eq (f := (·.syncPulse a)) hs (Dev.syncPulse_starts harm h),
      fun harm h => State.act_still (f := (·.syncPulse a)) hs (Dev.syncPulse_inEvent harm h),
      fun harm h => State.act_pays_eq (f := (·.syncPulse a)) hs ((Dev.syncPulse_unarmed harm).trans (if_pos h)),
      fun harm h => State.act_still (f := (·.syncPulse a)) hs ((Dev.syncPulse_unarmed harm).trans (if_neg (ne_true_of_eq_false h)))⟩
  case zero =>
    rintro s _ x y z v hs rfl h hz hv hx hy
    have hplaces := Dev.syncZero_places h hz hv hx hy
    refine ⟨fun hkeep => ?_, fun hload => ?_⟩
    · rw [if_neg (ne_true_of_eq_false hkeep)] at hplaces
      exact State.act_pays_eq (f := (·.syncZero)) hs hplaces
    · rw [if_pos hload] at hplaces
      exact State.act_pays_eq (f := (·.syncZero)) hs hplaces

end Sys2Proof.Machine
end

section
/-! The time base and the Ethernet ports (R348 to R350, R353, R363, R451): one equation for each case of an apply, a half crossing, and a port's enable
and link. -/

namespace Sys2Proof.Machine

section
variable {m x : Dev}

/-! ## Apply (R349) -/

/-- The staged values wait for a tick. -/
def Dev.armApply (m : Dev) (n : Nat) : Dev := (m.put F.TMB_STAT_ARMED 1).modClk fun c => { c with applyAt := some n }

/-- A tick staged that is not later than the next boundary reads LATE, and the next is taken. -/
theorem Dev.tmbArm_late (h : m.pair Reg.TMB_APPLY_LO Reg.TMB_APPLY_HI ≤ m.tick + 1) :
    m.tmbArm = (m.put F.TMB_STAT_LATE 1).armApply ((m.put F.TMB_STAT_LATE 1).tick + 1) := by
  unfold Dev.tmbArm
  simp only [decide_eq_true h, if_true]
  rfl

theorem Dev.tmbArm_inTime (h : ¬ m.pair Reg.TMB_APPLY_LO Reg.TMB_APPLY_HI ≤ m.tick + 1) :
    m.tmbArm = m.armApply (m.pair Reg.TMB_APPLY_LO Reg.TMB_APPLY_HI) := by
  unfold Dev.tmbArm
  simp only [decide_eq_false h, Bool.false_eq_true, if_false]
  rfl

/-- The staged values have applied: none waits. -/
def Dev.endApply (m : Dev) : Dev := (m.put F.TMB_STAT_ARMED 0).modClk fun c => { c with applyAt := none }

/-- From its tick on, with REFCLK, an apply adds STEP, and takes INC where that is near its nominal value. -/
theorem Dev.tmbApply_due {n step : Nat} (hn : m.clk.applyAt = some n) (ht : ¬ m.tick < n) (href : m.on F.HDW_STAT_REF_OK = true)
    (hstep : m.reg Reg.TMB_STEP_LO + 2 ^ 32 * m.get F.TMB_STEP_HI_STEP = step)
    (hx : (({ m with timeBase := (m.timeBase + step) % 2 ^ 56 } : Dev).setReg Reg.TMB_STEP_LO 0).setReg Reg.TMB_STEP_HI 0 = x) :
    m.tmbApply =
      (if (x.nominalInc : Int) < 1000 * ((x.clk.inc : Int) - x.nominalInc).natAbs then x.put F.TMB_STAT_INC_BAD 1
      else x.setReg Reg.TMB_INC x.clk.inc).endApply := by
  subst hstep hx
  unfold Dev.tmbApply
  simp only [hn, href, decide_eq_false ht, Bool.not_true, Bool.or_false, Bool.false_eq_true, if_false, decide_eq_true_eq]
  rfl

/-! ## Half crossings (R348) -/

theorem Dev.tmbHalf_zero : m.tmbHalf true = (m.put F.TMB_STAT_HALF 1).bump F.TMB_NOW_HI_WRAP := rfl

theorem Dev.tmbHalf_half : m.tmbHalf false = m.put F.TMB_STAT_HALF 1 := rfl

/-! ## Ethernet ports (R353, R363, R451) -/

section
variable {e : Nat}

section
variable {ctl : Nat}

section
variable (h : m.on (F.ETH_CTL_ENABLE e) = false)
include h

theorem Dev.ethEnable_enables : m.ethEnable e ctl = (m.put (F.ETH_CTL_RSFEC e) (bitsOf ctl 1 1)).put (F.ETH_CTL_ENABLE e) 1 :=
  if_neg (ne_true_of_eq_false h)

theorem Dev.ethDisable_disabled : m.ethDisable e ctl = m.put (F.ETH_CTL_RSFEC e) (bitsOf ctl 1 1) := if_neg (ne_true_of_eq_false h)

end

section
variable (h : m.on (F.ETH_CTL_ENABLE e) = true)
include h

theorem Dev.ethEnable_enabled : m.ethEnable e ctl = m := if_pos h

/-- A disable drops the link and ends the port's servo. -/
theorem Dev.ethDisable_disables : m.ethDisable e ctl = ((m.put (F.ETH_CTL_ENABLE e) 0).put (F.ETH_STAT_LINK e) 0).servoEnd e 0x01 := if_pos h

end

end

theorem Dev.ethUp_eq : m.ethUp e = if m.on (F.ETH_CTL_ENABLE e) then m.put (F.ETH_STAT_LINK e) 1 else m := rfl

theorem Dev.ethDown_eq : m.ethDown e = if m.on (F.ETH_STAT_LINK e) then (m.put (F.ETH_STAT_LINK e) 0).servoEnd e 0x01 else m := rfl

end

end

/-- Settles O40: each command has the effect of its case. -/
theorem timeBaseAndEthernetPortsAct : Obligations.TimeBaseAndEthernetPortsAct := by
  refine ⟨?arm, ?apply, ?half, ?port, ?link⟩
  case arm =>
    rintro s _ hs rfl
    exact ⟨fun h => State.hostAct_pays_eq (f := (·.tmbArm)) hs (Dev.tmbArm_late h),
      fun h => State.hostAct_pays_eq (f := (·.tmbArm)) hs (Dev.tmbArm_inTime h)⟩
  case apply =>
    rintro s _ x n step hs rfl hn ht href hstep hx
    have hdue := Dev.tmbApply_due hn ht href hstep hx
    refine ⟨fun hbad => ?_, fun hnear => ?_⟩
    · rw [if_pos hbad] at hdue
      exact State.act_pays_eq (f := (·.tmbApply)) hs hdue
    · rw [if_neg hnear] at hdue
      exact State.act_pays_eq (f := (·.tmbApply)) hs hdue
  case half =>
    rintro s _ hs rfl
    exact ⟨State.act_pays_eq (f := (·.tmbHalf true)) hs Dev.tmbHalf_zero, State.act_pays_eq (f := (·.tmbHalf false)) hs Dev.tmbHalf_half⟩
  case port =>
    rintro s _ e ctl hs rfl
    exact ⟨fun h => ⟨State.hostAct_pays_eq (f := (·.ethEnable e ctl.toNat)) hs (Dev.ethEnable_enables h),
        State.hostAct_pays_eq (f := (·.ethDisable e ctl.toNat)) hs (Dev.ethDisable_disabled h)⟩,
      fun h => ⟨State.hostAct_still (f := (·.ethEnable e ctl.toNat)) hs (Dev.ethEnable_enabled h),
        State.hostAct_pays_eq (f := (·.ethDisable e ctl.toNat)) hs (Dev.ethDisable_disables h)⟩⟩
  case link =>
    rintro s _ e hs rfl
    exact ⟨fun h => State.act_pays_eq (f := (·.ethUp e)) hs (Dev.ethUp_eq.trans (if_pos h)),
      fun h => State.act_still (f := (·.ethUp e)) hs (Dev.ethUp_eq.trans (if_neg (ne_true_of_eq_false h))),
      fun h => State.act_pays_eq (f := (·.ethDown e)) hs (Dev.ethDown_eq.trans (if_pos h)),
      fun h => State.act_still (f := (·.ethDown e)) hs (Dev.ethDown_eq.trans (if_neg (ne_true_of_eq_false h)))⟩

end Sys2Proof.Machine
end

section
/-! Descriptors and frames (R353, R354, R459, R470, R471): one equation for each case of a copy, a frame sent and a frame received. -/

namespace Sys2Proof.Machine

section
variable {m x y : Dev}

/-! ## Copies (R459, R470, R471) -/

/-- True where a host write of n bytes at an address may write every one (R457). -/
def Dev.hostTakes (m : Dev) (a n : Nat) : Bool :=
  m.on F.SLC_STAT_AVAIL && !m.on F.LEV_STAT_SEALED && (List.range n).all fun i => m.hostMay (a + i)

section
variable {e d : Nat} {data : List Byte} {ok : Bool} {ecc : Ecc}

theorem Dev.copyDesc_broken (h : descOk e 0 d = false) : m.copyDesc e d data ok ecc = m.descDone e 0 d true false false 0 := by
  unfold Dev.copyDesc
  rw [h]
  rfl

section
variable (hok : descOk e 0 d = true)
include hok

/-- A copy into HBM reads the host buffer first, and writes all of it or nothing. -/
theorem Dev.copyDesc_in (hd : descDir d = false) (hx : { m with out := m.out ++ [Out.hostRead (descHost d) (descLen d)] } = x) :
    m.copyDesc e d data ok ecc =
      if ok && m.hostTakes (descHbm d) (descLen d) then
        (((x.touch (descHbm d)).askHost (writeUnits (descHbm d) (descLen d))).setBytes (descHbm d) (padTo (descLen d) data)).descDone
          e 0 d false false false 0
      else x.descDone e 0 d true false false 0 := by
  subst hx
  unfold Dev.copyDesc
  rw [hok, hd]
  rfl

/-- A copy out of HBM completes with what the window shows, and with ERROR where the host access failed. -/
theorem Dev.copyDesc_out {bad : Bool} {v : Nat} (hd : descDir d = true) (hbad : (decide (ecc = .poisoned) && m.hostSees (descHbm d)) = bad)
    (hv : leNat ((List.range (descLen d)).map fun i => m.windowByte (descHbm d + i)) = v)
    (hx : (m.hostMeets (descHbm d) ecc).askHost (unitsTouched (descHbm d) (descLen d)) = x) : m.copyDesc e d data ok ecc =
      (if ok then { x with out := x.out ++ .hostWrite (descHost d) (descLen d) v :: (if bad then [Out.poisoned] else []) } else x : Dev).descDone
        e 0 d (!ok) bad false 0 := by
  subst hbad hv hx
  unfold Dev.copyDesc
  rw [hok, hd]
  rfl

end

end

/-! ## A frame sent (R354, R471) -/

section
variable {p d : Nat} {data : List Byte} {ok : Bool} {t : Instant}

theorem Dev.sendDesc_broken (h : (!descOk (6 + p) 0 d || !ok) = true) :
    m.sendDesc p d data ok t = m.descDone (6 + p) 0 d true false false 0 := if_pos h

/-- A port with a link sends the frame, and an event message queues the stamp asked for. -/
theorem Dev.sendDesc_sends {l : List Byte} (h : (!descOk (6 + p) 0 d || !ok) = false) (hl : padTo (descLen d) data = l)
    (hx : (if m.on (F.ETH_STAT_LINK p) then { m with out := m.out ++ [Out.frame p (l ++ leBytes 4 (frameCheck l))] } else m) = x)
    (hy : ((eventAt l).elim x fun i => if descTs d && m.on (F.ETH_STAT_LINK p) then x.pushStamp p (x.txEntry p l i t) else x) = y) :
    m.sendDesc p d data ok t = y.descDone (6 + p) 0 d false false false 0 := by
  subst hl hx hy
  unfold Dev.sendDesc
  simp only [h, Bool.false_eq_true, if_false]
  cases eventAt (padTo (descLen d) data) with
  | none => rfl
  | some i => rfl

end

/-! ## The ring of a descriptor (R470) -/

section
variable {e : Nat} {d : BitVec 256} {data : List Byte} {ok : Bool} {ecc : Ecc} {t : Instant}

theorem Dev.descriptor_copies (h : m.on (F.DMA_STAT_ACTIVE e 0) = true) (he : e < 6) :
    m.descriptor e d data ok ecc t = m.copyDesc e d.toNat data ok ecc := by
  unfold Dev.descriptor
  rw [h, if_pos he]
  rfl

theorem Dev.descriptor_sends {p : Nat} (h : m.on (F.DMA_STAT_ACTIVE e 0) = true) (he : e = 6 + p) :
    m.descriptor e d data ok ecc t = m.sendDesc p d.toNat data ok t := by
  subst he
  unfold Dev.descriptor
  rw [h, if_neg (Nat.not_lt.mpr (Nat.le_add_right 6 p)), Nat.add_sub_cancel_left]
  rfl

end

/-! ## A frame received (R353, R471) -/

section
variable {e : Nat} {l : List Byte} {t : Instant}

theorem Dev.frameIn_noLink {ds : List (BitVec 256 × Bool)} {servo : Option (Nat × Nat × Nat)} (h : m.on (F.ETH_STAT_LINK e) = false) :
    m.frameIn e l ds t servo = m := by
  unfold Dev.frameIn
  rw [h]
  rfl

section
variable (h : m.on (F.ETH_STAT_LINK e) = true)
include h

/-- A frame that does not check is dropped and counted. -/
theorem Dev.frameIn_bad {ds : List (BitVec 256 × Bool)} {servo : Option (Nat × Nat × Nat)}
    (hbad : l.length < 4 ∨ fieldAt l (l.length - 4) 4 ≠ frameCheck (l.take (l.length - 4))) : m.frameIn e l ds t servo = m.dropFrame e := by
  have hcheck : (decide (l.length < 4) || fieldAt l (l.length - 4) 4 != frameCheck (l.take (l.length - 4))) = true := by
    simpa only [Bool.or_eq_true, decide_eq_true_eq, bne_iff_ne] using hbad
  unfold Dev.frameIn
  rw [h]
  exact if_pos hcheck

/-- A frame that ends in its own check sequence goes to the receive ring. -/
theorem Dev.frameIn_checked (ds : List (BitVec 256 × Bool)) :
    m.frameIn e (l ++ leBytes 4 (frameCheck l)) ds t none = m.receive e l t ds := by
  have hlen : (l ++ leBytes 4 (frameCheck l)).length = l.length + 4 := by rw [List.length_append, leBytes_length]
  unfold Dev.frameIn
  simp only [h, hlen, Nat.add_sub_cancel, List.take_left', fieldAt_frame, Nat.not_lt.mpr (Nat.le_add_left 4 _), bne_self_eq_false, decide_false,
    Bool.or_self, Bool.not_true, Bool.false_eq_true, if_false]

end

/-- The first descriptor of a running ring, where it is good and holds the frame, takes it. -/
theorem Dev.receive_takes {d : BitVec 256} {rest : List (BitVec 256 × Bool)} (hrun : m.on (F.DMA_CTL_RUN (6 + e) 1) = true)
    (hhead : m.get (F.DMA_HEAD_HEAD (6 + e) 1) ≠ m.ringTail (6 + e) 1) (hok : descOk (6 + e) 1 d.toNat = true) (hl : l.length ≤ descLen d.toNat)
    (hx : { m with out := m.out ++ [Out.hostWrite (descHost d.toNat) l.length (leNat l),
      Out.hostWrite (m.pair (Reg.DMA_BASE_LO (6 + e) 1) (Reg.DMA_BASE_HI (6 + e) 1) + 32 * m.get (F.DMA_HEAD_HEAD (6 + e) 1) + 16) 4 l.length] } = x) :
    m.receive e l t ((d, true) :: rest) =
      x.descDone (6 + e) 1 d.toNat false false (eventAt l).isSome (if (eventAt l).isSome then x.rxStamp e t else 0) := by
  subst hx
  unfold Dev.receive
  simp only [hrun, hok, beq_eq_false_iff_ne.mpr hhead, Nat.not_lt.mpr hl, Bool.not_true, Bool.or_self, Bool.false_eq_true, if_false]

end

end

/-- Settles O54: the ring's engine tells a copy from a frame, and each has the effect of its case. -/
theorem descriptorsAndFramesComplete : Obligations.DescriptorsAndFramesComplete := by
  refine ⟨?copy, ?sent, ?received, ?dropped⟩
  case copy =>
    rintro s _ x e d data ok ecc t _ _ hs rfl hactive he rfl rfl
    have hcopy : ∀ {z}, s.start.copyDesc e d.toNat data ok ecc = z → exec (.dmaDescriptorDone e d data ok ecc t) s = s.becomes z.payOwed :=
      fun h => State.act_pays_eq (f := (·.descriptor e d data ok ecc t)) hs ((Dev.descriptor_copies hactive he).trans h)
    refine ⟨fun h => hcopy (Dev.copyDesc_broken h), fun hok hd hx => ?_, fun bad v hok hd hbad hv hx => ?_⟩
    · have hin := Dev.copyDesc_in (data := data) (ok := ok) (ecc := ecc) hok hd hx
      exact ⟨fun hmay => hcopy (hin.trans (if_pos hmay)), fun hmay => hcopy (hin.trans (if_neg (ne_true_of_eq_false hmay)))⟩
    · have hout := Dev.copyDesc_out (data := data) (ok := ok) hok hd hbad hv hx
      constructor <;> rintro rfl <;> exact hcopy hout
  case sent =>
    rintro s _ x y e d data l ok ecc t p hs rfl hactive he
    have hsend : ∀ {z}, s.start.sendDesc p d.toNat data ok t = z → exec (.dmaDescriptorDone e d data ok ecc t) s = s.becomes z.payOwed :=
      fun h => State.act_pays_eq (f := (·.descriptor e d data ok ecc t)) hs ((Dev.descriptor_sends hactive he).trans h)
    exact ⟨fun h => hsend (Dev.sendDesc_broken h), fun h hl hx hy => hsend (Dev.sendDesc_sends h hl hx hy)⟩
  case received =>
    rintro s _ x e l d t hs rfl hlink hrun hhead hok hl hx
    exact State.act_pays_eq (f := (·.frameIn e (l ++ leBytes 4 (frameCheck l)) [(d, true)] t none)) hs
      ((Dev.frameIn_checked hlink _).trans (Dev.receive_takes hrun hhead hok hl hx))
  case dropped =>
    rintro s _ e l ds t servo hs rfl
    exact ⟨fun h => State.act_still (f := (·.frameIn e l ds t servo)) hs (Dev.frameIn_noLink h),
      fun h hbad => State.act_pays_eq (f := (·.frameIn e l ds t servo)) hs (Dev.frameIn_bad h hbad)⟩

end Sys2Proof.Machine
end

section
/-! Steps and power (R399, R488, R499, logs 2 and 10): what a step runs, and which commands act without power. -/

namespace Sys2Proof.Machine

theorem step_nil {s : State} (h : s.pending = []) : step s = .next s := by
  unfold step
  rw [h]

theorem step_cons (c : Instr) (rest : List Instr) (s : State) : step { s with pending := c :: rest } = exec c { s with pending := rest } := rfl

/-- Settles O1: the two equations of a step. -/
theorem stepRunsTheFrontCommandOrIdles : Obligations.StepRunsTheFrontCommandOrIdles :=
  ⟨step_cons, fun _ => step_nil⟩

/-- Without power a command is one of the three of power, or acts through a frame that checks power and leaves the block as it was. -/
theorem exec_unusable (c : Instr) {s : State} (h : s.dev.power.usable = false) : exec c s = s.becomes s.start ∨
    c = .powerOnReset ∨ (∃ core, c = .powerGoodLoss core) ∨ ∃ core, c = .powerGoodReturn core := by
  cases c <;> dsimp only [exec]
  case powerOnReset => exact .inr (.inl rfl)
  case powerGoodLoss core => exact .inr (.inr (.inl ⟨core, rfl⟩))
  case powerGoodReturn core => exact .inr (.inr (.inr ⟨core, rfl⟩))
  case tsqEnable | tsqDisable => exact .inl (State.seqAct_unusable h)
  case basinEnable | basinDisable | bsnEventSet | bsnEventClear | bsnLvlLoad | captureArm | captureDisarm | forceTrig | capRdWrite | toneEnable |
      toneDisable | toneFtwCommit | tonePoffCommit => exact .inl (State.basinAct_unusable h)
  case warmResetCommand | catchLoad | catchCheck | catchWithdraw | basinRecourse | lsWrite | lsRead | dskUserWrite | clearCodeWrite | ppmuEnable |
      ppmuDisable | ppmuRangeChange | gauTsqRestart | deltaEnable | deltaDisable | deltaRateWrite | adcEnable | adcDisable | scanRun | scanStop |
      scanStartHost | pAdcEnable | pAdcDisable | padcSyscalZero | padcSyscalFull | padcSyscalCommit | padcSyscalDiscard | sqDoorbell | weiCancel |
      weiCancelBasin | slcTrain | slcOpchange | clkoutEnable | clkoutDisable | syncArm | syncRealign | tmbApplyArm | ethEnable | ethDisable |
      vutilEnable | vutilDisable | calRun | calRef | levForce | levArm | levSevWrite | levDeviceClear | levDumpAck | dump | stepLimitWrite |
      slackEnter | hostWake | servo | fwStage | fwSelect | unknownOp | mailboxAbort | qpEnable | qpDisable | cqHeadDoorbell | dmaRun | dmaStop |
      dmaTailDoorbell => exact .inl (State.hostAct_unusable h)
  all_goals exact .inl (State.act_unusable h)

/-- After a power-on reset the device may be used where both rails are good. -/
theorem Dev.powerOnReset_usable (m : Dev) : m.powerOnReset.power.usable = (m.power.core && m.power.io) :=
  Dev.serviceMode_pres (·.power.usable) (fun _ _ _ => rfl) (fun _ _ => rfl) _

theorem Dev.powerLoss_usable (m : Dev) (core : Bool) : (m.powerLoss core).power.usable = false := rfl

/-- Power that returns waits for the reset. -/
theorem Dev.powerReturn_usable (m : Dev) (core : Bool) : (m.powerReturn core).power.usable = m.power.usable := rfl

/-- Settles O4: a command acts through the frame that checks power, or is one of the three of power. -/
theorem withoutPowerOnlyPowerCommandsAct : Obligations.WithoutPowerOnlyPowerCommandsAct := by
  refine ⟨?others, ?usable, fun core s => ⟨_, rfl, s.start.powerLoss_usable core⟩⟩
  case others =>
    intro c s h hreset hloss hreturn
    obtain hstill | hc | ⟨core, hc⟩ | ⟨core, hc⟩ := exec_unusable c h
    · exact hstill
    · exact absurd hc hreset
    · exact absurd hc (hloss core)
    · exact absurd hc (hreturn core)
  case usable =>
    intro c s t h e hu
    obtain hstill | rfl | ⟨core, rfl⟩ | ⟨core, rfl⟩ := exec_unusable c h
    · cases hstill.symm.trans e
      exact absurd (h.symm.trans hu) Bool.false_ne_true
    · cases e
      have hgood : (s.dev.power.core && s.dev.power.io) = true := s.start.powerOnReset_usable.symm.trans hu
      exact ⟨rfl, Bool.and_eq_true_iff.mp hgood⟩
    · cases e
      exact absurd ((s.start.powerLoss_usable core).symm.trans hu) Bool.false_ne_true
    · cases e
      exact absurd (h.symm.trans ((s.start.powerReturn_usable core).symm.trans hu)) Bool.false_ne_true

end Sys2Proof.Machine
end


section
/-! The start of an operation in a free slot (R446, R448, R472, R473). -/

namespace Sys2Proof.Machine

/-- The device where an issue has been taken in slot j: its parameters are those that the MBX_PARAM registers held. -/
def Dev.issued (m : Dev) (j op : Nat) (irq : Bool) : Dev :=
  ((m.setPair (Reg.MBX_STAT_LO j) (Reg.MBX_STAT_HI j) (op % 65536 + Slot.queued * 2 ^ 42)).setSlot j
    { op := op, irq := irq, params := (List.range 8).map fun k => m.reg (Reg.MBX_PARAM j k) }).sumBit j 16 1

/-- A status word set leaves every other register as it was. -/
theorem Dev.reg_setStatus_other (m : Dev) (j v : Nat) {r : Nat} (hlo : r ≠ Reg.MBX_STAT_LO j) (hhi : r ≠ Reg.MBX_STAT_HI j) :
    (m.setPair (Reg.MBX_STAT_LO j) (Reg.MBX_STAT_HI j) v).reg r = m.reg r := by
  unfold Dev.setPair
  rw [Dev.reg_setReg_other _ _ hhi, Dev.reg_setReg_other _ _ hlo]

theorem Dev.opIssue_eq {m : Dev} {j : Nat} (op : Nat) (irq : Bool) (hs : m.on F.LEV_STAT_SEALED = false) (ha : m.slotActive j = false) :
    m.opIssue j op irq = (m.issued j op irq, true) := by
  have hparams : ((List.range 8).map fun k => (m.setPair (Reg.MBX_STAT_LO j) (Reg.MBX_STAT_HI j)
      (op % 65536 + Slot.queued * 2 ^ 42)).reg (Reg.MBX_PARAM j k)) = (List.range 8).map fun k => m.reg (Reg.MBX_PARAM j k) :=
    List.map_congr_left fun k hk => by
      have hlt := List.mem_range.mp hk
      refine m.reg_setStatus_other j _ ?_ ?_ <;> simp only [Reg.MBX_PARAM, Reg.MBX_STAT_LO, Reg.MBX_STAT_HI] <;> omega
  unfold Dev.opIssue
  rw [hs, ha]
  simp only [Bool.false_eq_true, if_false, hparams]
  rfl

/-- A slot's record leaves the registers as they were. -/
theorem Dev.reg_setSlot (m : Dev) (j : Nat) (x : MbxX) (r : Nat) : (m.setSlot j x).reg r = m.reg r := rfl

theorem Dev.status_setSlot (m : Dev) (j : Nat) (x : MbxX) : (m.setSlot j x).status j = m.status j := rfl

/-- The device where an operation has begun in slot j. -/
def Dev.begun (m : Dev) (j op : Nat) (irq : Bool) : Dev := (m.issued j op irq).putStatus j 44 42 Slot.running

theorem Dev.begun_onlySlot {m : Dev} {j : Nat} (hc : m.canonical) (hj : j < 8) (op : Nat) (irq : Bool) : m.OnlySlot j (m.begun j op irq) :=
  ((((Dev.OnlySlot.refl hc).setPair _).setSlot _).sumBit hj (d := 16) (by decide) 1).putStatus _ _ _

/-- RUNNING written over a fresh QUEUED status word. -/
theorem setBits_running {op : Nat} (h : op < 65536) :
    setBits ((op % 65536 + Slot.queued * 2 ^ 42) % 2 ^ 64) 44 42 Slot.running % 2 ^ 64 = op + Slot.running * 2 ^ 42 := by
  rw [setBits_eq _ _ _ _ (by decide)]
  simp only [Slot.queued, Slot.running]
  omega

/-- The status word of an operation that has begun: its id, and no error, progress or partial count. -/
theorem Dev.begun_status {m : Dev} {j op : Nat} (hc : m.canonical) (hj : j < 8) (irq : Bool) (hop : op < 65536) :
    (m.begun j op irq).status j = op + Slot.running * 2 ^ 42 := by
  have hissued : (m.issued j op irq).status j = (op % 65536 + Slot.queued * 2 ^ 42) % 2 ^ 64 := by
    rw [Dev.issued, Dev.status_sumBit, Dev.status_setSlot, Dev.status_setPair_same hc]
  have hcanon : (m.issued j op irq).canonical := ((((Dev.OnlySlot.refl hc).setPair _).setSlot _).sumBit hj (d := 16) (by decide) 1).canonical
  rw [Dev.begun, Dev.status_putStatus_same hcanon, hissued]
  exact setBits_running hop

theorem Dev.begun_reg_other (m : Dev) {j : Nat} (op : Nat) (irq : Bool) {r : Nat} (hlo : r ≠ Reg.MBX_STAT_LO j) (hhi : r ≠ Reg.MBX_STAT_HI j)
    (hsum : r ≠ Reg.MBX_SUM) : (m.begun j op irq).reg r = m.reg r := by
  rw [Dev.begun, Dev.putStatus, Dev.reg_setStatus_other _ j _ hlo hhi, Dev.issued, Dev.reg_sumBit_other _ j 16 1 hsum, Dev.reg_setSlot,
    Dev.reg_setStatus_other _ j _ hlo hhi]

/-- In a device that is READY, an operation whose slot is free and whose group is idle begins. -/
theorem Dev.opStart_begins {m : Dev} {j op : Nat} (hc : m.canonical) (hj : j < 8) (irq : Bool) (busy : Nat) (hs : m.on F.LEV_STAT_SEALED = false)
    (ha : m.slotActive j = false) (hready : m.isReady = true) (hgroup : m.groupSlot (op / 256) j = none) :
    m.opStart j op irq busy = (m.begun j op irq, true) := by
  have hidle : (m.slotState j == Slot.queued) = false := by
    simp only [Dev.slotActive, Bool.or_eq_false_iff] at ha
    exact ha.1.1
  have honly := Dev.begun_onlySlot hc hj op irq
  have hstage : (m.begun j op irq).isReady = true := by
    have hboot : (m.begun j op irq).reg F.MRC_BOOT_STAGE.off = m.reg F.MRC_BOOT_STAGE.off :=
      honly.reg Reg.MRC_BOOT (by unfold Reg.MRC_BOOT Reg.MBX_STAT_LO; omega) (by unfold Reg.MRC_BOOT Reg.MBX_STAT_HI; omega) (by decide) (by decide)
    unfold Dev.isReady Dev.get at hready ⊢
    rwa [hboot]
  have hfree : (m.begun j op irq).groupSlot (op / 256) j = none := by
    refine List.find?_eq_none.mpr fun i hi => ?_
    by_cases hij : i = j
    · simp [hij]
    · rw [honly.slotState (List.mem_range.mp hi) hij, honly.slot i hij]
      exact List.find?_eq_none.mp hgroup i hi
  unfold Dev.opStart
  rw [hidle, Bool.false_and, if_neg Bool.false_ne_true, Dev.opIssue_eq op irq hs ha]
  change (if (!(m.begun j op irq).isReady) = true then _ else if ((m.begun j op irq).groupSlot (op / 256) j).isSome = true then _ else _) = _
  rw [hstage, hfree]
  rfl

/-- Settles O46: the operation begins, and what its start writes is the slot's status word, its record and its bit of MBX_SUM. -/
theorem mailboxOperationsBegin : Obligations.MailboxOperationsBegin := by
  intro m slot op irq busy hc hs ha hready hgroup hop
  rw [Dev.opStart_begins hc slot.isLt irq busy hs ha hready hgroup]
  exact ⟨rfl, Dev.begun_status hc slot.isLt irq hop, rfl, fun _ hlo hhi hsum => m.begun_reg_other op irq hlo hhi hsum, fun _ => rfl⟩

end Sys2Proof.Machine
end

section
/-! Reports of faults (R384 to R388, R424): a report by the severity in force of its source. -/

namespace Sys2Proof.Machine

section
variable {m : Dev} {s inst detail : Nat} {t : Instant}

/-! ## Reports -/

theorem Dev.report_awake (h : m.asleep = false) : m.report s inst detail t = m.reportAs s inst detail false t := if_neg (ne_true_of_eq_false h)

/-- In slack no source is powered that could report. -/
theorem Dev.report_asleep (h : m.asleep = true) : m.report s inst detail t = m := if_pos h

theorem Dev.reportAs_ignored {forced : Bool} (h : m.severity s = 0) : m.reportAs s inst detail forced t = m.countPersistent s forced :=
  if_pos (beq_iff_eq.mpr h)

/-- A report that is not ignored is logged, and then reacted to. -/
theorem Dev.reportAs_logged {forced : Bool} {sev : Nat} (h : m.severity s = sev) (hsev : sev ≠ 0) : m.reportAs s inst detail forced t =
    ((m.countPersistent s forced).logReport s inst detail sev forced t).reactTo s inst sev t := by
  subst h
  exact if_neg fun h => hsev (beq_iff_eq.mp h)

/-! ## Reactions (Table 14.2) -/

theorem Dev.reactTo_logOnly {sev : Nat} (h : sev = 1 ∨ sev = 2) : m.reactTo s inst sev t = m := by
  obtain rfl | rfl := h <;> rfl

theorem Dev.reactTo_basin : m.reactTo s inst 3 t = m.each (m.affected s inst) fun m b => m.react b 0x0B s t := if_pos rfl

theorem Dev.reactTo_device {x : Dev}
    (hx : { (m.each m.definedBasins fun m b => m.react b 0x0B s t) with
      lev := { (m.each m.definedBasins fun m b => m.react b 0x0B s t).lev with alertN := false } } = x) :
    m.reactTo s inst 4 t = (((x.clearAll.put F.LEV_STAT_DEVICE 1).stopScans t).abandonCal).storeCounters.startDump 1 s inst t := by
  subst hx
  exact (if_neg (by decide)).trans (if_pos rfl)

theorem Dev.reactTo_sealed : m.reactTo s inst 5 t = m.seal s inst t :=
  (if_neg (by decide)).trans ((if_neg (by decide)).trans (if_pos rfl))

/-! ## FAULT_REPORT (R384, R385) -/

theorem Dev.faultReport_reserved (h : sourceListed s = false) : m.faultReport s inst detail t = m := by
  unfold Dev.faultReport
  rw [h]
  rfl

theorem Dev.faultReport_listed (h : sourceListed s = true) (hs : s ≠ Src.ppmuClamp) : m.faultReport s inst detail t = m.report s inst detail t := by
  unfold Dev.faultReport
  rw [h]
  exact if_neg fun h => hs (beq_iff_eq.mp h)

/-- In slack only the flags of a PPMU clamp change. -/
theorem Dev.faultReport_asleep (h : m.asleep = true) (hs : s ≠ Src.ppmuClamp) : m.faultReport s inst detail t = m := by
  cases hl : sourceListed s with
  | false => exact Dev.faultReport_reserved hl
  | true => exact (Dev.faultReport_listed hl hs).trans (Dev.report_asleep h)

theorem Dev.faultReport_clamp {x : Dev} (hx : m.put (F.PIN_PMU_STAT_CLAMP_HIT inst) 1 = x) : m.faultReport Src.ppmuClamp inst detail t =
    (if x.pmuClosed inst t then x.put (F.PIN_PMU_STAT_CLAMP inst) 1 else x).report Src.ppmuClamp inst detail t := by
  subst hx
  rfl

end

/-- Settles O48: a source that is listed reports, and its report has the effect of its severity. -/
theorem reportsReactBySeverity : Obligations.ReportsReactBySeverity := by
  have hends : ∀ {s : State} {src : Source} {inst detail t : Nat} {z : Dev}, s.acts → s.start.faultReport src inst detail t = z →
      exec (.faultReport src inst detail t) s = s.becomes z.payOwed :=
    fun {_ src inst detail t _} hs => State.act_pays_eq (f := (·.faultReport src inst detail t)) hs
  have hstill : ∀ {s : State} {src : Source} {inst detail t : Nat}, s.acts → s.start.faultReport src inst detail t = s.start →
      exec (.faultReport src inst detail t) s = s.becomes s.start :=
    fun {_ src inst detail t} hs => State.act_still (f := (·.faultReport src inst detail t)) hs
  refine ⟨?awake, ?clamp, fun s src inst detail t hs h hne => hstill hs (Dev.faultReport_asleep h hne),
    fun s src inst detail t hs h => hstill hs (Dev.faultReport_reserved h)⟩
  case awake =>
    intro s src inst detail t hs hawake hlisted hne
    have hreport : s.start.faultReport src inst detail t = s.start.reportAs src inst detail false t :=
      (Dev.faultReport_listed hlisted hne).trans (Dev.report_awake hawake)
    refine ⟨fun h => ?ignored, fun h => ?noted, fun h => ?basin, fun a b h ha hb => ?device, fun h => ?sealed⟩
    case ignored => exact hends hs (hreport.trans (Dev.reportAs_ignored h))
    case noted =>
      have hsev : s.start.severity src ≠ 0 := by omega
      exact hends hs ((hreport.trans (Dev.reportAs_logged rfl hsev)).trans (Dev.reactTo_logOnly h))
    case basin => exact hends hs ((hreport.trans (Dev.reportAs_logged h (by decide))).trans Dev.reactTo_basin)
    case device =>
      subst ha
      exact hends hs ((hreport.trans (Dev.reportAs_logged h (by decide))).trans (Dev.reactTo_device hb))
    case sealed => exact hends hs ((hreport.trans (Dev.reportAs_logged h (by decide))).trans Dev.reactTo_sealed)
  case clamp =>
    intro s src inst detail t hs hsrc
    refine hends hs ?_
    rw [hsrc]
    exact Dev.faultReport_clamp rfl

end Sys2Proof.Machine
end

section
/-! The registers of Levee (R386, R391 to R393, R401): one equation for each case of a force, an arm, a severity, the device clear, and the
acknowledgement of a dump. -/

namespace Sys2Proof.Machine

section
variable {m : Dev} {s v : Nat}

/-! ## Forcing (R392, R393) -/

/-- An arm is valid for 1 ms after its second key. -/
def Dev.forceArmed (m : Dev) : Bool := decide (m.lev.armKeys = 2) && decide (m.now < m.lev.armAt + 4000000000)

theorem Dev.forceSource_unarmed (h : m.forceArmed = false) : m.forceSource v =
    if sourceListed (bitsOf v 8 0) = true ∧ m.severity (bitsOf v 8 0) ≠ 5 then m.reportAs (bitsOf v 8 0) (bitsOf v 31 16) 0xFFFF true m.now
    else m.put F.LEV_STAT_FORCE_REFUSED 1 := by
  unfold Dev.forceArmed at h
  unfold Dev.forceSource
  simp only [h, Bool.false_eq_true, if_false, Bool.and_eq_true, bne_iff_ne]

theorem Dev.forceSource_armed (h : m.forceArmed = true) : m.forceSource v =
    if sourceListed (bitsOf v 8 0) = true ∧ m.lev.armSource = some (bitsOf v 8 0)
    then m.disarm.reportAs (bitsOf v 8 0) (bitsOf v 31 16) 0xFFFF true m.disarm.now
    else m.disarm.put F.LEV_STAT_FORCE_REFUSED 1 := by
  unfold Dev.forceArmed at h
  unfold Dev.forceSource
  simp only [h, if_true, Bool.and_eq_true, beq_iff_eq]

theorem Dev.forceArmed_eq_false (h : m.lev.armKeys ≠ 2 ∨ m.lev.armAt + 4000000000 ≤ m.now) : m.forceArmed = false := by
  unfold Dev.forceArmed
  obtain hkeys | hlate := h
  · rw [decide_eq_false hkeys, Bool.false_and]
  · rw [decide_eq_false (Nat.not_lt.mpr hlate), Bool.and_false]

theorem Dev.forceArmed_eq_true (hkeys : m.lev.armKeys = 2) (hnow : m.now < m.lev.armAt + 4000000000) : m.forceArmed = true := by
  unfold Dev.forceArmed
  rw [decide_eq_true hkeys, decide_eq_true hnow, Bool.and_self]

/-! ## Arms (R393) -/

theorem Dev.levArm_owed : (m.levArm v).lev.owed = m.lev.owed := by
  unfold Dev.levArm
  dsimp only
  split
  · rfl
  · split <;> rfl

theorem Dev.armLapse_lapses (hkeys : m.lev.armKeys = 2) (hlate : m.lev.armAt + 4000000000 < m.now + tickUnits) : m.armLapse = m.disarm :=
  if_pos ⟨hkeys, hlate⟩

/-! ## Severities (R386) -/

theorem Dev.sevWrite_listed (h : sourceListed s = true) : m.sevWrite s v =
    if bitsOf v 2 0 < 6 ∧ m.get (F.LEV_SEV_FLOOR s) ≤ bitsOf v 2 0 then m.put (F.LEV_SEV_SEV s) (bitsOf v 2 0)
    else m.put F.LEV_STAT_CFG_IGNORED 1 := by
  unfold Dev.sevWrite
  rw [h]
  change (if 6 ≤ bitsOf v 2 0 ∨ bitsOf v 2 0 < m.get (F.LEV_SEV_FLOOR s) then m.put F.LEV_STAT_CFG_IGNORED 1
    else m.put (F.LEV_SEV_SEV s) (bitsOf v 2 0)) = _
  by_cases htaken : bitsOf v 2 0 < 6 ∧ m.get (F.LEV_SEV_FLOOR s) ≤ bitsOf v 2 0
  · rw [if_pos htaken, if_neg (by omega)]
  · rw [if_neg htaken, if_pos (by omega)]

theorem Dev.sevWrite_owed : (m.sevWrite s v).lev.owed = m.lev.owed := by
  unfold Dev.sevWrite
  dsimp only
  split
  · split <;> rfl
  · split <;> rfl

end

/-- Settles O49: each register's write has the effect of its case. -/
theorem leveeRegistersAct : Obligations.LeveeRegistersAct := by
  refine ⟨?unarmed, ?armed, ?arm, ?lapse, ?severity, ?clear, ?ack⟩
  case unarmed =>
    intro s v hs h
    exact State.hostAct_pays_eq (f := (·.forceSource v.toNat)) hs (Dev.forceSource_unarmed (Dev.forceArmed_eq_false h))
  case armed =>
    intro s v hs hkeys hnow
    exact State.hostAct_pays_eq (f := (·.forceSource v.toNat)) hs (Dev.forceSource_armed (Dev.forceArmed_eq_true hkeys hnow))
  case arm => exact fun s v hs => State.hostAct_becomes (f := (·.levArm v.toNat)) hs (Dev.levArm_owed.trans hs.1.2)
  case lapse => exact fun s hs hkeys hlate => State.act_eq (f := Dev.armLapse) hs (Dev.armLapse_lapses (m := s.start) hkeys hlate) hs.2
  case severity =>
    intro s src v hs h
    have htaken := Dev.sevWrite_listed (m := s.start) (v := v.toNat) h
    exact State.hostAct_eq (f := (·.sevWrite src v.toNat)) hs htaken (htaken ▸ Dev.sevWrite_owed.trans hs.1.2)
  case clear => exact fun s hs => State.hostAct_becomes (f := Dev.deviceClear) hs hs.1.2
  case ack => exact fun s hs => State.hostAct_becomes (f := Dev.dumpAck) hs hs.1.2

end Sys2Proof.Machine
end

section
/-! Dumps, counter records, spare engines and the votes of Millrace (R400 to R407): one equation for each case. -/

namespace Sys2Proof.Machine

section
variable {m a x : Dev}

/-! ## Dumps of the host (R400, R401) -/

/-- A dump that starts is judged by the dump being written, by Sluice, and by the dump held, in this order. -/
theorem Dev.dump_eq {slot : Nat} {irq : Bool} (h : m.opStart slot Op.dump irq 0x01 = (a, true)) : m.dump slot irq =
    if a.lev.writing.isSome = true then a.opEnd slot 0x01
    else if (!a.on F.SLC_STAT_AVAIL) = true then a.opEnd slot 0x02
    else if (a.lev.held.any fun d => !d.acked && d.cause != 3) = true then a.opEnd slot 0x03
    else (a.beginDump 3 0 0 a.now).modLev fun l => { l with writing := l.writing.map fun d => { d with slot := some slot } } := by
  unfold Dev.dump
  rw [h]
  rfl

section
variable {d : DumpX} {k : Nat} (hw : m.lev.writing = some d) (hcause : d.cause = 3) (hslot : d.slot = some k)
include hw hcause hslot

/-- The end of a dump of the host's writes no record and takes no held enable. -/
theorem Dev.dumpComplete_valid (h : m.on F.SLC_STAT_AVAIL = true) : m.dumpComplete =
    ((((m.writeDump d).put F.LEV_STAT_DUMPING 0).put F.LEV_STAT_DUMP_VALID 1).modLev
      fun l => { l with writing := none, held := some { d with regs := [] } }).opEnd k 0 := by
  unfold Dev.dumpComplete
  simp only [hw, hcause, hslot, h, Nat.reduceBEq, Nat.reduceBNe, Bool.false_eq_true, if_false, if_true]
  rfl

theorem Dev.dumpComplete_invalid (h : m.on F.SLC_STAT_AVAIL = false) : m.dumpComplete =
    (((m.put F.LEV_STAT_DUMPING 0).put F.LEV_STAT_DUMP_VALID 0).modLev fun l => { l with writing := none, held := none }).opEnd k 0x02 := by
  unfold Dev.dumpComplete
  simp only [hw, hcause, hslot, h, Nat.reduceBEq, Nat.reduceBNe, Bool.false_eq_true, if_false, if_true]
  rfl

end

/-! ## Counter records (R402) -/

theorem Dev.counterWrite_between {stored : Bool} (h : m.tick % 2 ^ 20 ≠ 0) : m.counterWrite stored = m := if_pos (bne_iff_ne.mpr h)

theorem Dev.counterWrite_due {stored : Bool} (h : m.tick % 2 ^ 20 = 0) : m.counterWrite stored =
    if stored = true then m.storeCounters else (m.put F.RSV_STAT_WRITE_ERR 1).report Src.reservoirWrite 0x20 0 m.now :=
  if_neg fun hne => bne_iff_ne.mp hne h

/-! ## Spare engines (R404, R405) -/

section
variable {t e : Nat} (hcopy : m.on (F.TRB_AUD_STAT_COPYING t) = true) (he : 16 * t + m.get (F.TRB_AUD_STAT_FAULTY t) = e)
  (hx : (m.copyStore e (1024 + t)).put (F.TRB_AUD_STAT_COPYING t) 0 = x)
include hcopy he hx

/-- The pin that the faulty engine serves waits for the spare to take over. -/
theorem Dev.copyDone_serving {p : Nat} (hp : ((x.servedBy e).filter fun p => (x.pinDef p).served) = some p) : m.copyDone t =
    { ((x.put (F.TRB_AUD_STAT_SUSPENDED t) 1).put (F.TRB_AUD_STAT_SPARE_USED t) 1) with takeovers := x.takeovers ++ [(p, x.now)] } := by
  subst he hx
  unfold Dev.copyDone
  simp only [hcopy, hp, Bool.not_true, Bool.false_eq_true, if_false]

theorem Dev.copyDone_unserving (hp : ((x.servedBy e).filter fun p => (x.pinDef p).served) = none) : m.copyDone t =
    { x with faulty := if x.faulty.contains e then x.faulty else x.faulty ++ [e] } := by
  subst he hx
  unfold Dev.copyDone
  simp only [hcopy, hp, Bool.not_true, Bool.false_eq_true, if_false]

end

/-! ## Millrace's votes (R406) and the watchdog (R407) -/

theorem Dev.laneOutvoted_majority (lane : Nat) : m.laneOutvoted lane true =
    ((m.rewriteLane lane ((lane + 1) % 3)).count (F.MRC_LANE_RESYNC lane) 1).report Src.millraceLane lane 0 m.now := if_pos rfl

theorem Dev.laneOutvoted_split (lane : Nat) : m.laneOutvoted lane false = m.report Src.millraceVote 0 0 m.now := if_neg Bool.false_ne_true

end

/-- Settles O50: each command has the effect of its case. -/
theorem dumpsCountersAndEnginesAct : Obligations.DumpsCountersAndEnginesAct := by
  refine ⟨?begins, ?refused, ?valid, ?invalid, ?due, ?between, ?copied, ?votes, ?watchdog⟩
  case begins =>
    intro s slot irq m hs h hw havail hheld
    have hwriting : ¬ m.lev.writing.isSome = true := by rw [hw]; exact Bool.false_ne_true
    have hsluice : ¬ (!m.on F.SLC_STAT_AVAIL) = true := by rw [havail]; exact Bool.false_ne_true
    exact State.hostAct_pays_eq (f := (·.dump slot irq)) hs
      ((((Dev.dump_eq h).trans (if_neg hwriting)).trans (if_neg hsluice)).trans (if_neg (ne_true_of_eq_false hheld)))
  case refused =>
    intro s slot irq m hs h
    have hends : ∀ {z}, s.start.dump slot irq = z → exec (.dump slot irq) s = s.becomes z.payOwed :=
      State.hostAct_pays_eq (f := (·.dump slot irq)) hs
    refine ⟨fun hw => hends ((Dev.dump_eq h).trans (if_pos hw)), fun hw havail => ?_, fun hw havail hheld => ?_⟩
    · exact hends (((Dev.dump_eq h).trans (if_neg (ne_true_of_eq_false hw))).trans (if_pos (congrArg (!·) havail)))
    · have hsluice : ¬ (!m.on F.SLC_STAT_AVAIL) = true := by rw [havail]; exact Bool.false_ne_true
      exact hends ((((Dev.dump_eq h).trans (if_neg (ne_true_of_eq_false hw))).trans (if_neg hsluice)).trans (if_pos hheld))
  case valid =>
    intro s d k hs hw hcause hslot havail
    exact State.act_pays_eq (f := Dev.dumpComplete) hs (Dev.dumpComplete_valid (m := s.start) hw hcause hslot havail)
  case invalid =>
    intro s d k hs hw hcause hslot havail
    exact State.act_pays_eq (f := Dev.dumpComplete) hs (Dev.dumpComplete_invalid (m := s.start) hw hcause hslot havail)
  case due =>
    intro s hs h
    exact ⟨State.act_pays_eq (f := (·.counterWrite true)) hs ((Dev.counterWrite_due h).trans (if_pos rfl)),
      State.act_pays_eq (f := (·.counterWrite false)) hs ((Dev.counterWrite_due h).trans (if_neg Bool.false_ne_true))⟩
  case between => exact fun s stored hs h => State.act_still (f := (·.counterWrite stored)) hs (Dev.counterWrite_between h)
  case copied =>
    rintro s _ x t e hs rfl hcopy he hx
    exact ⟨fun p hp => State.act_pays_eq (f := (·.copyDone t)) hs (Dev.copyDone_serving hcopy he hx hp),
      fun hp => State.act_pays_eq (f := (·.copyDone t)) hs (Dev.copyDone_unserving hcopy he hx hp)⟩
  case votes =>
    intro s lane hs
    exact ⟨State.act_pays_eq (f := (·.laneOutvoted lane true)) hs (Dev.laneOutvoted_majority _),
      State.act_pays_eq (f := (·.laneOutvoted lane false)) hs (Dev.laneOutvoted_split _)⟩
  case watchdog => exact fun s hs => State.act_pays (f := Dev.watchdog) hs

end Sys2Proof.Machine
end

section
/-! Calibration (R368 to R372, R379, Tables 13.2, 13.7 and 13.8): one equation for each case of the steps of Table 13.2 and of CAL_RUN and CAL_REF. -/

namespace Sys2Proof.Machine

section
variable {m x : Dev} {t : Nat}

/-! ## The interval (R368) -/

theorem Dev.calInterval_due (h : 1024 ≤ m.cal.count) : m.calInterval =
    (let a := m.each (List.range 64) fun x t => x.put (F.TRB_CAL_T1_T_MEAN t) (ofSigned 12 (roundDiv ((x.cal.sums.lookup t).getD 0) m.cal.count))
     (a.modCal fun x => { x with sums := [], count := 0 }).each (List.range 64) fun m t =>
       let m := m.each (List.range 3) fun m k => m.tempTest t k
       if m.get F.RSV_CAL_DELTA_CAL_TEMP_DELTA < (m.meanTemp t - (m.cal.lastInterp.lookup t).getD 0).natAbs then m.reinterpolate t else m) :=
  if_neg (Nat.not_lt.mpr h)

/-! ## Gathers (R368 to R370) -/

theorem Dev.gatherBegin_begins (hdue : m.get (F.TRB_CAL_STAT_STATE t) = 1) (hcool : m.on (F.TRB_FE_STAT_OT t) = false)
    (hmay : m.calCommanded t = true ∨ ∀ n, m.cal.notBefore.lookup t = some n → n ≤ m.tick) (hstep : m.stepNow t = false) : m.gatherBegin t =
    ((m.stepTaken t).put (F.TRB_CAL_STAT_STATE t) 2).modCal fun x => { x with gatherAt := x.gatherAt.filter (fun e => e.1 != t) ++ [(t, m.tick)] } := by
  have hfree : ((m.cal.notBefore.lookup t).any (fun n => decide (m.tick < n)) && !m.calCommanded t) = false := by
    obtain hcommanded | hopen := hmay
    · rw [hcommanded, Bool.not_true, Bool.and_false]
    · cases hn : m.cal.notBefore.lookup t with
      | none => rfl
      | some n => rw [Option.any_some, decide_eq_false (Nat.not_lt.mpr (hopen n hn)), Bool.false_and]
  unfold Dev.gatherBegin
  simp only [hdue, hcool, hfree, hstep, bne_self_eq_false, Bool.or_self, Bool.false_eq_true, if_false]

theorem Dev.gatherBegin_undue (h : m.get (F.TRB_CAL_STAT_STATE t) ≠ 1) : m.gatherBegin t = m := by
  unfold Dev.gatherBegin
  simp only [bne_iff_ne.mpr h, Bool.true_or, if_true]

/-- An automatic gather that lapses is due again, and held off for another gather's time. -/
theorem Dev.gatherTimeout_lapses {n : Nat} (hgather : m.get (F.TRB_CAL_STAT_STATE t) = 2) (hauto : m.calCommanded t = false)
    (hn : m.cal.gatherAt.lookup t = some n) (hlapsed : n + m.gatherTicks ≤ m.tick)
    {y : Dev} (hx : (m.put (F.TRB_CAL_STAT_STATE t) 1).count (F.TRB_CAL_STAT_DEFERRED t) 1 = x)
    (hy : (x.modCal fun y => { y with notBefore := y.notBefore.filter (fun e => e.1 != t) ++ [(t, x.tick + x.gatherTicks)] }) = y) :
    m.gatherTimeout t = y.report Src.calDeferred t 0 y.now := by
  have hdue : ((m.cal.gatherAt.lookup t).any fun n => decide (n + m.gatherTicks ≤ m.tick)) = true := by
    rw [hn, Option.any_some, decide_eq_true hlapsed]
  have hgoes : ¬ (m.get (F.TRB_CAL_STAT_STATE t) != 2 || m.calCommanded t ||
      !(m.cal.gatherAt.lookup t).any fun n => decide (n + m.gatherTicks ≤ m.tick)) = true := by
    rw [hgather, hauto, hdue]
    decide
  subst hx hy
  exact if_neg hgoes

/-! ## Outages (R369 to R372, Table 13.8) -/

/-- The other tributary of a pair (R367). -/
def calPair (t : Nat) : Nat := if t % 2 = 0 then t + 1 else t - 1

theorem Dev.outageBegin_unready (h : m.outageReady t = false) : m.outageBegin t = m := by
  unfold Dev.outageBegin
  simp only [h, Bool.not_false, Bool.true_or, if_true]

/-- A tributary whose pair neither is in outage nor comes first goes into outage, and its ADC is powered. -/
theorem Dev.outageBegin_begins (hready : m.outageReady t = true) (hpair : m.get (F.TRB_CAL_STAT_STATE (calPair t)) ≠ 3)
    (hfirst : t % 2 = 1 → m.outageReady (t - 1) = false) (hstep : m.stepNow t = false)
    (hx : (m.put (F.TRB_CAL_STAT_STATE t) 3).put F.RSV_STAT_OUTAGES (m.get F.RSV_STAT_OUTAGES + 1) = x) : m.outageBegin t =
    if x.on (F.ADC_STAT_POWERED (t / 2)) = true then x
    else ((x.put (F.ADC_STAT_POWERED (t / 2)) 1).put (F.ADC_STAT_READY (t / 2)) 1).modCal fun y => { y with powered := y.powered ++ [t / 2] } := by
  have hturn : (t % 2 == 1 && m.outageReady (calPair t)) = false := by
    by_cases hodd : t % 2 = 1
    · have hlower : calPair t = t - 1 := if_neg (by omega)
      rw [hlower, hfirst hodd, Bool.and_false]
    · rw [beq_eq_false_iff_ne.mpr hodd, Bool.false_and]
  have hgoes : ¬ (!m.outageReady t || m.get (F.TRB_CAL_STAT_STATE (calPair t)) == 3 || (t % 2 == 1 && m.outageReady (calPair t)) || m.stepNow t) = true := by
    rw [hready, beq_eq_false_iff_ne.mpr hpair, hturn, hstep]
    decide
  subst hx
  exact if_neg hgoes

theorem Dev.kindsDone_idle {run : CalRun} {stored : Nat} (h : m.get (F.TRB_CAL_STAT_STATE t) ≠ 3) : m.kindsDone t run stored = m := by
  unfold Dev.kindsDone
  simp only [bne_iff_ne.mpr h, Bool.true_or, if_true]

/-- The kinds that are due run, and none is due until the outage's end. -/
theorem Dev.kindsDone_runs {run : CalRun} {stored : Nat} (hout : m.get (F.TRB_CAL_STAT_STATE t) = 3) (hnew : m.cal.done.contains t = false) :
    m.kindsDone t run stored =
      (((((m.each (onesOf 3 (m.get (F.TRB_CAL_STAT_DUE t))) fun m k => m.kindDone t k run (bitOf stored k)).put (F.TRB_CAL_STAT_DUE t) 0).bump
        (F.TRB_CAL_REJ_RUNS t)).bump F.RSV_STAT_RUNS).stepTaken t).modCal fun x => { x with done := x.done ++ [t] } := by
  unfold Dev.kindsDone
  simp only [hout, hnew, bne_self_eq_false, Bool.or_self, Bool.false_eq_true, if_false]

theorem Dev.outageEnd_waits (h : m.cal.done.contains t = false ∨ m.stepNow t = true) : m.outageEnd t = m := by
  unfold Dev.outageEnd
  split
  · rfl
  · next hstep => exact if_pos (congrArg (!·) (h.resolve_right hstep))

theorem Dev.outageEnd_closes (hstep : m.stepNow t = false) : m.outageEnd t = m.outageClose t := if_neg (ne_true_of_eq_false hstep)

end

/-- Settles O42: each step of Table 13.2 by the case of its equation. -/
theorem calibrationRunsThroughItsSteps : Obligations.CalibrationRunsThroughItsSteps := by
  refine ⟨?interval, ?gather, ?lapse, ?outage, ?kinds, ?close, ?still⟩
  case interval =>
    rintro s _ hs rfl h
    exact State.act_pays_eq (f := Dev.calInterval) hs (Dev.calInterval_due h)
  case gather =>
    rintro s _ t hs rfl hdue hcool hmay hstep
    exact State.act_pays_eq (f := (·.gatherBegin t)) hs (Dev.gatherBegin_begins hdue hcool hmay hstep)
  case lapse =>
    intro s t n hs hgather hauto hn hlapsed
    exact State.act_pays_eq (f := (·.gatherTimeout t)) hs (Dev.gatherTimeout_lapses (m := s.start) hgather hauto hn hlapsed rfl rfl)
  case outage =>
    rintro s _ x t hs rfl hready hpair hfirst hstep hx
    have hbegin := Dev.outageBegin_begins hready hpair hfirst hstep hx
    exact ⟨fun hp => State.act_pays_eq (f := (·.outageBegin t)) hs (hbegin.trans (if_pos hp)),
      fun hp => State.act_pays_eq (f := (·.outageBegin t)) hs (hbegin.trans (if_neg (ne_true_of_eq_false hp)))⟩
  case kinds =>
    rintro s _ t run stored hs rfl hout hnew
    exact State.act_pays_eq (f := (·.kindsDone t run stored)) hs (Dev.kindsDone_runs hout hnew)
  case close =>
    rintro s _ t hs rfl hdone hstep
    have hclose : s.start.outageClose t = _ := if_neg (by rw [hdone]; exact Bool.false_ne_true)
    exact State.act_pays_eq (f := (·.outageEnd t)) hs ((Dev.outageEnd_closes hstep).trans hclose)
  case still =>
    intro s t run stored hs
    exact ⟨fun h => State.act_still (f := (·.outageEnd t)) hs (Dev.outageEnd_waits h),
      fun h => State.act_still (f := (·.kindsDone t run stored)) hs (Dev.kindsDone_idle h),
      fun h => State.act_still (f := (·.outageBegin t)) hs (Dev.outageBegin_unready h),
      fun h => State.act_still (f := (·.gatherBegin t)) hs (Dev.gatherBegin_undue h)⟩

section
variable {m a : Dev} {slot : Nat} {irq : Bool}

/-! ## CAL_RUN and CAL_REF (R379, Table 13.7) -/

/-- A run that starts makes the named kinds due on the named tributaries, or ends where it names none. -/
theorem Dev.calRun_eq {ts ks : List Nat} (h : m.opStart slot Op.calRun irq 0x02 = (a, true))
    (hts : onesOf 32 (a.param slot 0) ++ (onesOf 32 (a.param slot 1)).map (· + 32) = ts) (hks : onesOf 3 (a.param slot 2) = ks) : m.calRun slot irq =
    if ts = [] ∨ ks = [] then a.opEnd slot 0x01
    else (a.modCal fun x => { x with wanted := ts.flatMap (fun t => ks.map fun k => (t, 2 ^ k)), rejected := false, failed := false }).each
      ts fun x t => x.makeDue t (x.param slot 2 % 8) := by
  subst hts hks
  unfold Dev.calRun
  simp only [h, Bool.not_true, Bool.false_eq_true, if_false, List.isEmpty_iff]

section
variable {l : List Int} {stored fit even : Bool} {p : Nat} {uv : Int}

/-- A measurement of the reference that starts is judged by the converter, its settings, its spread and its mean, in this order; then it is stored. -/
theorem Dev.calRef_eq (h : m.opStart slot Op.calRef irq 0x02 = (a, true)) (hp : bitsOf (a.param slot 0) 3 0 = p)
    (hfit : (a.on (F.P_CTL_ENABLE p) && a.on (F.P_STAT_SETTLED p) && !a.on (F.P_STAT_UNCAL p) && a.on (F.P_CTL_SRC p) &&
      a.get (F.P_CTL_BUS_SEL p) == 1) = fit)
    (heven : decide (64 * l.foldl (fun n x => n + x * x) 0 - sumOf l * sumOf l ≤ 67 * 67 * 4096) = even)
    (huv : roundDiv (sumOf l * 2500000) (64 * 8388608) = uv) : m.calRef slot irq l stored =
    if 3 < p then a.opEnd slot 0x01
    else if fit = false then a.opEnd slot 0x05
    else if even = false then a.opEnd slot 0x06
    else if uv < 1198000 ∨ 1202000 < uv then a.opEnd slot 0x07
    else if stored = false then ((a.put F.RSV_STAT_WRITE_ERR 1).report Src.reservoirWrite 0x10 0 a.now).opEnd slot 0x08
    else ((({ a.recWrite Rec.reference 0 0 (leBytes 4 uv.toNat) with
      rsv := { (a.recWrite Rec.reference 0 0 (leBytes 4 uv.toNat)).rsv with refUv := some uv.toNat } } : Dev).put
        F.ADC_REF_VAL_UV uv.toNat).opEnd slot 0) := by
  subst hp hfit heven huv
  unfold Dev.calRef
  simp only [h, Bool.not_true, Bool.false_eq_true, if_false, Bool.not_eq_true', decide_eq_false_iff_not, Int.not_le]

end

end

/-- Settles O43: each operation by the case of its equation. -/
theorem calibrationCommandsAct : Obligations.CalibrationCommandsAct := by
  refine ⟨?run, ?reference⟩
  case run =>
    intro s slot irq m ts ks hs h hts hks
    have hrun := Dev.calRun_eq h hts hks
    exact ⟨fun hnone => State.hostAct_pays_eq (f := (·.calRun slot irq)) hs (hrun.trans (if_pos hnone)),
      fun hsome => State.hostAct_pays_eq (f := (·.calRun slot irq)) hs (hrun.trans (if_neg hsome))⟩
  case reference =>
    intro s slot irq stored l m p uv fit even hs h hp hfit heven huv
    have hends : ∀ {z}, s.start.calRef slot irq l stored = z → exec (.calRef slot irq l stored) s = s.becomes z.payOwed :=
      State.hostAct_pays_eq (f := (·.calRef slot irq l stored)) hs
    have hjudged := Dev.calRef_eq (stored := stored) h hp hfit heven huv
    refine ⟨fun hbad => hends (hjudged.trans (if_pos hbad)), fun hle hf => ?unfit, fun hle hf he => ?uneven, fun hle hf he hout => ?outside,
      fun hle hf he hin hst => ?unstored, fun x hle hf he hin hst hx => ?stored⟩
    case unfit => exact hends (hjudged.trans (by rw [if_neg (Nat.not_lt.mpr hle), if_pos hf]))
    case uneven => exact hends (hjudged.trans (by rw [if_neg (Nat.not_lt.mpr hle), if_neg (ne_false_of_eq_true hf), if_pos he]))
    case outside =>
      exact hends (hjudged.trans (by
        rw [if_neg (Nat.not_lt.mpr hle), if_neg (ne_false_of_eq_true hf), if_neg (ne_false_of_eq_true he), if_pos hout]))
    case unstored =>
      exact hends (hjudged.trans (by
        rw [if_neg (Nat.not_lt.mpr hle), if_neg (ne_false_of_eq_true hf), if_neg (ne_false_of_eq_true he), if_neg hin, if_pos hst]))
    case stored =>
      subst hx
      exact hends (hjudged.trans (by
        rw [if_neg (Nat.not_lt.mpr hle), if_neg (ne_false_of_eq_true hf), if_neg (ne_false_of_eq_true he), if_neg hin,
          if_neg (ne_false_of_eq_true hst)]))

end Sys2Proof.Machine
end

section
/-! The slack state (R423, R425, R426, Tables 15.2 and 15.4): one equation for each case of its entry, its commit, a wake event and its end. -/

namespace Sys2Proof.Machine

section
variable {m a x : Dev} {slot : Nat} {irq : Bool}

/-! ## Entry (R423) -/

/-- True where an operation that excludes an entry runs, or a dump is being written. -/
def Dev.slackExcluded (m : Dev) (slot : Nat) : Bool := [1, 2, 4, 5].any (fun g => (m.groupSlot g slot).isSome) || m.lev.writing.isSome

theorem Dev.slackExcluded_eq_false (hwriting : m.lev.writing = none) (hgroups : ∀ g ∈ [1, 2, 4, 5], m.groupSlot g slot = none) :
    m.slackExcluded slot = false := by
  have hidle : ¬ [1, 2, 4, 5].any (fun g => (m.groupSlot g slot).isSome) = true := by
    rw [List.any_eq_true]
    rintro ⟨g, hg, hsome⟩
    rw [hgroups g hg] at hsome
    exact Bool.false_ne_true hsome
  unfold Dev.slackExcluded
  rw [eq_false_of_ne_true hidle, hwriting]
  rfl

/-- An entry that starts is judged by what is active and by what excludes it; else it shows entering, and what must be quiet shuts down. -/
theorem Dev.slackEnter_eq (h : m.opStart slot Op.slack irq 0x02 = (a, true))
    (hx : ((a.put F.SPT_SLACK_STATE Slack.entering).modSpt fun y => { y with woken := false }) = x) : m.slackEnter slot irq =
    if a.anyActive = true then a.opEnd slot 0x01
    else if a.slackExcluded slot = true then a.opEnd slot 0x02
    else (((x.each x.definedBasins fun m b => m.each (List.range 8) fun m l => m.spillList b l).each (List.range 32) Dev.adcSleep).each
      (List.range 4) Dev.padcSleep).abandonCal.linksDown.storeCounters := by
  subst hx
  unfold Dev.slackEnter
  rw [h]
  rfl

/-! ## Commit (Table 15.2) -/

/-- A commit is judged by what is active and by a wake event since the entry; else the device shows slack. -/
theorem Dev.slackCommit_eq (h : m.get F.SPT_SLACK_STATE = Slack.entering)
    (hx : (((((m.put F.SLC_STAT_SR 3).put F.SLC_STAT_AVAIL 0).put F.SLC_CAP_CAP_UNITS 0).put F.GLB_WIN_STAT_OPEN 0).put
      F.MRC_STAT_RUNNING 0).ckoStop = x) : m.slackCommit =
    if m.anyActive = true then m.slackAbandon 0x01
    else if m.spt.woken = true then m.slackAbandon 0x03
    else (((x.put F.HDW_STAT_LOCKED 0).put F.HDW_STAT_HOLDOVER 0).modClk fun c => { c with slackLost := false }).put F.SPT_SLACK_STATE Slack.slack := by
  subst hx
  exact if_neg fun hne => bne_iff_ne.mp hne h

/-! ## Wake events (R425) -/

theorem Dev.wake_entering (h : m.get F.SPT_SLACK_STATE = Slack.entering) : m.wake = m.modSpt fun x => { x with woken := true } :=
  if_pos (beq_iff_eq.mpr h)

theorem Dev.wake_slack (h : m.get F.SPT_SLACK_STATE = Slack.slack) : m.wake = m.put F.SPT_SLACK_STATE Slack.waking := by
  unfold Dev.wake
  rw [h]
  rfl

theorem Dev.wake_waking (h : m.get F.SPT_SLACK_STATE = Slack.waking) : m.wake = m := by
  unfold Dev.wake
  rw [h]
  rfl

/-- An armed comparator fires outside the run state, and in the entry where it is that of a supply. -/
theorem Dev.wakeEvent_wakes {k : Nat} (hrun : m.get F.SPT_SLACK_STATE ≠ Slack.run) (harmed : m.wakeArmed k = true)
    (hsupply : m.get F.SPT_SLACK_STATE = Slack.entering → 4 ≤ k ∧ k < 7) : m.wakeEvent k =
    (m.put F.SPT_WAKE_CAUSE_CMP (setBits (m.get F.SPT_WAKE_CAUSE_CMP) k k 1)).wake := by
  have hmay : (m.get F.SPT_SLACK_STATE == Slack.entering && !(decide (4 ≤ k) && decide (k < 7))) = false := by
    by_cases hentering : m.get F.SPT_SLACK_STATE = Slack.entering
    · obtain ⟨hlow, hhigh⟩ := hsupply hentering
      rw [decide_eq_true hlow, decide_eq_true hhigh, Bool.and_self, Bool.not_true, Bool.and_false]
    · rw [beq_eq_false_iff_ne.mpr hentering, Bool.false_and]
  have hgoes : ¬ (m.get F.SPT_SLACK_STATE == Slack.run || !m.wakeArmed k ||
      (m.get F.SPT_SLACK_STATE == Slack.entering && !(decide (4 ≤ k) && decide (k < 7)))) = true := by
    rw [beq_eq_false_iff_ne.mpr hrun, harmed, hmay]
    decide
  exact if_neg hgoes

theorem Dev.hostWake_wakes (hrun : m.get F.SPT_SLACK_STATE ≠ Slack.run) : m.hostWake = (m.put F.SPT_WAKE_CAUSE_HOST 1).wake :=
  if_neg fun h => hrun (beq_iff_eq.mp h)

/-! ## The end of a wake (R347, R426, Table 15.4) -/

section
variable {tick edges t0 t1 : Nat} {stored : Bool}

theorem Dev.wakeComplete_waits (h : m.get F.SPT_SLACK_STATE ≠ Slack.waking ∨ m.on F.HDW_STAT_REF_OK = false) :
    m.wakeComplete tick edges t0 t1 stored = m := by
  refine if_pos ?_
  obtain hstate | hclock := h
  · rw [bne_iff_ne.mpr hstate, Bool.true_or]
  · rw [hclock, Bool.not_false, Bool.or_true]

/-- TT and the time base stand at the alignment point; then the units come back in the order of Table 15.4, and the operation that entered ends. -/
theorem Dev.wakeComplete_eq {b c d e : Dev} {v : Nat} (hwaking : m.get F.SPT_SLACK_STATE = Slack.waking) (hclock : m.on F.HDW_STAT_REF_OK = true)
    (hv : (m.timeBase + m.reg Reg.TMB_INC * edges) % 2 ^ 56 = v)
    (ha : (if m.clk.slackLost then m.rebase m.now else { m with tick := 25 * ceilDiv (max m.tick tick) 25 }) = a)
    (hb : (((({ a with timeBase := v, timeRest := 0, latches := [(a.tick, v)] } : Dev).put F.SPT_SLACK_STATE Slack.run).setLocked).modClk
      fun c => { c with slackLost := false }).put F.MRC_STAT_RUNNING 1 = b)
    (hc : (((((b.each (List.range 1024) Dev.wakePin).each (List.range 32) Dev.adcWake).each (List.range 4) Dev.padcWake).wakeMemory
      t0 t1 stored).linksUp) = c)
    (hd : (c.modSpt fun x => { x with supply := [], woken := false }).each c.spt.supply (fun m x => m.report Src.supplyFault x.1 0 x.2) = d)
    (he : d.each (d.definedBasins.filter fun b => !d.enableWaits b) Dev.takeHeldEnable = e) :
    m.wakeComplete tick edges t0 t1 stored = (e.opSlot Op.slack).elim e (e.opEnd · 0) := by
  have hgoes : ¬ (m.get F.SPT_SLACK_STATE != Slack.waking || !m.on F.HDW_STAT_REF_OK) = true := by
    rw [hwaking, hclock]
    decide
  unfold Dev.wakeComplete
  rw [if_neg hgoes]
  dsimp only
  rw [hv, ha, hb, hc, hd, he]
  cases e.opSlot Op.slack <;> rfl

end

end

/-- Settles O45: each command has the effect of its case. -/
theorem slackIsEnteredAndLeft : Obligations.SlackIsEnteredAndLeft := by
  refine ⟨?enters, ?refused, ?commit, ?event, ?host, fun m => ⟨Dev.wake_entering, Dev.wake_slack, Dev.wake_waking⟩, ?completes, ?waits⟩
  case enters =>
    intro s slot irq m hs h hidle hwriting hgroups
    have hfree := Dev.slackExcluded_eq_false hwriting hgroups
    exact State.hostAct_pays_eq (f := (·.slackEnter slot irq)) hs
      (((Dev.slackEnter_eq h rfl).trans (if_neg (ne_true_of_eq_false hidle))).trans (if_neg (ne_true_of_eq_false hfree)))
  case refused =>
    intro s slot irq m hs h
    have henter := Dev.slackEnter_eq h rfl
    exact ⟨fun hactive => State.hostAct_pays_eq (f := (·.slackEnter slot irq)) hs (henter.trans (if_pos hactive)),
      fun hidle hbusy => State.hostAct_pays_eq (f := (·.slackEnter slot irq)) hs
        ((henter.trans (if_neg (ne_true_of_eq_false hidle))).trans (if_pos hbusy))⟩
  case commit =>
    rintro s _ hs rfl h
    have hends : ∀ {z}, s.start.slackCommit = z → exec .slackCommit s = s.becomes z.payOwed := State.act_pays_eq (f := Dev.slackCommit) hs
    refine ⟨fun hactive => hends ((Dev.slackCommit_eq h rfl).trans (if_pos hactive)), fun hidle hwoken => ?_, fun x hidle hasleep hx => ?_⟩
    · exact hends (((Dev.slackCommit_eq h rfl).trans (if_neg (ne_true_of_eq_false hidle))).trans (if_pos hwoken))
    · exact hends (((Dev.slackCommit_eq h hx).trans (if_neg (ne_true_of_eq_false hidle))).trans (if_neg (ne_true_of_eq_false hasleep)))
  case event =>
    intro s k hs hrun harmed hsupply
    exact State.act_pays_eq (f := (·.wakeEvent k)) hs (Dev.wakeEvent_wakes hrun harmed hsupply)
  case host => exact fun s hs hrun => State.hostAct_pays_eq (f := Dev.hostWake) hs (Dev.hostWake_wakes hrun)
  case completes =>
    rintro s _ a b c d e tick edges v temps stored hs rfl hwaking hclock hv ha hb hc hd he
    have hcomplete := Dev.wakeComplete_eq hwaking hclock hv ha hb hc hd he
    refine ⟨fun hnone => ?_, fun k hsome => ?_⟩
    · rw [hnone] at hcomplete
      exact State.act_pays_eq (f := (·.wakeComplete tick edges temps.1 temps.2 stored)) hs hcomplete
    · rw [hsome] at hcomplete
      exact State.act_pays_eq (f := (·.wakeComplete tick edges temps.1 temps.2 stored)) hs hcomplete
  case waits =>
    intro s tick edges temps stored hs h
    exact State.act_still (f := (·.wakeComplete tick edges temps.1 temps.2 stored)) hs (Dev.wakeComplete_waits h)

end Sys2Proof.Machine
end

section
/-! Start-up (R444 to R446, Table 16.5): one equation for each outcome. -/

namespace Sys2Proof.Machine

section
variable {m c : Dev} {i : BootIn}

/-- In service mode, halted or READY, start-up has nothing to do. -/
theorem Dev.startupReady_done (h : 7 ≤ m.get F.MRC_BOOT_STAGE) : m.startupReady i = m := if_pos h

section
variable (h : m.get F.MRC_BOOT_STAGE < 7)
include h

theorem Dev.startupReady_halts {e : Nat} (he : m.bootErr i = e) (hne : e ≠ 0) : m.startupReady i =
    (m.put F.MRC_BOOT_FALLBACK (flag (e != 1))).bootHalt e := by
  subst he
  exact (if_neg (Nat.not_le.mpr h)).trans (if_pos hne)

theorem Dev.startupReady_loads (he : m.bootErr i = 0) (hc : m.bootCode i = c) : m.startupReady i =
    if i.err = 4 then c.bootHalt 4
    else if c.on F.HDW_STAT_LOCKED = false then c.put F.MRC_BOOT_STAGE 4
    else if i.err = 5 then (c.loadReservoir i).bootHalt 5
    else (((c.loadReservoir i).bootMemory i).bootCalibrate i).bootReady := by
  subst hc
  unfold Dev.startupReady
  simp only [if_neg (Nat.not_le.mpr h), he, ne_eq, not_true_eq_false, if_false, Bool.not_eq_true']

end

/-! ## The code with which steps 1 to 3 fail (R444, R446) -/

theorem Dev.bootErr_noFlash (h : i.err = 1) : m.bootErr i = 1 := if_pos h

theorem Dev.bootErr_noSlot (h : i.err ≠ 1) (ha : m.slotGood i 0 = false) (hb : m.slotGood i 1 = false) :
    m.bootErr i = if (i.slotA.firm || i.slotB.firm) = true then 3 else 2 := by
  refine (if_neg h).trans (if_neg ?_)
  rw [ha, hb]
  exact Bool.false_ne_true

theorem Dev.bootErr_slot (h : i.err ≠ 1) (hs : m.slotGood i 0 = true ∨ m.slotGood i 1 = true) : m.bootErr i = 0 :=
  (if_neg h).trans (if_pos (Bool.or_eq_true_iff.mpr hs))

end

/-- Settles O11: steps 1 to 3 fail with their code, or the code is loaded and start-up goes on. -/
theorem startUpReachesReadyOrHalts : Obligations.StartUpReachesReadyOrHalts := by
  refine ⟨?halts, ?loads, fun s i hs h => State.act_still (f := (·.startupReady i)) hs (Dev.startupReady_done h)⟩
  case halts =>
    rintro s _ i e hs rfl hstage hfails
    obtain ⟨he, hne⟩ : s.start.bootErr i = e ∧ e ≠ 0 := by
      obtain ⟨herr, rfl⟩ | ⟨herr, hfirst, hsecond, rfl⟩ := hfails
      · exact ⟨Dev.bootErr_noFlash herr, by decide⟩
      · exact ⟨Dev.bootErr_noSlot herr hfirst hsecond, by split <;> decide⟩
    exact State.act_eq (f := (·.startupReady i)) hs (Dev.startupReady_halts hstage he hne) hs.2
  case loads =>
    rintro s _ c i hs rfl hstage herr hslot hc
    exact State.act_pays_eq (f := (·.startupReady i)) hs (Dev.startupReady_loads hstage (Dev.bootErr_slot herr hslot) hc)

end Sys2Proof.Machine
end

section
/-! The servo, firmware images, unknown ids and aborts (R449 to R451, R472, R475): one equation for each case. -/

namespace Sys2Proof.Machine

section
variable {m a x : Dev} {slot : Nat} {irq : Bool}

/-! ## The servo (R451) -/

theorem Dev.servo_eq (h : m.opStart slot Op.servo irq Err.busy = (a, true)) : m.servo slot irq =
    if a.on (F.ETH_CTL_ENABLE (a.param slot 0 % 2)) = true ∧ a.on (F.ETH_STAT_LINK (a.param slot 0 % 2)) = true
    then a.modFirm fun f => { f with adjustments := 0 } else a.opEnd slot 0x01 := by
  unfold Dev.servo
  rw [h]
  by_cases hport : a.on (F.ETH_CTL_ENABLE (a.param slot 0 % 2)) = true ∧ a.on (F.ETH_STAT_LINK (a.param slot 0 % 2)) = true
  · obtain ⟨henable, hlink⟩ := hport
    simp only [henable, hlink, Bool.not_true, Bool.or_self, Bool.false_eq_true, if_false, and_self, if_true]
  · have hoff : (!a.on (F.ETH_CTL_ENABLE (a.param slot 0 % 2)) || !a.on (F.ETH_STAT_LINK (a.param slot 0 % 2))) = true := by
      rwa [← Bool.not_and, Bool.not_eq_true', ← Bool.not_eq_true, Bool.and_eq_true]
    simp only [hoff, if_neg hport, Bool.not_true, Bool.false_eq_true, if_false, if_true]

theorem Dev.servoNoMaster_ends {k : Nat} (h : m.opSlot Op.servo = some k) : m.servoNoMaster = m.opEnd k 0x02 := by
  unfold Dev.servoNoMaster
  rw [h]

/-! ## Firmware images (R450) -/

/-- Staging that starts is judged by the image's length and what its verification found. -/
theorem Dev.fwStage_eq {verdict : Nat} (h : m.opStart slot Op.fwStage irq Err.busy = (a, true)) : m.fwStage slot irq verdict =
    if 31 * 0x100000 < a.param slot 0 ∨ verdict = 1 then a.opEnd slot 0x01
    else if verdict = 2 then a.opEnd slot 0x02
    else if 3 ≤ verdict then a.opEnd slot 0x03
    else a.modFirm fun f => { f with staging := some (slot, bitOf (a.param slot 1) 0) } := by
  unfold Dev.fwStage
  simp only [h, Bool.not_true, Bool.false_eq_true, if_false]

/-- The slot written is the one that is not in use. -/
theorem Dev.fwStageDone_eq {k : Nat} {act good : Bool} (h : m.firm.staging = some (k, act))
    (hx : (m.modFirm fun f => { f with
      staging := none
      invalid := f.invalid.filter (· != 1 - m.get F.MRC_BOOT_ACTIVE) ++ (if good then [] else [1 - m.get F.MRC_BOOT_ACTIVE]) }) = x) :
    m.fwStageDone good = if good = true then (if act then x.prefer (1 - m.get F.MRC_BOOT_ACTIVE) else x).opEnd k 0 else x.opEnd k 0x04 := by
  subst hx
  unfold Dev.fwStageDone
  cases good with
  | true => simp only [h, Bool.not_true, Bool.false_eq_true, if_false, if_true]
  | false => simp only [h, Bool.not_false, Bool.false_eq_true, if_false, if_true]

theorem Dev.fwSelect_eq {good : Bool} (h : m.opStart slot Op.fwSelect irq Err.busy = (a, true)) : m.fwSelect slot irq good =
    if (!good || a.firm.invalid.contains (a.param slot 0 % 2)) = true then a.opEnd slot 0x05 else (a.prefer (a.param slot 0 % 2)).opEnd slot 0 := by
  unfold Dev.fwSelect
  rw [h]
  exact if_neg Bool.false_ne_true

/-! ## Unknown ids and aborts (R449, R475) -/

theorem Dev.unknownOp_eq {op : Nat} (hop : op < 65536) (hid : knownOps.contains op = false) (h : m.opIssue slot op irq = (a, true)) :
    m.unknownOp slot op irq = (a.putStatus slot 44 42 Slot.running).opEnd slot Err.unknownOp := by
  unfold Dev.unknownOp
  rw [Nat.mod_eq_of_lt hop, hid, h]
  rfl

theorem Dev.mailboxAbort_eq : m.mailboxAbort slot =
    if m.slotState slot = Slot.queued then m.opEnd slot Err.aborted
    else if m.slotState slot = Slot.running then (m.putStatus slot 44 42 Slot.aborting).dropOp slot Err.aborted false
    else m := by
  unfold Dev.mailboxAbort
  simp only [beq_iff_eq]

end

/-- Settles O47: each operation by the case of its equation. -/
theorem firmwareOperationsRunAndEnd : Obligations.FirmwareOperationsRunAndEnd := by
  refine ⟨?servo, ?noMaster, ?stage, ?staged, ?select, ?unknown, ?abort⟩
  case servo => exact fun s slot irq m hs h => State.hostAct_pays_eq (f := (·.servo slot irq)) hs (Dev.servo_eq h)
  case noMaster => exact fun s hs k h => State.act_pays_eq (f := Dev.servoNoMaster) hs (Dev.servoNoMaster_ends h)
  case stage =>
    intro s slot irq m hs h
    have hends : ∀ {n z}, s.start.fwStage slot irq n = z → exec (.fwStage slot irq n) s = s.becomes z.payOwed :=
      fun {n _} => State.hostAct_pays_eq (f := (·.fwStage slot irq n)) hs
    refine ⟨fun hfits => ⟨hends ?good, hends ?layout, hends ?signature, fun n => hends ?patch⟩,
      fun n hlong => hends ((Dev.fwStage_eq h).trans (if_pos (.inl hlong)))⟩
    case good => rw [Dev.fwStage_eq h, if_neg (by omega), if_neg (by decide), if_neg (by decide)]
    case layout => exact (Dev.fwStage_eq h).trans (if_pos (.inr rfl))
    case signature => rw [Dev.fwStage_eq h, if_neg (by omega), if_pos rfl]
    case patch => rw [Dev.fwStage_eq h, if_neg (by omega), if_neg (by omega), if_pos (by omega)]
  case staged =>
    rintro s _ x k act good hs rfl h hx
    have hdone := Dev.fwStageDone_eq h hx
    exact ⟨fun hgood => State.act_pays_eq (f := (·.fwStageDone good)) hs (hdone.trans (if_pos hgood)),
      fun hbad => State.act_pays_eq (f := (·.fwStageDone good)) hs (hdone.trans (if_neg (ne_true_of_eq_false hbad)))⟩
  case select =>
    intro s slot irq m hs h
    exact ⟨fun hvalid => State.hostAct_pays_eq (f := (·.fwSelect slot irq true)) hs ((Dev.fwSelect_eq h).trans (if_neg (ne_true_of_eq_false hvalid))),
      fun hinvalid => State.hostAct_pays_eq (f := (·.fwSelect slot irq true)) hs ((Dev.fwSelect_eq h).trans (if_pos hinvalid)),
      State.hostAct_pays_eq (f := (·.fwSelect slot irq false)) hs ((Dev.fwSelect_eq h).trans (if_pos rfl))⟩
  case unknown =>
    intro s slot op irq m hs hid h
    exact State.hostAct_pays_eq (f := (·.unknownOp slot op.toNat irq)) hs (Dev.unknownOp_eq op.isLt hid h)
  case abort => exact fun s slot hs => State.hostAct_pays_eq (f := (·.mailboxAbort slot)) hs Dev.mailboxAbort_eq

end Sys2Proof.Machine
end

section
/-! DMA rings (R470, R484): one equation for each of run, stop and tail. -/

namespace Sys2Proof.Machine

section
variable {m : Dev} {e r tail : Nat} (hring : ringExists e r = true)
include hring

theorem Dev.dmaRun_stopped (hstop : m.on (F.DMA_CTL_RUN e r) = false) : m.dmaRun e r =
    if 16 ≤ m.get (F.DMA_SIZE_ENTRIES e r) ∧ m.get (F.DMA_SIZE_ENTRIES e r) ≤ 4096 ∧ m.pair (Reg.DMA_BASE_LO e r) (Reg.DMA_BASE_HI e r) % 4096 = 0
    then ((m.put (F.DMA_CTL_RUN e r) 1).put (F.DMA_HEAD_HEAD e r) 0).ringBusy e r
    else m.put (F.DMA_STAT_CFG_IGNORED e r) 1 := by
  unfold Dev.dmaRun
  simp only [hring, hstop, Bool.not_true, Bool.or_self, Bool.false_eq_true, if_false]
  by_cases hgood : 16 ≤ m.get (F.DMA_SIZE_ENTRIES e r) ∧ m.get (F.DMA_SIZE_ENTRIES e r) ≤ 4096 ∧
      m.pair (Reg.DMA_BASE_LO e r) (Reg.DMA_BASE_HI e r) % 4096 = 0
  · rw [if_pos hgood, if_neg (by omega)]
  · rw [if_neg hgood, if_pos (by omega)]

theorem Dev.dmaStop_running (hrun : m.on (F.DMA_CTL_RUN e r) = true) : m.dmaStop e r = (m.put (F.DMA_CTL_RUN e r) 0).setRingTail e r 0 :=
  if_pos (Bool.and_eq_true_iff.mpr ⟨hring, hrun⟩)

/-- A tail below the ring's size is taken, and a ring that runs looks at it. -/
theorem Dev.dmaTail_taken (ht : tail % 4096 < m.get (F.DMA_SIZE_ENTRIES e r)) : m.dmaTail e r tail =
    if m.on (F.DMA_CTL_RUN e r) = true then (m.setRingTail e r (tail % 4096)).ringBusy e r else m.setRingTail e r (tail % 4096) := by
  refine if_neg ?_
  rw [hring, decide_eq_false (Nat.not_le.mpr ht)]
  exact Bool.false_ne_true

end

/-- What a ring shows and the tail it holds owe no report. -/
theorem Dev.dmaRun_owed (m : Dev) (e r : Nat) : (m.dmaRun e r).lev.owed = m.lev.owed := by
  unfold Dev.dmaRun
  dsimp only
  split
  · rfl
  · split <;> rfl

/-- Settles O53: each command has the effect of its case. -/
theorem dmaRingsRunStopAndTakeTails : Obligations.DmaRingsRunStopAndTakeTails := by
  refine ⟨?run, ?stop, ?tailStopped, ?tailRunning⟩
  case run =>
    intro s e r hs hring hstop
    have hrun := Dev.dmaRun_stopped hring hstop
    exact State.hostAct_eq (f := (·.dmaRun e r)) hs hrun (hrun ▸ (s.start.dmaRun_owed e r).trans hs.1.2)
  case stop => exact fun s e r hs hring hrun => State.hostAct_eq (f := (·.dmaStop e r)) hs (Dev.dmaStop_running hring hrun) hs.1.2
  case tailStopped =>
    intro s e r tail hs hring ht hstop
    exact State.hostAct_eq (f := (·.dmaTail e r tail.toNat)) hs ((Dev.dmaTail_taken hring ht).trans (if_neg (ne_true_of_eq_false hstop))) hs.1.2
  case tailRunning =>
    intro s e r tail hs hring ht hrun
    exact State.hostAct_eq (f := (·.dmaTail e r tail.toNat)) hs ((Dev.dmaTail_taken hring ht).trans (if_pos hrun)) hs.1.2

end Sys2Proof.Machine
end

section
/-! JTAG instructions (R478, R479, Table 17.8) and PCIe events (R454, R455, R481). -/

namespace Sys2Proof.Machine

section
variable {m : Dev} {code : Nat}

/-! ## JTAG -/

/-- An instruction loaded where no test instruction was changes the port alone. -/
theorem Dev.jtagLoad_plain (h : m.inTest = false) : m.jtagLoad code = m.modJtag fun j => { j with instr := code, driven := false } :=
  if_neg (ne_true_of_eq_false h)

/-- After a test instruction the device takes a warm reset. -/
theorem Dev.jtagLoad_afterTest (h : m.inTest = true) :
    m.jtagLoad code = (m.modJtag fun j => { j with instr := code, driven := false }).warmReset := if_pos h

/-- BYPASS, and every code outside Table 17.8, stays in the register as loaded. -/
theorem Dev.jtagBypass_loads (h : code = 0 ∨ 8 ≤ code) : m.jtagBypass code = m.jtagLoad code := by
  unfold Dev.jtagBypass
  rw [if_neg (by omega)]

theorem Dev.jtagTest_eq (driven : Bool) : m.jtagTest code driven =
    (m.modJtag fun j => { j with instr := code, driven := driven }).clearHold.setReg Reg.GLB_PCI 0 := rfl

/-! ## PCIe -/

theorem Dev.pcieUp_shown (h : m.inTest = false) (speed width : Nat) :
    m.pcieUp speed width = (m.put F.GLB_PCI_SPEED speed).put F.GLB_PCI_WIDTH width := if_neg (ne_true_of_eq_false h)

theorem Dev.tlpError_reports (h : m.inTest = false) (kind : Nat) :
    m.tlpError kind = m.report (if kind = 0 then Src.pcieCorrectable else Src.pcieUncorrectable) 0 0 m.now := if_neg (ne_true_of_eq_false h)

end

/-- Settles O59: each instruction's load has the effect of its case. -/
theorem jtagInstructionsAreLoaded : Obligations.JtagInstructionsAreLoaded := by
  refine ⟨?plain, ?reset, ?test⟩
  case plain =>
    intro s hs h
    have hload : ∀ n, s.start.jtagLoad n = s.start.modJtag fun j => { j with instr := n, driven := false } := fun _ => Dev.jtagLoad_plain h
    exact ⟨State.act_eq (f := Dev.jtagId) hs (congrArg (Dev.answer · 0x11024967) (hload 1)) hs.2,
      fun cells => State.act_eq (f := (·.jtagSample cells)) hs (congrArg (Dev.modJtag · fun j => { j with cells := cells }) (hload 2)) hs.2,
      fun code hcode => State.act_eq (f := (·.jtagBypass code.toNat)) hs ((Dev.jtagBypass_loads hcode).trans (hload _)) hs.2,
      State.act_eq (f := (·.jtagLoad 1)) hs (hload 1) hs.2⟩
  case reset => exact fun s hs h => State.act_pays_eq (f := (·.jtagLoad 1)) hs (Dev.jtagLoad_afterTest h)
  case test =>
    intro s hs
    have hends : ∀ n driven, s.act (·.jtagTest n driven) =
        s.becomes ((s.start.modJtag fun j => { j with instr := n, driven := driven }).clearHold.setReg Reg.GLB_PCI 0).payOwed :=
      fun n driven => State.act_pays_eq hs (Dev.jtagTest_eq driven)
    exact ⟨hends 3 true, hends 4 true, hends 5 true, hends 6 true, hends 7 false⟩

/-- Settles O60: the link shows what it trained to, and each error has its source. -/
theorem pcieEventsAreShownAndReported : Obligations.PcieEventsAreShownAndReported := by
  refine ⟨?link, ?correctable, ?uncorrectable, fun s hs => State.act_pays (f := Dev.requestTimeout) hs⟩
  case link =>
    intro s speed width hs h
    exact State.act_eq (f := (·.pcieUp speed width)) hs (Dev.pcieUp_shown (m := s.start) h speed width) hs.2
  case correctable => exact fun s hs h => State.act_pays_eq (f := (·.tlpError 0)) hs (Dev.tlpError_reports (m := s.start) h 0)
  case uncorrectable =>
    intro s kind hs h hkind
    refine State.act_pays_eq (f := (·.tlpError kind)) hs ((Dev.tlpError_reports (m := s.start) h kind).trans ?_)
    rw [if_neg hkind]
    rfl

end Sys2Proof.Machine
end
